-- ==== Sys2Proof/Word.lean ====
section
/-!
DEFINITION. The words of the device and the plain containers the state is made of.
-/
namespace Sys2Proof

/-- A byte. -/
abbrev Byte := BitVec 8

/-- A 32-bit register. -/
abbrev Word := BitVec 32

/-- A sparse map by number: the listed pairs, keys strictly rising, no pair listed that equals what an
unlisted key reads as (`Sparse.wf`). -/
abbrev SMap (α : Type) := List (Nat × α)

/-- A sparse memory of bytes; an unlisted byte reads 0 (assumption 3). -/
abbrev Mem := List (Nat × BitVec 8)

/-- The contents of a vector register: 64 lanes of 32 bits, lane i at bits 32i upward (R107, R109). -/
abbrev VReg := BitVec 2048

/-- A mask register, bit i for lane i (R107). -/
abbrev Mask := BitVec 64

/-- A flit of 128 bytes, byte k at bits 8k upward (R53). -/
abbrev FlitData := BitVec 1024

end Sys2Proof
end

