-- ==== Sys2Proof/Syntax.lean ====
section
/-!
DEFINITION. The commands of the device: one constructor of `Instr` for each row of the table of
operations and events, with the row's operands, and the records those operands are made of.

A command of a cell says which logical cell issues it and at which beat (`At`); a frame that arrives says
its header; a register access says who makes it (`Access`); a host command says the handle under which its
packet was accepted.
-/
namespace Sys2Proof

/-- A request of the sideband controller: the target address it names (R486) and the bytes it writes (R487). -/
structure SbRequest where
  /-- the address named -/
  addr : BitVec 7
  /-- command byte and its operands -/
  bytes : List (BitVec 8)
  deriving DecidableEq, Repr

/-- What SECDED found in a fetched slot word or in the SRAM words an issue reads (R43, R50). -/
inductive Ecc where
  | clean | corrected | uncorrectable
  deriving DecidableEq, Repr

/-- Where and when a sub-slot issues (R42): the logical cell (row × 64 + column), the beat of the step,
and what the error-correcting codes found in the word fetched and in the SRAM data read. -/
structure At where
  /-- logical cell, 0 to 1,535 -/
  cell : Nat
  /-- beat, counted from beat 0 of the step -/
  beat : Nat
  /-- error correction of the fetched slot word (R43) -/
  fetch : Ecc := .clean
  /-- error correction of the SRAM words that the issue reads (R50) -/
  read : Ecc := .clean
  deriving DecidableEq, Repr

/-- The guard field of an issue (R137). -/
structure Guard where
  /-- skip binding, 0 for none -/
  skip : BitVec 3
  /-- counter checked at issue -/
  chkCtr : BitVec 4
  /-- claim increment, 0 for no check -/
  chkAdd : BitVec 3
  /-- the issue signals a counter when it completes -/
  sigEn : Bool
  /-- counter signalled -/
  sigCtr : BitVec 4
  deriving DecidableEq, Repr

/-- The shapes of a pass (R161). -/
inductive Shape where
  | s16 | s64 | s256 | sa
  deriving DecidableEq, Repr

/-- The types of a vector issue (R113). -/
inductive VType where
  | fp32 | bf16 | int32
  deriving DecidableEq, Repr

/-- Operand b of a vector issue: a register, or the value of a scalar register in every lane (R113). -/
inductive BSrc where
  | reg (vb : BitVec 5)
  | scalar (sn : BitVec 4)
  deriving DecidableEq, Repr

/-- The fields of a format V sub-slot (R113). -/
structure VOp where
  /-- destination register -/
  vd : BitVec 5
  /-- register of operand a -/
  va : BitVec 5
  /-- operand b -/
  b : BSrc
  /-- mask register -/
  mask : BitVec 3
  /-- type -/
  ty : VType
  /-- `mod` -/
  mod : BitVec 5
  deriving DecidableEq, Repr

/-- The fields of a format C sub-slot (R113). -/
structure COp where
  /-- destination register -/
  vd : BitVec 5
  /-- first source register -/
  va : BitVec 5
  /-- scale tracker -/
  tracker : BitVec 6
  /-- `tracked` -/
  tracked : Bool
  /-- `fmt` -/
  fmt : BitVec 3
  /-- `part` -/
  part : BitVec 3
  deriving DecidableEq, Repr

/-- The post-increment of a load or store (R113). -/
inductive Post where
  | none | up | down
  deriving DecidableEq, Repr

/-- The fields of a format L sub-slot (R113). -/
structure LOp where
  /-- `vd` or `vs` -/
  v : BitVec 5
  /-- `Sbase` -/
  sbase : BitVec 4
  /-- offset in 64-byte units -/
  offset : BitVec 12
  /-- mask register -/
  mask : BitVec 3
  /-- post-increment -/
  post : Post
  deriving DecidableEq, Repr

/-- The fields of a format H sub-slot, `close` apart (R113). -/
structure HOp where
  /-- `vs` -/
  vs : BitVec 5
  /-- `Sbase` -/
  sbase : BitVec 4
  /-- scale tracker -/
  tracker : BitVec 6
  /-- offset in 64-byte units -/
  offset : BitVec 6
  /-- `tracked` -/
  tracked : Bool
  deriving DecidableEq, Repr

/-- The fields of a format S sub-slot (R113). -/
structure SOp where
  /-- `Sd` -/
  sd : BitVec 4
  /-- `sel` -/
  sel : BitVec 6
  /-- `imm` -/
  imm : BitVec 16
  deriving DecidableEq, Repr

/-- The fields of a data-mover transfer (R139). -/
structure DOp where
  /-- source register -/
  src : BitVec 3
  /-- destination register -/
  dst : BitVec 3
  /-- flits or indices, 0 meaning 128 -/
  len : BitVec 7
  /-- guard field -/
  guard : Guard
  deriving DecidableEq, Repr

/-- Who accesses a register (R397, R406). -/
inductive Requester where
  | host
  | core (c : Fin 4)
  | supervisor
  | dma (channel : Fin 16)
  | remote (chip : BitVec 12)
  | sideband
  deriving DecidableEq, Repr

/-- A register access (R397, R398): in the register space, in BAR2 of a function, or in the MSI-X table of a virtual
function (R415). -/
structure Access where
  /-- requester -/
  req : Requester
  /-- function whose BAR2 is accessed; none for the register space -/
  bar2 : Option (BitVec 4)
  /-- virtual function whose BAR0, its MSI-X table, is accessed; none for the register space -/
  vf : Option (BitVec 4) := none
  /-- byte offset -/
  off : Nat
  /-- the access is a single 32-bit access with every byte enabled and not atomic (R398 item 1) -/
  whole : Bool := true
  deriving DecidableEq, Repr

/-- What a configuration write puts into the MSI-X Message Control register of a function (R415). -/
structure MsixControl where
  /-- MSI-X Enable -/
  enable : Bool
  /-- Function Mask -/
  mask : Bool
  deriving DecidableEq, Repr

/-- A configuration request of the host to a function (R393, R470). -/
structure ConfigRequest where
  /-- function -/
  func : BitVec 4
  /-- the write of its MSI-X Message Control, where the request is one (R415) -/
  control : Option MsixControl
  deriving DecidableEq, Repr

/-- The end of a training state's limit on a port (R333). -/
structure TrainMiss where
  /-- lanes that have trained by then; they count in `RETRAINING` alone (R334) -/
  good : BitVec 8
  /-- tick of the limit -/
  tick : Nat
  deriving DecidableEq, Repr

/-- The failure of a lane of a port (R334). -/
structure LaneFault where
  /-- lane -/
  lane : Fin 8
  /-- uncorrectable codewords on it by which it failed -/
  uncorrectable : Nat
  deriving DecidableEq, Repr

/-- An access names a window that exists (R397, R415): BAR2 and BAR0 of a virtual function are windows of the host. -/
def Access.ok (a : Access) : Bool :=
  decide (a.vf ≠ some 0) && (a.bar2.isNone || (a.vf.isNone && decide (a.req = .host))) &&
    (a.vf.isNone || decide (a.req = .host))

/-- The header of a fabric frame (R312) as it arrives, with what the decoding of its codewords met. -/
structure FrameHdr where
  /-- port on which it arrives -/
  inPort : Nat
  /-- arrival tick -/
  tick : Nat
  /-- `mark` -/
  mark : BitVec 16
  /-- `kind` -/
  kind : BitVec 8
  /-- `flags` [3:0] -/
  epoch : BitVec 4
  /-- `flags` [4] -/
  last : Bool
  /-- `flags` [5] -/
  multicast : Bool
  /-- sending chip -/
  source : BitVec 12
  /-- destination chip or group -/
  dest : BitVec 12
  /-- `partition` -/
  partition : BitVec 32
  /-- `step` -/
  step : BitVec 32
  /-- `replay` -/
  replay : BitVec 16
  /-- `stream` -/
  stream : BitVec 8
  /-- sending port -/
  outPort : BitVec 4
  /-- `sequence` -/
  sequence : BitVec 32
  /-- `flits` -/
  flits : BitVec 8
  /-- `empties` -/
  empties : BitVec 8
  /-- `end_map` -/
  endMap : BitVec 39
  /-- every reserved field of the frame is zero -/
  reservedZero : Bool
  /-- the CRC-32C of the trailer holds -/
  crcOk : Bool
  /-- symbols that the lanes received in error in each of its codewords (R309, R340) -/
  symbolErrors : List Nat
  deriving DecidableEq, Repr

/-- A slot entry of a verdict frame (R327). -/
structure SlotEntry where
  /-- batch slot -/
  slot : Nat
  /-- `ops` -/
  ops : BitVec 8
  /-- context identifier -/
  ctx : BitVec 32
  /-- token -/
  token : BitVec 32
  /-- chunk -/
  chunk : BitVec 16
  deriving DecidableEq, Repr

/-- The body of a verdict frame (R327). -/
structure VerdictBody where
  /-- `verdict` is COMMIT -/
  commit : Bool
  /-- `void_cause` -/
  cause : BitVec 8
  /-- `flags` bit 0: the serving section is present -/
  serving : Bool
  /-- `flags` bit 1: host-formed batches -/
  hostFormed : Bool
  /-- `flags` bit 2: the sender may lead -/
  mayLead : Bool
  /-- full step number -/
  step : BitVec 64
  /-- capacity vector -/
  capacity : BitVec 64
  /-- slot entries -/
  slots : List SlotEntry
  /-- addition entries: context identifier and number of tokens -/
  additions : List (BitVec 32 × BitVec 16)
  deriving DecidableEq, Repr

/-- The payload of a cadence frame (R34). -/
structure CadenceBody where
  /-- `kind`: 0x01 rack, 0x02 leader -/
  kind : BitVec 8
  /-- `sender` -/
  sender : BitVec 12
  /-- `partition` -/
  partition : BitVec 32
  /-- `sequence` -/
  sequence : BitVec 64
  /-- `period` -/
  period : BitVec 32
  /-- `correction` -/
  correction : BitVec 32
  deriving DecidableEq, Repr

/-- The body of a message of a move between chips (R330). -/
structure MoveBody where
  /-- the source's `move_seq` -/
  move : BitVec 32
  /-- `op` -/
  op : BitVec 8
  /-- `acked` -/
  acked : BitVec 8
  /-- `chunk` -/
  chunk : BitVec 16
  /-- `owner` -/
  owner : BitVec 32
  /-- `index` -/
  index : BitVec 32
  /-- `crc` -/
  crc : BitVec 32
  /-- `offset` -/
  offset : BitVec 32
  /-- data -/
  data : List (BitVec 8)
  deriving DecidableEq, Repr

/-- The body of a management frame by its kind (R312, R325). -/
inductive MsgBody where
  | verdict (b : VerdictBody)
  | cadence (b : CadenceBody)
  | leave (cause : BitVec 8) (lastStep : BitVec 64)
  | request (id : BitVec 32) (write : Bool) (addr : BitVec 64) (len : Nat) (data : List (BitVec 8))
  | response (id : BitVec 32) (status : BitVec 8) (data : List (BitVec 8))
  | move (b : MoveBody)
  | ident (chip : BitVec 16) (port : BitVec 8) (width : BitVec 8)
  | echo (departure : BitVec 64)
  deriving DecidableEq, Repr

/-- The oscillators that the device qualifies (R433, R434). A count of `clockQualification` is in 25 MHz cycles; for the
crystal it is the time of its 2^20 cycles in µs of the on-die RC oscillator. -/
inductive ClockSrc where
  | xtal | hostRef | fabricRef
  deriving DecidableEq, Repr

/-- The PLLs of the device (R433). -/
inductive Pll where
  | timebase | coreA | coreB | hub | serdes | memory
  deriving DecidableEq, Repr

/-- The records of the calibration store (R447). -/
inductive StoreRec where
  | calSet | fence | floor | ddrTraining | hbmTraining | hbmRepair
  deriving DecidableEq, Repr

/-- A triplicated field (R404). -/
inductive VotedField where
  | fence (entry : Fin 48)
  | window | period | planeMask | opFloor | opCeiling | locks
  deriving DecidableEq, Repr

/-- One copy of a triplicated field is found at a value (R404). -/
structure Upset where
  /-- field -/
  field : VotedField
  /-- copy, 0 to 2 -/
  copy : Fin 3
  /-- value found in the copy, of which as many low bits are taken as the field has -/
  value : Nat
  deriving DecidableEq, Repr

/-- A drive that a root port finds at boot (R226, R228). -/
structure DriveReport where
  /-- a drive answers -/
  present : Bool
  /-- namespaces -/
  namespaces : BitVec 32
  /-- a 4 KiB LBA format is reported -/
  lba4k : Bool
  /-- maximum data transfer in KiB -/
  maxKiB : BitVec 32
  /-- first copy of the member label -/
  label1 : List (BitVec 8)
  /-- second copy of the member label -/
  label2 : List (BitVec 8)
  deriving DecidableEq, Repr

/-- What a boot stage finds (R434, R435, R464, R466 to R469). -/
structure BootReport where
  /-- tick at which the stage completes -/
  tick : Nat
  /-- qualification count of the 25 MHz crystal, in µs of the RC oscillator (stage 0x01) -/
  crystal : Nat
  /-- qualification count of the host reference (stage 0x02) -/
  hostRef : Nat
  /-- qualification count of the fabric reference (stage 0x02) -/
  fabricRef : Nat
  /-- the PLLs locked (stage 0x02) -/
  plls : Bool
  /-- no uncorrectable error in firmware SRAM (stage 0x03) -/
  sram : Bool
  /-- HBM4 stacks that trained (stage 0x06) -/
  hbmStacks : BitVec 8
  /-- DDR5 channels that trained or left self-refresh (stage 0x06) -/
  channels : BitVec 12
  /-- of each DDR5 channel, channel 0 first, the bytes of its DIMMs and whether it has two (stage 0x06) -/
  dimms : List (Nat × Bool)
  /-- drives on the root ports (stage 0x06) -/
  drives : List DriveReport
  /-- every rail stayed in range during the reset (stage 0x06) -/
  rails : Bool
  /-- the directory region's journal replays without error (stage 0x07) -/
  journal : Bool
  deriving DecidableEq, Repr

/-- What a drive answers to an NVMe command (R226). -/
inductive NvmeStatus where
  | success | error | fatal
  deriving DecidableEq, Repr

/-- The instructions of the test access port (R489). -/
inductive JtagInstr where
  | bypass | idcode | sample | extest | extestPulse | extestTrain | debugModule
  deriving DecidableEq, Repr

/-- A common command of the I3C controller (R486): an assignment of a dynamic address, by ENTDAA or by SETDASA to a static
address, and the others that I3C Basic requires of a target. -/
inductive I3cCommand where
  | entdaa (addr : BitVec 7)
  | setdasa (static addr : BitVec 7)
  | rstdaa | enec | disec | getbcr | getdcr | getstatus | getpid
  deriving DecidableEq, Repr

/-- What an access through BAR4 does (R229): read a number of bytes, or write bytes. -/
inductive Bar4Op where
  | read (len : Nat)
  | write (data : List (BitVec 8))
  deriving DecidableEq, Repr

/-- The commands of the device. -/
inductive Instr where
  -- the boundary and the cadence
  | boundary (vrWest vrEast : Bool)
  | lastBeat
  | cadenceMarker (tick : Nat)
  | cadenceFrame (hdr : FrameHdr) (body : CadenceBody)
  | associationWindowClose
  | armTimeout
  | leaderFrameTimeout
  -- the matrix sub-slot
  | mpass (p : At) (shape : Shape) (add : Bool) (bank : Bool) (a b : BitVec 3) (guard : Guard)
  | mdrain (p : At) (bf16 : Bool) (bank : Bool) (d : BitVec 3) (guard : Guard)
  | mseta (p : At) (reg : BitVec 3) (addr : BitVec 14)
  | msets (p : At) (reg : BitVec 3) (stride : BitVec 14)
  | mnop (p : At)
  -- the data-mover sub-slot
  | copy (p : At) (o : DOp)
  | send (p : At) (o : DOp)
  | gather (p : At) (o : DOp)
  | readT1 (p : At) (o : DOp)
  | writeT1 (p : At) (o : DOp)
  | steer (p : At) (o : DOp)
  | dseta (p : At) (reg : BitVec 3) (high : Bool) (imm : BitVec 16)
  | dsets (p : At) (reg : BitVec 3) (stride : BitVec 16)
  | dnop (p : At)
  -- the control sub-slot
  | cnop (p : At)
  | vguard (p : At) (guard : Guard)
  | endloop (p : At) (trip : BitVec 16) (body : BitVec 12)
  | idle (p : At) (beats : BitVec 16)
  | string (p : At) (template : BitVec 6) (scalar : BitVec 4)
  | setskip (p : At) (binding : BitVec 3) (vl : BitVec 4) (origin : BitVec 12) (stride : BitVec 4)
  | steersel (p : At) (stream : BitVec 4)
  -- the vector sub-slot
  | vnop (p : At)
  | vadd (p : At) (o : VOp)
  | vsub (p : At) (o : VOp)
  | vmul (p : At) (o : VOp)
  | vfma (p : At) (o : VOp)
  | vmax (p : At) (o : VOp)
  | vmin (p : At) (o : VOp)
  | vabs (p : At) (o : VOp)
  | vneg (p : At) (o : VOp)
  | exp2 (p : At) (o : VOp)
  | log2 (p : At) (o : VOp)
  | rcp (p : At) (o : VOp)
  | rsqrt (p : At) (o : VOp)
  | sigm (p : At) (o : VOp)
  | tanh (p : At) (o : VOp)
  | rsum (p : At) (o : VOp)
  | rmax (p : At) (o : VOp)
  | rmin (p : At) (o : VOp)
  | ramax (p : At) (o : VOp)
  | iadd (p : At) (o : VOp)
  | isub (p : At) (o : VOp)
  | vand (p : At) (o : VOp)
  | vor (p : At) (o : VOp)
  | vxor (p : At) (o : VOp)
  | vshl (p : At) (o : VOp)
  | vshr (p : At) (o : VOp)
  | vsel (p : At) (o : VOp)
  | vmov (p : At) (o : VOp)
  | vbcast (p : At) (o : VOp)
  | vperm (p : At) (o : VOp)
  | viota (p : At) (o : VOp)
  | vcmp (p : At) (o : VOp)
  | mlog (p : At) (o : VOp)
  | mvl (p : At) (o : VOp)
  | mflg (p : At) (o : VOp)
  | vcvtBf16 (p : At) (o : COp)
  | vcvtFp16 (p : At) (o : COp)
  | vcvtFp8 (p : At) (o : COp)
  | vcvtFp4 (p : At) (o : COp)
  | vqblk (p : At) (o : COp)
  | vunpk (p : At) (o : COp)
  | vld (p : At) (o : LOp)
  | vst (p : At) (o : LOp)
  | vsthOpen (p : At) (o : HOp)
  | vsthClose (p : At) (o : HOp)
  | slui (p : At) (o : SOp)
  | slli (p : At) (o : SOp)
  | smov (p : At) (o : SOp)
  | sadd (p : At) (o : SOp)
  -- arrivals at the cells
  | landingFlit (dest cycle : Nat) (bridgeBad : Bool)
  | emptyFlit (dest cycle : Nat) (bridgeBad : Bool)
  | t1PieceArrival (cell cycle : Nat) (uncorrectable : Bool)
  | t1WriteAck (cell cycle : Nat)
  | validLengthToken (cell cycle : Nat) (bridgeBad : Bool)
  | steeringControlToken (cell cycle : Nat) (bridgeBad : Bool)
  | remoteBarrierToken (cell cycle : Nat) (bridgeBad : Bool)
  | zeroLengthHeaderToken (cell cycle : Nat) (bridgeBad : Bool)
  | steerFlitArrival (cell cycle : Nat)
  | steerWindowExpiry (cell cycle : Nat)
  | hubStringInject (entry : Nat)
  -- repair, staging and switch
  | repairStart (sourceBad : Bool)
  | repairDone (cycles : Nat)
  | stagingComplete (cycles : Nat)
  | switchFillStart
  | switchFillDone (cycles : Nat)
  -- the fabric
  | dataFrame (hdr : FrameHdr) (cycle : Nat) (flits : List (BitVec 1024))
  | streamWindowEnd (stream : Nat)
  | slotTransmit (port : Nat) (tick : Nat)
  | verdictFrame (hdr : FrameHdr) (body : VerdictBody)
  | leaveNotice (hdr : FrameHdr) (cause : BitVec 8) (lastStep : BitVec 64)
  | remoteRequest (hdr : FrameHdr) (id : BitVec 32) (write : Bool) (addr : BitVec 64) (len : Nat)
      (data : List (BitVec 8))
  | remoteResponse (hdr : FrameHdr) (id : BitVec 32) (status : BitVec 8) (data : List (BitVec 8))
  | remoteRequestTimeout (id : BitVec 32) (tick : Nat)
  | moveOffer (hdr : FrameHdr) (body : MoveBody)
  | moveAccept (hdr : FrameHdr) (body : MoveBody)
  | moveRefuse (hdr : FrameHdr) (body : MoveBody)
  | moveData (hdr : FrameHdr) (body : MoveBody)
  | moveReady (hdr : FrameHdr) (body : MoveBody)
  | moveCommit (hdr : FrameHdr) (body : MoveBody)
  | moveAbort (hdr : FrameHdr) (body : MoveBody)
  | moveAck (hdr : FrameHdr) (body : MoveBody)
  | moveReadyTimeout (move : BitVec 32) (tick : Nat)
  | moveCommitResend (move : BitVec 32) (tick : Nat)
  | moveAbortResend (move : BitVec 32) (tick : Nat)
  -- memory, weights and parking
  | localMoveComplete (move : BitVec 32) (tick : Nat) (mismatch uncorrectable : Bool)
  | writeBackComplete (frame : Nat) (tick : Nat)
  | conversionPassDone
  | ttl2Expiry (ctx : Nat)
  | ttl3Expiry (ctx : Nat)
  | shardIngestDone (handle : BitVec 32) (tick : Nat)
  | shardDeadlineExpiry (model : BitVec 28) (version : BitVec 8) (tick : Nat)
  | scrubDue (model : BitVec 28) (version : BitVec 8)
  | scrubPageRead (model : BitVec 28) (version : BitVec 8) (page : Nat)
  | uncorrectableRead (tier : BitVec 4) (slot unit : Nat) (tick : Nat)
  | hbmStackFailure (stack : Nat)
  | ddrChannelFailure (channel : Nat)
  | flashDriveTimeout (port : Nat)
  | nvmeCompletion (port : Nat) (command : Nat) (status : NvmeStatus)
  -- the host link and the functions
  | pcieLinkDown
  | hostPerst (high : Bool)
  | pcieConfigRequest (req : ConfigRequest)
  | functionLevelReset (func : BitVec 4) (tick : Nat)
  | bar4Access (func : BitVec 4) (off : Nat) (op : Bar4Op)
  | funcSetupDone (func : BitVec 4)
  | funcStopComplete (func : BitVec 4)
  | funcWedgeTimeout (func : BitVec 4) (tick : Nat)
  -- ports
  | portStateDone (port : Nat) (good : BitVec 8)
  | portStateTimeout (port : Nat) (miss : TrainMiss)
  | portRetryTimer (port : Nat) (tick : Nat)
  | identFrame (hdr : FrameHdr) (plane : BitVec 8) (switchPort : BitVec 16)
  | echoFrame (hdr : FrameHdr) (departure arrival turnaround : Nat)
  | laneFailure (port : Nat) (fault : LaneFault)
  -- reset, power and clocks
  | powerOn (tick : Nat)
  | resetNAssert (tick : Nat)
  | pwrfail (tick : Nat)
  | thermalScan (tick : Nat) (hottest coolest : Int) (power : BitVec 32)
  | thermalCapRaise (tick : Nat)
  | railCurrentRead (west east : BitVec 32)
  | marginTrip (west east : Bool)
  | stretchEnd (cycles : Nat)
  | pllLock (pll : Pll)
  | pllSlip (pll : Pll)
  | clockQualification (src : ClockSrc) (count : Nat)
  | unarmedOpTick (vrWest vrEast : Bool) (tick : Nat)
  | voteScan (upsets : List Upset)
  | heartbeatInterval
  | bootStageDone (report : BootReport)
  | bootStageRetry
  -- interrupts and DMA
  | sourceAssert (source : Nat) (level : Bool)
  | notifyModerationTimeout (target : Fin 5) (tick : Nat)
  | stormWindow
  | vectorModerationTimeout (vector : Nat) (tick : Nat)
  | msixVectorUnmask (vector : Nat)
  | dmaReadComplete (channel : Fin 16) (uncorrectable : Bool)
  | dmaWriteResponse (channel : Fin 16)
  | icClaimRead (req : Requester) (target : Fin 5)
  | icCompleteWrite (req : Requester) (target : Fin 5) (value : BitVec 32)
  | icGwAckWrite (req : Requester) (value : BitVec 32)
  | icPendRead (req : Requester) (word : Fin 32)
  | icDoorbellWrite (req : Requester) (high : Bool) (value : BitVec 32)
  | icStormUnmask (req : Requester) (source : Nat) (value : BitVec 32)
  | dmaGo (req : Requester) (channel : Fin 16) (value : BitVec 32)
  | dmaAbort (req : Requester) (channel : Fin 16) (value : BitVec 32)
  -- doorbells and registers
  | queueEnable (func : BitVec 4) (queue : Fin 8) (value : BitVec 32)
  | queueDisable (func : BitVec 4) (queue : Fin 8) (value : BitVec 32)
  | cmdTailDoorbell (func : BitVec 4) (queue : Fin 8) (value : BitVec 32) (tick : Nat)
  | rspHeadDoorbell (func : BitVec 4) (queue : Fin 8) (value : BitVec 32) (tick : Nat)
  | srHeadDoorbell (value : BitVec 32)
  | tokenDoorbell (func : BitVec 4) (ctx : Fin 1024) (value : BitVec 32)
  | gridPendWrite (req : Requester) (reg : Fin 12) (value : BitVec 32)
  | gridCellSelWrite (req : Requester) (value : BitVec 32)
  | gridLockWrite (req : Requester) (value : BitVec 32)
  | arithCtrlWrite (req : Requester) (value : BitVec 32)
  | sysClkEnWrite (req : Requester) (value : BitVec 32)
  | sysLockWrite (req : Requester) (value : BitVec 32)
  | pwrOpReqWrite (req : Requester) (value : BitVec 32)
  | pwrOpLimitsWrite (req : Requester) (value : BitVec 32)
  | mgtFwFloorWrite (req : Requester) (value : BitVec 32)
  | heartbeatWrite (req : Requester) (core : Fin 5) (value : BitVec 32)
  | rstCtrlReset (req : Requester) (value : BitVec 32)
  | rcRegisterRead (acc : Access)
  | latchedLowRead (acc : Access)
  | registerWrite (acc : Access) (value : BitVec 32)
  -- the sideband, at the address of the request, and test access
  | sbRegisterRead (request : SbRequest)
  | sbRegisterWrite (request : SbRequest)
  | sbReset (request : SbRequest)
  | sbMailboxWrite (request : SbRequest)
  | sbMailboxRead (request : SbRequest)
  | jtagInstruction (instr : JtagInstr)
  -- the host commands
  | identify (handle : BitVec 32)
  | deviceReset (handle : BitVec 32)
  | telemetry (handle : BitVec 32)
  | handleQuery (handle : BitVec 32)
  | cfgWrite (handle : BitVec 32)
  | cfgCommit (handle : BitVec 32)
  | cadenceSet (handle : BitVec 32)
  | cadenceStatus (handle : BitVec 32)
  | roleSet (handle : BitVec 32)
  | alloc (handle : BitVec 32)
  | free (handle : BitVec 32)
  | move (handle : BitVec 32)
  | pageQuery (handle : BitVec 32)
  | memMode (handle : BitVec 32)
  | modelDeclare (handle : BitVec 32)
  | shardLoad (handle : BitVec 32)
  | shardFromFlash (handle : BitVec 32)
  | modelActivate (handle : BitVec 32)
  | modelRetire (handle : BitVec 32)
  | adapterLoad (handle : BitVec 32)
  | adapterReplace (handle : BitVec 32)
  | modelReplace (handle : BitVec 32)
  | scrubSet (handle : BitVec 32)
  | modelStatus (handle : BitVec 32)
  | cylLoad (handle : BitVec 32)
  | cylVerify (handle : BitVec 32)
  | drain (handle : BitVec 32)
  | cylSwitch (handle : BitVec 32)
  | cylUnload (handle : BitVec 32)
  | ctxOpen (handle : BitVec 32)
  | promptSubmit (handle : BitVec 32)
  | append (handle : BitVec 32)
  | cancel (handle : BitVec 32)
  | ctxClose (handle : BitVec 32)
  | ctxPark (handle : BitVec 32)
  | ctxResume (handle : BitVec 32)
  | fallbackBind (handle : BitVec 32)
  | kvExport (handle : BitVec 32)
  | kvImport (handle : BitVec 32)
  | batchStep (handle : BitVec 32)
  | deadlineSet (handle : BitVec 32)
  | linkStatus (handle : BitVec 32)
  | routeSet (handle : BitVec 32)
  | planeMask (handle : BitVec 32)
  | fenceCell (handle : BitVec 32)
  | unfenceCell (handle : BitVec 32)
  | calibrate (handle : BitVec 32)
  | calStatus (handle : BitVec 32)
  | healthRead (handle : BitVec 32)
  | funcEnable (handle : BitVec 32)
  | funcDisable (handle : BitVec 32)
  | funcStatus (handle : BitVec 32)
  | diagNop (handle : BitVec 32)
  | manufacturingTest (handle : BitVec 32)
  -- power, reset and repair events outside the host's commands
  | powerRemoved
  | resetNRelease (strap : BitVec 8) (tick : Nat)
  | resetPulseEnd (tick : Nat)
  | pcieLinkUp
  | firmwareSramUncorrectable
  | calibrationStoreWriteDone (record : StoreRec) (ok : Bool)
  | cylLoadChecked (handle : BitVec 32)
  | kvImageTransferDone (handle : BitVec 32) (tick : Nat)
  | i3cAddressAssignment (cmd : I3cCommand)
  | memoryPatrolScrub (tier : BitVec 4) (unit : Nat) (corrected : Nat) (row : Option Nat) (tick : Nat)
  deriving DecidableEq, Repr

end Sys2Proof
end

