-- ==== Sys2Proof/Decode.lean ====
section
/-!
DEFINITION. The encodings of the slot word's four sub-slots (R113, R114, R137 to R140), a decoder and an
encoder over them, and `decodeTableWord`. No row of the table of operations and events gives bits of its
own, so `decodeTableWord` spells no command.
-/
namespace Sys2Proof

/-- Operand b is a scalar register. -/
def BSrc.isScalar : BSrc → Bool
  | .scalar _ => true
  | .reg _ => false

/-! ### Fields -/

/-- The 15 bits of a guard field (R137). -/
def guardBits (g : Guard) : BitVec 15 :=
  g.skip ++ g.chkCtr ++ g.chkAdd ++ BitVec.ofBool g.sigEn ++ g.sigCtr

/-- The guard field in bits [14:0] of a sub-slot (R137). -/
def guardOf (w : BitVec 32) : Guard :=
  { skip := w.extractLsb' 12 3, chkCtr := w.extractLsb' 8 4, chkAdd := w.extractLsb' 5 3,
    sigEn := w.getLsbD 4, sigCtr := w.extractLsb' 0 4 }

/-- The code of a type (R113). -/
def typeBits : VType → BitVec 2
  | .fp32 => 0 | .bf16 => 1 | .int32 => 2

/-- The type of a code; 3 is reserved (R113). -/
def typeOf (b : BitVec 2) : Option VType :=
  if b = 0 then some .fp32 else if b = 1 then some .bf16 else if b = 2 then some .int32 else none

/-- Bits [15:11] and bit [5] of format V: operand b (R113). -/
def bBits : BSrc → BitVec 5
  | .reg vb => vb
  | .scalar sn => (0 : BitVec 1) ++ sn

/-- Operand b; bit [15] is reserved where it is a scalar (R113). -/
def bOf (w : BitVec 32) : Option BSrc :=
  if w.getLsbD 5 then (if w.getLsbD 15 then none else some (.scalar (w.extractLsb' 11 4)))
  else some (.reg (w.extractLsb' 11 5))

/-- A format V sub-slot (R113). -/
def encodeV (op : BitVec 6) (o : VOp) : BitVec 32 :=
  op ++ o.vd ++ o.va ++ bBits o.b ++ o.mask ++ typeBits o.ty ++ BitVec.ofBool o.b.isScalar ++ o.mod

/-- The fields of a format V sub-slot (R113). -/
def decodeV (w : BitVec 32) : Option VOp :=
  match bOf w, typeOf (w.extractLsb' 6 2) with
  | some b, some ty => some { vd := w.extractLsb' 21 5, va := w.extractLsb' 16 5, b := b,
                              mask := w.extractLsb' 8 3, ty := ty, mod := w.extractLsb' 0 5 }
  | _, _ => none

/-- A format C sub-slot (R113). -/
def encodeC (op : BitVec 6) (o : COp) : BitVec 32 :=
  op ++ o.vd ++ o.va ++ o.tracker ++ BitVec.ofBool o.tracked ++ o.fmt ++ (0 : BitVec 3) ++ o.part

/-- The fields of a format C sub-slot; bits [5:3] are reserved (R113). -/
def decodeC (w : BitVec 32) : Option COp :=
  if w.extractLsb' 3 3 = 0 then
    some { vd := w.extractLsb' 21 5, va := w.extractLsb' 16 5, tracker := w.extractLsb' 10 6,
           tracked := w.getLsbD 9, fmt := w.extractLsb' 6 3, part := w.extractLsb' 0 3 }
  else none

/-- The code of a post-increment (R113). -/
def postBits : Post → BitVec 2
  | .none => 0 | .up => 1 | .down => 2

/-- The post-increment of a code; 3 is reserved (R113). -/
def postOf (b : BitVec 2) : Option Post :=
  if b = 0 then some .none else if b = 1 then some .up else if b = 2 then some .down else none

/-- A format L sub-slot (R113). -/
def encodeL (op : BitVec 6) (o : LOp) : BitVec 32 :=
  op ++ o.v ++ o.sbase ++ o.offset ++ o.mask ++ postBits o.post

/-- The fields of a format L sub-slot (R113). -/
def decodeL (w : BitVec 32) : Option LOp :=
  match postOf (w.extractLsb' 0 2) with
  | some p => some { v := w.extractLsb' 21 5, sbase := w.extractLsb' 17 4, offset := w.extractLsb' 5 12,
                     mask := w.extractLsb' 2 3, post := p }
  | none => none

/-- A format H sub-slot (R113). -/
def encodeH (close : Bool) (o : HOp) : BitVec 32 :=
  (0x3A : BitVec 6) ++ o.vs ++ o.sbase ++ o.tracker ++ o.offset ++ BitVec.ofBool o.tracked ++
    BitVec.ofBool close ++ (0 : BitVec 3)

/-- The fields of a format H sub-slot; bits [2:0] are reserved (R113). -/
def decodeH (w : BitVec 32) : Option HOp :=
  if w.extractLsb' 0 3 = 0 then
    some { vs := w.extractLsb' 21 5, sbase := w.extractLsb' 17 4, tracker := w.extractLsb' 11 6,
           offset := w.extractLsb' 5 6, tracked := w.getLsbD 4 }
  else none

/-- A format S sub-slot (R113). -/
def encodeS (op : BitVec 6) (o : SOp) : BitVec 32 := op ++ o.sd ++ o.sel ++ o.imm

/-- The fields of a format S sub-slot (R113). -/
def decodeS (w : BitVec 32) : SOp :=
  { sd := w.extractLsb' 22 4, sel := w.extractLsb' 16 6, imm := w.extractLsb' 0 16 }

/-! ### The forms of the vector sub-slot that R115 lets a cylinder hold -/

/-- Registers from `v` on stay within `V31` (R115). -/
def groupFits (v : BitVec 5) (n : Nat) : Bool := decide (v.toNat + n ≤ 32)

/-- `VCVT` form: its `fmt`, its `part` and its source group (R115, R123). -/
def cvtOk (o : COp) (fmts regs : Nat) : Bool :=
  decide (o.fmt.toNat < fmts) && decide (o.part = 0) && groupFits o.va regs

/-- `VQBLK` form (R125). -/
def qblkOk (o : COp) : Bool :=
  decide (o.fmt ≠ 0) && decide (o.fmt.toNat ≤ 4) && decide (o.part = 0) && groupFits o.vd 2 &&
    groupFits o.va (if o.fmt = 1 ∨ o.fmt = 4 then 8 else 4)

/-- `VUNPK` form (R126). -/
def unpkOk (o : COp) : Bool :=
  decide (o.fmt.toNat ≤ 4) &&
    decide (o.part.toNat < (if o.fmt.toNat ≤ 1 then 2 else if o.fmt.toNat ≤ 3 then 4 else 8))

/-- The types an operation permits and the operand form it needs (R114, R115). `MLOG` with a scalar operand and `tracked`
in a conversion to BF16 or FP16, in `VQBLK` and in `VUNPK` have no meaning and are refused too, although R115 does not
name them (DESIGN CHOICE, assumption 180). `MLOG`, `MVL` and `MFLG`, for which R114 lists no type, are accepted with each type
that is not reserved (DESIGN CHOICE, assumption 204). -/
def vectorOk : Instr → Bool
  | .vadd _ o => decide (o.ty ≠ .int32)
  | .vsub _ o => decide (o.ty ≠ .int32)
  | .vmul _ o => decide (o.ty ≠ .int32)
  | .vfma _ o => decide (o.ty ≠ .int32)
  | .vmax _ o => decide (o.ty ≠ .int32)
  | .vmin _ o => decide (o.ty ≠ .int32)
  | .vabs _ o => decide (o.ty ≠ .int32)
  | .vneg _ o => decide (o.ty ≠ .int32)
  | .exp2 _ o => decide (o.ty = .fp32)
  | .log2 _ o => decide (o.ty = .fp32)
  | .rcp _ o => decide (o.ty = .fp32)
  | .rsqrt _ o => decide (o.ty = .fp32)
  | .sigm _ o => decide (o.ty = .fp32)
  | .tanh _ o => decide (o.ty = .fp32)
  | .rsum _ o => decide (o.ty = .fp32)
  | .rmax _ o => decide (o.ty = .fp32)
  | .rmin _ o => decide (o.ty = .fp32)
  | .ramax _ o => decide (o.ty = .fp32)
  | .iadd _ o => decide (o.ty = .int32)
  | .isub _ o => decide (o.ty = .int32)
  | .vand _ o => decide (o.ty = .int32)
  | .vor _ o => decide (o.ty = .int32)
  | .vxor _ o => decide (o.ty = .int32)
  | .vshl _ o => decide (o.ty = .int32)
  | .vshr _ o => decide (o.ty = .int32)
  | .vsel _ _ => true
  | .vmov _ _ => true
  | .vbcast _ o => decide (o.b.isScalar)
  | .vperm _ o => decide (o.ty = .int32)
  | .viota _ o => decide (o.ty = .int32 ∧ o.b.isScalar)
  | .vcmp _ o => decide (o.ty ≠ .bf16)
  | .mlog _ o => decide (¬ o.b.isScalar)
  | .mvl _ _ => true
  | .mflg _ _ => true
  | .vcvtBf16 _ o => cvtOk o 1 2 && !o.tracked
  | .vcvtFp16 _ o => cvtOk o 1 2 && !o.tracked
  | .vcvtFp8 _ o => cvtOk o 2 4
  | .vcvtFp4 _ o => cvtOk o 1 8
  | .vqblk _ o => qblkOk o && !o.tracked
  | .vunpk _ o => unpkOk o && !o.tracked
  | .smov _ o => decide (o.sel.toNat < 32)
  | _ => true

/-! ### The vector sub-slot (R114) -/

/-- The vector sub-slot of an operation, none where it is not one (R114). -/
def encodeVector : Instr → Option (BitVec 32)
  | .vnop _ => some 0
  | .vadd _ o => some (encodeV 0x01 o)
  | .vsub _ o => some (encodeV 0x02 o)
  | .vmul _ o => some (encodeV 0x03 o)
  | .vfma _ o => some (encodeV 0x04 o)
  | .vmax _ o => some (encodeV 0x05 o)
  | .vmin _ o => some (encodeV 0x06 o)
  | .vabs _ o => some (encodeV 0x07 o)
  | .vneg _ o => some (encodeV 0x08 o)
  | .exp2 _ o => some (encodeV 0x10 o)
  | .log2 _ o => some (encodeV 0x11 o)
  | .rcp _ o => some (encodeV 0x12 o)
  | .rsqrt _ o => some (encodeV 0x13 o)
  | .sigm _ o => some (encodeV 0x14 o)
  | .tanh _ o => some (encodeV 0x15 o)
  | .rsum _ o => some (encodeV 0x18 o)
  | .rmax _ o => some (encodeV 0x19 o)
  | .rmin _ o => some (encodeV 0x1A o)
  | .ramax _ o => some (encodeV 0x1B o)
  | .iadd _ o => some (encodeV 0x20 o)
  | .isub _ o => some (encodeV 0x21 o)
  | .vand _ o => some (encodeV 0x22 o)
  | .vor _ o => some (encodeV 0x23 o)
  | .vxor _ o => some (encodeV 0x24 o)
  | .vshl _ o => some (encodeV 0x25 o)
  | .vshr _ o => some (encodeV 0x26 o)
  | .vsel _ o => some (encodeV 0x27 o)
  | .vmov _ o => some (encodeV 0x28 o)
  | .vbcast _ o => some (encodeV 0x29 o)
  | .vperm _ o => some (encodeV 0x2A o)
  | .viota _ o => some (encodeV 0x2B o)
  | .vcmp _ o => some (encodeV 0x2C o)
  | .mlog _ o => some (encodeV 0x2D o)
  | .mvl _ o => some (encodeV 0x2E o)
  | .mflg _ o => some (encodeV 0x2F o)
  | .vcvtBf16 _ o => some (encodeC 0x30 o)
  | .vcvtFp16 _ o => some (encodeC 0x31 o)
  | .vcvtFp8 _ o => some (encodeC 0x32 o)
  | .vcvtFp4 _ o => some (encodeC 0x33 o)
  | .vqblk _ o => some (encodeC 0x34 o)
  | .vunpk _ o => some (encodeC 0x35 o)
  | .vld _ o => some (encodeL 0x38 o)
  | .vst _ o => some (encodeL 0x39 o)
  | .vsthOpen _ o => some (encodeH false o)
  | .vsthClose _ o => some (encodeH true o)
  | .slui _ o => some (encodeS 0x3C o)
  | .slli _ o => some (encodeS 0x3D o)
  | .smov _ o => some (encodeS 0x3E o)
  | .sadd _ o => some (encodeS 0x3F o)
  | _ => none

/-- The operation that a vector sub-slot spells, its permitted forms apart; none where a reserved value or
bit stands in it (R113, R114). -/
def decodeVectorRaw (p : At) (w : BitVec 32) : Option Instr :=
  match (w.extractLsb' 26 6).toNat with
  | 0x00 => if w = 0 then some (.vnop p) else none
  | 0x01 => (decodeV w).map (.vadd p)
  | 0x02 => (decodeV w).map (.vsub p)
  | 0x03 => (decodeV w).map (.vmul p)
  | 0x04 => (decodeV w).map (.vfma p)
  | 0x05 => (decodeV w).map (.vmax p)
  | 0x06 => (decodeV w).map (.vmin p)
  | 0x07 => (decodeV w).map (.vabs p)
  | 0x08 => (decodeV w).map (.vneg p)
  | 0x10 => (decodeV w).map (.exp2 p)
  | 0x11 => (decodeV w).map (.log2 p)
  | 0x12 => (decodeV w).map (.rcp p)
  | 0x13 => (decodeV w).map (.rsqrt p)
  | 0x14 => (decodeV w).map (.sigm p)
  | 0x15 => (decodeV w).map (.tanh p)
  | 0x18 => (decodeV w).map (.rsum p)
  | 0x19 => (decodeV w).map (.rmax p)
  | 0x1A => (decodeV w).map (.rmin p)
  | 0x1B => (decodeV w).map (.ramax p)
  | 0x20 => (decodeV w).map (.iadd p)
  | 0x21 => (decodeV w).map (.isub p)
  | 0x22 => (decodeV w).map (.vand p)
  | 0x23 => (decodeV w).map (.vor p)
  | 0x24 => (decodeV w).map (.vxor p)
  | 0x25 => (decodeV w).map (.vshl p)
  | 0x26 => (decodeV w).map (.vshr p)
  | 0x27 => (decodeV w).map (.vsel p)
  | 0x28 => (decodeV w).map (.vmov p)
  | 0x29 => (decodeV w).map (.vbcast p)
  | 0x2A => (decodeV w).map (.vperm p)
  | 0x2B => (decodeV w).map (.viota p)
  | 0x2C => (decodeV w).map (.vcmp p)
  | 0x2D => (decodeV w).map (.mlog p)
  | 0x2E => (decodeV w).map (.mvl p)
  | 0x2F => (decodeV w).map (.mflg p)
  | 0x30 => (decodeC w).map (.vcvtBf16 p)
  | 0x31 => (decodeC w).map (.vcvtFp16 p)
  | 0x32 => (decodeC w).map (.vcvtFp8 p)
  | 0x33 => (decodeC w).map (.vcvtFp4 p)
  | 0x34 => (decodeC w).map (.vqblk p)
  | 0x35 => (decodeC w).map (.vunpk p)
  | 0x38 => (decodeL w).map (.vld p)
  | 0x39 => (decodeL w).map (.vst p)
  | 0x3A => (decodeH w).map (if w.getLsbD 3 then .vsthClose p else .vsthOpen p)
  | 0x3C => some (.slui p (decodeS w))
  | 0x3D => some (.slli p (decodeS w))
  | 0x3E => some (.smov p (decodeS w))
  | 0x3F => some (.sadd p (decodeS w))
  | _ => none

/-- The operation of a vector sub-slot that a cylinder may hold (R115). -/
def decodeVector (p : At) (w : BitVec 32) : Option Instr :=
  match decodeVectorRaw p w with
  | some i => if vectorOk i then some i else none
  | none => none

/-! ### The matrix sub-slot (R138) -/

/-- The code of a shape in `MPASS` (R161). -/
def shapeBits : Shape → BitVec 2
  | .s16 => 0 | .s64 => 1 | .s256 => 2 | .sa => 3

/-- The shape of a code (R161). -/
def shapeOf (b : BitVec 2) : Shape :=
  if b = 0 then .s16 else if b = 1 then .s64 else if b = 2 then .s256 else .sa

/-- The matrix sub-slot of an operation (R138). -/
def encodeMatrix : Instr → Option (BitVec 32)
  | .mnop _ => some 0
  | .mpass _ sh add bank a b g =>
    some ((1 : BitVec 4) ++ shapeBits sh ++ BitVec.ofBool add ++ BitVec.ofBool bank ++ a ++ b ++
      (0 : BitVec 3) ++ guardBits g)
  | .mdrain _ bf bank d g =>
    some ((2 : BitVec 4) ++ (0 : BitVec 1) ++ BitVec.ofBool bf ++ (0 : BitVec 1) ++ BitVec.ofBool bank ++ d ++
      (0 : BitVec 6) ++ guardBits g)
  | .mseta _ r a => some ((3 : BitVec 4) ++ r ++ (0 : BitVec 11) ++ a)
  | .msets _ r d => some ((4 : BitVec 4) ++ r ++ (0 : BitVec 11) ++ d)
  | _ => none

/-- The operation of a matrix sub-slot; none for a reserved form (R138). -/
def decodeMatrix (p : At) (w : BitVec 32) : Option Instr :=
  match (w.extractLsb' 28 4).toNat with
  | 0 => if w = 0 then some (.mnop p) else none
  | 1 =>
    if w.extractLsb' 15 3 = 0 then
      some (.mpass p (shapeOf (w.extractLsb' 26 2)) (w.getLsbD 25) (w.getLsbD 24) (w.extractLsb' 21 3)
        (w.extractLsb' 18 3) (guardOf w))
    else none
  | 2 =>
    if w.extractLsb' 15 6 = 0 ∧ w.getLsbD 27 = false ∧ w.getLsbD 25 = false then
      some (.mdrain p (w.getLsbD 26) (w.getLsbD 24) (w.extractLsb' 21 3) (guardOf w))
    else none
  | 3 => if w.extractLsb' 14 11 = 0 then some (.mseta p (w.extractLsb' 25 3) (w.extractLsb' 0 14)) else none
  | 4 => if w.extractLsb' 14 11 = 0 then some (.msets p (w.extractLsb' 25 3) (w.extractLsb' 0 14)) else none
  | _ => none

/-! ### The data-mover sub-slot (R139) -/

/-- A transfer sub-slot (R139). -/
def encodeT (op : BitVec 4) (o : DOp) : BitVec 32 := op ++ o.src ++ o.dst ++ o.len ++ guardBits o.guard

/-- The fields of a transfer sub-slot (R139). -/
def decodeT (w : BitVec 32) : DOp :=
  { src := w.extractLsb' 25 3, dst := w.extractLsb' 22 3, len := w.extractLsb' 15 7, guard := guardOf w }

/-- The data-mover sub-slot of an operation (R139). -/
def encodeMover : Instr → Option (BitVec 32)
  | .dnop _ => some 0
  | .copy _ o => some (encodeT 1 o)
  | .send _ o => some (encodeT 2 o)
  | .gather _ o => some (encodeT 3 o)
  | .readT1 _ o => some (encodeT 4 o)
  | .writeT1 _ o => some (encodeT 5 o)
  | .steer _ o => some (encodeT 6 o)
  | .dseta _ r h imm => some ((7 : BitVec 4) ++ r ++ BitVec.ofBool h ++ (0 : BitVec 8) ++ imm)
  | .dsets _ r d => some ((8 : BitVec 4) ++ r ++ (0 : BitVec 9) ++ d)
  | _ => none

/-- The operation of a data-mover sub-slot; none for a reserved form, and for a `GATHER` whose `src` is 7,
which has no DA[src+1] (R139, R179). -/
def decodeMover (p : At) (w : BitVec 32) : Option Instr :=
  match (w.extractLsb' 28 4).toNat with
  | 0 => if w = 0 then some (.dnop p) else none
  | 1 => some (.copy p (decodeT w))
  | 2 => some (.send p (decodeT w))
  | 3 => if w.extractLsb' 25 3 = 7 then none else some (.gather p (decodeT w))
  | 4 => some (.readT1 p (decodeT w))
  | 5 => some (.writeT1 p (decodeT w))
  | 6 => if (decodeT w).dst = 0 then some (.steer p (decodeT w)) else none
  | 7 =>
    if w.extractLsb' 16 8 = 0 then some (.dseta p (w.extractLsb' 25 3) (w.getLsbD 24) (w.extractLsb' 0 16))
    else none
  | 8 => if w.extractLsb' 16 9 = 0 then some (.dsets p (w.extractLsb' 25 3) (w.extractLsb' 0 16)) else none
  | _ => none

/-! ### The control sub-slot (R140) -/

/-- The control sub-slot of an operation (R140). -/
def encodeControl : Instr → Option (BitVec 32)
  | .cnop _ => some 0
  | .vguard _ g => some ((1 : BitVec 4) ++ (0 : BitVec 13) ++ guardBits g)
  | .endloop _ t b => some ((2 : BitVec 4) ++ t ++ b)
  | .idle _ n => some ((3 : BitVec 4) ++ (0 : BitVec 12) ++ n)
  | .string _ t r => some ((4 : BitVec 4) ++ t ++ r ++ (0 : BitVec 18))
  | .setskip _ k vl o d => some ((5 : BitVec 4) ++ k ++ vl ++ o ++ d ++ (0 : BitVec 5))
  | .steersel _ st => some ((6 : BitVec 4) ++ st ++ (0 : BitVec 24))
  | _ => none

/-- The operation of a control sub-slot; none for a reserved form, a trip count, body length or idle count
of 0, or binding 0 (R140). -/
def decodeControl (p : At) (w : BitVec 32) : Option Instr :=
  match (w.extractLsb' 28 4).toNat with
  | 0 => if w = 0 then some (.cnop p) else none
  | 1 => if w.extractLsb' 15 13 = 0 then some (.vguard p (guardOf w)) else none
  | 2 =>
    if w.extractLsb' 12 16 = 0 ∨ w.extractLsb' 0 12 = 0 then none
    else some (.endloop p (w.extractLsb' 12 16) (w.extractLsb' 0 12))
  | 3 =>
    if w.extractLsb' 16 12 = 0 ∧ w.extractLsb' 0 16 ≠ 0 then some (.idle p (w.extractLsb' 0 16)) else none
  | 4 =>
    if w.extractLsb' 0 18 = 0 then some (.string p (w.extractLsb' 22 6) (w.extractLsb' 18 4)) else none
  | 5 =>
    if w.extractLsb' 0 5 = 0 ∧ w.extractLsb' 25 3 ≠ 0 then
      some (.setskip p (w.extractLsb' 25 3) (w.extractLsb' 21 4) (w.extractLsb' 9 12) (w.extractLsb' 5 4))
    else none
  | 6 => if w.extractLsb' 0 24 = 0 then some (.steersel p (w.extractLsb' 24 4)) else none
  | _ => none

/-! ### Slot words (R113, R138 to R140) -/

/-- The four operations of a slot word, in the order control, matrix, data mover, vector; none where a
sub-slot is no defined form, or beside an `IDLE` the other three are not zero (R140, check 0x06). -/
def decodeSlot (p : At) (w : BitVec 128) : Option (List Instr) :=
  match decodeControl p (w.extractLsb' 0 32), decodeMatrix p (w.extractLsb' 96 32),
      decodeMover p (w.extractLsb' 32 32), decodeVector p (w.extractLsb' 64 32) with
  | some c, some m, some d, some v =>
    if w.extractLsb' 28 4 = 3 ∧ w.extractLsb' 32 96 ≠ 0 then none else some [c, m, d, v]
  | _, _, _, _ => none

/-- The command that a word of the table spells: no row of the table gives bits, so none (assumption 16). -/
def decodeTableWord (_nbits _w : Nat) : Option Instr := none

end Sys2Proof
end

