-- ==== Sys2Proof/Machine/Data.lean ====
section
/-!
DEFINITION. Plain data: sparse maps in canonical form, byte order, bit fields, checksums and digests.
-/
namespace Sys2Proof.Machine

/-! ### Sparse maps -/

/-- What the map holds at `k`; `d` is what an unlisted key reads as. -/
def Sparse.get {α : Type} (d : α) (m : SMap α) (k : Nat) : α :=
  match m with
  | [] => d
  | (j, v) :: r => if j = k then v else Sparse.get d r k

/-- The map with `v` at `k`; writing what an unlisted key reads as removes the pair. -/
def Sparse.set {α : Type} [DecidableEq α] (d : α) (m : SMap α) (k : Nat) (v : α) : SMap α :=
  m.filter (fun p => decide (p.1 < k)) ++ (if v = d then [] else [(k, v)]) ++
    m.filter (fun p => decide (k < p.1))

/-- The map with the value at `k` changed by `g`. -/
def Sparse.modify {α : Type} [DecidableEq α] (d : α) (m : SMap α) (k : Nat) (g : α → α) : SMap α :=
  Sparse.set d m k (g (Sparse.get d m k))

/-- The pairs of a run of values from key `a` on, those equal to `d` left out. -/
def Sparse.run {α : Type} [DecidableEq α] (d : α) : Nat → List α → SMap α
  | _, [] => []
  | a, v :: r => if v = d then Sparse.run d (a + 1) r else (a, v) :: Sparse.run d (a + 1) r

/-- The map with the values `vs` at the keys from `a` on. -/
def Sparse.setRun {α : Type} [DecidableEq α] (d : α) (m : SMap α) (a : Nat) (vs : List α) : SMap α :=
  m.filter (fun p => decide (p.1 < a)) ++ Sparse.run d a vs ++
    m.filter (fun p => decide (a + vs.length ≤ p.1))

/-- The `n` values at the keys from `a` on. -/
def Sparse.getRun {α : Type} (d : α) (m : SMap α) (a n : Nat) : List α :=
  let w := m.filter (fun p => decide (a ≤ p.1) && decide (p.1 < a + n))
  (List.range n).map (fun i => Sparse.get d w (a + i))

/-- The map with every listed value changed by `g`. -/
def Sparse.mapVals {α : Type} [DecidableEq α] (d : α) (g : α → α) (m : SMap α) : SMap α :=
  (m.map fun p => (p.1, g p.2)).filter fun p => decide (p.2 ≠ d)

/-- Canonical form: keys strictly rising, and no pair that equals what its key reads as unlisted. -/
def Sparse.wf {α : Type} [DecidableEq α] (d : α) : SMap α → Bool
  | [] => true
  | (_, v) :: [] => decide (v ≠ d)
  | (k, v) :: (k', v') :: r => decide (v ≠ d) && decide (k < k') && Sparse.wf d ((k', v') :: r)

/-- The canonical form of a byte memory (assumption 3: an unlisted byte reads 0). -/
def Mem.wf (m : Mem) : Bool := Sparse.wf (0 : BitVec 8) m

/-- A byte of a memory. -/
def Mem.read (m : Mem) (a : Nat) : BitVec 8 := Sparse.get 0 m a

/-- `n` bytes of a memory. -/
def Mem.reads (m : Mem) (a n : Nat) : List (BitVec 8) := Sparse.getRun 0 m a n

/-- Bytes written to a memory. -/
def Mem.writes (m : Mem) (a : Nat) (bs : List (BitVec 8)) : Mem := Sparse.setRun 0 m a bs

/-! ### Byte order and bit fields (R3) -/

/-- The number that bytes in little-endian order spell (R3). -/
def leNat : List (BitVec 8) → Nat
  | [] => 0
  | b :: r => b.toNat + 256 * leNat r

/-- `n` bytes of a number, little-endian (R3). -/
def leBytes : Nat → Nat → List (BitVec 8)
  | 0, _ => []
  | n + 1, v => BitVec.ofNat 8 v :: leBytes n (v / 256)

/-- The number in `n` bytes at offset `o` of a record (R3). -/
def fieldAt (bs : List (BitVec 8)) (o n : Nat) : Nat := leNat ((bs.drop o).take n)

/-- The byte at offset `o` of a record, 0 beyond its end. -/
def byteAt (bs : List (BitVec 8)) (o : Nat) : BitVec 8 := bs.getD o 0

/-- The bytes spelled by a bit vector of `8 n` bits, least significant first. -/
def bvBytes {w : Nat} (n : Nat) (v : BitVec w) : List (BitVec 8) := leBytes n v.toNat

/-- The bit field of `n` bits at bit `lo`. -/
def field {w : Nat} (v : BitVec w) (lo n : Nat) : BitVec n := v.extractLsb' lo n

/-- A word with bit `i` set. -/
def bit (w i : Nat) : BitVec w := BitVec.ofNat w (2 ^ i)

/-- One bit of a word from a flag. -/
def flag (w i : Nat) (b : Bool) : BitVec w := if b then bit w i else 0

/-- A word whose bits from `lo` upward are the `n` low bits of `v`. -/
def put (w lo n v : Nat) : BitVec w := BitVec.ofNat w ((v % 2 ^ n) * 2 ^ lo)

/-- One more, held at the largest value of the width. -/
def satInc {w : Nat} (v : BitVec w) : BitVec w := if v = BitVec.allOnes w then v else v + 1

/-- `n` more, held at the largest value of the width. -/
def satAdd {w : Nat} (v : BitVec w) (n : Nat) : BitVec w :=
  BitVec.ofNat w (min (v.toNat + n) (2 ^ w - 1))

/-- A number held at the largest value of `w` bits. -/
def satOf (w n : Nat) : BitVec w := BitVec.ofNat w (min n (2 ^ w - 1))

/-- The quotient rounded up. -/
def ceilDiv (a b : Nat) : Nat := (a + b - 1) / b

/-- The number of set bits. -/
def popCount {w : Nat} (v : BitVec w) : Nat := ((List.range w).filter (fun i => v.getLsbD i)).length

/-- The list with the element at `i` changed by `g`. -/
def listModify {α : Type} : List α → Nat → (α → α) → List α
  | [], _, _ => []
  | x :: r, 0, g => g x :: r
  | x :: r, i + 1, g => x :: listModify r i g

/-- The bytes, extended with zeros or cut to `n`. -/
def padTo (n : Nat) (bs : List (BitVec 8)) : List (BitVec 8) :=
  (bs.take n) ++ List.replicate (n - bs.length) 0

/-- The two's-complement value of a signed number in `w` bits. -/
def intBits (w : Nat) (i : Int) : BitVec w := BitVec.ofInt w i

/-! ### CRC-32C -/

/-- One bit of the reflected CRC-32C register. -/
def crcBit (c : BitVec 32) : BitVec 32 :=
  if c.getLsbD 0 then (c >>> 1) ^^^ 0x82F63B78#32 else c >>> 1

/-- One byte into the CRC-32C register. -/
def crcByte (c : BitVec 32) (b : BitVec 8) : BitVec 32 :=
  let c := c ^^^ b.setWidth 32
  crcBit (crcBit (crcBit (crcBit (crcBit (crcBit (crcBit (crcBit c)))))))

/-- Bytes into the CRC-32C register. -/
def crcBytes (c : BitVec 32) (bs : List (BitVec 8)) : BitVec 32 := bs.foldl crcByte c

/-- The CRC-32C of bytes: initial value all ones, reflected, complemented (R166). -/
def crc32c (bs : List (BitVec 8)) : BitVec 32 := ~~~ (crcBytes 0xFFFFFFFF#32 bs)

/-! ### SHA-256 -/

/-- The integer `k`-th root of `n`, found bit by bit from bit `b - 1` down onto `r`. -/
def rootBits (k n : Nat) : Nat → Nat → Nat
  | 0, r => r
  | b + 1, r => rootBits k n b (if (r + 2 ^ b) ^ k ≤ n then r + 2 ^ b else r)

/-- The first 32 bits of the fractional part of the `k`-th root of `p`. -/
def rootFraction (k p : Nat) : BitVec 32 := BitVec.ofNat 32 (rootBits k (p * 2 ^ (32 * k)) 40 0)

/-- The primes up to 311, the 64th. -/
def smallPrimes : List Nat :=
  (List.range 312).filter fun n => decide (2 ≤ n) && (List.range n).all fun m => decide (m < 2) || decide (n % m ≠ 0)

/-- The round constants of SHA-256: the cube roots of the first 64 primes. -/
def shaRoundConstants : List (BitVec 32) := smallPrimes.map (rootFraction 3)

/-- A hash value of SHA-256, or the working words of a round, as its two histories: the last four words of the
line that each round's sum enters, newest first (words a to d of FIPS 180-4), and those of the line that enters
half way (words e to h). -/
structure Sha where
  /-- words a to d -/
  front : List (BitVec 32)
  /-- words e to h -/
  back : List (BitVec 32)
  deriving DecidableEq, Repr

/-- The initial hash value of SHA-256: the square roots of the first eight primes. -/
def Sha.initial : Sha :=
  let roots := (smallPrimes.take 8).map (rootFraction 2)
  ⟨roots.take 4, roots.drop 4⟩

/-- The sum modulo 2 of a word turned right by each of the counts. -/
def turns (w : BitVec 32) (counts : List Nat) : BitVec 32 :=
  counts.foldl (fun acc n => acc ^^^ w.rotateRight n) 0

/-- One round: each history gains a word and loses its oldest. -/
def Sha.round (s : Sha) (term : BitVec 32) : Sha :=
  match s.front, s.back with
  | [x0, x1, x2, x3], [y0, y1, y2, y3] =>
    let chosen := ((y1 ^^^ y2) &&& y0) ^^^ y2
    let voted := (x0 &&& (x1 ||| x2)) ||| (x1 &&& x2)
    let half := y3 + term + turns y0 [6, 11, 25] + chosen
    ⟨[half + turns x0 [2, 13, 22] + voted, x0, x1, x2], [x3 + half, y0, y1, y2]⟩
  | _, _ => s

/-- The message schedule grown by one word, newest first. -/
def scheduleMore (w : List (BitVec 32)) : List (BitVec 32) :=
  let early := w.getD 14 0
  let late := w.getD 1 0
  (w.getD 15 0 + (turns early [7, 18] ^^^ (early >>> 3)) + w.getD 6 0 + (turns late [17, 19] ^^^ (late >>> 10))) :: w

/-- The words that four bytes each spell, the first byte highest. -/
def bigEndianWords : Nat → List (BitVec 8) → List (BitVec 32)
  | 0, _ => []
  | n + 1, bs => BitVec.ofNat 32 (leNat (bs.take 4).reverse) :: bigEndianWords n (bs.drop 4)

/-- The hash value after one more block of 64 bytes. -/
def Sha.absorb (s : Sha) (block : List (BitVec 8)) : Sha :=
  let schedule := ((List.range 48).foldl (fun w _ => scheduleMore w) (bigEndianWords 16 block).reverse).reverse
  let r := (schedule.zipWith (· + ·) shaRoundConstants).foldl Sha.round s
  ⟨s.front.zipWith (· + ·) r.front, s.back.zipWith (· + ·) r.back⟩

/-- The message as SHA-256 pads it: a one bit, zeros, and its length in bits, to a multiple of 64 bytes. -/
def shaMessage (bs : List (BitVec 8)) : List (BitVec 8) :=
  let short := (bs.length + 9) % 64
  bs ++ 0x80 :: List.replicate (if short = 0 then 0 else 64 - short) 0 ++ (leBytes 8 (8 * bs.length)).reverse

/-- The SHA-256 digest of bytes, as 32 bytes. -/
def sha256 (bs : List (BitVec 8)) : List (BitVec 8) :=
  let m := shaMessage bs
  let s := (List.range (m.length / 64)).foldl (fun s i => s.absorb ((m.drop (64 * i)).take 64)) Sha.initial
  (s.front ++ s.back).flatMap fun w => (bvBytes 4 w).reverse

/-- A digest as one number of 256 bits, its first byte lowest. -/
def digestBits (bs : List (BitVec 8)) : BitVec 256 := BitVec.ofNat 256 (leNat bs)

end Sys2Proof.Machine
end

