-- ==== Sys2Proof/Machine/P256.lean ====
section
/-!
DEFINITION. ECDSA over the curve P-256 (R468, R469), as FIPS 186 defines it: what a boot ROM verifies.
-/
namespace Sys2Proof.Machine

/-- The prime of the field. -/
def p256P : Nat := 0xffffffff00000001000000000000000000000000ffffffffffffffffffffffff

/-- The order of the base point. -/
def p256N : Nat := 0xffffffff00000000ffffffffffffffffbce6faada7179e84f3b9cac2fc632551

/-- The coefficient b of the curve y² = x³ − 3x + b. -/
def p256B : Nat := 0x5ac635d8aa3a93e7b3ebbd55769886bc651d06b0cc53b0f63bce3c3e27d2604b

/-- x of the base point. -/
def p256Gx : Nat := 0x6b17d1f2e12c4247f8bce6e563a440f277037d812deb33a0f4a13945d898c296

/-- y of the base point. -/
def p256Gy : Nat := 0x4fe342e2fe1a7f9b8ee7eb4a7c0f9e162bce33576b315ececbb6406837bf51f5

/-- `a` to the power `e` modulo `m`, over the low `fuel` bits of `e`. -/
def powMod (m : Nat) : Nat → Nat → Nat → Nat
  | 0, _, _ => 1 % m
  | fuel + 1, a, e =>
    let r := powMod m fuel (a * a % m) (e / 2)
    if e % 2 = 1 then a * r % m else r

/-- The inverse modulo a prime. -/
def invMod (m a : Nat) : Nat := powMod m 256 a (m - 2)

/-- A point in Jacobian coordinates; z is 0 at infinity. -/
structure Point where
  /-- X -/
  x : Nat
  /-- Y -/
  y : Nat
  /-- Z -/
  z : Nat
  deriving DecidableEq, Repr

/-- The point at infinity. -/
def Point.inf : Point := ⟨1, 1, 0⟩

/-- Subtraction in the field. -/
def subP (a b : Nat) : Nat := (a + p256P - b % p256P) % p256P

/-- A point doubled. -/
def Point.double (q : Point) : Point :=
  if q.z = 0 ∨ q.y = 0 then Point.inf
  else
    let yy := q.y * q.y % p256P
    let s := 4 * q.x * yy % p256P
    let zz := q.z * q.z % p256P
    let m := 3 * (subP q.x zz * (q.x + zz)) % p256P
    let x := subP (m * m) (2 * s)
    ⟨x, subP (m * subP s x) (8 * yy * yy), 2 * q.y * q.z % p256P⟩

/-- The sum of two points. -/
def Point.add (a b : Point) : Point :=
  if a.z = 0 then b
  else if b.z = 0 then a
  else
    let za := a.z * a.z % p256P
    let zb := b.z * b.z % p256P
    let ua := a.x * zb % p256P
    let ub := b.x * za % p256P
    let sa := a.y * b.z * zb % p256P
    let sb := b.y * a.z * za % p256P
    if ua = ub then (if sa = sb then a.double else Point.inf)
    else
      let h := subP ub ua
      let r := subP sb sa
      let hh := h * h % p256P
      let v := ua * hh % p256P
      let x := subP (subP (r * r) (h * hh)) (2 * v)
      ⟨x, subP (r * subP v x) (sa * h * hh), h * a.z * b.z % p256P⟩

/-- A point times a number, over its low `fuel` bits. -/
def Point.mul : Nat → Nat → Point → Point
  | 0, _, _ => Point.inf
  | fuel + 1, k, q =>
    let r := Point.mul fuel (k / 2) q.double
    if k % 2 = 1 then q.add r else r

/-- x of a point that is not at infinity. -/
def Point.affineX (q : Point) : Nat :=
  let i := invMod p256P q.z
  q.x * (i * i % p256P) % p256P

/-- The coordinates name a point of the curve. -/
def onP256 (x y : Nat) : Bool :=
  decide (x < p256P) && decide (y < p256P) && decide (y * y % p256P = (x * x * x + (p256P - 3) * x + p256B) % p256P)

/-- The signature r, s over a digest verifies under the key x, y. The digest is read as FIPS 186 reads it, its first
byte most significant. -/
def ecdsaVerifies (x y r s : Nat) (digest : List (BitVec 8)) : Bool :=
  if !onP256 x y || decide (r = 0) || decide (p256N ≤ r) || decide (s = 0) || decide (p256N ≤ s) then false
  else
    let w := invMod p256N s
    let u := leNat digest.reverse * w % p256N
    let v := r * w % p256N
    let q := (Point.mul 256 u ⟨p256Gx, p256Gy, 1⟩).add (Point.mul 256 v ⟨x, y, 1⟩)
    decide (q.z ≠ 0) && decide (q.affineX % p256N = r)

end Sys2Proof.Machine
end

