-- ==== Sys2Proof/Config.lean ====
section
/-!
DEFINITION. The values the specification leaves open, as constants with no body: nothing can be proved
about what they are, so a claim that holds, holds for every value (assumption 4).
-/
namespace Sys2Proof.Config

/-- A value of `w` bits that the specification leaves open, fresh for each number: a command that needs
one applies it to `State.freeCount` and advances that counter. -/
opaque freeValue (w : Nat) : Nat → BitVec w

/-- The code lengths the device chooses when it codes a chunk by the nibble code or the byte code, from
the number of symbols and the symbols of the chunk (R219 states how a code is built from its lengths and
that they form a complete prefix code, not which lengths are chosen). -/
opaque codeLengths : Nat → List Nat → List Nat

/-- The DDR5 channel, modulo 12, on which a 4 KiB granule of tier 2 lies: the specification does not say how granules are
spread over the channels. -/
opaque granuleChannel : Nat → Nat

/-- The 64-byte lines of a pass's two tiles that the matrix unit reads in a cycle of the pass: from the lines of the A
tile, those of the B tile after them, the cycles of the pass and the cycle. The specification fixes the first and the
last cycle of the reads and at most 8 banks a cycle, not which line is read when (R47, R48). -/
opaque operandLines : Nat → Nat → Nat → Nat → List Nat

/-- The bytes of a cell's scale table: from the exponent and the low count of each of its 64 trackers, byte by byte. The
specification says what the table holds and how long it is, not how it is laid out (R104, R144). -/
opaque scaleTable : List (Int × Nat) → Nat → BitVec 8

/-- The expert whose segment the schedule places at an index of an edge stream: from the cylinder's identity, the stream and
the index. No part of the image holds it (R195). -/
opaque scheduledExpert : Nat → Nat → Nat → Nat

/-- The region whose experts an edge stream serves, among the regions of the cylinder: from the cylinder's identity and the
stream. No part of the image holds it (R187, R195). -/
opaque streamRegion : Nat → Nat → Nat

/-- Whether a context on another chip is the one, and of the layout, that an import names: from that chip, the context
identifier and the layout that the import names. The `OFFER` carries neither incarnation nor layout (R301, R330). -/
opaque importFits : BitVec 12 → BitVec 32 → BitVec 32 → Bool

/-- An amount by which a barrier counter rises in a step that the data or another chip decide: from the cylinder's identity,
the place of the raise, and the cell and counter. -/
opaque openRaises : Nat → Nat → Nat → Nat

/-- Whether an access whose address the data decide, or a steered landing, has written a byte of a cell's SRAM before the
program reads it: from the cylinder's identity, the cell and the byte. -/
opaque openWrites : Nat → Nat → Nat → Bool

/-- Whether a steered landing whose destination the data decide falls after the step's last beat: from the cylinder's
identity and the place of its token. -/
opaque openLate : Nat → Nat → Bool

/-- Whether a steered flit whose destination the data decide goes to a cell: from the cylinder's identity, the place of its
token and the cell. -/
opaque openEarly : Nat → Nat → Nat → Bool

/-- A byte of the boot ROM of the management cores, by its address (R427). The specification says what the ROM does at boot
(R467 to R469), not what it holds. -/
opaque bootRom : Nat → BitVec 8

end Sys2Proof.Config
end

