-- ==== Sys2Proof/Machine/State.lean ====
section
/-!
DEFINITION. The state of the device: every piece of state the specification names, as plain data, each
field with the rule that names it; the machine right after reset (`State.reset`); and the two closed
types of stops, `Fault` and `Refusal`.

A field marked DESIGN CHOICE has no reset value in the specification (assumption 1); a field marked
"the model's own" is bookkeeping of the model (assumption 2).
-/
namespace Sys2Proof.Machine

/-- The cadence states (R35). -/
inductive CadState where
  | unarmed | acquiring | locked | slewing | holdover | leader | follower
  deriving DecidableEq, Repr

/-- Why the cells play no beat of the step in progress (R69, R156, R346, R347, R445). -/
inductive NoPlay where
  | none | skipped | repair | fill | peerLost | withdrawn
  deriving DecidableEq, Repr

/-- The states of a known cylinder (R151). -/
inductive CylStatus where
  | loaded | verified | active
  deriving DecidableEq, Repr

/-- The states of a directory entry (R204). -/
inductive PageState where
  | free | home | moving | inbound | pending | sending | shadow | lost | reserved
  deriving DecidableEq, Repr

/-- How far one side of a move between chips has come (R209): the source has sent OFFER, is
SENDING, has freed the page and repeats COMMIT, or repeats ABORT; the destination is receiving, or
has sent READY. -/
inductive RemotePhase where
  | offered | sending | committed | aborting | receiving | readySent
  deriving DecidableEq, Repr

/-- What a page action is for (R206). A model is named by its identifier and version, a context by
its number. -/
inductive JobPurpose where
  | none
  | move
  | activate (model : Nat) (version : Nat)
  | rest (model : Nat) (version : Nat)
  | park (ctx : Nat)
  | toTier3 (ctx : Nat)
  | resume (ctx : Nat)
  | export_ (ctx : Nat)
  | import_ (ctx : Nat)
  deriving DecidableEq, Repr

/-- The states of a held model version (R237). -/
inductive ModelState where
  | pendingRoom | loading | incomplete | resting | placing | active | retiring
  deriving DecidableEq, Repr

/-- The state of one shard of a model version (R249 to R251). -/
inductive ShardState where
  | outstanding | inFlight | ingested | failed | missing
  deriving DecidableEq, Repr

/-- The states of a context (R271). -/
inductive CtxState where
  | free | idle | waiting | running | moving | parked | expired | lost
  deriving DecidableEq, Repr

/-- The states of a function (R389). -/
inductive FuncState where
  | off | starting | on | stopping | wedged
  deriving DecidableEq, Repr

/-- How far a live command has come: its acceptance record is written, it waits for the work it
started, or it is to be taken at a boundary (R17, R377). -/
inductive LivePhase where
  | accepted | working | boundary
  deriving DecidableEq, Repr

/-- The states of a fabric port (R331). -/
inductive PortState where
  | down | training | aligning | ident | up | retraining | failed | miswired
  deriving DecidableEq, Repr

/-- What waits for the response to a remote access (R275, R329, R424). -/
inductive ReqOwner where
  | none
  | history (ctx : Nat) (handle : BitVec 32)
  | dmaRead (channel : Nat)
  | dmaWrite (channel : Nat) (offset : Nat)
  | core (core : Nat)
  | pageList (handle : BitVec 32)
  deriving DecidableEq, Repr

/-- A field that the device stores three times and votes (R404). -/
structure Voted (w : Nat) where
  /-- first copy -/
  a : BitVec w
  /-- second copy -/
  b : BitVec w
  /-- third copy -/
  c : BitVec w
  deriving DecidableEq, Repr

/-- The three copies hold one value: what a write leaves (R404). -/
def Voted.all {w : Nat} (v : BitVec w) : Voted w := ⟨v, v, v⟩

/-- The three copies of the fence map: 48 entries of 6 bits, west rows 0 to 23, then east
(R63, R404). -/
structure VotedMap where
  /-- first copy -/
  a : List (BitVec 6)
  /-- second copy -/
  b : List (BitVec 6)
  /-- third copy -/
  c : List (BitVec 6)
  deriving DecidableEq, Repr

/-- No cell is fenced: every entry is 0x3F (R63). -/
def VotedMap.reset : VotedMap :=
  ⟨List.replicate 48 0x3F, List.replicate 48 0x3F, List.replicate 48 0x3F⟩

/-- Where a tier-1 piece comes from: a byte address of tier 1, or 128 bytes given at the request (zeros of a
page that reads as zeros, or the null adapter image) (R223, R261). -/
inductive T1Src where
  | addr (a : Nat)
  | data (d : BitVec 1024)
  deriving DecidableEq, Repr


/-- A skip binding of the cell sequencer (R136, R140, R141). -/
structure SkipBinding where
  /-- R140: valid-length register index. -/
  vl : BitVec 4
  /-- R136: origin in units of 16 positions. -/
  origin : BitVec 12
  /-- R136: stride in units of 16 positions. -/
  stride : BitVec 4
  deriving DecidableEq, Repr

/-- `SkipBinding` right after reset. -/
def SkipBinding.reset : SkipBinding :=
  { vl := 0,
    origin := 0,
    stride := 0 }

/-- One scale tracker of a cell (R101 to R104). -/
structure Tracker where
  /-- R101: target format code of R76; 0 when the tracker is not declared. -/
  fmt : BitVec 8
  /-- R101: exponent of the tile scale. -/
  e : Int
  /-- R102: low count. -/
  low : Nat
  /-- R101: hold count H; 0 when not declared. -/
  hold : Nat
  /-- R103: locked by declaration. -/
  locked : Bool
  /-- R101: running maximum of the step, FP32. -/
  amax : BitVec 32
  /-- R106: running maximum of the last committed step. -/
  amaxLast : BitVec 32
  /-- R106: ARITH_TRK_MISS. -/
  misses : BitVec 16
  deriving DecidableEq, Repr

/-- `Tracker` right after reset. -/
def Tracker.reset : Tracker :=
  { fmt := 0,
    e := 0,
    low := 0,
    hold := 0,
    locked := false,
    amax := 0,
    amaxLast := 0,
    misses := 0 }

/-- A 48-bit string token (R56) on its way to a cell. -/
structure StrToken where
  /-- R56: cycle of arrival. DESIGN CHOICE (1). -/
  arrive : Nat
  /-- R56: destination logical cell. DESIGN CHOICE (1). -/
  cell : Nat
  /-- R41: false lane 0, true lane 1. DESIGN CHOICE (1). -/
  lane : Bool
  /-- R56: kind. -/
  kind : BitVec 4
  /-- R56: register or counter index. -/
  target : BitVec 4
  /-- R56: pairing tag. -/
  tag : BitVec 8
  /-- R56: value. -/
  value : BitVec 32
  /-- R57: the route crosses the die bridge. DESIGN CHOICE (1). -/
  bridge : Bool
  /-- R57: source row (bridge link). DESIGN CHOICE (1). -/
  row : Nat
  deriving DecidableEq, Repr

/-- `StrToken` right after reset. -/
def StrToken.reset : StrToken :=
  { arrive := 0,
    cell := 0,
    lane := false,
    kind := 0,
    target := 0,
    tag := 0,
    value := 0,
    bridge := false,
    row := 0 }

/-- A mesh flit on its way to a landing port (R52 to R54), or an empty flit (R173). -/
structure Flit where
  /-- R54: cycle of arrival. DESIGN CHOICE (1). -/
  arrive : Nat
  /-- R55: cycle of its reserved write slot. DESIGN CHOICE (1). -/
  slot : Nat
  /-- R54: destination logical cell; 1,536 + s for edge stream s. DESIGN CHOICE (1). -/
  cell : Nat
  /-- R139: SRAM byte address at the destination. DESIGN CHOICE (1). -/
  addr : Nat
  /-- R53: the 128 bytes. -/
  data : BitVec 1024
  /-- R139: landing counter. -/
  counter : BitVec 4
  /-- R53: the landing raises the counter (last flit of a tile, or a steered landing with signal). -/
  signal : Bool
  /-- R173: empty flit of a suppressed SEND. -/
  empty : Bool
  /-- R57: source row (bridge link). DESIGN CHOICE (1). -/
  row : Nat
  /-- R54: the route crosses the die bridge. DESIGN CHOICE (1). -/
  bridge : Bool
  /-- R50: the data was read poisoned. DESIGN CHOICE (1). -/
  poison : Bool
  /-- R191: a zero-length header: nothing is written. DESIGN CHOICE (1). -/
  header : Bool
  deriving DecidableEq, Repr

/-- `Flit` right after reset. -/
def Flit.reset : Flit :=
  { arrive := 0,
    slot := 0,
    cell := 0,
    addr := 0,
    data := 0,
    counter := 0,
    signal := false,
    empty := false,
    row := 0,
    bridge := false,
    poison := false,
    header := false }

/-- A tier-1 piece requested by READ_T1 or GATHER and not yet returned (R178, R198). -/
structure T1Piece where
  /-- R178: destination logical cell. DESIGN CHOICE (1). -/
  cell : Nat
  /-- R198: latest cycle under the 630-cycle bound. DESIGN CHOICE (1). -/
  due : Nat
  /-- R223: where its 128 bytes come from. DESIGN CHOICE (1). -/
  src : T1Src
  /-- R176: SRAM byte address. DESIGN CHOICE (1). -/
  dst : Nat
  /-- R178: the piece begins a tile. -/
  head : Bool
  /-- R53: the piece belongs to a READ_T1, whose pieces form tiles one after another. DESIGN CHOICE (1). -/
  tile : Bool
  /-- R141: last piece of its issue. DESIGN CHOICE (1). -/
  last : Bool
  /-- R141: counter signalled when the last piece is written. DESIGN CHOICE (1). -/
  signal : Option (BitVec 4)
  /-- R50: the SRAM read that gave its index was poisoned. DESIGN CHOICE (1). -/
  bad : Bool
  deriving DecidableEq, Repr

/-- `T1Piece` right after reset. -/
def T1Piece.reset : T1Piece :=
  { cell := 0,
    due := 0,
    src := .data 0,
    dst := 0,
    head := false,
    tile := false,
    last := false,
    signal := none,
    bad := false }

/-- A WRITE_T1 issue not yet acknowledged (R198). -/
structure T1Write where
  /-- R141: issuing logical cell. DESIGN CHOICE (1). -/
  cell : Nat
  /-- R198: latest acknowledgement cycle. DESIGN CHOICE (1). -/
  due : Nat
  /-- R141: counter signalled at the acknowledgement. DESIGN CHOICE (1). -/
  signal : Option (BitVec 4)
  deriving DecidableEq, Repr

/-- `T1Write` right after reset. -/
def T1Write.reset : T1Write :=
  { cell := 0,
    due := 0,
    signal := none }

/-- A data flit held by a steering unit (R58). -/
structure HeldFlit where
  /-- R58: steering stream. -/
  stream : BitVec 4
  /-- R147: tag the stream declares. -/
  tag : BitVec 8
  /-- R58: the 128 bytes. -/
  data : BitVec 1024
  /-- R50: the data was read poisoned. -/
  poison : Bool
  /-- R58: last cycle of its pairing window. -/
  expiry : Nat
  deriving DecidableEq, Repr

/-- `HeldFlit` right after reset. -/
def HeldFlit.reset : HeldFlit :=
  { stream := 0,
    tag := 0,
    data := 0,
    poison := false,
    expiry := 0 }

/-- A control token held by a steering unit (R58). -/
structure HeldToken where
  /-- R58: pairing tag. -/
  tag : BitVec 8
  /-- R188: steering destination. -/
  value : BitVec 32
  /-- R58: last cycle of its pairing window. -/
  expiry : Nat
  deriving DecidableEq, Repr

/-- `HeldToken` right after reset. -/
def HeldToken.reset : HeldToken :=
  { tag := 0,
    value := 0,
    expiry := 0 }

/-- A tile being landed from tier 1, tier 2 or the fabric (R168, R178). -/
structure OpenTile where
  /-- R178: the 64 header bytes. -/
  header : List (BitVec 8)
  /-- R178: payload bytes written so far. -/
  body : List (BitVec 8)
  /-- R178: payload_bytes of the header. -/
  need : Nat
  /-- R50: some byte was read poisoned. -/
  bad : Bool
  /-- R62: SRAM ranges (address, bytes) written for the tile. DESIGN CHOICE (1). -/
  spans : List (Nat × Nat)
  deriving DecidableEq, Repr

/-- `OpenTile` right after reset. -/
def OpenTile.reset : OpenTile :=
  { header := [],
    body := [],
    need := 0,
    bad := false,
    spans := [] }

/-- An open VSTH tile stream (R128). -/
structure TileStream where
  /-- R128: header address H. -/
  base : Nat
  /-- R128: next payload address. -/
  next : Nat
  /-- R128: running CRC-32C register. -/
  crc : BitVec 32
  deriving DecidableEq, Repr

/-- `TileStream` right after reset. -/
def TileStream.reset : TileStream :=
  { base := 0,
    next := 0,
    crc := 0xFFFFFFFF }

/-- A tile as the matrix unit reads it (R165). -/
structure TileRead where
  /-- R165: the 64 header bytes. -/
  header : List (BitVec 8)
  /-- R165: the payload, as long as its size for the shape, role and format. -/
  payload : List (BitVec 8)
  /-- R50: some word read was poisoned. -/
  poison : Bool
  deriving DecidableEq, Repr

/-- A pass of the matrix unit on its way (R47, R62): its operands as read in its first cycle. -/
structure PassRec where
  /-- R161: shape. -/
  shape : Shape
  /-- R138: it adds to the bank. -/
  add : Bool
  /-- R138: accumulator bank. -/
  bank : Bool
  /-- R138: address of the A tile. -/
  addrA : Nat
  /-- R138: address of the B tile. -/
  addrB : Nat
  /-- R165: the A tile. -/
  tileA : TileRead
  /-- R165: the B tile. -/
  tileB : TileRead
  /-- R62: it is the first pass that reads the A tile. -/
  firstA : Bool
  /-- R62: it is the first pass that reads the B tile. -/
  firstB : Bool
  /-- the first of the numbers of its free values (assumption 4) -/
  free : Nat
  deriving DecidableEq, Repr

/-- A result of a cell's issue that becomes visible at a later cycle (R47, R110, R141). `bad` says of a read that it
meets a double-bit error (R50). -/
inductive Landing where
  /-- a vector register, in the lanes of the mask, made from poisoned data or not (R50) -/
  | vreg (r : BitVec 5) (lanes : BitVec 64) (value : BitVec 2048) (poison : Bool)
  /-- a mask register, in the lanes of the second mask -/
  | mask (m : BitVec 3) (lanes : BitVec 64) (value : BitVec 64)
  /-- a scalar register -/
  | scalar (r : BitVec 4) (value : BitVec 32)
  /-- bytes of the cell's SRAM, poisoned or not, with the rank of the client that writes them (R49) -/
  | sram (addr : Nat) (bytes : List (BitVec 8)) (poison : Bool) (rank : Nat)
  /-- a signal of a barrier counter -/
  | raise (ctr : BitVec 4)
  /-- a barrier counter raised by a number (R60) -/
  | raiseBy (ctr : BitVec 4) (n : BitVec 16)
  /-- a valid-length register -/
  | vlen (r : BitVec 4) (value : BitVec 16)
  /-- sticky lane flags, 5 bits a lane (R130) -/
  | flags (f : BitVec 320)
  /-- the clearing of every lane flag by `MFLG` (R122) -/
  | clearFlags
  /-- a read of 128 bytes by `COPY` and their write four cycles later (R52) -/
  | copy (src dst : Nat) (bad : Bool)
  /-- a read of 128 bytes by `SEND` and their injection in the next cycle (R180) -/
  | inject (src : Nat) (flit : Flit) (bad : Bool)
  /-- a read of 128 bytes by `WRITE_T1` and their write to a tier-1 address, dropped where none (R223) -/
  | toT1 (src : Nat) (dst : Option Nat) (bad : Bool)
  /-- a read of 128 bytes by `STEER`, taken by the steering unit two cycles later (R52) -/
  | feed (src : Nat) (stream : BitVec 4) (bad : Bool)
  /-- a read of an index block by `GATHER`: the block's address, the data base, the destination of its
  first piece, the number of its pieces, whether it is the last block, and the counter signalled (R176) -/
  | indexBlock (src : Nat) (base : BitVec 32) (dst : Nat) (count : Nat) (last : Bool)
      (signal : Option (BitVec 4)) (bad : Bool)
  /-- one piece of a `GATHER`: its entry, the data base, its destination, whether it is the last, and the
  counter signalled (R176 to R179) -/
  | piece (entry : BitVec 32) (base : BitVec 32) (dst : Nat) (last : Bool) (signal : Option (BitVec 4)) (bad : Bool)
  /-- the last operand read of a pass (R47) -/
  | operands (pass : PassRec)
  /-- the check of a pass's tiles, which found a failure or none (R62, R167) -/
  | passCheck (failed : Bool)
  /-- the results of a pass reach its accumulator bank: known or free, poisoned or not (R47, R62) -/
  | results (pass : PassRec) (known poison : Bool)
  /-- the check of a landed tile that failed: the ranges written (R62, R168) -/
  | landFailed (spans : List (Nat × Nat))
  deriving DecidableEq, Repr


/-- One physical cell (R41): sequencer, slot memory, matrix unit, vector engine, data mover, steering unit, barrier counters,
SRAM, trackers and its registers. -/
structure Cell where
  /-- R41: slot-memory bank 0, 4,096 words of 128 bits; unlisted words are 0. DESIGN CHOICE (1). -/
  bankA : SMap (BitVec 128)
  /-- R41: slot-memory bank 1. DESIGN CHOICE (1). -/
  bankB : SMap (BitVec 128)
  /-- R142: index of the word being played. -/
  word : Nat
  /-- R42: latest beat seen in the step. -/
  beat : Nat
  /-- R136: loop stack, top first: (word of the ENDLOOP, remaining count), at most 4 entries. -/
  loop : List (Nat × Nat)
  /-- R136: skip bindings 1 to 7. -/
  skips : SMap SkipBinding
  /-- R141: skip bindings named in the beat in progress, whose origins advance after it. -/
  named : BitVec 8
  /-- R140: guard field given by VGUARD for the vector issue of a beat. -/
  vguard : Option (Nat × BitVec 15)
  /-- R170: VL0 to VL15, 16 bits each, 0 at beat 0. -/
  vl : SMap (BitVec 16)
  /-- R60: barrier counters 0 to 15, 0 at beat 0. -/
  counters : SMap (BitVec 16)
  /-- R136: barrier claims 0 to 15, 0 at beat 0. -/
  claims : SMap (BitVec 16)
  /-- R136: MA0 to MA7 in 64-byte units. -/
  ma : SMap (BitVec 14)
  /-- R136: strides of MA0 to MA7. -/
  ms : SMap (BitVec 14)
  /-- R41: accumulator bank 0, entry m*N+n, 64 KiB of FP32. DESIGN CHOICE (1). -/
  acc0 : SMap (BitVec 32)
  /-- R41: accumulator bank 1. DESIGN CHOICE (1). -/
  acc1 : SMap (BitVec 32)
  /-- R100: the four flags of each accumulator bank. DESIGN CHOICE (1). -/
  accFlags : SMap (BitVec 5)
  /-- R62: results of the bank are poisoned. DESIGN CHOICE (1). -/
  accPoison : SMap Bool
  /-- R164: results M × N of the latest pass into each accumulator bank. DESIGN CHOICE (1). -/
  accSize : SMap Nat
  /-- R136: DA0 to DA7. -/
  da : SMap (BitVec 32)
  /-- R136: strides of DA0 to DA7. -/
  ds : SMap (BitVec 16)
  /-- R136: selected steering stream. -/
  steerSel : BitVec 4
  /-- R58: held data flits, at most 16. -/
  heldFlits : List HeldFlit
  /-- R58: held control tokens, at most 16. -/
  heldTokens : List HeldToken
  /-- R189: destination cell fixed by the first non-null token of each steering stream. -/
  steerDest : SMap Nat
  /-- R107: V0 to V31, 64 lanes of 32 bits, 0 at beat 0. -/
  v : SMap (BitVec 2048)
  /-- R107: M1 to M7, 0 at beat 0 (M0 reads all ones). -/
  m : SMap (BitVec 64)
  /-- R107: S1 to S15, 0 at beat 0 (S0 reads 0). -/
  sc : SMap (BitVec 32)
  /-- R107: sticky flags, 5 bits per lane. -/
  laneFlags : BitVec 320
  /-- R50: vector registers made from poisoned data. -/
  vpoison : BitVec 32
  /-- R128: open tile stream. -/
  stream : Option TileStream
  /-- R110: results on their way: (first cycle at which an issue sees it, effect), oldest first. DESIGN CHOICE (1). -/
  landings : List (Nat × Landing)
  /-- R48: 655,360 bytes; an unlisted byte reads 0. DESIGN CHOICE (1). -/
  sram : Mem
  /-- R50: 8-byte SRAM words that hold a double-bit error or a poisoned landing. DESIGN CHOICE (1). -/
  poisoned : List Nat
  /-- R52: flits on their way from STEER issues to the steering unit: (cycle, stream, data, poisoned). DESIGN CHOICE (1). -/
  steerIn : List (Nat × BitVec 4 × BitVec 1024 × Bool)
  /-- R49: SRAM bank accesses of present and later cycles: (cycle, bank, rank of the client). DESIGN CHOICE (1). -/
  banks : List (Nat × Nat × Nat)
  /-- R142: index of the word to be played next. DESIGN CHOICE (1). -/
  loopNext : Nat
  /-- R178: tile being landed. DESIGN CHOICE (1). -/
  openTile : Option OpenTile
  /-- R101: scale trackers 0 to 63 (with e and the low count, the cell's scale table). -/
  trackers : SMap Tracker
  /-- R75: CELL_FLAGS. -/
  flags : BitVec 5
  /-- R100: flags of the cell in the step. -/
  stepFlags : BitVec 5
  /-- R65: boundary count at which the cell was last charged (CELL_VOID_AGE reads 0xFFFF when none). -/
  lastCharge : Option Nat
  /-- R75: CELL_ECC.sram. -/
  eccSram : BitVec 16
  /-- R75: CELL_ECC.slot. -/
  eccSlot : BitVec 16
  /-- R75: CELL_FAULTS.checksum. -/
  fltChecksum : BitVec 8
  /-- R75: CELL_FAULTS.steering. -/
  fltSteering : BitVec 8
  /-- R75: CELL_FAULTS.barrier. -/
  fltBarrier : BitVec 8
  /-- R75: CELL_FAULTS.charges. -/
  fltCharges : BitVec 8
  /-- R62: tiles that a pass has read in the step: address, header code of the shape, whether as B tile, bytes. DESIGN CHOICE
  (1). -/
  checked : List (Nat × Nat × Bool × Nat)
  /-- R64: counters to which a unit of the cell gave no signal in the step, since its issue was suppressed by a failed check
  or a slot-memory error. DESIGN CHOICE (1). -/
  ownMissed : BitVec 16
  deriving DecidableEq, Repr

/-- `Cell` right after reset. -/
def Cell.reset : Cell :=
  { bankA := [],
    bankB := [],
    word := 0,
    beat := 0,
    loop := [],
    skips := [],
    named := 0,
    vguard := none,
    vl := [],
    counters := [],
    claims := [],
    ma := [],
    ms := [],
    acc0 := [],
    acc1 := [],
    accFlags := [],
    accPoison := [],
    accSize := [],
    da := [],
    ds := [],
    steerSel := 0,
    heldFlits := [],
    heldTokens := [],
    steerDest := [],
    v := [],
    m := [],
    sc := [],
    laneFlags := 0,
    vpoison := 0,
    stream := none,
    landings := [],
    sram := [],
    poisoned := [],
    steerIn := [],
    banks := [],
    loopNext := 1,
    openTile := none,
    trackers := [],
    flags := 0,
    stepFlags := 0,
    lastCharge := none,
    eccSram := 0,
    eccSlot := 0,
    fltChecksum := 0,
    fltSteering := 0,
    fltBarrier := 0,
    fltCharges := 0,
    checked := [],
    ownMissed := 0 }

/-- An association window that has closed (R26, R34). -/
structure ClosedWindow where
  /-- R26: tick at which it closed. -/
  stop : Nat
  /-- R34: the step that its boundary began. -/
  step : BitVec 64
  /-- R26: it had its marker of the selected source. -/
  marked : Bool
  /-- R33: it had its marker from leader frames. -/
  led : Bool
  deriving DecidableEq, Repr

/-- The cadence unit (R23 to R40). -/
structure Cadence where
  /-- R23: timebase (CAD_TB). -/
  tb : BitVec 64
  /-- R35: cadence state (CAD_STATE.state). -/
  state : CadState
  /-- R39: number of the step in progress (CAD_STEP). -/
  step : BitVec 64
  /-- R25: tick B_k of the latest boundary. -/
  bk : Nat
  /-- R25: tick of the next boundary as placed so far (B_k + P, or E once the window has closed); 0 when none. -/
  next : Nat
  /-- R37: B_0 is fixed (in ACQUIRING, or armed). -/
  b0Fixed : Bool
  /-- R37: the boundary at B_0 has run. -/
  begun : Bool
  /-- R37: tick B_0 of the latest arming. -/
  b0 : Nat
  /-- R39, R5: CAD_PERIOD, three copies. -/
  period : Voted 27
  /-- R39, R404: CAD_WINDOW, three copies. -/
  window : Voted 9
  /-- R40: CAD_SOURCE.source: false pin, true rack frames. -/
  source : Bool
  /-- R40: CAD_SOURCE.input_enable. -/
  inputEnable : Bool
  /-- R40: CAD_SOURCE.leader_enable. -/
  leaderEnable : Bool
  /-- R40: CAD_STATE.misses, consecutive windows with no marker. -/
  misses : Nat
  /-- R40: CAD_STATE.holdover_steps. -/
  holdSteps : BitVec 8
  /-- R40: CAD_STATE.return_run. -/
  returnRun : Nat
  /-- R39: CAD_OFFSET. -/
  offset : BitVec 32
  /-- R39: CAD_REJECTS. -/
  rejects : BitVec 32
  /-- R39: CAD_MISSES. -/
  missCount : BitVec 32
  /-- R39: CAD_OVERRUNS. -/
  overruns : BitVec 32
  /-- R40: CAD_EVENTS. -/
  events : BitVec 32
  /-- R39: chosen chip or leader (CAD_LEADER[11:0]). -/
  leader : Option (BitVec 12)
  /-- R39: CAD_PIN_DELAY. -/
  pinDelay : BitVec 8
  /-- R39: CAD_ARM. -/
  armTick : BitVec 64
  /-- R39: CAD_TB_LOAD. -/
  tbLoad : BitVec 64
  /-- R26: an association window is open. -/
  winOpen : Bool
  /-- R26: tick of the boundary whose association window is open. DESIGN CHOICE (1). -/
  winBase : Nat
  /-- R26: tick at which the open window closes, B_k + P/2. -/
  winEnd : Nat
  /-- R26: d of the marker accepted in the open window. -/
  marker : Option Int
  /-- R33: d of the leader frame accepted in the open window. -/
  leaderMarker : Option Int
  /-- R27: the last correction used rule 2. -/
  slewed : Bool
  /-- R26: the uptime (`State.elapsed`) of the previous accepted marker of the pin. -/
  lastAccept : Option Nat
  /-- R31: uptimes of the 64 most recent rejected markers, newest first. -/
  rejectTicks : List Nat
  /-- R26, R33: sender and uptime of the previous accepted leader frame. -/
  lastLeaderAccept : Option (BitVec 12 × Nat)
  /-- R34: (kind, sequence) of the frames used, newest first. -/
  framesSeen : List (Nat × Nat)
  /-- R37: pending ARM. -/
  armHandle : Option (BitVec 32)
  /-- R37: pending LOAD_TIMEBASE. -/
  loadHandle : Option (BitVec 32)
  /-- R31: enter HOLDOVER at the next boundary. -/
  forceHoldover : Bool
  /-- R33: windows closed since the election with no leader frame accepted. -/
  electWindows : Nat
  /-- R33: enter FOLLOWER of this chip at the next boundary. -/
  followTo : Option (BitVec 12)
  /-- R25: the period that held at the latest boundary, which places the next. -/
  heldPeriod : Nat
  /-- R15: cadence commands that took effect at a boundary that did not commit, with that boundary's tick: they complete in
  phase 2 of the next committing one. -/
  dones : List (BitVec 32 × BitVec 32)
  /-- R26: uptime of the previous accepted rack frame. -/
  lastRack : Option Nat
  /-- R26, R34: the windows of this arming that have closed, newest first. -/
  closedWindows : List ClosedWindow
  /-- R26: the instant at which the window of boundary 0 opened. DESIGN CHOICE (1). -/
  opened : Nat
  /-- R37: how far `LOAD_TIMEBASE` has moved the timebase since reset: the uptime is the timebase less this. DESIGN CHOICE
  (54). -/
  tbShift : Int
  deriving DecidableEq, Repr

/-- `Cadence` right after reset. -/
def Cadence.reset : Cadence :=
  { tb := 0,
    state := .unarmed,
    step := 0,
    bk := 0,
    next := 0,
    b0Fixed := false,
    begun := false,
    b0 := 0,
    period := Voted.all 0x1000,
    window := Voted.all 0x100,
    source := false,
    inputEnable := true,
    leaderEnable := true,
    misses := 0,
    holdSteps := 0,
    returnRun := 0,
    offset := 0x80000000,
    rejects := 0,
    missCount := 0,
    overruns := 0,
    events := 0,
    leader := none,
    pinDelay := 0,
    armTick := 0,
    tbLoad := 0,
    winOpen := false,
    winBase := 0,
    winEnd := 0,
    marker := none,
    leaderMarker := none,
    slewed := false,
    lastAccept := none,
    rejectTicks := [],
    lastLeaderAccept := none,
    framesSeen := [],
    armHandle := none,
    loadHandle := none,
    forceHoldover := false,
    electWindows := 0,
    followTo := none,
    heldPeriod := 0x1000,
    dones := [],
    lastRack := none,
    closedWindows := [],
    opened := 0,
    tbShift := 0 }

/-- A verdict frame received from a peer (R327). -/
structure VerdictRec where
  /-- R327: sender. -/
  chip : BitVec 12
  /-- R312: replay index. -/
  replay : BitVec 16
  /-- R327: body. -/
  body : VerdictBody
  deriving DecidableEq, Repr

/-- `VerdictRec` right after reset. -/
def VerdictRec.reset : VerdictRec :=
  { chip := 0,
    replay := 0,
    body := ⟨false, 0, false, false, false, 0, 0, [], []⟩ }

/-- The step in progress (R11 to R22). -/
structure Step where
  /-- R20: replay index. -/
  replay : Nat
  /-- R69: the cells play the step in progress. -/
  playing : Bool
  /-- R20: a step is in progress (a boundary has begun one). -/
  running : Bool
  /-- R69: why the cells play no beat. -/
  noPlay : NoPlay
  /-- R14: the last beat has ended. -/
  lastBeat : Bool
  /-- R21: void_cause bits recorded so far in the step. -/
  cause : BitVec 8
  /-- R14: the local verdict will be VOID. -/
  void : Bool
  /-- R21: tile checksum failures in the step. -/
  checksums : Nat
  /-- R21: steering mismatches in the step. -/
  steering : Nat
  /-- R64: physical cells charged in the step. -/
  charged : List Nat
  /-- R344: rows with a bridge CRC failure in the step. -/
  bridgeRows : List Nat
  /-- R21: health events since the last report written. -/
  health : Nat
  /-- R21: stretched cycles of the step. -/
  stretched : Nat
  /-- R452: trouble on the west (bit 0) and east (bit 1) die in the step. -/
  trouble : BitVec 2
  /-- R14: the verdict frame of the step has been queued. -/
  verdictSent : Bool
  /-- R14: verdict frames received for the step in progress. -/
  verdicts : List VerdictRec
  /-- R21: operating point in force during the step. -/
  opAtStep : BitVec 3
  /-- R21: transition in progress when the step began. -/
  transAtStep : Bool
  /-- R443: hottest reading of the span, 1/16 °C. -/
  junction : Int
  /-- R21: live_planes of the step. -/
  live : BitVec 16
  /-- R21: reports dropped since the last report written. -/
  reportsLost : BitVec 32
  /-- R328: number of the last committed step. -/
  committed : Option (BitVec 64)
  /-- R65: boundaries run since reset. DESIGN CHOICE (1). -/
  boundaries : Nat
  /-- R274: serving decisions the serving chip announced for the closing step. -/
  serial : Option (List SlotEntry × List (BitVec 32 × BitVec 16))
  /-- R17, R274: on the serving chip of a larger partition, the order of the first command accepted after the verdict frame.
  DESIGN CHOICE (1). -/
  cut : Option Nat
  /-- R21: token records written in phase 2. -/
  tokens : Nat
  /-- R21: contexts joined in phase 9. -/
  joinsN : Nat
  /-- R21: contexts that left in phase 7. -/
  leavesN : Nat
  /-- R21: contexts moved to the fallback region in phase 8. -/
  placedN : Nat
  /-- R18: completion records made due in phase 2: handle, status, detail and the two parts of its place in the order. DESIGN
  CHOICE (1). -/
  dues : List (BitVec 32 × BitVec 16 × BitVec 32 × Nat × Nat)
  /-- R285: leaves under the ring-room rule decided for the boundary. DESIGN CHOICE (1). -/
  ringWaits : Nat
  /-- R283: joins deferred for pages decided for the boundary. DESIGN CHOICE (1). -/
  pageWaits : Nat
  /-- R289: contexts whose predicted miss was left unremedied. DESIGN CHOICE (1). -/
  missed : List Nat
  /-- R51: carried bytes written in the step, newest first: logical cell, address, bytes before, whether poisoned before.
  DESIGN CHOICE (1). -/
  undo : List (Nat × Nat × List (BitVec 8) × Bool)
  /-- R304: APPENDs refused NO_SPACE for the boundary at hand. DESIGN CHOICE (1). -/
  barred : List (BitVec 32)
  deriving DecidableEq, Repr

/-- `Step` right after reset. -/
def Step.reset : Step :=
  { replay := 0,
    playing := false,
    running := false,
    noPlay := .none,
    lastBeat := false,
    cause := 0,
    void := false,
    checksums := 0,
    steering := 0,
    charged := [],
    bridgeRows := [],
    health := 0,
    stretched := 0,
    trouble := 0,
    verdictSent := false,
    verdicts := [],
    opAtStep := 0,
    transAtStep := false,
    junction := 0,
    live := 0,
    reportsLost := 0,
    committed := none,
    boundaries := 0,
    serial := none,
    cut := none,
    tokens := 0,
    joinsN := 0,
    leavesN := 0,
    placedN := 0,
    dues := [],
    ringWaits := 0,
    pageWaits := 0,
    missed := [],
    undo := [],
    barred := [] }

/-- A repair or unfence (R68, R70) that is due or running. -/
structure RepairRec where
  /-- R68: row. -/
  row : Nat
  /-- R68: false west, true east. -/
  die : Bool
  /-- R66: entry before phase 4. -/
  oldEntry : BitVec 6
  /-- R66: entry after phase 4. -/
  newEntry : BitVec 6
  /-- R358: command that completes when the repair has completed. -/
  handle : Option (BitVec 32)
  /-- R68: REPAIR_START has happened. -/
  running : Bool
  /-- R75: boundaries passed since it started. -/
  spans : Nat
  deriving DecidableEq, Repr

/-- `RepairRec` right after reset. -/
def RepairRec.reset : RepairRec :=
  { row := 0,
    die := false,
    oldEntry := 0x3F,
    newEntry := 0x3F,
    handle := none,
    running := false,
    spans := 0 }

/-- The grid control block (R63 to R75). -/
structure Grid where
  /-- R75: GRID_CTRL.fence_override. -/
  override : Bool
  /-- R75: GRID_STATUS.repair_active. -/
  repairActive : Bool
  /-- R75: GRID_STATUS.row_exhausted. -/
  rowExhausted : Bool
  /-- R74, R404: fence map: 48 entries of 6 bits (west rows 0 to 23, then east), three copies; 0x3F is no fence. -/
  fence : VotedMap
  /-- R75: GRID_PEND entries. -/
  pend : List (BitVec 6)
  /-- R74: GRID_VOTE_FIX. -/
  voteFix : BitVec 32
  /-- R74: GRID_REPAIR_CYC. -/
  repairCyc : BitVec 32
  /-- R75: GRID_EVENTS. -/
  events : BitVec 32
  /-- R74: GRID_BRIDGE_ERR. -/
  bridgeErr : BitVec 32
  /-- R75: GRID_CELL_SEL.row. -/
  selRow : BitVec 5
  /-- R75: GRID_CELL_SEL.die. -/
  selDie : Bool
  /-- R75: GRID_CELL_SEL.column. -/
  selCol : BitVec 6
  /-- R68, R354: repairs due or running, in order. -/
  repairs : List RepairRec
  /-- R344: boundary at which each row's bridge last voided a step (boundary count + 1; 0 none). -/
  bridgeAge : SMap Nat
  /-- R358: fence commands that complete in phase 2 of the next committing boundary, with status and detail. -/
  doneHandles : List (BitVec 32 × BitVec 16 × BitVec 32)
  /-- R41: the 1,584 physical cells by row*66 + die*33 + column; an unlisted cell is in its reset state. DESIGN CHOICE (1). -/
  cells : SMap Cell
  /-- R54: flits in flight on the mesh and in the landing queues. -/
  flits : List Flit
  /-- R56: string tokens in flight. -/
  tokens : List StrToken
  /-- R178: tier-1 pieces requested and not yet landed. -/
  pieces : List T1Piece
  /-- R198: tier-1 writes not yet acknowledged. -/
  writes : List T1Write
  deriving DecidableEq, Repr

/-- `Grid` right after reset. -/
def Grid.reset : Grid :=
  { override := false,
    repairActive := false,
    rowExhausted := false,
    fence := VotedMap.reset,
    pend := List.replicate 48 0x3F,
    voteFix := 0,
    repairCyc := 0,
    events := 0,
    bridgeErr := 0,
    selRow := 0,
    selDie := false,
    selCol := 0,
    repairs := [],
    bridgeAge := [],
    doneHandles := [],
    cells := [],
    flits := [],
    tokens := [],
    pieces := [],
    writes := [] }

/-- The arithmetic block (R103 to R106). -/
structure Arith where
  /-- R106: ARITH_CTRL.scale_lock. -/
  scaleLock : Bool
  /-- R106: ARITH_STATUS.lock_in_force. -/
  lockInForce : Bool
  /-- R106: ARITH_TRK_SEL.tracker. -/
  trkSel : BitVec 6
  /-- R106: ARITH_EVENTS. -/
  events : BitVec 32
  deriving DecidableEq, Repr

/-- `Arith` right after reset. -/
def Arith.reset : Arith :=
  { scaleLock := false,
    lockInForce := false,
    trkSel := 0,
    events := 0 }

/-- A cylinder known to the device (R151): its image as stored in tier 1 and what has been allocated for it. -/
structure KnownCyl where
  /-- R133: cylinder_id. -/
  id : BitVec 32
  /-- R132, R152: the bytes of the image. -/
  image : List (BitVec 8)
  /-- R152: tier-1 frames that hold the image. -/
  frames : List Nat
  /-- R151: LOADED, VERIFIED or ACTIVE. -/
  status : CylStatus
  /-- R153, R223: page tables: (window index, frame of each 2 MiB). -/
  windows : List (Nat × List Nat)
  /-- R144: tier-1 frames of the carried mirrors. -/
  mirrors : List Nat
  deriving DecidableEq, Repr

/-- `KnownCyl` right after reset. -/
def KnownCyl.reset : KnownCyl :=
  { id := 0,
    image := [],
    frames := [],
    status := .loaded,
    windows := [],
    mirrors := [] }

/-- A staging in progress (R153). -/
structure Staging where
  /-- R153: cylinder being staged. -/
  id : BitVec 32
  /-- R153: the CYL_VERIFY that completes when the staging has ended. -/
  handle : Option (BitVec 32)
  /-- R153: (row, die) whose staging restarts after a repair. -/
  restart : List (Nat × Bool)
  deriving DecidableEq, Repr

/-- `Staging` right after reset. -/
def Staging.reset : Staging :=
  { id := 0,
    handle := none,
    restart := [] }

/-- A pending CYL_SWITCH (R155). -/
structure PendSwitch where
  /-- R155: cylinder to switch to. -/
  id : BitVec 32
  /-- R155: command. -/
  handle : BitVec 32
  /-- R155: at_step, 0 for the next boundary. -/
  atStep : BitVec 64
  deriving DecidableEq, Repr

/-- `PendSwitch` right after reset. -/
def PendSwitch.reset : PendSwitch :=
  { id := 0,
    handle := 0,
    atStep := 0 }

/-- The cylinder block (R132 to R160). -/
structure Cylinder where
  /-- R151: cylinders known, at most 8. -/
  known : List KnownCyl
  /-- R160: CYL_STATUS.drain: 0 none, 1 draining, 2 drained. -/
  drain : BitVec 2
  /-- R154: the DRAIN that has not yet completed. -/
  drainHandle : Option (BitVec 32)
  /-- R154: the drain is a SUSPEND. -/
  suspend : Bool
  /-- R160: epoch in force. -/
  epoch : BitVec 4
  /-- R160: active slot-memory bank: false A, true B. -/
  bank : Bool
  /-- R160: staging in progress. -/
  staging : Option Staging
  /-- R160: pending CYL_SWITCH. -/
  pend : Option PendSwitch
  /-- R155: CYL_SWITCH that completes in phase 2 of the next committing boundary. -/
  switched : Option (BitVec 32)
  /-- R477: CYL_SWITCH made while the cadence was UNARMED, which completes with its fill. -/
  fillHandle : Option (BitVec 32)
  /-- R160: CYL_STATUS.fill_active. -/
  fillActive : Bool
  /-- R156: a switch fill is due or running; its outgoing cylinder (0xFFFFFFFF: none). -/
  fillDue : Option (BitVec 32)
  /-- R159: CYL_STAGE_CYC. -/
  stageCyc : BitVec 32
  /-- R159: CYL_FILL_CYC. -/
  fillCyc : BitVec 32
  /-- R159: CYL_EPOCH_DISC. -/
  epochDisc : BitVec 32
  /-- R159: CYL_LAST_CHECK. -/
  lastCheck : BitVec 32
  /-- R160: CYL_EVENTS. -/
  events : BitVec 32
  /-- R156: image of the cylinder that the switch of the fill that is due took out, whose keep-eligible buffers stay. -/
  fillOut : List (BitVec 8)
  deriving DecidableEq, Repr

/-- `Cylinder` right after reset. -/
def Cylinder.reset : Cylinder :=
  { known := [],
    drain := 0,
    drainHandle := none,
    suspend := false,
    epoch := 0,
    bank := false,
    staging := none,
    pend := none,
    switched := none,
    fillHandle := none,
    fillActive := false,
    fillDue := none,
    stageCyc := 0,
    fillCyc := 0,
    epochDisc := 0,
    lastCheck := 0,
    events := 0,
    fillOut := [] }

/-- A home directory entry (R203). -/
structure DirEntry where
  /-- R203: owner [31:28]. -/
  ownerKind : BitVec 4
  /-- R203: owner [27:0]. -/
  ownerId : BitVec 28
  /-- R203: page index within the owner's object. -/
  index : BitVec 32
  /-- R204: state. -/
  state : PageState
  /-- R203: flags bit 1. -/
  zero : Bool
  /-- R203: flags bit 2. -/
  dirty : Bool
  /-- R203: flags bit 3. -/
  poisoned : Bool
  /-- R203: flags bit 4. -/
  raw : Bool
  /-- R229: ALLOC marked the page host-visible. DESIGN CHOICE (1). -/
  hostVisible : Bool
  /-- R203: peer_chip. -/
  peerChip : BitVec 12
  /-- R203: stored bytes. -/
  stored : BitVec 32
  /-- R203: peer global address. -/
  peer : BitVec 64
  /-- R203: first 4 KiB granule of the stored image. -/
  granule : BitVec 32
  /-- R203: move_seq. -/
  moveSeq : BitVec 32
  /-- R229: the ALLOC of the page marked it raw. -/
  allocRaw : Bool
  deriving DecidableEq, Repr

/-- `DirEntry` right after reset. -/
def DirEntry.reset : DirEntry :=
  { ownerKind := 0,
    ownerId := 0,
    index := 0,
    state := .free,
    zero := false,
    dirty := false,
    poisoned := false,
    raw := false,
    hostVisible := false,
    peerChip := 0,
    stored := 0,
    peer := 0,
    granule := 0,
    moveSeq := 0,
    allocRaw := false }

/-- A write held while its page moves (R204, R208). -/
structure HeldWrite where
  /-- R204: tier named by the write. -/
  tier : BitVec 4
  /-- R204: slot named by the write. -/
  slot : Nat
  /-- R204: byte within the page. -/
  offset : Nat
  /-- R204: bytes. -/
  data : List (BitVec 8)
  deriving DecidableEq, Repr

/-- `HeldWrite` right after reset. -/
def HeldWrite.reset : HeldWrite :=
  { tier := 0,
    slot := 0,
    offset := 0,
    data := [] }

/-- A move of one page within the chip (R207). -/
structure LocalMove where
  /-- R203: move sequence number. -/
  seq : BitVec 32
  /-- R207: source tier. -/
  srcTier : BitVec 4
  /-- R207: source slot. -/
  src : Nat
  /-- R207: destination tier. -/
  dstTier : BitVec 4
  /-- R207: destination slot. -/
  dst : Nat
  /-- R207: the action (PageJob) the move belongs to. DESIGN CHOICE (1). -/
  job : Nat
  /-- R214: the destination becomes a shadow (write-back mode). -/
  shadow : Bool
  /-- R231: address by which the action names the page. -/
  name : BitVec 64
  /-- R214: tier-2 home of the shadow that moves. -/
  pair : Option Nat
  deriving DecidableEq, Repr

/-- `LocalMove` right after reset. -/
def LocalMove.reset : LocalMove :=
  { seq := 0,
    srcTier := 0,
    src := 0,
    dstTier := 0,
    dst := 0,
    job := 0,
    shadow := false,
    name := 0,
    pair := none }

/-- One side of a move between chips (R209, R210). -/
structure RemoteMove where
  /-- R209: sequence number the source chose. DESIGN CHOICE (1). -/
  seq : BitVec 32
  /-- R209: this chip is the source A. -/
  outgoing : Bool
  /-- R209: the other chip. -/
  peer : BitVec 12
  /-- R209: tier of the local slot. -/
  tier : BitVec 4
  /-- R209: local slot. -/
  slot : Nat
  /-- R209: progress of the move on this side. -/
  phase : RemotePhase
  /-- R209: CRC-32C of the page. -/
  crc : BitVec 32
  /-- R209, R330: runs of bytes received by the destination: first byte and end, ascending. -/
  chunks : List (Nat × Nat)
  /-- R209: page bytes received so far. -/
  bytes : Mem
  /-- R209: tick at which the present wait began. -/
  since : Nat
  /-- R209: the action the move belongs to. DESIGN CHOICE (1). -/
  job : Nat
  /-- R231: address by which the action names the page. -/
  name : BitVec 64
  /-- R214: tier-2 home of the shadow that moves. -/
  pair : Option Nat
  /-- R209: the source slot is SENDING. -/
  sent : Bool
  /-- R209: entry of the source slot when the OFFER was sent. -/
  entry : DirEntry
  deriving DecidableEq, Repr

/-- `RemoteMove` right after reset. -/
def RemoteMove.reset : RemoteMove :=
  { seq := 0,
    outgoing := true,
    peer := 0,
    tier := 0,
    slot := 0,
    phase := .offered,
    crc := 0,
    chunks := [],
    bytes := [],
    since := 0,
    job := 0,
    name := 0,
    pair := none,
    sent := false,
    entry := DirEntry.reset }

/-- An action that places or moves many pages and ends when each has committed or failed (R207, R231, R252, R293). -/
structure PageJob where
  /-- R207: number of the action. DESIGN CHOICE (1). -/
  id : Nat
  /-- R206: what the action is for. -/
  purpose : JobPurpose
  /-- R231: command that completes with it. -/
  handle : Option (BitVec 32)
  /-- R231: pages that have neither committed nor failed. -/
  left : Nat
  /-- R221: pages placed below the preferred tier. -/
  degraded : Nat
  /-- R231: pages that did not move. -/
  failed : Nat
  /-- R231: some page found no room. -/
  noSpace : Bool
  /-- R210: some page was resolved under R210. -/
  peerLost : Bool
  /-- R391: the function that issued it stops: it completes `CANCELLED`. -/
  cancelled : Bool
  /-- R231: the address of each page, in the order of the list. -/
  results : List (BitVec 64)
  /-- R231: host address of the result list. -/
  list : BitVec 64
  /-- R293: tick at which the action began. -/
  start : Nat
  /-- R231: requested tier. -/
  tier : BitVec 4
  /-- R231: strict placement. -/
  strict : Bool
  /-- R231: destination chip of a remote action. -/
  chip : Option (BitVec 12)
  /-- R391: pages of the action whose move has not begun. DESIGN CHOICE (1). -/
  waiting : List (BitVec 64)
  /-- R206: pages of the action whose slot was freed before their move began. DESIGN CHOICE (1). -/
  gone : List (BitVec 64)
  /-- R231: pages whose spill left them in their own tier. -/
  stayed : Nat
  deriving DecidableEq, Repr

/-- `PageJob` right after reset. -/
def PageJob.reset : PageJob :=
  { id := 0,
    purpose := .none,
    handle := none,
    left := 0,
    degraded := 0,
    failed := 0,
    noSpace := false,
    peerLost := false,
    cancelled := false,
    results := [],
    list := 0,
    start := 0,
    tier := 0,
    strict := false,
    chip := none,
    waiting := [],
    gone := [],
    stayed := 0 }

/-- A journal record (R211): a directory change, written before it takes effect. -/
structure JournalRec where
  /-- R211: tier of the entry changed. -/
  tier : BitVec 4
  /-- R211: slot of the entry changed. -/
  slot : Nat
  /-- R211: the entry as changed. -/
  entry : DirEntry
  /-- R207: the record is the commit of a move from this slot. -/
  commit : Option (BitVec 4 × Nat)
  deriving DecidableEq, Repr

/-- `JournalRec` right after reset. -/
def JournalRec.reset : JournalRec :=
  { tier := 0,
    slot := 0,
    entry := DirEntry.reset,
    commit := none }

/-- What an NVMe command to a drive does (R226). A write of a member label carries the label; its second copy is written
once the first is (R228). -/
inductive DriveOp where
  /-- a read of at most 512 KiB -/
  | read
  /-- a write of at most 512 KiB -/
  | write
  /-- Flush -/
  | flush
  /-- Dataset Management with the deallocate attribute -/
  | deallocate
  /-- a copy of the member label -/
  | label (second : Bool) (bytes : List (BitVec 8))
  /-- a record of the tier-3 journal (R227) -/
  | journal (sequence : Nat) (record : JournalRec)
  /-- an entry of the tier-3 directory (R227) -/
  | entry (slot : Nat) (value : DirEntry)
  deriving DecidableEq, Repr

/-- The features of a drive that the device sets (R226). -/
inductive DriveFeature where
  | numberOfQueues | volatileWriteCache | arbitration
  deriving DecidableEq, Repr

/-- The NVMe admin commands that the device issues (R226); a queue pair is named by its number. -/
inductive AdminCmd where
  | identify | getLogPage
  | createCq (q : Nat)
  | createSq (q : Nat)
  | deleteSq (q : Nat)
  | deleteCq (q : Nat)
  | getFeatures
  | setFeatures (feature : DriveFeature)
  deriving DecidableEq, Repr

/-- An NVMe command to a drive (R226). -/
structure DriveCmd where
  /-- R226: root port. -/
  port : Nat
  /-- R226: number of the command; its I/O queue pair is this number mod 8. DESIGN CHOICE (1). -/
  id : Nat
  /-- R226: what it does. -/
  op : DriveOp
  /-- R227: first LBA. -/
  lba : Nat
  /-- R207: the move it belongs to. DESIGN CHOICE (1). -/
  move : Option (BitVec 32)
  deriving DecidableEq, Repr

/-- One NVMe drive behind a root port (R226 to R228). -/
structure Drive where
  /-- R226: a drive answers on the port. DESIGN CHOICE (1). -/
  present : Bool
  /-- R226: refused under R226. -/
  refused : Bool
  /-- R343: a command exceeded the drive timeout or a fatal status came back. -/
  failed : Bool
  /-- R226: namespaces reported. DESIGN CHOICE (1). -/
  namespaces : BitVec 32
  /-- R226: reports a 4 KiB LBA format. DESIGN CHOICE (1). -/
  lba4k : Bool
  /-- R226: maximum data transfer in KiB. DESIGN CHOICE (1). -/
  maxKiB : BitVec 32
  /-- R227, R228: first copy of the member label. DESIGN CHOICE (1). -/
  label1 : List (BitVec 8)
  /-- R227, R228: second copy of the member label. DESIGN CHOICE (1). -/
  label2 : List (BitVec 8)
  /-- R228: generation of the label in use. -/
  generation : BitVec 64
  /-- R226: I/O queue pairs created on the drive. -/
  pairs : Nat
  deriving DecidableEq, Repr

/-- `Drive` right after reset. -/
def Drive.reset : Drive :=
  { present := false,
    refused := false,
    failed := false,
    namespaces := 1,
    lba4k := true,
    maxKiB := 512,
    label1 := [],
    label2 := [],
    generation := 0,
    pairs := 0 }

/-- The memory tiers and the home directory (R197 to R235). -/
structure Memory where
  /-- R235: MEM_STATUS.write_back. -/
  writeBack : Bool
  /-- R235: MEM_STATUS.converting. -/
  converting : Bool
  /-- R215: commands that complete after the conversion pass. -/
  convHandle : List (BitVec 32)
  /-- R233: FLUSHes that complete when every write-back it started has committed. -/
  flushHandle : List (BitVec 32)
  /-- R233: shadows whose write-back the FLUSH waits for. -/
  flushSet : List Nat
  /-- R214: write-backs in progress: (frame, a write has landed meanwhile). -/
  wbRun : List (Nat × Bool)
  /-- R235: MEM_STATUS.tier2_retained. -/
  retained : Bool
  /-- R235: MEM_STATUS.volume_mounted. -/
  mounted : Bool
  /-- R235: MEM_STATUS.members. -/
  members : BitVec 4
  /-- R235: MEM_STATUS.channels. -/
  channels : BitVec 12
  /-- R235: MEM_STATUS.stacks. -/
  hbmStacks : BitVec 8
  /-- R197: bytes of tier 2 that the fitted DIMMs give. DESIGN CHOICE (1). -/
  t2Bytes : Nat
  /-- R225: two DIMMs per channel (DDR5-5600). DESIGN CHOICE (1). -/
  t2Dimm2 : Bool
  /-- R200: tier-1 bytes; an unlisted byte reads 0. DESIGN CHOICE (1). -/
  t1 : Mem
  /-- R200: tier-2 stored bytes by granule × 4,096 + byte; an unlisted byte reads 0. DESIGN CHOICE (1). -/
  t2 : Mem
  /-- R200: tier-3 stored bytes by volume slot × 2 MiB + byte; an unlisted byte reads 0. DESIGN CHOICE (1). -/
  t3 : Mem
  /-- R203: entries of tier-1 frames; unlisted entries are FREE. -/
  dir1 : SMap DirEntry
  /-- R203: entries of tier-2 view slots; unlisted entries are FREE (slots 0 to 511 RESERVED). -/
  dir2 : SMap DirEntry
  /-- R203: entries of tier-3 volume slots; unlisted entries are FREE. -/
  dir3 : SMap DirEntry
  /-- R211: journal of tiers 1 and 2, newest first. -/
  journal2 : List JournalRec
  /-- R211: journal of tier 3, newest first. -/
  journal3 : List JournalRec
  /-- R203: sequence number of the latest move. -/
  moveSeq : BitVec 32
  /-- R207: number of the next action. DESIGN CHOICE (1). -/
  nextJob : Nat
  /-- R207, R234: local moves in progress (MEM_MOVES[15:0]). -/
  moves : List LocalMove
  /-- R209, R234: remote moves in progress (MEM_MOVES[31:16]). -/
  remotes : List RemoteMove
  /-- R207: actions in progress. -/
  jobs : List PageJob
  /-- R204: writes held, oldest first. -/
  held : List HeldWrite
  /-- R234: MEM_SPILLS. -/
  spills : BitVec 32
  /-- R234: MEM_ECC_T1. -/
  eccT1 : BitVec 32
  /-- R234: MEM_ECC_T2. -/
  eccT2 : BitVec 32
  /-- R234: MEM_UE[15:0]. -/
  ueReads : BitVec 16
  /-- R234: MEM_UE[31:16]. -/
  lostPages : BitVec 16
  /-- R235: MEM_EVENTS. -/
  events : BitVec 32
  /-- R228: volume slots of the mounted volume. -/
  volSlots : Nat
  /-- R226: the drives on root ports 0 to 7. -/
  drives : List Drive
  /-- R226: NVMe commands submitted and not completed. -/
  driveDma : List DriveCmd
  /-- R224: corrections of a tier-1 row in the present 24 h. -/
  rowCorr : SMap Nat
  /-- R224: rows to which soft post-package repair was applied. -/
  softRepairs : List Nat
  /-- R50: 128-byte units of tier 1 written from poisoned data. DESIGN CHOICE (1). -/
  poisonT1 : List Nat
  /-- R225: bytes of each DDR5 channel's DIMMs, channel 0 first. -/
  channelBytes : List Nat
  /-- R224: rows to which hard post-package repair was applied. -/
  hardRepairs : List Nat
  /-- R224: interface training and lane-remap results in force. -/
  hbmTraining : List (BitVec 8)
  /-- R225: DDR5 training results in force. -/
  ddrTraining : List (BitVec 8)
  /-- R226: NVMe commands that wait for an entry of their I/O queue. -/
  driveWait : List DriveCmd
  /-- R226: number of the next NVMe command. -/
  nextCid : Nat
  /-- R227: sequence of the next tier-3 journal record. -/
  journalSeq : Nat
  /-- R228: journal_head: sequence of the oldest live tier-3 journal record. -/
  journalHead : Nat
  /-- R226: NVMe admin commands issued to the drives, newest first: (root port, command). -/
  adminLog : List (Nat × AdminCmd)
  /-- R205, R234: pages that the latest reset made LOST, counted in MEM_UE once the directory is restored. -/
  newLost : Nat
  deriving DecidableEq, Repr

/-- `Memory` right after reset. -/
def Memory.reset : Memory :=
  { writeBack := true,
    converting := false,
    convHandle := [],
    flushHandle := [],
    flushSet := [],
    wbRun := [],
    retained := false,
    mounted := false,
    members := 0,
    channels := 0,
    hbmStacks := 0,
    t2Bytes := 0,
    t2Dimm2 := false,
    t1 := [],
    t2 := [],
    t3 := [],
    dir1 := [],
    dir2 := [],
    dir3 := [],
    journal2 := [],
    journal3 := [],
    moveSeq := 0,
    nextJob := 1,
    moves := [],
    remotes := [],
    jobs := [],
    held := [],
    spills := 0,
    eccT1 := 0,
    eccT2 := 0,
    ueReads := 0,
    lostPages := 0,
    events := 0,
    volSlots := 0,
    drives := List.replicate 8 Drive.reset,
    driveDma := [],
    rowCorr := [],
    softRepairs := [],
    poisonT1 := [],
    channelBytes := [],
    hardRepairs := [],
    hbmTraining := [],
    ddrTraining := [],
    driveWait := [],
    nextCid := 0,
    journalSeq := 0,
    journalHead := 0,
    adminLog := [],
    newLost := 0 }

/-- A base, adapter or fallback binding of a context (R238, R263, R270). -/
structure Binding where
  /-- R270: model_id. -/
  model : BitVec 28
  /-- R270: version. -/
  version : BitVec 8
  deriving DecidableEq, Repr

/-- `Binding` right after reset. -/
def Binding.reset : Binding :=
  { model := 0,
    version := 0 }

/-- The adapter geometry of a base version and its null adapter image (R261, R262). -/
structure NullImage where
  /-- R262: tensor table of the first adapter declared for the base version, stream_offset excluded. -/
  tensors : List (BitVec 8)
  /-- R262: image_size. -/
  imageSize : Nat
  /-- R261: the null adapter image, once built. -/
  image : Mem
  /-- R262: the null image has been built. -/
  built : Bool
  /-- R262: the adapter declared first for the base version. -/
  first : Binding
  deriving DecidableEq, Repr

/-- `NullImage` right after reset. -/
def NullImage.reset : NullImage :=
  { tensors := [],
    imageSize := 0,
    image := [],
    built := false,
    first := ⟨0, 0⟩ }

/-- A held model version (R236 to R264). -/
structure ModelVer where
  /-- R236: model_id. -/
  id : BitVec 28
  /-- R236: version. -/
  version : BitVec 8
  /-- R236: kind: false base, true adapter. -/
  adapter : Bool
  /-- R237: state. -/
  state : ModelState
  /-- R240: function that declared it. -/
  declarer : BitVec 4
  /-- R241: the manifest's bytes. -/
  manifest : List (BitVec 8)
  /-- R258: declared by a replace that has not completed. -/
  replace : Bool
  /-- R251: the declaring command, until it completes. -/
  handle : Option (BitVec 32)
  /-- R260: the RETIRE waiting for the version to be freed. -/
  retireHandle : Option (BitVec 32)
  /-- R252: the MODEL_ACTIVATE or REST waiting for the placement. -/
  activateHandle : Option (BitVec 32)
  /-- R265: flags bit 1: activate on completion. -/
  activateAfter : Bool
  /-- R259: activation waits for room in tier 1. -/
  waitRoom : Bool
  /-- R265: preferred tier. -/
  tier : BitVec 4
  /-- R265: strict placement. -/
  strict : Bool
  /-- R252: stream_from. -/
  streamFrom : BitVec 64
  /-- R250: shard deadline. -/
  deadline : Option Nat
  /-- R251: state of each shard. -/
  shards : List ShardState
  /-- R251: status of the first shard that failed. -/
  firstFail : Option (BitVec 16)
  /-- R221: a page of the image was placed below its preferred tier. -/
  degraded : Bool
  /-- R248: global address of each page of the image written so far. -/
  pages : SMap (BitVec 64)
  /-- R248: page digest table. -/
  digests : SMap (BitVec 256)
  /-- R245: ingest staging: image bytes of ingested tiles whose page is not yet written. -/
  staged : Mem
  /-- R257: marked suspect. -/
  suspect : Bool
  /-- R257: pages that a scrub found poisoned. -/
  failedPages : List Nat
  /-- R257: new pages that replace poisoned pages in phase 10. -/
  restored : SMap (BitVec 64)
  /-- R255: scrub interval of the version. -/
  interval : Option (BitVec 64)
  /-- R255: next scrub tick; 0 when none is due. -/
  nextScrub : Nat
  /-- R256: pages the running scrub pass has still to read. -/
  scrubLeft : List Nat
  /-- R256: pages skipped in a move, read again at the end of the pass. -/
  scrubSkipped : List Nat
  /-- R262: adapter geometry (bases). -/
  geometry : Option NullImage
  deriving DecidableEq, Repr

/-- `ModelVer` right after reset. -/
def ModelVer.reset : ModelVer :=
  { id := 0,
    version := 0,
    adapter := false,
    state := .loading,
    declarer := 0,
    manifest := [],
    replace := false,
    handle := none,
    retireHandle := none,
    activateHandle := none,
    activateAfter := false,
    waitRoom := false,
    tier := 2,
    strict := false,
    streamFrom := 0xFFFFFFFFFFFFFFFF,
    deadline := none,
    shards := [],
    firstFail := none,
    degraded := false,
    pages := [],
    digests := [],
    staged := [],
    suspect := false,
    failedPages := [],
    restored := [],
    interval := none,
    nextScrub := 0,
    scrubLeft := [],
    scrubSkipped := [],
    geometry := none }

/-- A shard in flight (R245, R249). -/
structure Ingest where
  /-- R249: shard command. -/
  handle : BitVec 32
  /-- R249: model_id. -/
  id : BitVec 28
  /-- R249: version. -/
  version : BitVec 8
  /-- R249: shard index. -/
  shard : Nat
  deriving DecidableEq, Repr

/-- `Ingest` right after reset. -/
def Ingest.reset : Ingest :=
  { handle := 0,
    id := 0,
    version := 0,
    shard := 0 }

/-- The weights block and ingest engine (R236 to R268). -/
structure Weights where
  /-- R236: held versions, at most 256 bases and 1,024 adapters. -/
  models : List ModelVer
  /-- R245: shards in flight, at most 8. -/
  flight : List Ingest
  /-- R264: model slots kept in the directory region of a retained tier 2, until boot restores them. DESIGN CHOICE (1). -/
  saved : List ModelVer
  /-- R245: shard commands accepted while 8 shards were in flight. DESIGN CHOICE (1). -/
  waiting : List (BitVec 32)
  /-- R267: uncompressed stream bytes ingested since reset (WGT_INGEST_MB). -/
  ingestBytes : Nat
  /-- R267: WGT_SCRUB_DEF. -/
  scrubDef : BitVec 64
  /-- R268: WGT_SHARD_FAIL.rejected. -/
  rejected : BitVec 16
  /-- R268: WGT_SHARD_FAIL.missing. -/
  missing : BitVec 16
  /-- R268: WGT_SCRUB_FAIL.mismatch. -/
  mismatch : BitVec 16
  /-- R268: WGT_SCRUB_FAIL.skipped. -/
  skipped : BitVec 16
  /-- R268: WGT_FLAGS. -/
  flags : BitVec 5
  /-- R268: WGT_EVENTS. -/
  events : BitVec 32
  deriving DecidableEq, Repr

/-- `Weights` right after reset. -/
def Weights.reset : Weights :=
  { models := [],
    flight := [],
    saved := [],
    waiting := [],
    ingestBytes := 0,
    scrubDef := 0x0000008BB2C97000,
    rejected := 0,
    missing := 0,
    mismatch := 0,
    skipped := 0,
    flags := 0,
    events := 0 }

/-- The generation in progress of a context (R270). -/
structure Gen where
  /-- R270: its command. -/
  handle : BitVec 32
  /-- R270: max_tokens. -/
  maxTokens : Nat
  /-- R270: tokens produced so far. -/
  produced : Nat
  /-- R270: chunk c. -/
  chunk : Nat
  /-- R270: the input is open. -/
  open_ : Bool
  /-- R294: some token came from region 1. -/
  region1 : Bool
  /-- R289: DEADLINE_MISS already raised for the generation. -/
  missed : Bool
  /-- R278: the input closed with p = 0: rewind in phase 9. -/
  rewind : Bool
  /-- R278: max_tokens 0 and the input closed with p = 0: completes in phase 2. -/
  prefillDone : Bool
  deriving DecidableEq, Repr

/-- `Gen` right after reset. -/
def Gen.reset : Gen :=
  { handle := 0,
    maxTokens := 0,
    produced := 0,
    chunk := 1,
    open_ := false,
    region1 := false,
    missed := false,
    rewind := false,
    prefillDone := false }

/-- An accepted PROMPT_SUBMIT or APPEND whose tokens have not entered the history (R275, R277). -/
structure Addition where
  /-- R277: command. -/
  handle : BitVec 32
  /-- R304: an APPEND. -/
  append : Bool
  /-- R277: it closes the input. -/
  closes : Bool
  /-- R277: token identifiers. -/
  tokens : List (BitVec 32)
  /-- R275: every remote write into the history list on stage 0 is acknowledged. -/
  acked : Bool
  /-- R274: carried in the verdict frame of the closing step. -/
  announced : Bool
  /-- R275: some write of it into the history list on stage 0 was refused or lost. -/
  refused : Bool
  deriving DecidableEq, Repr

/-- `Addition` right after reset. -/
def Addition.reset : Addition :=
  { handle := 0,
    append := false,
    closes := false,
    tokens := [],
    acked := true,
    announced := false,
    refused := false }

/-- An APPEND whose positions have entered the history and are not all fed (R304). -/
structure AppendWait where
  /-- R304: command. -/
  handle : BitVec 32
  /-- R304: it completes when ℓ reaches this position. -/
  upto : Nat
  deriving DecidableEq, Repr

/-- `AppendWait` right after reset. -/
def AppendWait.reset : AppendWait :=
  { handle := 0,
    upto := 0 }

/-- A context (R269 to R272). -/
structure Context where
  /-- R269: incarnation. -/
  incarnation : BitVec 8
  /-- R271: state. -/
  state : CtxState
  /-- R269: function that opened it. -/
  func : BitVec 4
  /-- R270: base version. -/
  base : Binding
  /-- R270: adapter version. -/
  adapter : Option Binding
  /-- R270: fallback version. -/
  fallback : Option Binding
  /-- R303: fallback chunk. -/
  fbChunk : Nat
  /-- R303: page_positions of the fallback list. -/
  fbPositions : Nat
  /-- R292: host address of the token ring, 0 for none. -/
  ring : BitVec 64
  /-- R303: ring_order. -/
  ringOrder : Nat
  /-- R303: MSI-X vector, 0xFFFF for none. -/
  vector : BitVec 16
  /-- R292: produced: records written since the context opened. -/
  producedRecs : Nat
  /-- R292: consumed, from the token doorbell. -/
  consumed : Nat
  /-- R285: token records that wait for room in the ring. DESIGN CHOICE (1). -/
  heldRecs : List (List (BitVec 8))
  /-- R18, R285: completions of generations whose final record waits for room: handle, status, detail. DESIGN CHOICE (1). -/
  heldEnds : List (BitVec 32 × BitVec 16 × BitVec 32)
  /-- R293: token-bearing records written. -/
  seqIndex : Nat
  /-- R303: kv_pages. -/
  kvPages : Nat
  /-- R303: page_positions. -/
  pagePositions : Nat
  /-- R270: KV list. -/
  kvList : List (BitVec 64)
  /-- R270: fallback list. -/
  fbList : List (BitVec 64)
  /-- R270: history list. -/
  histPage : Option (BitVec 64)
  /-- R270: history length H. -/
  hist : Nat
  /-- R270: committed length ℓ. -/
  len : Nat
  /-- R270: committed length ℓ_f. -/
  lenFb : Nat
  /-- R290: fallback version under which ℓ_f was built. -/
  fbVersion : Option Binding
  /-- R270: generation in progress. -/
  gen : Option Gen
  /-- R277: additions that have not entered the history. -/
  additions : List Addition
  /-- R304: APPENDs that wait to be fed. -/
  appends : List AppendWait
  /-- R270: deadline, 0 for none. -/
  deadline : BitVec 64
  /-- R283: order in which the context entered WAITING. -/
  waitSince : Nat
  /-- R283: batch slot held. -/
  slot : Option Nat
  /-- R19: CANCELs accepted and not resolved. -/
  cancels : List (BitVec 32)
  /-- R295: pending CTX_CLOSE. -/
  closeHandle : Option (BitVec 32)
  /-- R295, R391: the context is to be freed as a CTX_CLOSE would. -/
  closing : Bool
  /-- R391: place in the order of acceptance at which its function stopped. DESIGN CHOICE (1). -/
  closeOrder : Nat
  /-- R296: ttl3. -/
  ttl3 : BitVec 64
  /-- R296: expiry tick of the tier-2 timer. -/
  ttl2At : Option Nat
  /-- R297: expiry tick of the tier-3 timer. -/
  ttl3At : Option Nat
  /-- R298: remaining times of the cancelled timers. -/
  ttlLeft : Option (Nat × Nat)
  /-- R296, R301: command whose moves are in progress. -/
  moveHandle : Option (BitVec 32)
  /-- R297: a move to tier 3 is in progress. -/
  toTier3 : Bool
  /-- R302: KV_IMPORT in mode 1 pending: chip, context identifier and layout. -/
  importFrom : Option (BitVec 12 × BitVec 32 × BitVec 32)
  /-- R301, R302: address and layout of a KV image in transfer. -/
  imageAddr : Option (BitVec 64 × BitVec 32)
  /-- R302: status with which a KV_IMPORT in mode 1 ends once its pages in progress are over. -/
  importFail : Option (BitVec 16)
  deriving DecidableEq, Repr

/-- `Context` right after reset. -/
def Context.reset : Context :=
  { incarnation := 1,
    state := .free,
    func := 0,
    base := Binding.reset,
    adapter := none,
    fallback := none,
    fbChunk := 1,
    fbPositions := 1,
    ring := 0,
    ringOrder := 4,
    vector := 0xFFFF,
    producedRecs := 0,
    heldRecs := [],
    heldEnds := [],
    consumed := 0,
    seqIndex := 0,
    kvPages := 1,
    pagePositions := 1,
    kvList := [],
    fbList := [],
    histPage := none,
    hist := 0,
    len := 0,
    lenFb := 0,
    fbVersion := none,
    gen := none,
    additions := [],
    appends := [],
    deadline := 0,
    waitSince := 0,
    slot := none,
    cancels := [],
    closeHandle := none,
    closing := false,
    closeOrder := 0,
    ttl3 := 0,
    ttl2At := none,
    ttl3At := none,
    ttlLeft := none,
    moveHandle := none,
    toTier3 := false,
    importFrom := none,
    imageAddr := none,
    importFail := none }

/-- An occupied batch slot (R276, R283). -/
structure BatchSlot where
  /-- R283: number of the occupant. -/
  ctx : Nat
  /-- R276: region of the slot. -/
  region : Nat
  /-- R276: number of the first step the occupant ran after its join. -/
  n0 : Nat
  /-- R277, R327: chunk the occupant runs with. -/
  chunk : Nat
  /-- R284: its generation ended at the boundary in progress. -/
  ended : Bool
  deriving DecidableEq, Repr

/-- `BatchSlot` right after reset. -/
def BatchSlot.reset : BatchSlot :=
  { ctx := 0,
    region := 0,
    n0 := 0,
    chunk := 1,
    ended := false }

/-- An accepted BATCH_STEP (R286). -/
structure BatchReq where
  /-- R286: command. -/
  handle : BitVec 32
  /-- R286: at_step. -/
  atStep : BitVec 64
  /-- R303: (slot, operation, context identifier). -/
  entries : List (Nat × Nat × BitVec 32)
  /-- R304: applied; completes in phase 2 of the next committing boundary. -/
  applied : Bool
  /-- R304: entries skipped. -/
  skippedN : Nat
  deriving DecidableEq, Repr

/-- `BatchReq` right after reset. -/
def BatchReq.reset : BatchReq :=
  { handle := 0,
    atStep := 0,
    entries := [],
    applied := false,
    skippedN := 0 }

/-- The serving block (R269 to R307). -/
structure Serving where
  /-- R269: contexts 0 to 1,023; an unlisted context is in its reset state. -/
  ctxs : SMap Context
  /-- R283: occupied batch slots. -/
  slots : SMap BatchSlot
  /-- R277: positions f fed to each slot in the step in progress. -/
  fed : SMap Nat
  /-- R277: slots that generate in the step in progress. -/
  gens : List Nat
  /-- R289: (slot, context): slots given in phase 9 ahead of every other join. -/
  preempted : List (Nat × Nat)
  /-- R283: count that orders entries into WAITING. DESIGN CHOICE (1). -/
  waitClock : Nat
  /-- R286: accepted BATCH_STEPs. -/
  batches : List BatchReq
  /-- R307: SRV_JOINS. -/
  joins : BitVec 32
  /-- R307: SRV_LEAVES. -/
  leaves : BitVec 32
  /-- R307: SRV_MOVES.fallback. -/
  movesFb : BitVec 16
  /-- R307: SRV_MOVES.preempt. -/
  preempts : BitVec 16
  /-- R307: SRV_WAITS.ring. -/
  waitsRing : BitVec 16
  /-- R307: SRV_WAITS.pages. -/
  waitsPages : BitVec 16
  /-- R307: SRV_PARKING.to_tier3. -/
  toTier3 : BitVec 16
  /-- R307: SRV_PARKING.expired. -/
  expired : BitVec 16
  /-- R307: SRV_MISSES. -/
  misses : BitVec 32
  /-- R307: SRV_EVENTS. -/
  events : BitVec 32
  deriving DecidableEq, Repr

/-- `Serving` right after reset. -/
def Serving.reset : Serving :=
  { ctxs := [],
    slots := [],
    fed := [],
    gens := [],
    preempted := [],
    waitClock := 0,
    batches := [],
    joins := 0,
    leaves := 0,
    movesFb := 0,
    preempts := 0,
    waitsRing := 0,
    waitsPages := 0,
    toTier3 := 0,
    expired := 0,
    misses := 0,
    events := 0 }

/-- A queue of a function (R362 to R369). -/
structure Queue where
  /-- R362: Q_CMD_BASE. -/
  cmdBase : BitVec 64
  /-- R362: Q_RSP_BASE. -/
  rspBase : BitVec 64
  /-- R363: Q_CTRL.cmd_order. -/
  cmdOrder : BitVec 5
  /-- R363: Q_CTRL.rsp_order. -/
  rspOrder : BitVec 5
  /-- R363: Q_CTRL.enable. -/
  enable : Bool
  /-- R363: Q_VECTOR.vector. -/
  vector : BitVec 11
  /-- R363: Q_VECTOR.none. -/
  noVector : Bool
  /-- R362: Q_CMD_TAIL. -/
  cmdTail : BitVec 32
  /-- R362: Q_RSP_HEAD. -/
  rspHead : BitVec 32
  /-- R362: Q_CMD_HEAD. -/
  cmdHead : BitVec 32
  /-- R362: Q_RSP_TAIL. -/
  rspTail : BitVec 32
  /-- R363: Q_STATUS.enabled. -/
  enabled : Bool
  /-- R363: Q_STATUS.draining. -/
  draining : Bool
  /-- R363: Q_STATUS.fault. -/
  fault : Bool
  /-- R363: Q_STATUS.ordered_wait. -/
  orderedWait : Bool
  /-- R363: Q_STATUS.no_room. -/
  noRoom : Bool
  /-- R363: commands accepted and not yet completed. -/
  pending : Nat
  /-- R396: tick from which the next packet could be read: of the packet read before it, or of the end of a wait that R372
  leaves out. -/
  doorbell : Nat
  /-- R396: tail doorbells whose packets are not all read, oldest first: (tail written, tick). -/
  bells : List (BitVec 32 × Nat)
  deriving DecidableEq, Repr

/-- `Queue` right after reset. -/
def Queue.reset : Queue :=
  { cmdBase := 0,
    rspBase := 0,
    cmdOrder := 0,
    rspOrder := 0,
    enable := false,
    vector := 0,
    noVector := true,
    cmdTail := 0,
    rspHead := 0,
    cmdHead := 0,
    rspTail := 0,
    enabled := false,
    draining := false,
    fault := false,
    orderedWait := false,
    noRoom := false,
    pending := 0,
    doorbell := 0,
    bells := [] }

/-- A function (R389 to R394). -/
structure Func where
  /-- R389: state. -/
  state : FuncState
  /-- R362: queues 0 to 7. -/
  queues : List Queue
  /-- R390: held function command. -/
  held : Option (BitVec 32)
  /-- R390, R393: the held command is an enable (with no handle after a function level reset). -/
  heldEnable : Bool
  /-- R390: FUNC_ENABLEs that complete when ON is reached. -/
  starters : List (BitVec 32)
  /-- R390: FUNC_DISABLE that began the stop. -/
  stopper : Option (BitVec 32)
  /-- R390: tick of entry into STOPPING. -/
  stopAt : Nat
  /-- R394: contexts, 0 for no limit. -/
  limCtx : Nat
  /-- R394: tier1_pages. -/
  lim1 : Nat
  /-- R394: tier2_pages. -/
  lim2 : Nat
  /-- R394: tier3_pages. -/
  lim3 : Nat
  /-- R362: TOK_CONSUMED_n as last written. -/
  tokCons : SMap (BitVec 32)
  /-- R393: a function level reset came while STARTING: at ON the function stops and starts again. -/
  again : Bool
  deriving DecidableEq, Repr

/-- `Func` right after reset. -/
def Func.reset : Func :=
  { state := .off,
    queues := List.replicate 8 Queue.reset,
    held := none,
    heldEnable := false,
    starters := [],
    stopper := none,
    stopAt := 0,
    limCtx := 0,
    lim1 := 0,
    lim2 := 0,
    lim3 := 0,
    tokCons := [],
    again := false }

/-- A live command (R374): an accepted packet that has no completion record yet. -/
structure Live where
  /-- R374: issuing function. -/
  func : BitVec 4
  /-- R376: queue. -/
  queue : Nat
  /-- R6: opcode. -/
  opcode : BitVec 8
  /-- R371: flags. -/
  flags : BitVec 8
  /-- R6: tag. -/
  tag : BitVec 32
  /-- R6: the 64 bytes of the packet. -/
  params : List (BitVec 8)
  /-- R377: accepted (not carried out), waiting, or taken at a boundary. DESIGN CHOICE (1). -/
  phase : LivePhase
  /-- R17: tick of acceptance. -/
  accepted : Nat
  /-- R17: order of acceptance over all queues. DESIGN CHOICE (1). -/
  order : Nat
  /-- R265: bytes the command has read from its list at execution. DESIGN CHOICE (1). -/
  work : List (BitVec 8)
  /-- R238: what its bindings to a current version came to at acceptance: status 0 and the version, or the status with which
  each fails. -/
  resolved : List (BitVec 16 × BitVec 8)
  /-- R249: the state of its shard before the command, which a delivery that is refused leaves. DESIGN CHOICE (1). -/
  shardWas : ShardState
  deriving DecidableEq, Repr

/-- `Live` right after reset. -/
def Live.reset : Live :=
  { func := 0,
    queue := 0,
    opcode := 0,
    flags := 0,
    tag := 0,
    params := [],
    phase := .accepted,
    accepted := 0,
    order := 0,
    work := [],
    resolved := [],
    shardWas := .outstanding }

/-- The command block (R362 to R396). -/
structure Command where
  /-- R389: functions 0 to 15. -/
  funcs : List Func
  /-- R374: generation of each handle slot; 1 where unlisted. -/
  gens : SMap (BitVec 8)
  /-- R374: live commands by handle slot. -/
  live : SMap Live
  /-- R17: order of the next acceptance. DESIGN CHOICE (1). -/
  orderNext : Nat
  /-- R385: a DEVICE_RESET has begun: no further packet is read. -/
  frozen : Bool
  /-- R21, R472: step report ring in force: base. -/
  srBase : BitVec 64
  /-- R362: SR_HEAD. -/
  srHead : BitVec 32
  /-- R362: SR_TAIL. -/
  srTail : BitVec 32
  /-- R396: CMD_REFUSED. -/
  refused : BitVec 32
  /-- R396: CMD_ACCEPT_MAX. -/
  acceptMax : BitVec 16
  /-- R396: CMD_EVENTS. -/
  events : BitVec 32
  deriving DecidableEq, Repr

/-- `Command` right after reset. -/
def Command.reset : Command :=
  { funcs := List.replicate 16 Func.reset,
    gens := [],
    live := [],
    orderNext := 0,
    frozen := false,
    srBase := 0,
    srHead := 0,
    srTail := 0,
    refused := 0,
    acceptMax := 0,
    events := 0 }

/-- The health block (R342 to R361). -/
structure Health where
  /-- R361: HLT_STATUS.stalled. -/
  stalled : Bool
  /-- R342: REPLAY_STALL already raised for the step number in progress. -/
  stallRaised : Bool
  /-- R361: HLT_STATUS.peer_lost. -/
  peerLost : Bool
  /-- R361: HLT_STATUS.withdrawn. -/
  withdrawn : Bool
  /-- R347: the chip has withdrawn and the boundary that applies R346 to itself has not run. -/
  withdrawNow : Bool
  /-- R361: HLT_STATUS.halted. -/
  halted : Bool
  /-- R361: peers declared lost since arming (HLT_STATUS.peers is their number). -/
  lost : List (BitVec 12)
  /-- R345: peers whose verdict was missing at the latest boundary. -/
  missing : List (BitVec 12)
  /-- R328, R345: leave notices received since arming: (sender, last_step). -/
  notices : List (BitVec 12 × BitVec 64)
  /-- R360: HLT_VOIDS. -/
  voids : BitVec 32
  /-- R360: HLT_SKIPS. -/
  skips : BitVec 32
  /-- R360: HLT_REPLAY[31:16]. -/
  replayMax : BitVec 16
  /-- R360: HLT_LAST_LOST. -/
  lastLost : BitVec 32
  /-- R360: HLT_HALT_CAUSE. -/
  haltCause : BitVec 8
  /-- R361: HLT_EVENTS. -/
  events : BitVec 32
  /-- R359: steps committed since the cadence was last armed. -/
  cCommitted : BitVec 64
  /-- R359: steps reported VOIDED. -/
  cVoided : BitVec 32
  /-- R359: steps reported SKIPPED. -/
  cSkipped : BitVec 32
  /-- R359: voided steps by void_cause bit 0 to 5. -/
  byCause : List (BitVec 16)
  /-- R359: voided steps with void_cause 0. -/
  causeZero : BitVec 16
  /-- R359: REPLAY_STALL events. -/
  stalls : BitVec 16
  /-- R359: fences applied. -/
  fences : BitVec 16
  /-- R359: unfences applied. -/
  unfences : BitVec 16
  /-- R359: peers declared lost. -/
  declared : BitVec 16
  /-- R359: withdrawals. -/
  withdrawals : BitVec 16
  /-- R359: step number closed by the boundary of the latest declaration. -/
  lostStep : BitVec 64
  /-- R359: slots released under R346 and R349. -/
  forced : BitVec 16
  /-- R359: the PCIe link has gone down and not returned. DESIGN CHOICE (1). -/
  linkFell : Bool
  /-- R359: times the PCIe link went down and returned. -/
  linkDown : BitVec 8
  /-- R349: uncorrectable reads not yet acted on: (tick, tier, slot). -/
  ueReads : List (Nat × BitVec 4 × Nat)
  /-- R351: ticks of recent uncorrectable reads of each stack: (stack, tick). -/
  stackUe : List (Nat × Nat)
  /-- R67, R324: the chip has left its partition and sends no verdict frame. -/
  left : Bool
  /-- R350: PWRFAIL_N has been acted on. -/
  pwrfail : Bool
  /-- R350: the quiesce waits for the boundary that closes the step in progress. -/
  pwrfailPending : Bool
  deriving DecidableEq, Repr

/-- `Health` right after reset. -/
def Health.reset : Health :=
  { stalled := false,
    stallRaised := false,
    peerLost := false,
    withdrawn := false,
    withdrawNow := false,
    halted := false,
    lost := [],
    missing := [],
    notices := [],
    voids := 0,
    skips := 0,
    replayMax := 0,
    lastLost := 0,
    haltCause := 0,
    events := 0,
    cCommitted := 0,
    cVoided := 0,
    cSkipped := 0,
    byCause := List.replicate 6 0,
    causeZero := 0,
    stalls := 0,
    fences := 0,
    unfences := 0,
    declared := 0,
    withdrawals := 0,
    lostStep := 0,
    forced := 0,
    linkFell := false,
    linkDown := 0,
    ueReads := [],
    stackUe := [],
    left := false,
    pwrfail := false,
    pwrfailPending := false }

/-- A fabric port (R308 to R341). -/
structure Port where
  /-- R331: state. -/
  state : PortState
  /-- R311: width w: 8, 4, 2, or 0 when not UP. -/
  width : Nat
  /-- R341: active lanes. -/
  lanes : BitVec 8
  /-- R334: failed lanes. -/
  failed : BitVec 8
  /-- R341: consecutive failed trainings. -/
  attempts : BitVec 2
  /-- R333: tick at which it tries again. -/
  retryAt : Option Nat
  /-- R340: FAB_PORT_DELAY. -/
  delay : BitVec 32
  /-- R340: FAB_PORT_CORR. -/
  corr : BitVec 32
  /-- R340: FAB_PORT_UNCORR. -/
  uncorr : BitVec 32
  /-- R337: corrected symbols since the last LINK_STATUS report. -/
  corrRep : BitVec 32
  /-- R337: uncorrectable codewords since the last LINK_STATUS report. -/
  uncorrRep : BitVec 32
  /-- R340: plane of the ident exchange. -/
  plane : BitVec 8
  /-- R340: switch port of the ident exchange. -/
  switchPort : BitVec 16
  /-- R332: the ident answer has arrived. -/
  identDone : Bool
  /-- R332: round trips less turnaround of the echo frames received. -/
  echoes : List Int
  /-- R311: slots counted since the end of training. -/
  slots : BitVec 64
  deriving DecidableEq, Repr

/-- `Port` right after reset. -/
def Port.reset : Port :=
  { state := .down,
    width := 0,
    lanes := 0,
    failed := 0,
    attempts := 0,
    retryAt := none,
    delay := 0,
    corr := 0,
    uncorr := 0,
    corrRep := 0,
    uncorrRep := 0,
    plane := 0,
    switchPort := 0,
    identDone := false,
    echoes := [],
    slots := 0 }

/-- Where a frame comes from (R312): the sender and the step in which the frame was queued. -/
structure Origin where
  /-- R312: source: sending chip. -/
  source : BitVec 12
  /-- R312: partition: the sender's partition identifier. -/
  partition : BitVec 32
  /-- R312: step: low 32 bits of the sender's step number. -/
  step : BitVec 32
  /-- R312: replay: the sender's replay index. -/
  replay : BitVec 16
  /-- R157, R312: epoch in force when queued. -/
  epoch : BitVec 4
  deriving DecidableEq, Repr

/-- `Origin` right after reset. -/
def Origin.reset : Origin :=
  { source := 0,
    partition := 0,
    step := 0,
    replay := 0,
    epoch := 0 }

/-- A codeword that carries one piece of a frame (R310, R311). -/
structure Codeword where
  /-- R311: lane. -/
  lane : Nat
  /-- R311: codeword time within the frame. -/
  time : Nat
  /-- R310: control bits. -/
  control : BitVec 20
  /-- R310: 640 bytes of frame data. -/
  data : List (BitVec 8)
  /-- R309: the 30 parity symbols of RS(544,514). -/
  parity : List (BitVec 10)
  deriving DecidableEq, Repr

/-- `Codeword` right after reset. -/
def Codeword.reset : Codeword :=
  { lane := 0,
    time := 0,
    control := 0,
    data := [],
    parity := [] }

/-- A frame that has left a port (R310, R311). -/
structure WireFrame where
  /-- R311: port. -/
  port : Nat
  /-- R311: tick of its slot. -/
  tick : Nat
  /-- R311: count of its slot. -/
  slot : Nat
  /-- R310: codewords. -/
  words : List Codeword
  deriving DecidableEq, Repr

/-- `WireFrame` right after reset. -/
def WireFrame.reset : WireFrame :=
  { port := 0,
    tick := 0,
    slot := 0,
    words := [] }

/-- A management frame queued for transmission (R325). -/
structure OutMsg where
  /-- R325: priority 1 to 6. -/
  prio : Nat
  /-- R326: port chosen, none for any live port. -/
  port : Option Nat
  /-- R312: destination chip or group. -/
  dest : BitVec 16
  /-- R312: flags bit 5. -/
  multicast : Bool
  /-- R312: kind and payload. -/
  body : MsgBody
  /-- R312: message sequence. -/
  seq : BitVec 32
  /-- R312: where the frame comes from. -/
  origin : Origin
  deriving DecidableEq, Repr

/-- `OutMsg` right after reset. -/
def OutMsg.reset : OutMsg :=
  { prio := 6,
    port := none,
    dest := 0,
    multicast := false,
    body := .ident 0 0 0,
    seq := 0,
    origin := Origin.reset }

/-- A data frame queued on a port (R318, R321). -/
structure OutFrame where
  /-- R322: plane chosen from the stripe list. -/
  port : Nat
  /-- R312: peer. -/
  dest : BitVec 12
  /-- R312: edge stream index. -/
  stream : Nat
  /-- R312: frame number within the stream. -/
  sequence : Nat
  /-- R321: last_beat of the stream. -/
  lastBeat : Nat
  /-- R318: flags bit 4. -/
  last : Bool
  /-- R318: flits. -/
  flits : List (BitVec 1024)
  /-- R318: empty messages carried. -/
  empties : Nat
  /-- R312: end_map. -/
  endMap : BitVec 39
  /-- R157: epoch in force when queued. -/
  epoch : BitVec 4
  /-- R50: some flit was read poisoned; no field of the frame carries it. DESIGN CHOICE (1). -/
  poison : Bool
  /-- R312: where the frame comes from. -/
  origin : Origin
  deriving DecidableEq, Repr

/-- `OutFrame` right after reset. -/
def OutFrame.reset : OutFrame :=
  { port := 0,
    dest := 0,
    stream := 0,
    sequence := 0,
    lastBeat := 0,
    last := false,
    flits := [],
    empties := 0,
    endMap := 0,
    epoch := 0,
    poison := false,
    origin := Origin.reset }

/-- A fabric-out stream being packed in the step (R318). -/
structure OutStream where
  /-- R318: edge stream index. -/
  stream : Nat
  /-- R318: frames queued so far. -/
  sent : Nat
  /-- R318: messages that have reached the edge. -/
  messages : Nat
  /-- R318: flits of the frame being filled. -/
  flits : List (BitVec 1024)
  /-- R318: end bits of the frame being filled. -/
  ends : BitVec 39
  /-- R318: empty messages to announce. -/
  empties : Nat
  /-- R318: the last frame has been queued. -/
  done : Bool
  /-- R50: some flit of the frame being filled was read poisoned. DESIGN CHOICE (1). -/
  poison : Bool
  deriving DecidableEq, Repr

/-- `OutStream` right after reset. -/
def OutStream.reset : OutStream :=
  { stream := 0,
    sent := 0,
    messages := 0,
    flits := [],
    ends := 0,
    empties := 0,
    done := false,
    poison := false }

/-- A fabric-in or tier-2-in stream in the step (R319, R320). -/
structure InStream where
  /-- R319: edge stream index. -/
  stream : Nat
  /-- R319: frames accepted and not yet landed (out of sequence). -/
  got : List OutFrame
  /-- R319: sequence numbers accepted. -/
  seen : List Nat
  /-- R319: frames landed in sequence order. -/
  landed : Nat
  /-- R319: flits written. -/
  flitsLanded : Nat
  /-- R320: sequence of the frame with flags bit 4. -/
  lastSeq : Option Nat
  /-- R319: bytes of the message being landed. -/
  msgBytes : List (BitVec 8)
  /-- R320: its window has ended. -/
  ended : Bool
  /-- R195: expert segments landed in the step. DESIGN CHOICE (1). -/
  segments : Nat
  deriving DecidableEq, Repr

/-- `InStream` right after reset. -/
def InStream.reset : InStream :=
  { stream := 0,
    got := [],
    seen := [],
    landed := 0,
    flitsLanded := 0,
    lastSeq := none,
    msgBytes := [],
    ended := false,
    segments := 0 }

/-- An outstanding remote access (R329). -/
structure RemoteReq where
  /-- R329: request identifier. -/
  id : BitVec 32
  /-- R329: chip. -/
  dest : BitVec 12
  /-- R329: operation. -/
  write : Bool
  /-- R329: global address. -/
  addr : BitVec 64
  /-- R329: write data. -/
  data : List (BitVec 8)
  /-- R329: length. -/
  len : Nat
  /-- R329: times resent. -/
  resent : Nat
  /-- R329: tick of the latest sending. -/
  sentAt : Nat
  /-- R275, R424: what waits for the response. -/
  owner : ReqOwner
  /-- R329: port by which the request last left. -/
  port : Option Nat
  deriving DecidableEq, Repr

/-- `RemoteReq` right after reset. -/
def RemoteReq.reset : RemoteReq :=
  { id := 0,
    dest := 0,
    write := false,
    addr := 0,
    data := [],
    len := 0,
    resent := 0,
    sentAt := 0,
    owner := .none,
    port := none }

/-- The fabric block (R308 to R341). -/
structure Fabric where
  /-- R340, R404: FAB_PLANE_MASK, three copies. -/
  mask : Voted 16
  /-- R340: FAB_CHIP[11:0]. -/
  chip : BitVec 12
  /-- R317, R340: groups of ROUTE_SET. -/
  groups : List (BitVec 12)
  /-- R308: ports 0 to 15. -/
  ports : List Port
  /-- R340: FAB_PORT_SEL. -/
  portSel : BitVec 4
  /-- R340: FAB_SLOT_LOST. -/
  slotLost : BitVec 32
  /-- R340: FAB_FRAME_ERR. -/
  frameErr : BitVec 32
  /-- R340: FAB_REMOTE_ERR. -/
  remoteErr : BitVec 32
  /-- R340: FAB_MGMT_DROP. -/
  mgmtDrop : BitVec 32
  /-- R341: FAB_EVENTS. -/
  events : BitVec 32
  /-- R387: partition identifier of the role. -/
  partition : BitVec 32
  /-- R387: size of the role. -/
  size : Nat
  /-- R387: stage of the role. -/
  stage : Nat
  /-- R387: chip number of each stage; empty means this chip alone. -/
  memberChips : List (BitVec 12)
  /-- R322: last capacity vector received from each chip since arming. -/
  vectors : SMap (BitVec 64)
  /-- R322: stripe list of each peer in force. -/
  stripes : SMap (List Nat)
  /-- R340: FAB_STATUS[31:16]. -/
  planesInUse : BitVec 16
  /-- R325: management frames queued, oldest first. -/
  mgmtQ : List OutMsg
  /-- R321: data frames queued. -/
  dataQ : List OutFrame
  /-- R325: management frames sent, newest first. DESIGN CHOICE (1). -/
  sent : List OutMsg
  /-- R321: data frames sent, newest first. DESIGN CHOICE (1). -/
  sentData : List OutFrame
  /-- R318: fabric-out streams of the step. -/
  outs : List OutStream
  /-- R319: fabric-in and tier-2-in streams of the step. -/
  ins : List InStream
  /-- R329: outstanding remote accesses. -/
  requests : List RemoteReq
  /-- R329: next request identifier. DESIGN CHOICE (1). -/
  nextReq : BitVec 32
  /-- R312: message sequence. -/
  msgSeq : BitVec 32
  /-- R339: PLANE_MASKs taken: (handle, boundaries until its stripe lists are in force, the mask it replaced). -/
  maskPending : List (BitVec 32 × Nat × BitVec 16)
  /-- R337: RETRAINs in progress: handle and port mask. -/
  retrain : List (BitVec 32 × BitVec 16)
  /-- R310: frames that have left the ports, newest first. DESIGN CHOICE (1). -/
  wire : List WireFrame
  deriving DecidableEq, Repr

/-- `Fabric` right after reset. -/
def Fabric.reset : Fabric :=
  { mask := Voted.all 0xFFFF,
    chip := 0,
    groups := [],
    ports := List.replicate 16 Port.reset,
    portSel := 0,
    slotLost := 0,
    frameErr := 0,
    remoteErr := 0,
    mgmtDrop := 0,
    events := 0,
    partition := 0,
    size := 1,
    stage := 0,
    memberChips := [],
    vectors := [],
    stripes := [],
    planesInUse := 0,
    mgmtQ := [],
    dataQ := [],
    sent := [],
    sentData := [],
    outs := [],
    ins := [],
    requests := [],
    nextReq := 1,
    msgSeq := 0,
    maskPending := [],
    retrain := [],
    wire := [] }

/-- The progress of a calibration on one die (R451). -/
structure CalDie where
  /-- R451: named by the command. -/
  named : Bool
  /-- R451: level in force, mV. -/
  level : Nat
  /-- R455: clean steps counted at the level. -/
  clean : Nat
  /-- R451: lowest level at which the die was clean. -/
  lowest : Option Nat
  /-- R451: highest current recorded over the clean levels. -/
  load : BitVec 32
  /-- R451: highest current seen at the level in force. -/
  loadNow : BitVec 32
  /-- R451: hottest reading during the calibration. -/
  junction : Int
  /-- R451: the die has ended. -/
  ended : Bool
  /-- R451: it ended troubled. -/
  troubled : Bool
  deriving DecidableEq, Repr

/-- `CalDie` right after reset. -/
def CalDie.reset : CalDie :=
  { named := false,
    level := 0,
    clean := 0,
    lowest := none,
    load := 0,
    loadNow := 0,
    junction := 0,
    ended := false,
    troubled := false }

/-- An entry of the calibration set (R448). -/
structure CalEntry where
  /-- R448: valid. -/
  valid : Bool
  /-- R448: voltage. -/
  voltage : BitVec 16
  /-- R448: clean. -/
  clean : BitVec 16
  /-- R448: load_ma. -/
  load : BitVec 32
  /-- R448: junction. -/
  junction : BitVec 16
  deriving DecidableEq, Repr

/-- `CalEntry` right after reset. -/
def CalEntry.reset : CalEntry :=
  { valid := false,
    voltage := 0,
    clean := 0,
    load := 0,
    junction := 0 }

/-- A calibration in progress (R451 to R453). -/
structure CalRun where
  /-- R451: CALIBRATE command. -/
  handle : BitVec 32
  /-- R454: operating point. -/
  op : BitVec 3
  /-- R454: dry run. -/
  dry : Bool
  /-- R454: clean steps per level. -/
  dwell : Nat
  /-- R451: west die. -/
  west : CalDie
  /-- R451: east die. -/
  east : CalDie
  /-- R453: the store write is in progress. -/
  writing : Bool
  deriving DecidableEq, Repr

/-- `CalRun` right after reset. -/
def CalRun.reset : CalRun :=
  { handle := 0,
    op := 0,
    dry := false,
    dwell := 4096,
    west := CalDie.reset,
    east := CalDie.reset,
    writing := false }

/-- The power, clocks and calibration block (R431 to R457). -/
structure Power where
  /-- R457, R404: PWR_OP_LIMITS.floor, three copies. -/
  floor : Voted 3
  /-- R457, R404: PWR_OP_LIMITS.ceiling, three copies. -/
  ceiling : Voted 3
  /-- R457: PWR_OP_REQ.op. -/
  opReq : BitVec 3
  /-- R453: PWR_OP_REQ written while a calibration runs. -/
  opReqWait : Option (BitVec 3)
  /-- R457: point in force. -/
  inForce : BitVec 3
  /-- R457: thermal cap. -/
  cap : BitVec 3
  /-- R440: transition in progress: point and tick of the voltage command. -/
  transition : Option (BitVec 3 × Nat)
  /-- R457: active core PLL is B. -/
  activeB : Bool
  /-- R439: point to whose clock the standby core PLL is set. -/
  standbyOp : Option (BitVec 3)
  /-- R435: the standby core PLL is locked at that clock. -/
  standbyLocked : Bool
  /-- R457: steps are being skipped. -/
  skipping : Bool
  /-- R456: PWR_VOLT west, mV. -/
  voltW : Nat
  /-- R456: PWR_VOLT east, mV. -/
  voltE : Nat
  /-- R456: PWR_CUR_W. -/
  curW : BitVec 32
  /-- R456: PWR_CUR_E. -/
  curE : BitVec 32
  /-- R456: PWR_POWER, mW. -/
  power : BitVec 32
  /-- R456: hottest reading of the latest scan, 1/16 °C. -/
  junctionMax : Int
  /-- R456: coolest reading of the latest scan, 1/16 °C. -/
  junctionMin : Int
  /-- R443, R444: scans of the last 1 ms and of the span: (uptime, hottest, power mW), newest first. -/
  scans : List (Nat × Int × Nat)
  /-- R444: uptime since which temperature and power have stayed below the raise limits. -/
  belowSince : Option Nat
  /-- R444: uptime of the latest lowering of the cap. -/
  lastDown : Option Nat
  /-- R444: uptime of the latest raising of the cap. -/
  lastUp : Option Nat
  /-- R457: therm_down. -/
  thermDown : BitVec 8
  /-- R457: therm_up. -/
  thermUp : BitVec 8
  /-- R456: PWR_LIMIT. -/
  limit : BitVec 12
  /-- R456: PWR_STRETCH. -/
  stretch : BitVec 32
  /-- R386: TELEMETRY stretched: cycles added by stretching since reset. -/
  stretchTotal : BitVec 32
  /-- R456: PWR_MARGIN_TRIPS west. -/
  tripsW : BitVec 16
  /-- R456: PWR_MARGIN_TRIPS east. -/
  tripsE : BitVec 16
  /-- R441: dies that tripped in the stretching episode in progress. -/
  episode : Option (BitVec 2)
  /-- R457: PWR_CLK_STATUS. -/
  clk : BitVec 9
  /-- R456: PWR_VR_ERR west. -/
  vrErrW : BitVec 16
  /-- R456: PWR_VR_ERR east. -/
  vrErrE : BitVec 16
  /-- R440: consecutive regulator failures. -/
  vrFails : Nat
  /-- R440: uptime before which no transition is retried. -/
  vrRetryAt : Nat
  /-- R457: PWR_EVENTS. -/
  events : BitVec 32
  /-- R448: entries in force. -/
  entries : List CalEntry
  /-- R449: guards (PWR_CAL_GUARD). -/
  guards : BitVec 16
  /-- R455: the store holds a valid set. -/
  storeValid : Bool
  /-- R451: calibration in progress. -/
  cal : Option CalRun
  /-- R457: PWR_CAL_STATE.state. -/
  calState : BitVec 2
  /-- R457: PWR_CAL_STATE.op. -/
  calOp : BitVec 3
  /-- R457: PWR_CAL_STATE.dies. -/
  calDies : BitVec 2
  deriving DecidableEq, Repr

/-- `Power` right after reset. -/
def Power.reset : Power :=
  { floor := Voted.all 0,
    ceiling := Voted.all 6,
    opReq := 0,
    opReqWait := none,
    inForce := 0,
    cap := 7,
    transition := none,
    activeB := false,
    standbyOp := none,
    standbyLocked := false,
    skipping := false,
    voltW := 0,
    voltE := 0,
    curW := 0,
    curE := 0,
    power := 0,
    junctionMax := 0,
    junctionMin := 0,
    scans := [],
    belowSince := none,
    lastDown := none,
    lastUp := none,
    thermDown := 100,
    thermUp := 95,
    limit := 0x8FC,
    stretch := 0,
    stretchTotal := 0,
    tripsW := 0,
    tripsE := 0,
    episode := none,
    clk := 0,
    vrErrW := 0,
    vrErrE := 0,
    vrFails := 0,
    vrRetryAt := 0,
    events := 0,
    entries := List.replicate 16 CalEntry.reset,
    guards := 0,
    storeValid := false,
    cal := none,
    calState := 0,
    calOp := 0,
    calDies := 0 }

/-- One copy of a record of the calibration store (R447). -/
structure StoreCopy where
  /-- R447: the record. DESIGN CHOICE (1). -/
  bytes : List (BitVec 8)
  /-- R447: generation. DESIGN CHOICE (1). -/
  generation : BitVec 64
  /-- R447: its CRC holds. DESIGN CHOICE (1). -/
  valid : Bool
  deriving DecidableEq, Repr

/-- `StoreCopy` right after reset. -/
def StoreCopy.reset : StoreCopy :=
  { bytes := [],
    generation := 0,
    valid := false }

/-- The calibration store (R447): for each record its two copies. -/
structure Store where
  /-- R447: calibration set, first copy. DESIGN CHOICE (1). -/
  cal0 : StoreCopy
  /-- R447: calibration set, second copy. DESIGN CHOICE (1). -/
  cal1 : StoreCopy
  /-- R357, R447: persistent fence record, first copy. DESIGN CHOICE (1). -/
  fence0 : StoreCopy
  /-- R357, R447: persistent fence record, second copy. DESIGN CHOICE (1). -/
  fence1 : StoreCopy
  /-- R429, R447: firmware rollback floor, first copy. DESIGN CHOICE (1). -/
  floor0 : StoreCopy
  /-- R429, R447: firmware rollback floor, second copy. DESIGN CHOICE (1). -/
  floor1 : StoreCopy
  /-- R447: DDR5 training results, first copy. DESIGN CHOICE (1). -/
  ddr0 : StoreCopy
  /-- R447: DDR5 training results, second copy. DESIGN CHOICE (1). -/
  ddr1 : StoreCopy
  /-- R447: HBM4 training results, first copy. DESIGN CHOICE (1). -/
  hbm0 : StoreCopy
  /-- R447: HBM4 training results, second copy. DESIGN CHOICE (1). -/
  hbm1 : StoreCopy
  /-- R447: HBM4 repair record, first copy. DESIGN CHOICE (1). -/
  repair0 : StoreCopy
  /-- R447: HBM4 repair record, second copy. DESIGN CHOICE (1). -/
  repair1 : StoreCopy
  /-- R447, R357: writes started and not finished, with the command that waits. -/
  writing : List (StoreRec × List (BitVec 8) × Option (BitVec 32))
  deriving DecidableEq, Repr

/-- `Store` right after reset. -/
def Store.reset : Store :=
  { cal0 := StoreCopy.reset,
    cal1 := StoreCopy.reset,
    fence0 := StoreCopy.reset,
    fence1 := StoreCopy.reset,
    floor0 := StoreCopy.reset,
    floor1 := StoreCopy.reset,
    ddr0 := StoreCopy.reset,
    ddr1 := StoreCopy.reset,
    hbm0 := StoreCopy.reset,
    hbm1 := StoreCopy.reset,
    repair0 := StoreCopy.reset,
    repair1 := StoreCopy.reset,
    writing := [] }

/-- The system control block (R397 to R406). -/
structure Sys where
  /-- R406: SYS_CLK_EN. -/
  clkEn : BitVec 10
  /-- R403, R404: SYS_LOCK, three copies. -/
  lock : Voted 4
  /-- R405: SYS_VOTE_FIX. -/
  voteFix : BitVec 32
  /-- R405: SYS_BUS_ERR_ADDR. -/
  errAddr : BitVec 26
  /-- R406: SYS_BUS_ERR_INFO. -/
  errInfo : BitVec 32
  /-- R406: SYS_EVENTS. -/
  events : BitVec 32
  /-- R405: SYS_SCRATCH. -/
  scratch : BitVec 32
  /-- R400: high words latched: (requester, offset of the high word, value). -/
  latches : List (Requester × Nat × BitVec 32)
  deriving DecidableEq, Repr

/-- `Sys` right after reset. -/
def Sys.reset : Sys :=
  { clkEn := 0,
    lock := Voted.all 0,
    voteFix := 0,
    errAddr := 0,
    errInfo := 0,
    events := 0,
    scratch := 0,
    latches := [] }

/-- An interrupt source (R408, R419). -/
structure SrcCfg where
  /-- R419: sense. -/
  sense : BitVec 3
  /-- R419: class: false ordered, true scan. -/
  scan : Bool
  /-- R419: targets 0 to 4 and the gateway (bit 5). -/
  targets : BitVec 6
  /-- R419: storm. -/
  storm : Bool
  /-- R419: assertions in the current window. -/
  window : Nat
  /-- R419: target that holds it. -/
  inService : Option Nat
  /-- R419: pending. -/
  pending : Bool
  /-- R408: level of the wired signal when last seen. DESIGN CHOICE (1). -/
  signal : Bool
  deriving DecidableEq, Repr

/-- `SrcCfg` right after reset. -/
def SrcCfg.reset : SrcCfg :=
  { sense := 0,
    scan := false,
    targets := 0,
    storm := false,
    window := 0,
    inService := none,
    pending := false,
    signal := false }

/-- A target 0 to 4 (R410). -/
structure Target where
  /-- R419: IC_TGT_MOD_t.count. -/
  count : BitVec 8
  /-- R419: IC_TGT_MOD_t.time. -/
  time : BitVec 16
  /-- R410: notification line. -/
  line : Bool
  /-- R418: IC_NOTICE_t. -/
  notice : BitVec 10
  /-- R410: events counted since the line last fell. -/
  eventsN : Nat
  /-- R410: tick of the first of those events. -/
  firstAt : Nat
  /-- R418: IC_COMPLETE_t as last written. -/
  complete : BitVec 32
  deriving DecidableEq, Repr

/-- `Target` right after reset. -/
def Target.reset : Target :=
  { count := 1,
    time := 0,
    line := false,
    notice := 0,
    eventsN := 0,
    firstAt := 0,
    complete := 0 }

/-- An MSI-X vector (R415 to R417). -/
structure Vector_ where
  /-- R419: IC_VEC_MOD_v.count. -/
  count : BitVec 8
  /-- R419: IC_VEC_MOD_v.time. -/
  time : BitVec 16
  /-- R417: events coalesced. -/
  coalesced : Nat
  /-- R417: tick of the first of them. -/
  firstAt : Nat
  /-- R417: tick of the latest message. -/
  lastSent : Option Nat
  /-- R415: per-vector mask bit of the MSI-X table. DESIGN CHOICE (1). -/
  masked : Bool
  /-- R417: bit of the pending-bit array. -/
  pendingBit : Bool
  /-- R415: message address of the table entry. DESIGN CHOICE (1). -/
  addr : BitVec 64
  /-- R415: message data of the table entry. DESIGN CHOICE (1). -/
  data : BitVec 32
  deriving DecidableEq, Repr

/-- `Vector_` right after reset. -/
def Vector_.reset : Vector_ :=
  { count := 1,
    time := 0,
    coalesced := 0,
    firstAt := 0,
    lastSent := none,
    masked := true,
    pendingBit := false,
    addr := 0,
    data := 0 }

/-- The interrupt controller (R407 to R419). -/
structure Ic where
  /-- R419: IC_EVENTS. -/
  events : BitVec 32
  /-- R418: IC_STORM_SRC. -/
  stormSrc : BitVec 32
  /-- R418: IC_STORM_COUNT. -/
  stormCount : BitVec 32
  /-- R418: IC_BAD_COMPLETE. -/
  badComplete : BitVec 32
  /-- R418: IC_GW_ACK as last written. -/
  gwAck : BitVec 32
  /-- R418: IC_ENABLE_w. -/
  enables : SMap (BitVec 32)
  /-- R419: sources 1 to 1,019; an unlisted source is in its reset state. -/
  srcs : SMap SrcCfg
  /-- R418: IC_GW_MAP_n. -/
  gwMap : SMap (BitVec 32)
  /-- R410: targets 0 to 4. -/
  targets : List Target
  /-- R417: vectors by global index. -/
  vectors : SMap Vector_
  /-- R415: MSI-X Enable of each function. DESIGN CHOICE (1). -/
  msixEnable : BitVec 16
  /-- R415: Function Mask of each function. DESIGN CHOICE (1). -/
  msixMask : BitVec 16
  deriving DecidableEq, Repr

/-- `Ic` right after reset. -/
def Ic.reset : Ic :=
  { events := 0,
    stormSrc := 0,
    stormCount := 0,
    badComplete := 0,
    gwAck := 0,
    enables := [],
    srcs := [],
    gwMap := [],
    targets := List.replicate 5 Target.reset,
    vectors := [],
    msixEnable := 0,
    msixMask := 0 }

/-- A utility DMA channel (R420 to R426). -/
structure DmaCh where
  /-- R425: source address. -/
  src : BitVec 64
  /-- R425: destination address. -/
  dst : BitVec 64
  /-- R425: DMA_COUNT. -/
  count : BitVec 32
  /-- R426: DMA_CTRL.go. -/
  go : Bool
  /-- R426: DMA_CTRL.abort. -/
  abort : Bool
  /-- R426: DMA_CTRL.swap. -/
  swap : BitVec 2
  /-- R426: DMA_CTRL.irq. -/
  irq : Bool
  /-- R426: DMA_STATUS.state. -/
  state : BitVec 3
  /-- R426: DMA_STATUS.code. -/
  code : BitVec 4
  /-- R425: DMA_DONE. -/
  done : BitVec 32
  /-- R425: DMA_ERR. -/
  err : BitVec 64
  /-- R422: bytes of the source requested so far. -/
  reading : Nat
  /-- R422: bytes read and not yet written. -/
  buffer : List (BitVec 8)
  /-- R423: writes whose response has not returned: (offset, length). -/
  waiting : List (Nat × Nat)
  /-- R423: writes acknowledged beyond DMA_DONE. -/
  acked : List (Nat × Nat)
  /-- R424: state, code and address to enter once the outstanding responses have returned. -/
  stop : Option (BitVec 3 × BitVec 4 × BitVec 64)
  /-- R422: identifier of the remote read under way for the next block. -/
  asked : Option (BitVec 32)
  deriving DecidableEq, Repr

/-- `DmaCh` right after reset. -/
def DmaCh.reset : DmaCh :=
  { src := 0,
    dst := 0,
    count := 0,
    go := false,
    abort := false,
    swap := 0,
    irq := false,
    state := 0,
    code := 0,
    done := 0,
    err := 0,
    reading := 0,
    buffer := [],
    waiting := [],
    acked := [],
    stop := none,
    asked := none }

/-- The utility DMA block (R420 to R426). -/
structure Dma where
  /-- R425: channels 0 to 15. -/
  chans : List DmaCh
  /-- R420: DMA_OWNER. -/
  owner : BitVec 16
  /-- R425: DMA_EVENTS. -/
  events : BitVec 16
  /-- R422: channel served last. -/
  turn : Nat
  deriving DecidableEq, Repr

/-- `Dma` right after reset. -/
def Dma.reset : Dma :=
  { chans := List.replicate 16 DmaCh.reset,
    owner := 0,
    events := 0,
    turn := 0 }

/-- The management cores block (R427 to R430). -/
structure Mgt where
  /-- R430: MGT_BEAT_0 to 3 and MGT_BEAT_SUP. -/
  beats : List (BitVec 32)
  /-- R428: heartbeat written in the current interval. -/
  written : List Bool
  /-- R430: MGT_SILENT. -/
  silent : List (BitVec 4)
  /-- R430: MGT_CORE_STATE. -/
  coreState : List (BitVec 3)
  /-- R430: MGT_FW_FLOOR. -/
  fwFloor : BitVec 32
  /-- R430: MGT_GWIN_c. -/
  gwin : List (BitVec 16)
  /-- R430: MGT_EVENTS. -/
  events : BitVec 32
  /-- R427: firmware SRAM, 16 MiB; an unlisted byte reads 0. DESIGN CHOICE (1). -/
  fwSram : Mem
  /-- R427, R467: an uncorrectable error was met. -/
  fwSramBad : Bool
  /-- R427: privilege mode of each core: 0 user, 1 supervisor, 3 machine. PRESUMED (183). -/
  coreMode : List (BitVec 2)
  /-- R427: physical memory protection of each core: 16 entries of (configuration, address). PRESUMED (183). -/
  pmp : List (List (BitVec 8 × BitVec 64))
  /-- R430: the cores that the debug module halts as they leave reset. -/
  debugHalt : BitVec 5
  /-- R201: answers to the cores' accesses of other chips, newest first: core, status of R329, data. -/
  remoteDone : List (Nat × BitVec 8 × List (BitVec 8))
  deriving DecidableEq, Repr

/-- `Mgt` right after reset. -/
def Mgt.reset : Mgt :=
  { beats := List.replicate 5 0,
    written := List.replicate 5 false,
    silent := List.replicate 5 0,
    coreState := List.replicate 5 0,
    fwFloor := 0,
    gwin := List.replicate 5 0,
    events := 0,
    fwSram := [],
    fwSramBad := false,
    coreMode := [3, 3, 3, 3, 3],
    pmp := (List.replicate 5 (List.replicate 16 (0, 0))),
    debugHalt := 0,
    remoteDone := [] }

/-- The device configuration block and the reset block (R458 to R481). -/
structure Config_ where
  /-- R481: RST_CAUSE.cause. DESIGN CHOICE (1). -/
  cause : BitVec 4
  /-- R481: RST_CAUSE.retain_requested. DESIGN CHOICE (1). -/
  retainReq : Bool
  /-- R481: RST_CAUSE.retained. DESIGN CHOICE (1). -/
  retainedBit : Bool
  /-- R481: RST_CAUSE.trip_latched. DESIGN CHOICE (1). -/
  tripLatched : Bool
  /-- R481: RST_CTRL.retain. -/
  retain : Bool
  /-- R480: RST_STRAP. DESIGN CHOICE (1). -/
  strap : BitVec 8
  /-- R481: RST_BOOT_STATUS.stage. -/
  stage : BitVec 8
  /-- R481: RST_BOOT_STATUS.error. -/
  error : BitVec 8
  /-- R481: RST_BOOT_STATUS.slot. -/
  slotB : Bool
  /-- R481: RST_BOOT_STATUS.fallback. -/
  fallback : Bool
  /-- R467: repeats of the stage in progress. -/
  tries : Nat
  /-- R467: a failed clock stage waits for its repeat. -/
  retryWait : Bool
  /-- R480: RST_FW_VERSION. -/
  fwVersion : BitVec 32
  /-- R384: SHA-256 of the running firmware image. DESIGN CHOICE (1). -/
  fwDigest : BitVec 256
  /-- R480: RST_BOOT_TIME. -/
  bootTime : BitVec 16
  /-- R466: tick of the release of reset. -/
  released : Nat
  /-- R461: the internal reset pulse is running. -/
  inPulse : Bool
  /-- R458: the device is in reset (until stage 0x05). -/
  inReset : Bool
  /-- R479: boot was stopped by PWRFAIL_N. -/
  pwrStop : Bool
  /-- R480: CFG_LAST_REFUSE. -/
  lastRefuse : BitVec 32
  /-- R481: RST_EVENTS. -/
  events : BitVec 32
  /-- R471: staging copy. -/
  staging : List (BitVec 8)
  /-- R481: CFG_STATUS.written. -/
  written : BitVec 16
  /-- R471: committed block. -/
  block : Option (List (BitVec 8))
  /-- R474: CFG_COMMIT that waits for stage 0x08. -/
  commit : Option (BitVec 32)
  /-- R464: retention was requested for the reset being booted. -/
  reqRetention : Bool
  /-- R464: channels in service before the reset. -/
  channelsBefore : BitVec 12
  deriving DecidableEq, Repr

/-- `Config_` right after reset. -/
def Config_.reset : Config_ :=
  { cause := 1,
    retainReq := false,
    retainedBit := false,
    tripLatched := false,
    retain := false,
    strap := 0,
    stage := 1,
    error := 0,
    slotB := false,
    fallback := false,
    tries := 0,
    retryWait := false,
    fwVersion := 0,
    fwDigest := 0,
    bootTime := 0,
    released := 0,
    inPulse := false,
    inReset := true,
    pwrStop := false,
    lastRefuse := 0,
    events := 0,
    staging := List.replicate 1024 0,
    written := 0,
    block := none,
    commit := none,
    reqRetention := false,
    channelsBefore := 0 }

/-- Pins and package-level state (R458, R482 to R492). -/
structure Pins where
  /-- R459: the rails are up, `VDD_AUX33` apart. DESIGN CHOICE (1). -/
  powered : Bool
  /-- R484: level of RESET_N. DESIGN CHOICE (1). -/
  resetN : Bool
  /-- R352, R458: level of FAULT_N. -/
  faultN : Bool
  /-- R446: level of THERMTRIP_N. -/
  thermtripN : Bool
  /-- R483: level of HOST_PERST_N. DESIGN CHOICE (1). -/
  perstN : Bool
  /-- R353: the PCIe link is up. DESIGN CHOICE (1). -/
  linkUp : Bool
  /-- R458: FL_PERST_N released. -/
  flPerstN : Bool
  /-- R485: levels of STRAP[7:0]; an open strap reads 0. -/
  strapPins : BitVec 8
  /-- R486: dynamic I3C address. -/
  sbAddr : Option (BitVec 7)
  /-- R487: inbound mailbox. -/
  sbIn : Option (List (BitVec 8))
  /-- R487: outbound mailbox. -/
  sbOut : Option (List (BitVec 8))
  /-- R489: instruction loaded into the test access port: 0 BYPASS. DESIGN CHOICE (1). -/
  jtagInstr : BitVec 8
  /-- R384: device serial number. DESIGN CHOICE (1). -/
  serial : BitVec 64
  /-- R469: key digests in fuses, with revocation. DESIGN CHOICE (1). -/
  fuses : List (BitVec 256 × Bool)
  /-- R468: boot flash, slot A. DESIGN CHOICE (1). -/
  flashA : List (BitVec 8)
  /-- R468: boot flash, slot B. DESIGN CHOICE (1). -/
  flashB : List (BitVec 8)
  /-- R458, R484: VDD_AUX33 is up. DESIGN CHOICE (1). -/
  aux : Bool
  /-- R489: level of TRST_N. DESIGN CHOICE (1). -/
  trstN : Bool
  /-- R463: DDR5 channels in self-refresh. -/
  selfRefresh : BitVec 12
  /-- R458: the DIMM reset outputs are asserted. -/
  dimmReset : Bool
  /-- R488: a sideband request that has not completed: the tick by which it has, and the answer to be read then. -/
  sbDue : Option (Nat × List (BitVec 8))
  /-- R489: what the boundary register drives on FAULT_N, THERMTRIP_N, FL_PERST_N and DDR_RESET_N under EXTEST. DESIGN CHOICE
  (1). -/
  boundary : BitVec 4
  deriving DecidableEq, Repr

/-- `Pins` right after reset. -/
def Pins.reset : Pins :=
  { powered := true,
    resetN := true,
    faultN := false,
    thermtripN := true,
    perstN := true,
    linkUp := false,
    flPerstN := false,
    strapPins := 0,
    sbAddr := none,
    sbIn := none,
    sbOut := none,
    jtagInstr := 0,
    serial := 0,
    fuses := List.replicate 4 (0, false),
    flashA := [],
    flashB := [],
    aux := true,
    trstN := false,
    selfRefresh := 0,
    dimmReset := true,
    sbDue := none,
    boundary := 0 }

/-- What the device sees of and has sent to the host (R16, R362, R377). -/
structure HostSide where
  /-- R362: host memory as reads return it; an unlisted byte reads 0. DESIGN CHOICE (1). -/
  mem : Mem
  /-- R378: host address ranges whose reads fail for a requester: (function, first, last). DESIGN CHOICE (1). -/
  badReads : List (Nat × Nat × Nat)
  /-- R16, R378: bytes written to host memory, newest first: (tick, function of the requester, address, bytes). -/
  log : List (Nat × Nat × Nat × List (BitVec 8))
  /-- R416: MSI-X messages sent, newest first: (tick, function, vector). -/
  msix : List (Nat × Nat × Nat)
  /-- R399, R489: answer of the latest register read, none for a bus error, or the identity that IDCODE gives. DESIGN CHOICE
  (1). -/
  answer : Option (BitVec 32)
  /-- R488: answer of the latest sideband request or BAR4 access. DESIGN CHOICE (1). -/
  answerBytes : List (BitVec 8)
  /-- R399, R229: the latest access received Completer Abort, or its equivalent. DESIGN CHOICE (1). -/
  aborted : Bool
  deriving DecidableEq, Repr

/-- `HostSide` right after reset. -/
def HostSide.reset : HostSide :=
  { mem := [],
    badReads := [],
    log := [],
    msix := [],
    answer := none,
    answerBytes := [],
    aborted := false }

/-- The machine. -/
structure State where
  /-- R23: cadence unit. -/
  cad : Cadence
  /-- R11: step in progress. -/
  step : Step
  /-- R41: cells, mesh and grid control block. -/
  grid : Grid
  /-- R105: arithmetic block. -/
  arith : Arith
  /-- R151: cylinder block. -/
  cyl : Cylinder
  /-- R197: memory tiers and directory. -/
  mem : Memory
  /-- R236: weights block. -/
  wgt : Weights
  /-- R269: serving block. -/
  srv : Serving
  /-- R362: command block. -/
  cmd : Command
  /-- R360: health block. -/
  hlt : Health
  /-- R308: fabric block. -/
  fab : Fabric
  /-- R431: power, clocks and calibration block. -/
  pwr : Power
  /-- R447: calibration store. -/
  store : Store
  /-- R405: system control block. -/
  sys : Sys
  /-- R407: interrupt controller. -/
  ic : Ic
  /-- R425: utility DMA. -/
  dma : Dma
  /-- R430: management cores. -/
  mgt : Mgt
  /-- R480: reset and configuration block. -/
  cfg : Config_
  /-- R484: pins. -/
  pins : Pins
  /-- R362: host memory and messages. -/
  host : HostSide
  /-- MODEL: the model's own count of free values drawn. DESIGN CHOICE (1). -/
  freeCount : Nat
  /-- MODEL: commands waiting, first in first out. DESIGN CHOICE (1). -/
  pending : List Instr
  deriving DecidableEq, Repr

/-- The machine right after reset. -/
def State.reset : State :=
  { cad := Cadence.reset,
    step := Step.reset,
    grid := Grid.reset,
    arith := Arith.reset,
    cyl := Cylinder.reset,
    mem := Memory.reset,
    wgt := Weights.reset,
    srv := Serving.reset,
    cmd := Command.reset,
    hlt := Health.reset,
    fab := Fabric.reset,
    pwr := Power.reset,
    store := Store.reset,
    sys := Sys.reset,
    ic := Ic.reset,
    dma := Dma.reset,
    mgt := Mgt.reset,
    cfg := Config_.reset,
    pins := Pins.reset,
    host := HostSide.reset,
    freeCount := 0,
    pending := [] }

/-- The state with its `cad` changed by `g`. -/
def State.onCad (g : Cadence → Cadence) (s : State) : State := { s with cad := g s.cad }

/-- The state with its `step` changed by `g`. -/
def State.onStep (g : Step → Step) (s : State) : State := { s with step := g s.step }

/-- The state with its `grid` changed by `g`. -/
def State.onGrid (g : Grid → Grid) (s : State) : State := { s with grid := g s.grid }

/-- The state with its `arith` changed by `g`. -/
def State.onArith (g : Arith → Arith) (s : State) : State := { s with arith := g s.arith }

/-- The state with its `cyl` changed by `g`. -/
def State.onCyl (g : Cylinder → Cylinder) (s : State) : State := { s with cyl := g s.cyl }

/-- The state with its `mem` changed by `g`. -/
def State.onMem (g : Memory → Memory) (s : State) : State := { s with mem := g s.mem }

/-- The state with its `wgt` changed by `g`. -/
def State.onWgt (g : Weights → Weights) (s : State) : State := { s with wgt := g s.wgt }

/-- The state with its `srv` changed by `g`. -/
def State.onSrv (g : Serving → Serving) (s : State) : State := { s with srv := g s.srv }

/-- The state with its `cmd` changed by `g`. -/
def State.onCmd (g : Command → Command) (s : State) : State := { s with cmd := g s.cmd }

/-- The state with its `hlt` changed by `g`. -/
def State.onHlt (g : Health → Health) (s : State) : State := { s with hlt := g s.hlt }

/-- The state with its `fab` changed by `g`. -/
def State.onFab (g : Fabric → Fabric) (s : State) : State := { s with fab := g s.fab }

/-- The state with its `pwr` changed by `g`. -/
def State.onPwr (g : Power → Power) (s : State) : State := { s with pwr := g s.pwr }

/-- The state with its `store` changed by `g`. -/
def State.onStore (g : Store → Store) (s : State) : State := { s with store := g s.store }

/-- The state with its `sys` changed by `g`. -/
def State.onSys (g : Sys → Sys) (s : State) : State := { s with sys := g s.sys }

/-- The state with its `ic` changed by `g`. -/
def State.onIc (g : Ic → Ic) (s : State) : State := { s with ic := g s.ic }

/-- The state with its `dma` changed by `g`. -/
def State.onDma (g : Dma → Dma) (s : State) : State := { s with dma := g s.dma }

/-- The state with its `mgt` changed by `g`. -/
def State.onMgt (g : Mgt → Mgt) (s : State) : State := { s with mgt := g s.mgt }

/-- The state with its `cfg` changed by `g`. -/
def State.onCfg (g : Config_ → Config_) (s : State) : State := { s with cfg := g s.cfg }

/-- The state with its `pins` changed by `g`. -/
def State.onPins (g : Pins → Pins) (s : State) : State := { s with pins := g s.pins }

/-- The state with its `host` changed by `g`. -/
def State.onHost (g : HostSide → HostSide) (s : State) : State := { s with host := g s.host }

/-- The state with its `freeCount` changed by `g`. -/
def State.onFreeCount (g : Nat → Nat) (s : State) : State := { s with freeCount := g s.freeCount }

/-- The state with its `pending` changed by `g`. -/
def State.onPending (g : List Instr → List Instr) (s : State) : State := { s with pending := g s.pending }

/-- The reasons for which a step stops with a fault. The specification describes what the device does
in every situation a command can meet, so no meaning raises a fault and the type has no constructor. -/
inductive Fault where
  deriving DecidableEq, Repr

/-- The reasons for which a step is refused. -/
inductive Refusal where
  /-- Raised only by an arm of `exec` whose command has no meaning yet: safe, no behaviour is claimed. -/
  | notModelled (mnemonic : String)
  /-- Raised by a manufacturing-test command that has been accepted (R388): what it does lies outside
  the specification, and nothing is assured afterwards. Safe: the machine stops. -/
  | manufacturingTest (opcode : BitVec 8)
  deriving DecidableEq, Repr

end Sys2Proof.Machine
end

