-- ==== Sys2Proof/Machine/Ops.lean ====
section
/-!
DEFINITION. The shared operations over the state: time, free values, voted fields, health events, host
memory, and the interrupt controller.
-/
namespace Sys2Proof.Machine

/-- What one step answers. -/
abbrev Out := Host.Outcome State Fault Refusal

/-! ### Time, free values and voted fields -/

/-- The timebase, in ticks (R23). -/
def State.now (s : State) : Nat := s.cad.tb.toNat

/-- The timebase has reached `tick` (R23); it never runs backwards. -/
def State.at_ (tick : Nat) (s : State) : State :=
  s.onCad fun g => { g with tb := BitVec.ofNat 64 (max g.tb.toNat tick) }

/-- The uptime at a tick of the timebase: the ticks since reset, whatever `LOAD_TIMEBASE` has loaded (R37; DESIGN CHOICE,
assumption 54). -/
def State.elapsed (s : State) (tick : Nat) : Nat := ((tick : Int) - s.cad.tbShift).toNat

/-- The uptime, by which every duration is measured that is no deadline of R24. -/
def State.uptime (s : State) : Nat := s.elapsed s.now

/-- A value the specification leaves open (assumption 4). -/
def State.free (w : Nat) (s : State) : BitVec w := Config.freeValue w s.freeCount

/-- The next free value will be another one (assumption 4). -/
def State.drawn (s : State) : State := s.onFreeCount (· + 1)

/-- The vote over the three copies of a field: the majority, where two agree (R5, R404). -/
def Voted.value {w : Nat} (v : Voted w) : BitVec w := if v.b = v.c then v.b else v.a

/-- The vote over the three copies of the fence map (R5, R404). -/
def VotedMap.value (m : VotedMap) : List (BitVec 6) := if m.b = m.c then m.b else m.a

/-- The three copies of the fence map hold one map: what a write leaves (R404). -/
def VotedMap.all (m : List (BitVec 6)) : VotedMap := ⟨m, m, m⟩

/-- The period that `CAD_PERIOD` holds, in ticks (R39). -/
def State.period (s : State) : Nat := s.cad.period.value.toNat

/-- The period in force: the one that held at the latest boundary, and `CAD_PERIOD` before the first (R25, R26). -/
def State.inForce (s : State) : Nat := if s.cad.begun then s.cad.heldPeriod else s.period

/-- The cadence is `UNARMED` (R35). -/
def State.unarmed (s : State) : Bool := decide (s.cad.state = .unarmed)

/-- A `CYL_SWITCH` is pending (R155, R160): its boundary has not come, or the fill with which it completes has not ended
(R477). -/
def State.switchPending (s : State) : Bool := s.cyl.pend.isSome || s.cyl.fillHandle.isSome

/-- The device is in reset, as one stays whose boot has failed (R458). -/
def State.inReset (s : State) : Bool := s.cfg.inReset || decide (s.cfg.error ≠ 0)

/-! ### Health events -/

/-- The clock enable `b` of `SYS_CLK_EN` is set (R402, R406): 0 cadence, 1 grid, 2 cylinder, 3 memory, 4 weights, 5 serving,
6 fabric, 7 health, 8 command, 9 DMA. While it is not, the block's logic does not run. -/
def State.clocked (s : State) (b : Nat) : Bool := s.sys.clkEn.getLsbD b

/-- One health event more in the step's report (R21). -/
def State.healthEvent (s : State) : State := s.onStep fun g => { g with health := g.health + 1 }

/-- A health event of the cadence block (R40). -/
def State.raiseCad (b : Nat) (s : State) : State :=
  if s.clocked 0 then (s.onCad fun g => { g with events := g.events ||| bit 32 b }).healthEvent else s

/-- A health event of the grid control block (R75). -/
def State.raiseGrid (b : Nat) (s : State) : State :=
  if s.clocked 1 then (s.onGrid fun g => { g with events := g.events ||| bit 32 b }).healthEvent else s

/-- A health event of the arithmetic block (R106). -/
def State.raiseArith (b : Nat) (s : State) : State :=
  if s.clocked 1 then (s.onArith fun g => { g with events := g.events ||| bit 32 b }).healthEvent else s

/-- A health event of the cylinder block (R160). -/
def State.raiseCyl (b : Nat) (s : State) : State :=
  if s.clocked 2 then (s.onCyl fun g => { g with events := g.events ||| bit 32 b }).healthEvent else s

/-- A health event of the memory block (R235). -/
def State.raiseMem (b : Nat) (s : State) : State :=
  if s.clocked 3 then (s.onMem fun g => { g with events := g.events ||| bit 32 b }).healthEvent else s

/-- A health event of the weights block (R268). -/
def State.raiseWgt (b : Nat) (s : State) : State :=
  if s.clocked 4 then (s.onWgt fun g => { g with events := g.events ||| bit 32 b }).healthEvent else s

/-- A health event of the serving block (R307). -/
def State.raiseSrv (b : Nat) (s : State) : State :=
  if s.clocked 5 then (s.onSrv fun g => { g with events := g.events ||| bit 32 b }).healthEvent else s

/-- A health event of the command block (R396). -/
def State.raiseCmd (b : Nat) (s : State) : State :=
  if s.clocked 8 then (s.onCmd fun g => { g with events := g.events ||| bit 32 b }).healthEvent else s

/-- A health event of the health block (R361). -/
def State.raiseHlt (b : Nat) (s : State) : State :=
  if s.clocked 7 then (s.onHlt fun g => { g with events := g.events ||| bit 32 b }).healthEvent else s

/-- A health event of the fabric block (R341). -/
def State.raiseFab (b : Nat) (s : State) : State :=
  if s.clocked 6 then (s.onFab fun g => { g with events := g.events ||| bit 32 b }).healthEvent else s

/-- A health event of the power block (R457). -/
def State.raisePwr (b : Nat) (s : State) : State :=
  (s.onPwr fun g => { g with events := g.events ||| bit 32 b }).healthEvent

/-- A health event of the system control block (R406). -/
def State.raiseSys (b : Nat) (s : State) : State :=
  (s.onSys fun g => { g with events := g.events ||| bit 32 b }).healthEvent

/-- A health event of the interrupt controller (R419). -/
def State.raiseIc (b : Nat) (s : State) : State :=
  (s.onIc fun g => { g with events := g.events ||| bit 32 b }).healthEvent

/-- A health event of the management cores block (R430). -/
def State.raiseMgt (b : Nat) (s : State) : State :=
  (s.onMgt fun g => { g with events := g.events ||| bit 32 b }).healthEvent

/-- A health event of the reset and configuration block (R481). -/
def State.raiseCfg (b : Nat) (s : State) : State :=
  (s.onCfg fun g => { g with events := g.events ||| bit 32 b }).healthEvent

/-! ### Host memory (R16, R378) -/

/-- The read of `n` bytes of host memory at `a` with the requester identity of function `f`: none where it fails
(R378). -/
def State.hostRead (s : State) (f a n : Nat) : Option (List (BitVec 8)) :=
  if s.host.badReads.any (fun r => decide (r.1 = f) && decide (r.2.1 < a + n) && decide (a ≤ r.2.2)) then none
  else some (Mem.reads s.host.mem a n)

/-- Bytes written to host memory with the requester identity of function `f`, in the one order of R16; nothing is
written while the PCIe link is down (R353), or once a power failure has been acted on (R350). -/
def State.hostWrite (f a : Nat) (bs : List (BitVec 8)) (s : State) : State :=
  if s.pins.linkUp && (!s.hlt.pwrfail || s.hlt.pwrfailPending) then
    s.onHost fun g => { g with mem := Mem.writes g.mem a bs, log := (s.now, f, a, bs) :: g.log }
  else s

/-! ### Pins (R432, R458, R468, R489) -/

/-- The instruction of the test access port that is in effect (R489): IDCODE while `TRST_N` is low, as IEEE 1149.1 has it
(PRESUMED, assumption 187); EXTEST and the like, and the debug module, only while `RESET_N` is low, and the debug module not
while `debug_lock` is set: at any other time these are BYPASS. -/
def State.jtagInForce (s : State) : BitVec 8 :=
  let i := s.pins.jtagInstr
  if !s.pins.trstN then 1
  else if 3 ≤ i.toNat ∧ s.pins.resetN then 0
  else if i = 6 ∧ s.sys.lock.value.getLsbD 0 then 0
  else i

/-- The outputs that a board sees and that the boundary register can drive (R484, R489). -/
inductive OutputPin where
  | faultN | thermtripN | flPerstN | ddrResetN
  deriving DecidableEq, Repr

/-- What drives the AC-coupled fabric, host and flash lanes (R489): the device, the boundary register's levels under EXTEST, or
the one pulse or the train of pulses of IEEE 1149.6. -/
inductive LaneDrive where
  | own | steady | pulse | train
  deriving DecidableEq, Repr

/-- What drives the AC-coupled lanes now (R489). -/
def State.laneDrive (s : State) : LaneDrive :=
  match s.jtagInForce.toNat with
  | 3 => .steady
  | 4 => .pulse
  | 5 => .train
  | _ => .own

/-- The level of an output: that of the boundary register while an EXTEST instruction is in effect, which on a pin that is not
AC-coupled are one (R489; PRESUMED, assumption 187), else the device's own (R352, R446, R458). -/
def State.level (p : OutputPin) (s : State) : Bool :=
  let scan := decide (s.laneDrive ≠ .own)
  match p with
  | .faultN => if scan then s.pins.boundary.getLsbD 0 else s.pins.faultN
  | .thermtripN => if scan then s.pins.boundary.getLsbD 1 else s.pins.thermtripN
  | .flPerstN => if scan then s.pins.boundary.getLsbD 2 else s.pins.flPerstN
  | .ddrResetN => if scan then s.pins.boundary.getLsbD 3 else !s.pins.dimmReset

/-- The device drives `BOOT_SPI`: not while it is unpowered or `RESET_N` is low, when the lands are at high impedance so that
the board may write the boot flash (R458). -/
def State.drivesBootSpi (s : State) : Bool := s.pins.powered && s.pins.resetN

/-- AVSBus carries commands: it is idle until stage 0x04 of boot (R458). -/
def State.avsActive (s : State) : Bool := s.pins.powered && !s.cfg.inPulse && decide (4 ≤ s.cfg.stage.toNat)

/-! ### The interrupt controller (R407 to R419) -/

/-- The default sense of a source (R407). -/
def srcDefaultSense (n : Nat) : BitVec 3 :=
  if 960 ≤ n then 5 else if n = 46 then 4 else if n = 61 ∨ (1 ≤ n ∧ n ≤ 16) then 2 else 0

/-- A source in its reset state (R419). -/
def srcDefault (n : Nat) : SrcCfg := { SrcCfg.reset with sense := srcDefaultSense n }

/-- A source (R419). -/
def Ic.src (ic : Ic) (n : Nat) : SrcCfg := Sparse.get (srcDefault n) ic.srcs n

/-- A source changed. -/
def Ic.setSrc (n : Nat) (c : SrcCfg) (ic : Ic) : Ic :=
  { ic with srcs := Sparse.set (srcDefault n) ic.srcs n c }

/-- The source is enabled in `IC_ENABLE_w` (R418). -/
def Ic.enabled (ic : Ic) (n : Nat) : Bool := (Sparse.get 0 ic.enables (n / 32)).getLsbD (n % 32)

/-- The source's mask names target `t`, 5 being the gateway (R409, R419). -/
def SrcCfg.names (c : SrcCfg) (t : Nat) : Bool := c.targets.getLsbD t

/-- The source is a doorbell, or a wired source that the table of R407 assigns; no other is ever pending. -/
def srcAssigned (n : Nat) : Bool := decide (n ≤ 61) || decide (960 ≤ n)

/-- An ordered source is eligible for target `t` (R409). -/
def Ic.eligible (ic : Ic) (t n : Nat) : Bool :=
  let c := ic.src n
  !c.scan && ic.enabled n && !c.storm && c.names t && c.pending && c.inService.isNone

/-- A scan source in the mask of `t` is pending and not storm-masked (R410, R414). -/
def Ic.scanned (ic : Ic) (t n : Nat) : Bool :=
  let c := ic.src n
  c.scan && !c.storm && c.names t && c.pending

/-- An ordered source is eligible for `t`, or an enabled scan source in its mask is pending (R410). -/
def Ic.notifies (ic : Ic) (t n : Nat) : Bool := ic.eligible t n || (ic.enabled n && ic.scanned t n)

/-- The source counts as an event for `t` when this comes to hold (R410): an ordered source is eligible, or a scan source,
enabled or not, is pending in the mask. -/
def Ic.counts (ic : Ic) (t n : Nat) : Bool := ic.eligible t n || ic.scanned t n

/-- The numbers of the sources that are not in their reset state. -/
def Ic.listed (ic : Ic) : List Nat := ic.srcs.map (·.1)

/-- The highest-numbered ordered source eligible for `t`, 0 when none is (R410, R411). -/
def Ic.best (ic : Ic) (t : Nat) : Nat := (ic.listed.filter (ic.eligible t)).foldl max 0

/-- Global index of a vector of a function (R417). -/
def globalVector (f v : Nat) : Nat := if f = 0 then v else 1024 + 64 * (f - 1) + v

/-- Function of a global vector index (R417). -/
def vectorFunc (g : Nat) : Nat := if g < 1024 then 0 else (g - 1024) / 64 + 1

/-- Vector within the function of a global vector index (R417). -/
def vectorLocal (g : Nat) : Nat := if g < 1024 then g else (g - 1024) % 64

/-- A vector (R417). -/
def Ic.vec (ic : Ic) (g : Nat) : Vector_ := Sparse.get Vector_.reset ic.vectors g

/-- A vector changed. -/
def Ic.setVec (g : Nat) (v : Vector_) (ic : Ic) : Ic :=
  { ic with vectors := Sparse.set Vector_.reset ic.vectors g v }

/-- A message on a vector: the coalescing starts afresh; while the vector is masked its pending bit is
set instead (R417). Nothing is sent while MSI-X is not enabled for the function or the link is down. -/
def State.sendVector (g : Nat) (s : State) : State :=
  let v := s.ic.vec g
  let f := vectorFunc g
  let v0 := { v with coalesced := 0, firstAt := 0 }
  if v.masked || s.ic.msixMask.getLsbD f then
    s.onIc (Ic.setVec g { v0 with pendingBit := true })
  else if s.ic.msixEnable.getLsbD f && s.pins.linkUp then
    (s.onIc (Ic.setVec g { v0 with pendingBit := false, lastSent := some s.uptime })).onHost
      fun h => { h with msix := (s.now, f, vectorLocal g) :: h.msix }
  else s.onIc (Ic.setVec g v0)

/-- An event on a vector: sent at once on an idle vector or with moderation off, coalesced otherwise
(R417). -/
def State.vectorEvent (g : Nat) (s : State) : State :=
  let v := s.ic.vec g
  let idle := match v.lastSent with
    | none => true
    | some t => decide (t + v.time.toNat * 1000 ≤ s.uptime)
  if idle || v.time = 0 || decide (max 1 v.count.toNat ≤ v.coalesced + 1) then s.sendVector g
  else s.onIc (Ic.setVec g { v with
    coalesced := v.coalesced + 1, firstAt := if v.coalesced = 0 then s.uptime else v.firstAt })

/-- The forwarded sources that are eligible enter service with the gateway and count on their vectors;
one without a valid map raises `UNMAPPED` (R416). -/
def State.gateway (s : State) : State :=
  (s.ic.listed.filter (s.ic.eligible 5)).foldl (fun s n =>
    let s := s.onIc fun ic =>
      let c := ic.src n
      ic.setSrc n { c with inService := some 5,
                           pending := if 2 ≤ c.sense.toNat then false else c.pending }
    let m := Sparse.get 0 s.ic.gwMap n
    if m.getLsbD 31 then s.vectorEvent (m.extractLsb' 0 10).toNat else s.raiseIc 2) s

/-- A core that waits for an interrupt runs again (R430): its line rises, or it makes an access. -/
def State.wakeCore (t : Nat) (s : State) : State :=
  s.onMgt fun m => { m with coreState := listModify m.coreState t fun x => if x = 2 then 1 else x }

/-- Target `t` is idle: waiting for an interrupt, and holding no source in service (R410). -/
def State.targetIdle (s : State) (t : Nat) : Bool :=
  decide (s.mgt.coreState.getD t 0 = 2) &&
    !(s.ic.listed.any fun n => decide ((s.ic.src n).inService = some t))

/-- The notification line of target `t` brought up to date (R410); the core that it notifies waits no longer. -/
def State.line (t : Nat) (s : State) : State :=
  let g := s.ic.targets.getD t Target.reset
  let any := s.ic.listed.any (s.ic.notifies t)
  let set (g' : Target) : State := s.onIc fun ic => { ic with targets := listModify ic.targets t (fun _ => g') }
  if !any then (if g.line then set { g with line := false, eventsN := 0, firstAt := 0 } else s)
  else if g.line then s
  else if s.targetIdle t || g.time = 0 || decide (max 1 g.count.toNat ≤ g.eventsN) ||
      (decide (0 < g.eventsN) && decide (g.firstAt + g.time.toNat * 1000 ≤ s.uptime)) then
    (set { g with line := true, notice := BitVec.ofNat 10 (s.ic.best t) }).wakeCore t
  else s

/-- The five notification lines brought up to date (R410). -/
def State.lines (s : State) : State := (List.range 5).foldl (fun s t => s.line t) s

/-- A change of the interrupt controller's sources: the events it counts for each target, the lines it
raises, the sources it forwards, and the lines that then fall (R410, R416). -/
def State.icChange (f : Ic → Ic) (s : State) : State :=
  let a := s.ic
  let b := f a
  let fresh (t : Nat) : Nat := (b.listed.filter fun n => b.counts t n && !a.counts t n).length
  let count (t : Nat) (g : Target) : Target :=
    if fresh t = 0 then g
    else { g with eventsN := g.eventsN + fresh t, firstAt := if g.eventsN = 0 then s.uptime else g.firstAt }
  let b := { b with targets := b.targets.mapIdx count }
  (((s.onIc fun _ => b).lines).gateway).lines

/-- An assertion of source `n` (R408, R414): counted in its window; at 1,024 the source is
storm-masked. -/
def State.asserted (n : Nat) (s : State) : State :=
  let c := s.ic.src n
  let w := min 1024 (c.window + 1)
  if w = 1024 ∧ c.window < 1024 ∧ !c.storm then
    (s.icChange fun ic =>
      { (ic.setSrc n { ic.src n with window := w, storm := true }) with
        stormSrc := put 32 0 10 n ||| bit 32 31, stormCount := satInc ic.stormCount }).raiseIc 0
  else s.onIc fun ic => ic.setSrc n { ic.src n with window := w }

/-- Whether a level source is pending at this level of its signal; a latched source keeps its pending
state (R408). -/
def SrcCfg.pendingAt (c : SrcCfg) (was level : Bool) : Bool :=
  match c.sense.toNat with
  | 0 => level
  | 1 => !level
  | 2 => c.pending || (level && !was)
  | 3 => c.pending || (was && !level)
  | 4 => c.pending || (level != was)
  | _ => c.pending

/-- The wired signal of source `n` is at `level` (R408). -/
def State.signal (n : Nat) (level : Bool) (s : State) : State :=
  let c := s.ic.src n
  if c.signal = level then s
  else
    let p := c.pendingAt c.signal level
    let s := s.icChange fun ic => ic.setSrc n { c with signal := level, pending := p }
    if p && !c.pending then s.asserted n else s

/-- A pulse of a wired signal (R407). -/
def State.pulse (n : Nat) (s : State) : State := (s.signal n true).signal n false

/-- The level of an events-register source (R407). -/
def State.eventsLevel (s : State) (n : Nat) : Bool :=
  match n with
  | 45 => s.pins.sbIn.isSome
  | 47 => decide (s.cmd.events ≠ 0)
  | 48 => decide (s.wgt.events ≠ 0)
  | 49 => decide (s.mem.events ≠ 0)
  | 50 => decide (s.srv.events ≠ 0)
  | 51 => decide (s.cyl.events ≠ 0)
  | 52 => decide (s.fab.events ≠ 0)
  | 53 => decide (s.grid.events ≠ 0) || decide (s.arith.events ≠ 0)
  | 54 => decide (s.cad.events ≠ 0)
  | 55 => decide (s.cfg.events ≠ 0)
  | 56 => decide (s.hlt.events ≠ 0)
  | 57 => decide (s.sys.events ≠ 0)
  | 58 => decide (s.ic.events ≠ 0)
  | 59 => decide (s.pwr.events ≠ 0)
  | 60 => decide (s.mgt.events ≠ 0)
  | _ => (s.ic.src n).signal

/-- The sources whose level follows from a register of the device (R407). -/
def levelSources : List Nat := [45, 47, 48, 49, 50, 51, 52, 53, 54, 55, 56, 57, 59, 60, 58]

/-- The wired signals follow the events registers (R407); twice, since a storm or an unmapped source
raises an event of its own. -/
def State.settle (s : State) : State :=
  let once (s : State) : State := levelSources.foldl (fun s n => s.signal n (s.eventsLevel n)) s
  once (once s)

/-! ### The calibration store (R447) -/

/-- A record is written into the copy that does not hold the highest valid generation (R447). -/
def storePut (a b : StoreCopy) (bytes : List (BitVec 8)) : StoreCopy × StoreCopy :=
  let g (c : StoreCopy) : BitVec 64 := if c.valid then c.generation else 0
  let new (n : BitVec 64) : StoreCopy := { bytes := bytes, generation := n + 1, valid := true }
  if g b < g a then (a, new (g a)) else if g a = g b then (new (g a), b) else (new (g b), b)

/-- The record read: the copy of the highest generation whose CRC holds (R447). -/
def storeGet (a b : StoreCopy) : Option (List (BitVec 8)) :=
  if a.valid && (!b.valid || decide (b.generation < a.generation)) then some a.bytes
  else if b.valid then some b.bytes else none

/-- A record of the store is written (R447). -/
def State.storeWrite (r : StoreRec) (bytes : List (BitVec 8)) (s : State) : State :=
  s.onStore fun t => match r with
    | .calSet => let x := storePut t.cal0 t.cal1 bytes; { t with cal0 := x.1, cal1 := x.2 }
    | .fence => let x := storePut t.fence0 t.fence1 bytes; { t with fence0 := x.1, fence1 := x.2 }
    | .floor => let x := storePut t.floor0 t.floor1 bytes; { t with floor0 := x.1, floor1 := x.2 }
    | .ddrTraining => let x := storePut t.ddr0 t.ddr1 bytes; { t with ddr0 := x.1, ddr1 := x.2 }
    | .hbmTraining => let x := storePut t.hbm0 t.hbm1 bytes; { t with hbm0 := x.1, hbm1 := x.2 }
    | .hbmRepair => let x := storePut t.repair0 t.repair1 bytes; { t with repair0 := x.1, repair1 := x.2 }

/-- A write of a record starts (R447); it is in the store once `CALIBRATION_STORE_WRITE_DONE` comes. -/
def State.storeStart (r : StoreRec) (bytes : List (BitVec 8)) (h : Option (BitVec 32)) (s : State) : State :=
  s.onStore fun t => { t with writing := t.writing ++ [(r, bytes, h)] }

/-! ### Answers of the sideband (R488) -/

/-- The sideband answers a request (R488). -/
def State.sbAnswer (bs : List (BitVec 8)) (s : State) : State := s.onHost fun h => { h with answerBytes := bs }

/-- The answer of a request that was not completed is read again once it is (R488). -/
def State.sbLater (s : State) : State := match s.pins.sbDue with
  | some (t, bs) => if t ≤ s.uptime then (s.onPins fun p => { p with sbDue := none }).sbAnswer bs else s
  | none => s

end Sys2Proof.Machine
end

