-- ==== Sys2Proof/Machine/Image.lean ====
section
/-!
DEFINITION. The parts of a cylinder image (R132 to R148), read from its bytes.
-/
namespace Sys2Proof.Machine

/-- The header fields of an image (R133). -/
structure ImgHeader where
  /-- `image_size` -/
  size : Nat
  /-- `cylinder_id` -/
  id : BitVec 32
  /-- `section_count` -/
  sections : Nat
  /-- `budget` -/
  budget : Nat
  /-- `batch_slots` -/
  slots : Nat
  /-- `partition_size` -/
  partSize : Nat
  /-- `stage_index` -/
  stage : Nat
  /-- `flags` bit 0: batches formed by the host -/
  hostFormed : Bool
  deriving DecidableEq, Repr

/-- The header of an image (R133). -/
def imgHeader (b : List (BitVec 8)) : ImgHeader :=
  { size := fieldAt b 8 8, id := BitVec.ofNat 32 (fieldAt b 16 4), sections := fieldAt b 20 2,
    budget := fieldAt b 24 4, slots := fieldAt b 32 2, partSize := fieldAt b 34 1,
    stage := fieldAt b 35 1, hostFormed := (byteAt b 36).getLsbD 0 }

/-- An entry of the section table (R134). -/
structure Section_ where
  /-- `kind` -/
  kind : Nat
  /-- `offset` -/
  offset : Nat
  /-- `size` -/
  size : Nat
  /-- `entries` -/
  entries : Nat
  deriving DecidableEq, Repr

/-- The section table of an image (R134). -/
def imgSections (b : List (BitVec 8)) : List Section_ :=
  (List.range (imgHeader b).sections).map fun i =>
    let o := 256 + 16 * i
    { kind := fieldAt b o 2, offset := fieldAt b (o + 4) 4, size := fieldAt b (o + 8) 4,
      entries := fieldAt b (o + 12) 4 }

/-- The section of a kind, none where the image has none (R134). -/
def imgSection (b : List (BitVec 8)) (kind : Nat) : Option Section_ :=
  (imgSections b).find? fun x => decide (x.kind = kind)

/-- The entries of a section whose entry size is `n` bytes (R134). -/
def imgEntries (b : List (BitVec 8)) (kind n : Nat) : List (List (BitVec 8)) :=
  match imgSection b kind with
  | none => []
  | some x => (List.range x.entries).map fun i => (b.drop (x.offset + n * i)).take n

/-- A regions entry (R143). -/
structure Region where
  /-- `region` -/
  region : Nat
  /-- `flags` bit 0: adapters may be bound -/
  adapters : Bool
  /-- `first_slot` -/
  first : Nat
  /-- `slot_count` -/
  count : Nat
  /-- `model_id` -/
  model : Nat
  /-- `version` -/
  version : BitVec 8
  deriving DecidableEq, Repr

/-- The regions of an image (R143). -/
def imgRegions (b : List (BitVec 8)) : List Region :=
  (imgEntries b 1 16).map fun e =>
    { region := fieldAt e 0 1, adapters := (byteAt e 1).getLsbD 0, first := fieldAt e 2 2,
      count := fieldAt e 4 2, model := fieldAt e 8 4, version := byteAt e 12 }

/-- The region of a number (R143). -/
def imgRegion (b : List (BitVec 8)) (r : Nat) : Option Region :=
  (imgRegions b).find? fun x => decide (x.region = r)

/-- The cell map entry of a logical cell: its program index and its token-template table (R135). -/
def imgCell (b : List (BitVec 8)) (c : Nat) : Nat × Nat :=
  match imgSection b 2 with
  | none => (0, 0xFFFF)
  | some x => (fieldAt b (x.offset + 4 * c) 2, fieldAt b (x.offset + 4 * c + 2) 2)

/-- The slot words of a program (R135). -/
def imgProgram (b : List (BitVec 8)) (p : Nat) : List (BitVec 128) :=
  match imgSection b 3 with
  | none => []
  | some x =>
    let d := x.offset + 8 + 16 * p
    let o := x.offset + fieldAt b d 4
    (List.range (fieldAt b (d + 4) 4)).map fun i => BitVec.ofNat 128 (fieldAt b (o + 16 * i) 16)

/-- A buffers entry (R144). -/
structure Buffer where
  /-- `cell` -/
  cell : Nat
  /-- `class` -/
  cls : Nat
  /-- `flags` bit 0: scale table -/
  scales : Bool
  /-- `flags` bit 1: keep-eligible -/
  keep : Bool
  /-- `address` -/
  addr : Nat
  /-- `length` -/
  len : Nat
  /-- `source` -/
  source : Nat
  /-- `model_id` -/
  model : Nat
  /-- `version` -/
  version : BitVec 8
  /-- `source_offset` -/
  srcOff : Nat
  deriving DecidableEq, Repr

/-- The buffers of an image (R144). -/
def imgBuffers (b : List (BitVec 8)) : List Buffer :=
  (imgEntries b 4 32).map fun e =>
    { cell := fieldAt e 0 2, cls := fieldAt e 2 1, scales := (byteAt e 3).getLsbD 0,
      keep := (byteAt e 3).getLsbD 1, addr := fieldAt e 4 4, len := fieldAt e 8 4,
      source := fieldAt e 12 1, model := fieldAt e 16 4, version := byteAt e 20,
      srcOff := fieldAt e 24 8 }

/-- The carried buffers of an image, each with its offset in the mirrors, in the order of the section (R144). -/
def carriedOf (img : List (BitVec 8)) : List (Buffer × Nat) :=
  ((imgBuffers img).filter fun x => decide (x.cls = 2)).foldl (fun r x =>
    r ++ [(x, match r.getLast? with | some y => y.2 + y.1.len | none => 0)]) []

/-- The tier-1 windows of an image (R144). -/
def imgWindows (b : List (BitVec 8)) : List Buffer := (imgBuffers b).filter fun x => decide (x.cls = 4)

/-- A trackers entry (R145). -/
structure TrackerDecl where
  /-- `cell` -/
  cell : Nat
  /-- `tracker` -/
  tracker : Nat
  /-- `format` -/
  format : BitVec 8
  /-- `exponent` -/
  e : Int
  /-- `hold` -/
  hold : Nat
  /-- `flags` bit 0 -/
  locked : Bool
  deriving DecidableEq, Repr

/-- The tracker declarations of an image (R145). -/
def imgTrackers (b : List (BitVec 8)) : List TrackerDecl :=
  (imgEntries b 5 8).map fun e =>
    { cell := fieldAt e 0 2, tracker := fieldAt e 2 1, format := byteAt e 3, e := (byteAt e 4).toInt,
      hold := fieldAt e 5 1, locked := (byteAt e 6).getLsbD 0 }

/-- A token template: token, destination and lane; none where the table does not exist (R146). -/
def imgTemplate (b : List (BitVec 8)) (table i : Nat) : Option (BitVec 64) :=
  match imgSection b 6 with
  | none => none
  | some x =>
    if table < x.entries then some (BitVec.ofNat 64 (fieldAt b (x.offset + 512 * table + 8 * i) 8)) else none

/-- A hub-strings entry (R146). -/
structure HubString where
  /-- beat of injection -/
  beat : Nat
  /-- destination row -/
  row : Nat
  /-- destination column -/
  col : Nat
  /-- `kind` -/
  kind : BitVec 4
  /-- `target` -/
  target : BitVec 4
  /-- `tag` -/
  tag : BitVec 8
  /-- value selector -/
  sel : Nat
  /-- immediate -/
  imm : BitVec 32
  deriving DecidableEq, Repr

/-- The hub strings of an image (R146). A kind or target byte above 15 is cut to its low four bits, since no check refuses
it (DESIGN CHOICE, assumption 174). -/
def imgHubStrings (b : List (BitVec 8)) : List HubString :=
  (imgEntries b 7 16).map fun e =>
    { beat := fieldAt e 0 4, row := fieldAt e 4 1, col := fieldAt e 5 1,
      kind := BitVec.ofNat 4 (fieldAt e 6 1), target := BitVec.ofNat 4 (fieldAt e 7 1), tag := byteAt e 8,
      sel := fieldAt e 9 1, imm := BitVec.ofNat 32 (fieldAt e 12 4) }

/-- A steering-streams entry: cell, stream, pairing window, tag (R147). -/
structure SteerDecl where
  /-- `cell` -/
  cell : Nat
  /-- `stream`, as its byte -/
  stream : Nat
  /-- pairing window, cycles -/
  window : Nat
  /-- tag -/
  tag : BitVec 8
  deriving DecidableEq, Repr

/-- The steering streams of an image (R147). -/
def imgSteer (b : List (BitVec 8)) : List SteerDecl :=
  (imgEntries b 8 8).map fun e =>
    { cell := fieldAt e 0 2, stream := fieldAt e 2 1, window := fieldAt e 3 1,
      tag := byteAt e 4 }

/-- An edge-streams entry (R148). -/
structure EdgeDecl where
  /-- `index` -/
  index : Nat
  /-- `kind`: 1 fabric out, 2 fabric in, 3 tier-2 in -/
  kind : Nat
  /-- `peer` -/
  peer : Nat
  /-- `first_beat` -/
  first : Nat
  /-- `last_beat` -/
  last : Nat
  /-- `bytes` -/
  bytes : Nat
  /-- `cell` -/
  cell : Nat
  /-- `counter` -/
  counter : Nat
  /-- `sram` -/
  sram : Nat
  /-- `model_id` -/
  model : Nat
  /-- `version` -/
  version : BitVec 8
  /-- `source_offset` -/
  srcOff : Nat
  deriving DecidableEq, Repr

/-- The edge streams of an image (R148). -/
def imgEdges (b : List (BitVec 8)) : List EdgeDecl :=
  (imgEntries b 9 48).map fun e =>
    { index := fieldAt e 0 1, kind := fieldAt e 1 1, peer := fieldAt e 2 1, first := fieldAt e 4 4,
      last := fieldAt e 8 4, bytes := fieldAt e 12 4, cell := fieldAt e 16 2,
      counter := fieldAt e 18 1, sram := fieldAt e 20 4,
      model := fieldAt e 24 4, version := byteAt e 28, srcOff := fieldAt e 32 8 }

/-- The edge stream of an index (R148). -/
def imgEdge (b : List (BitVec 8)) (i : Nat) : Option EdgeDecl :=
  (imgEdges b).find? fun x => decide (x.index = i)

/-- Bytes of the constants section (R134). -/
def imgConstants (b : List (BitVec 8)) (o n : Nat) : List (BitVec 8) :=
  match imgSection b 10 with
  | none => List.replicate n 0
  | some x => padTo n ((b.drop (x.offset + o)).take (min n (x.size - o)))

/-- The cylinder of a state (R151). -/
def State.cylOf (s : State) (st : CylStatus) : Option KnownCyl :=
  s.cyl.known.find? fun k => decide (k.status = st)

/-- The known cylinder of an identity (R151). -/
def State.cylById (s : State) (id : BitVec 32) : Option KnownCyl :=
  s.cyl.known.find? fun k => decide (k.id = id)

/-- The image of the active cylinder, empty when none is active (R151). -/
def State.active (s : State) : List (BitVec 8) :=
  match s.cylOf .active with
  | none => []
  | some k => k.image

end Sys2Proof.Machine
end

