-- ==== Sys2Proof/Machine/Program.lean ====
section
/-!
DEFINITION. What a slot program does whatever the data: the words it plays at each beat (R142), and the
data-mover registers it holds at each issue, which no data changes (R139).
-/
namespace Sys2Proof.Machine

/-- The place of a sub-slot that the loader reads: a cell and a beat. -/
def place (cell beat : Nat) : At := { cell := cell, beat := beat }

/-- The loop stack and the next word after an `ENDLOOP` at word `w` (R142); the stack keeps its four latest
entries (assumption 15). -/
def loopStep (w trip body : Nat) (stack : List (Nat × Nat)) : List (Nat × Nat) × Nat :=
  let stack := match stack with
    | (e, n) :: r => if e = w then (e, n - 1) :: r else (w, trip - 1) :: (e, n) :: r
    | [] => [(w, trip - 1)]
  match stack with
  | (_, 0) :: r => (r, w + 1)
  | st => (st.take 4, w + 1 - body)

/-- The words of a program at their beats, from word `w` at beat `b` on, at most `fuel` of them (R142). -/
def unroll (ws : List (BitVec 128)) : Nat → Nat → Nat → List (Nat × Nat) → List (Nat × Nat)
  | 0, _, _, _ => []
  | fuel + 1, b, w, stack =>
    match ws[w]? with
    | none => []
    | some x =>
      match decodeControl (place 0 b) (x.extractLsb' 0 32) with
      | some (.idle _ n) => (b, w) :: unroll ws fuel (b + n.toNat) (w + 1) stack
      | some (.endloop _ t l) =>
        let r := loopStep w t.toNat l.toNat stack
        (b, w) :: unroll ws fuel (b + 1) r.2 r.1
      | _ => (b, w) :: unroll ws fuel (b + 1) (w + 1) stack

/-- The words of the program of a logical cell at their beats (R135, R142). -/
def cellPlay (img : List (BitVec 8)) (cell : Nat) : List (Nat × BitVec 128) :=
  let ws := imgProgram img (imgCell img cell).1
  (unroll ws ((imgHeader img).budget + 1) 0 0 []).map fun x => (x.1, ws.getD x.2 0)

/-- The data-mover registers and strides (R139). -/
structure DaRegs where
  /-- `DA0` to `DA7` -/
  da : SMap (BitVec 32)
  /-- their strides -/
  ds : SMap (BitVec 16)
  deriving DecidableEq, Repr

/-- A register advanced by its stride (R139). -/
def DaRegs.adv (r : BitVec 3) (g : DaRegs) : DaRegs :=
  { g with da := Sparse.modify 0 g.da r.toNat fun v => v + (Sparse.get 0 g.ds r.toNat).signExtend 32 }

/-- The registers after a data-mover sub-slot (R139). -/
def DaRegs.after (i : Instr) (g : DaRegs) : DaRegs :=
  match i with
  | .dseta _ r h imm => { g with da := Sparse.modify 0 g.da r.toNat fun v =>
      if h then imm ++ (0 : BitVec 16) else v.extractLsb' 16 16 ++ imm }
  | .dsets _ r d => { g with ds := Sparse.set 0 g.ds r.toNat d }
  | .copy _ o | .send _ o | .gather _ o | .readT1 _ o | .writeT1 _ o | .steer _ o =>
    if o.src = o.dst then g.adv o.src else (g.adv o.src).adv o.dst
  | _ => g

/-- Flits or indices of a transfer: `len`, 0 meaning 128 (R139). -/
def moverCount (o : DOp) : Nat := if o.len = 0 then 128 else o.len.toNat

/-- SRAM byte address in a data-mover register (R139). -/
def daSram (v : BitVec 32) : Nat := 64 * (v.extractLsb' 0 14).toNat

/-- Destination cell of a mesh destination: a logical cell, or 1,536 + s for edge stream s; none where the
row and column name neither (R139). -/
def meshCell (v : BitVec 32) : Option Nat :=
  let row := (v.extractLsb' 20 5).toNat
  let col := (v.extractLsb' 14 6).toNat
  if row < 24 then some (row * 64 + col) else if row = 31 then some (1536 + col) else none

/-- A data-mover issue of a program: its beat, its operation and the registers it sees. -/
abbrev MoverIssue := Nat × Instr × DaRegs

/-- The data-mover issues of a cell's program (R139). -/
def moverIssues (cell : Nat) : List (Nat × BitVec 128) → DaRegs → List MoverIssue
  | [], _ => []
  | (b, w) :: r, g =>
    match decodeMover (place cell b) (w.extractLsb' 32 32) with
    | none | some (.dnop _) => moverIssues cell r g
    | some i => (b, i, g) :: moverIssues cell r (g.after i)

/-- The data-mover issues of a logical cell (R135, R139). -/
def cellMoves (img : List (BitVec 8)) (cell : Nat) : List MoverIssue :=
  moverIssues cell (cellPlay img cell) ⟨[], []⟩

/-- The cell that a token template names (R146). -/
def templateCell (w : BitVec 64) : Nat := 64 * (w.extractLsb' 48 5).toNat + (w.extractLsb' 53 6).toNat

/-- The logical cell and the counter that a steering destination names (R188). -/
def steerNames (value : BitVec 32) (cell : Nat) (k : BitVec 4) : Bool :=
  decide ((value.extractLsb' 20 5).toNat * 64 + (value.extractLsb' 14 6).toNat = cell) &&
    decide (value.extractLsb' 25 4 = k)

/-- A token raises counter `k` of `cell` on its arrival, or steers what lands there through the steering unit of another
cell; a value that the program does not fix may name any cell (assumption 11). -/
def tokenFeeds (kind : BitVec 4) (dest : Nat) (target : BitVec 4) (value : Option (BitVec 32)) (cell : Nat)
    (k : BitVec 4) : Bool :=
  if kind = 3 then decide (dest = cell) && decide (target = k)
  else if kind = 2 ∨ kind = 4 then decide (dest ≠ cell) && (match value with
    | some v => steerNames v cell k
    | none => true)
  else false

/-- A sub-slot of another cell's program feeds counter `k` of `cell`: a `SEND` (R139) or a token (R140). -/
def programFeeds (img : List (BitVec 8)) (other cell : Nat) (k : BitVec 4) : Bool :=
  ((cellMoves img other).any fun x => match x.2.1 with
    | .send _ o =>
      let d := Sparse.get 0 x.2.2.da o.dst.toNat
      decide (meshCell d = some cell) && decide (d.extractLsb' 25 4 = k)
    | _ => false) ||
  ((cellPlay img other).any fun x => match decodeControl (place other x.1) (x.2.extractLsb' 0 32) with
    | some (.string _ t sc) => match imgTemplate img (imgCell img other).2 t.toNat with
      | some w => tokenFeeds (w.extractLsb' 44 4) (templateCell w) (w.extractLsb' 40 4)
          (if sc = 0 then some (w.extractLsb' 0 32) else none) cell k
      | none => false
    | _ => false)

/-- Something outside the cell raises its counter `k` in a step of the cylinder: a unit of another cell, an inbound
stream of the edge, or a token of the hub (R60, R146, R148). -/
def remoteFeeds (img : List (BitVec 8)) (cell : Nat) (k : BitVec 4) : Bool :=
  ((List.range 1536).any fun c => decide (c ≠ cell) && programFeeds img c cell k) ||
  ((imgEdges img).any fun e => decide (e.kind ≠ 1) && decide (e.cell = cell) && decide (e.counter = k.toNat)) ||
  ((imgHubStrings img).any fun h =>
    tokenFeeds h.kind (h.row * 64 + h.col) h.target (if h.sel = 0 then some h.imm else none) cell k)

/-- The messages that an edge stream carries in a step: the `SEND` issues of its source cell that name it
(R148, R318). -/
def sendCount (img : List (BitVec 8)) (e : EdgeDecl) : Nat :=
  ((cellMoves img e.cell).filter fun x => match x.2.1 with
    | .send _ o => decide (meshCell (Sparse.get 0 x.2.2.da o.dst.toNat) = some (1536 + e.index))
    | _ => false).length

end Sys2Proof.Machine
end

