-- ==== Sys2Proof/Machine/Flags.lean ====
section
/-!
DEFINITION. The number formats (R76 to R80), conversion and rounding (R85, R86), the arithmetic flags
(R99) and the elementary operations on exact values.
-/
namespace Sys2Proof.Machine

/-- The arithmetic flags, bit by bit as R99 numbers them. -/
abbrev AFlags := BitVec 5

/-- invalid (R99) -/
def fInvalid : AFlags := 1
/-- overflow (R99) -/
def fOverflow : AFlags := 2
/-- underflow (R99) -/
def fUnderflow : AFlags := 4
/-- inexact (R99) -/
def fInexact : AFlags := 8
/-- saturated (R99) -/
def fSaturated : AFlags := 16

/-- An exact value: NaN, an infinity, or (−1)^neg × m × 2^e. -/
inductive Fl where
  | nan
  | inf (neg : Bool)
  | fin (neg : Bool) (m : Nat) (e : Int)
  deriving DecidableEq, Repr

/-- The element formats of R78. -/
inductive Fmt where
  | fp4 | e4m3 | e5m2 | bf16 | fp16 | fp32
  deriving DecidableEq, Repr

/-- Bits of a code (R78). -/
def Fmt.width : Fmt → Nat
  | .fp4 => 4 | .e4m3 => 8 | .e5m2 => 8 | .bf16 => 16 | .fp16 => 16 | .fp32 => 32

/-- Bits of the mantissa field (R78). -/
def Fmt.man : Fmt → Nat
  | .fp4 => 1 | .e4m3 => 3 | .e5m2 => 2 | .bf16 => 7 | .fp16 => 10 | .fp32 => 23

/-- Exponent bias (R78). -/
def Fmt.bias : Fmt → Int
  | .fp4 => 1 | .e4m3 => 7 | .e5m2 => 15 | .bf16 => 127 | .fp16 => 15 | .fp32 => 127

/-- Code of the largest finite value, sign apart (R78). -/
def Fmt.maxCode : Fmt → Nat
  | .fp4 => 7 | .e4m3 => 0x7E | .e5m2 => 0x7B | .bf16 => 0x7F7F | .fp16 => 0x7BFF | .fp32 => 0x7F7FFFFF

/-- The canonical NaN; FP4 has none and takes code 0 (R80, R86). -/
def Fmt.nanCode : Fmt → Nat
  | .fp4 => 0 | .e4m3 => 0x7F | .e5m2 => 0x7F | .bf16 => 0x7FC0 | .fp16 => 0x7E00 | .fp32 => 0x7FC00000

/-- Overflow goes to infinity (R86). -/
def Fmt.toInf : Fmt → Bool
  | .bf16 | .fp16 | .fp32 => true
  | _ => false

/-- Exponent of the format's smallest subnormal (R78). -/
def Fmt.emin (f : Fmt) : Int := 1 - f.bias - f.man

/-- Largest exponent lg of a finite value: emax of R87. -/
def Fmt.emax : Fmt → Int
  | .fp4 => 2 | .e4m3 => 8 | .e5m2 => 15 | .bf16 => 127 | .fp16 => 15 | .fp32 => 127

/-- The code with its sign. -/
def Fmt.signed (f : Fmt) (neg : Bool) (c : Nat) : Nat := (if neg then 2 ^ (f.width - 1) else 0) + c

/-- The value of a code (R78). -/
def Fmt.decode (f : Fmt) (c : Nat) : Fl :=
  let c := c % 2 ^ f.width
  let neg := decide (2 ^ (f.width - 1) ≤ c)
  let a := c % 2 ^ (f.width - 1)
  if f.maxCode < a then
    (if f.toInf || decide (f = .e5m2) then (if a = f.maxCode + 1 then .inf neg else .nan) else .nan)
  else
    let x := a / 2 ^ f.man
    let m := a % 2 ^ f.man
    if x = 0 then .fin neg m f.emin else .fin neg (2 ^ f.man + m) (f.emin + (x - 1 : Nat))

/-- The number of the highest set bit: floor(log2 m). -/
def lgNat (m : Nat) : Nat := Nat.log2 m

/-- lg of a positive exact value m × 2^e (R87). -/
def lgVal (m : Nat) (e : Int) : Int := (lgNat m : Int) + e

/-- m × 2^e as a multiple of 2^q, to nearest with ties to even, and whether it is exact (R85). -/
def roundQ (m : Nat) (e q : Int) : Nat × Bool :=
  if q ≤ e then (m * 2 ^ (e - q).toNat, true)
  else
    let k := 2 ^ (q - e).toNat
    let n := m / k
    let r := m % k
    if r = 0 then (n, true)
    else if 2 * r < k then (n, false)
    else if k < 2 * r then (n + 1, false)
    else (n + n % 2, false)

/-- The conversion of an exact value to a format, with the flags it raises (R85, R86, R99). -/
def Fmt.round (f : Fmt) (x : Fl) : Nat × AFlags :=
  match x with
  | .nan => (f.nanCode, fInvalid)
  | .inf neg =>
    if f.toInf || decide (f = .e5m2) then (f.signed neg (f.maxCode + 1), 0)
    else (f.signed neg f.maxCode, fSaturated ||| fInexact)
  | .fin neg m e =>
    if m = 0 then (f.signed neg 0, 0)
    else
      let l := lgVal m e
      let q := max (l - f.man) f.emin
      let (n, exact) := roundQ m e q
      let c := (q - f.emin).toNat * 2 ^ f.man + n
      let inx : AFlags := if exact then 0 else fInexact
      let und : AFlags := if !exact && decide (l < f.emin + f.man) then fUnderflow else 0
      if f.maxCode < c then
        (if f.toInf then (f.signed neg (f.maxCode + 1), fOverflow ||| fInexact)
         else (f.signed neg f.maxCode, fSaturated ||| fInexact))
      else (f.signed neg c, inx ||| und)

/-! ### Operations on exact values -/

/-- The value is NaN. -/
def Fl.isNan : Fl → Bool
  | .nan => true
  | _ => false

/-- The value is a zero. -/
def Fl.isZero : Fl → Bool
  | .fin _ m _ => decide (m = 0)
  | _ => false

/-- The value is finite. -/
def Fl.isFin : Fl → Bool
  | .fin _ _ _ => true
  | _ => false

/-- The sign bit. -/
def Fl.neg? : Fl → Bool
  | .nan => false
  | .inf n => n
  | .fin n _ _ => n

/-- The negative. -/
def Fl.negate : Fl → Fl
  | .nan => .nan
  | .inf n => .inf !n
  | .fin n m e => .fin (!n) m e

/-- The magnitude. -/
def Fl.abs : Fl → Fl
  | .nan => .nan
  | .inf _ => .inf false
  | .fin _ m e => .fin false m e

/-- The signed mantissa of a finite value scaled to exponent `q`, which is at most its own. -/
def scaled (neg : Bool) (m : Nat) (e q : Int) : Int :=
  let k : Int := (m * 2 ^ (e - q).toNat : Nat)
  if neg then -k else k

/-- The exact sum; a zero sum of finite values is +0 unless both are −0 (IEEE 754, round to nearest). -/
def Fl.add : Fl → Fl → Fl
  | .nan, _ => .nan
  | _, .nan => .nan
  | .inf a, .inf b => if a = b then .inf a else .nan
  | .inf a, _ => .inf a
  | _, .inf b => .inf b
  | .fin a m e, .fin b n d =>
    let q := min e d
    let k := scaled a m e q + scaled b n d q
    if k = 0 then .fin (decide (m = 0) && decide (n = 0) && a && b) 0 q
    else .fin (decide (k < 0)) k.natAbs q

/-- The exact product (R88). -/
def Fl.mul : Fl → Fl → Fl
  | .nan, _ => .nan
  | _, .nan => .nan
  | .inf a, y => if y.isZero then .nan else .inf (a != y.neg?)
  | x, .inf b => if x.isZero then .nan else .inf (x.neg? != b)
  | .fin a m e, .fin b n d => .fin (a != b) (m * n) (e + d)

/-- The value times 2^k. -/
def Fl.shift (k : Int) : Fl → Fl
  | .fin n m e => .fin n m (e + k)
  | x => x

/-- Whether x < y of two values that are not NaN, −0 below +0 where `signedZero` (R117, R122). -/
def Fl.less (signedZero : Bool) : Fl → Fl → Bool
  | .nan, _ => false
  | _, .nan => false
  | .inf a, .inf b => a && !b
  | .inf a, _ => a
  | _, .inf b => !b
  | .fin a m e, .fin b n d =>
    let q := min e d
    let x := scaled a m e q
    let y := scaled b n d q
    decide (x < y) || (signedZero && decide (m = 0) && decide (n = 0) && a && !b)

/-- The larger value (R117). -/
def Fl.max (x y : Fl) : Fl := if x.isNan || y.isNan then .nan else if x.less true y then y else x

/-- The smaller value (R117). -/
def Fl.min (x y : Fl) : Fl := if x.isNan || y.isNan then .nan else if y.less true x then y else x

/-- The positive value 2^k × n / d with an inexact tail marked below the last of its bits: enough to round
it correctly once. -/
def ratio (neg : Bool) (n d : Nat) (k : Int) : Fl :=
  let p := 64 + lgNat d
  let x := n * 2 ^ p
  let q := x / d
  .fin neg (2 * q + (if x % d = 0 then 0 else 1)) (k - p - 1)

/-! ### The functions of R118 -/

/-- Bits of the fixed-point numbers of the functions. -/
def fxBits : Nat := 448

/-- The sum of z^(2k+1) / (2k+1) over n terms, fixed point: atanh z. -/
def atanhSeries (z2 : Nat) : Nat → Nat → Nat → Nat → Nat
  | 0, _, _, acc => acc
  | n + 1, k, p, acc => atanhSeries z2 n (k + 2) (p * z2 / 2 ^ fxBits) (acc + p / k)

/-- atanh of num / den, fixed point, for at most one third. -/
def atanhFix (num den : Nat) : Nat :=
  let z := num * 2 ^ fxBits / den
  atanhSeries (z * z / 2 ^ fxBits) 150 1 z 0

/-- ln 2, fixed point. -/
def ln2Fix : Nat := 2 * atanhFix 1 3

/-- The sum of y^k / k! over n terms, fixed point. -/
def expSeries (y : Nat) : Nat → Nat → Nat → Nat → Nat
  | 0, _, _, acc => acc
  | n + 1, k, p, acc => expSeries y n (k + 1) (p * y / 2 ^ fxBits / k) (acc + p)

/-- e^y for 0 ≤ y < 1, fixed point. -/
def expFix (y : Nat) : Nat := expSeries y 100 1 (2 ^ fxBits) 0

/-- m × 2^e, fixed point, for e of −448 or more. -/
def toFix (m : Nat) (e : Int) : Nat := m * 2 ^ (e + fxBits).toNat

/-- A fixed-point value that is known to be inexact. -/
def inexactFix (neg : Bool) (x : Nat) (k : Int) : Fl := .fin neg (2 * x + 1) (k - fxBits - 1)

/-- e^y for y = Y × 2^−448, as a fixed-point value and a power of two. -/
def expBig (Y : Nat) : Nat × Nat := (expFix (Y % ln2Fix), Y / ln2Fix)

/-- 2^a (R118). -/
def flExp2 : Fl → Fl
  | .nan => .nan
  | .inf true => .fin false 0 0
  | .inf false => .inf false
  | .fin neg m e =>
    if m = 0 then .fin false 1 0
    else if 8 ≤ lgVal m e then (if neg then .fin false 1 (-300) else .fin false 1 300)
    else
      let x := toFix m e
      let k : Int := (x / 2 ^ fxBits : Nat)
      let f := x % 2 ^ fxBits
      if f = 0 then .fin false 1 (if neg then -k else k)
      else
        let (g, k) := if neg then (2 ^ fxBits - f, -k - 1) else (f, k)
        inexactFix false (expFix (g * ln2Fix / 2 ^ fxBits)) k

/-- log2 a (R118). -/
def flLog2 : Fl → Fl
  | .nan => .nan
  | .inf true => .nan
  | .inf false => .inf false
  | .fin neg m e =>
    if m = 0 then .inf true
    else if neg then .nan
    else
      let k := lgVal m e
      let u := 2 ^ lgNat m
      if m = u then .fin (decide (k < 0)) k.natAbs 0
      else
        let l := 2 * atanhFix (m - u) (m + u) * 2 ^ fxBits / ln2Fix
        let v : Int := k * (2 ^ fxBits : Nat) + (l : Int)
        if 0 ≤ v then inexactFix false v.toNat 0
        else .fin true (2 * v.natAbs - 1) (-(fxBits : Int) - 1)

/-- 1 ÷ a (R118). -/
def flRcp : Fl → Fl
  | .nan => .nan
  | .inf n => .fin n 0 0
  | .fin n m e => if m = 0 then .inf n else ratio n 1 m (-e)

/-- The integer square root by Newton's rule from above, in at most `n` rounds. -/
def isqrtLoop : Nat → Nat → Nat → Nat
  | 0, _, x => x
  | n + 1, a, x => let y := (x + a / x) / 2; if y < x then isqrtLoop n a y else x

/-- The integer square root. -/
def isqrt (a : Nat) : Nat := if a = 0 then 0 else isqrtLoop 300 a (2 ^ (lgNat a / 2 + 1))

/-- 1 ÷ √a (R118). -/
def flRsqrt : Fl → Fl
  | .nan => .nan
  | .inf true => .nan
  | .inf false => .fin false 0 0
  | .fin neg m e =>
    if m = 0 then .inf neg
    else if neg then .nan
    else
      let (m, e) := if e % 2 = 0 then (m, e) else (2 * m, e - 1)
      let r := isqrt (2 ^ 160 / m)
      .fin false (2 * r + (if r * r * m = 2 ^ 160 then 0 else 1)) (-(e / 2) - 81)

/-- 1 ÷ (1 + e^−a) (R118). -/
def flSigm : Fl → Fl
  | .nan => .nan
  | .inf true => .fin false 0 0
  | .inf false => .fin false 1 0
  | .fin neg m e =>
    if m = 0 then .fin false 1 (-1)
    else if 8 ≤ lgVal m e then
      (if neg then .fin false 1 (-300) else .fin false (2 ^ 300 - 1) (-300))
    else
      let (x, k) := expBig (toFix m e)
      let w := x * 2 ^ k
      let one := 2 ^ fxBits
      if neg then inexactFix false (one * one / (one + w)) 0
      else inexactFix false (w * one / (one + w)) 0

/-- tanh a (R118). -/
def flTanh : Fl → Fl
  | .nan => .nan
  | .inf n => .fin n 1 0
  | .fin neg m e =>
    if m = 0 then .fin neg 0 0
    else if 7 ≤ lgVal m e then .fin neg (2 ^ 300 - 1) (-300)
    else
      let (x, k) := expBig (toFix m (e + 1))
      let w := x * 2 ^ k
      let one := 2 ^ fxBits
      inexactFix neg ((w - one) * one / (w + one)) 0

/-- A function of R118 on an FP32 value, rounded once, with its flags: a NaN result raises invalid, and
`LOG2`, `RCP` and `RSQRT` of a zero raise overflow. -/
def fnFp32 (f : Fl → Fl) (zeroOverflows : Bool) (a : BitVec 32) : Nat × AFlags :=
  let x := Fmt.fp32.decode a.toNat
  let (c, fl) := Fmt.fp32.round (f x)
  (c, fl ||| (if zeroOverflows && x.isZero then fOverflow else 0))

end Sys2Proof.Machine
end

