-- ==== Sys2Proof/Machine/Tile.lean ====
section
/-!
DEFINITION. Tiles and their headers (R161 to R167), and the exact arithmetic of a pass on two tiles (R88 to R97).
-/
namespace Sys2Proof

/-! ### Shapes and formats -/

/-- Rows M of the A tile (R161). -/
def Shape.m : Shape → Nat
  | .s16 => 16 | .s64 => 64 | .s256 => 256 | .sa => 64

/-- Reduction positions K (R161). -/
def Shape.k : Shape → Nat
  | .s16 => 512 | .s64 => 256 | .s256 => 128 | .sa => 128

/-- Columns N of the B tile (R161). -/
def Shape.n : Shape → Nat
  | .s16 => 64 | .s64 => 64 | .s256 => 64 | .sa => 128

/-- Header code of a shape (R161). -/
def Shape.code : Shape → Nat
  | .s16 => 1 | .s64 => 2 | .s256 => 3 | .sa => 4

/-- Cycles of a dense FP4 pass (R46). -/
def Shape.cycles : Shape → Nat
  | .s16 => 128 | .s64 => 256 | .s256 => 512 | .sa => 256

end Sys2Proof

namespace Sys2Proof.Machine

/-! ### Formats -/

/-- Element format of a format code that is a matrix operand (R76). -/
def operandFmt (code : Nat) : Option Fmt :=
  match code % 128 with
  | 0x01 => some .fp4 | 0x02 => some .e4m3 | 0x03 => some .e5m2 | 0x04 => some .bf16
  | 0x11 => some .fp4 | 0x12 => some .e4m3 | 0x13 => some .e5m2 | 0x21 => some .fp4
  | _ => none

/-- The format has blocks with scales (R76). -/
def blocked (code : Nat) : Bool := decide (code % 128 ∈ [0x11, 0x12, 0x13, 0x21])

/-- The format is SSF4 (R76). -/
def isSsf4 (code : Nat) : Bool := decide (code % 128 = 0x21)

/-- Bit 7: 2:4 structured sparsity. -/
def sparseCode (code : Nat) : Bool := decide (128 ≤ code % 256)

/-- The format code may be a matrix operand (R76, R77). -/
def operandOk (code : Nat) : Bool :=
  (operandFmt code).isSome && !(sparseCode code && decide (code % 128 = 0x04))

/-- A length rounded up to a multiple of 64 (R83). -/
def pad64 (n : Nat) : Nat := (n + 63) / 64 * 64

/-- Bytes of the element area of `e` elements (R83, R95). -/
def elementArea (code e : Nat) : Nat :=
  let w := ((operandFmt code).map Fmt.width).getD 8
  pad64 (((if sparseCode code then e / 2 else e) * w + 7) / 8)

/-- Bytes of the sparsity metadata area (R83, R95). -/
def metaArea (code e : Nat) : Nat := if sparseCode code then pad64 (e / 8) else 0

/-- Bytes of the block scale area (R83). -/
def scaleArea (code e : Nat) : Nat := if blocked code then pad64 (e / 32) else 0

/-- Bytes of the payload of `e` elements (R83). -/
def payloadSize (code e : Nat) : Nat :=
  elementArea code e + metaArea code e + scaleArea code e + (if isSsf4 code then pad64 (e / 32) else 0)

/-! ### Operand values (R78 to R82, R95) -/

/-- The element code of width `w` at index `i` of an element area (R83). -/
def elementAt (w : Nat) (bs : List (BitVec 8)) (i : Nat) : Nat :=
  if w = 4 then
    let b := (byteAt bs (i / 2)).toNat
    if i % 2 = 0 then b % 16 else b / 16
  else fieldAt bs (i * (w / 8)) (w / 8)

/-- The exact value of an element code under its block's scale and micro-shift, tile scale apart (R81,
R82). -/
def blockValue (code : Nat) (f : Fmt) (x scale shifts i : Nat) : Fl :=
  if blocked code then
    (if scale = 0xFF then .nan
     else
      let m := if isSsf4 code then shifts / 4 ^ (i % 32 / 8) % 4 else 0
      (f.decode x).shift ((scale : Int) - 127 - (m : Int)))
  else f.decode x

/-- The exact values of the K positions of row or column `r` of a tile (R88, R95, R163). A pruned position is a zero as in
the dense tile, so that its product with an infinity or a NaN is a NaN, although R97 also calls it an exact zero product
(DESIGN CHOICE, assumption 192). -/
def operandLine (code k e : Nat) (payload : List (BitVec 8)) (r : Nat) : List Fl :=
  let f := (operandFmt code).getD .fp4
  let w := f.width
  let metas := payload.drop (elementArea code e)
  let scales := metas.drop (metaArea code e)
  let shifts := scales.drop (scaleArea code e)
  let value (x i : Nat) : Fl :=
    let b := r * (k / 32) + i / 32
    blockValue code f x (byteAt scales b).toNat (byteAt shifts b).toNat i
  if sparseCode code then
    (List.range k).map fun i =>
      let g := r * (k / 4) + i / 4
      let en := elementAt 4 metas g
      if i % 4 = en % 4 then value (elementAt w payload (2 * g)) i
      else if i % 4 = en / 4 then value (elementAt w payload (2 * g + 1)) i
      else .fin false 0 0
  else (List.range k).map fun i => value (elementAt w payload (r * k + i)) i

/-- Every sparsity metadata entry has its second position above its first (R96). -/
def metaOk (code e : Nat) (payload : List (BitVec 8)) : Bool :=
  !sparseCode code || ((List.range (e / 4)).all fun g =>
    let en := elementAt 4 (payload.drop (elementArea code e)) g
    decide (en % 4 < en / 4))

/-! ### The header check (R167) -/

/-- The format code of a header (R165). -/
def hdrFormat (h : List (BitVec 8)) : Nat := (byteAt h 3).toNat

/-- The tile scale is a positive normal finite value (R84). -/
def scaleOk (t : Nat) : Bool := decide (0x00800000 ≤ t) && decide (t ≤ 0x7F7FFFFF)

/-- The tile passes the header check of R167 as the A or the B tile of a pass, its words being readable. -/
def tileOk (sh : Shape) (isB : Bool) (t : TileRead) : Bool :=
  let h := t.header
  let code := hdrFormat h
  let rows := if isB then sh.k else sh.m
  let cols := if isB then sh.n else sh.k
  let e := rows * cols
  decide (fieldAt h 0 2 = 0x4A54) && decide (fieldAt h 2 1 = sh.code) &&
  decide (fieldAt h 4 1 = if isB then 2 else 1) && operandOk code && (isB || !sparseCode code) &&
  decide (fieldAt h 20 4 = payloadSize code e) && decide (fieldAt h 6 2 ≤ rows) &&
  decide (fieldAt h 8 2 ≤ cols) && scaleOk (fieldAt h 12 4) &&
  decide (byteAt h 5 = 0) && decide (fieldAt h 10 2 = 0) && decide (fieldAt h 32 32 = 0) &&
  decide (fieldAt h 16 4 = (crc32c t.payload).toNat) && metaOk code e t.payload

/-- Cycles of a pass on two tiles (R46): the rate of the wider element format, halved for a sparse B tile
whose rate is that of FP4 or FP8. A format that is no operand counts at the FP4 rate (DESIGN CHOICE, assumption 110). -/
def passCycles (sh : Shape) (a b : Nat) : Nat :=
  let w (c : Nat) : Nat := ((operandFmt c).map Fmt.width).getD 4
  let x := max (w a) (w b)
  if x = 16 then 4 * sh.cycles
  else
    let d := if x = 8 then 2 * sh.cycles else sh.cycles
    if sparseCode b then d / 2 else d

/-! ### The arithmetic of a pass (R88 to R92) -/

/-- The exact sum of the products of one group (R88, R89, R92). -/
def groupSum : List Fl → List Fl → Fl
  | x :: xs, y :: ys => Fl.add (x.mul y) (groupSum xs ys)
  | _, _ => .fin false 0 0

/-- One group added to an accumulator: one rounding (R89), and an accumulator never holds −0 (R91). An infinite group
times a scale of zero is a NaN, as IEEE 754 has it: R92 names only an infinite scale of a zero group (DESIGN CHOICE,
assumption 176). A group of exact zeros under an infinite scale is the NaN of R92, though R162 leaves the bits and flags of
such a chunk (DEDUCED, assumption 203). -/
def addGroup (scale : Fl) (s : Fl) (acc : Nat × AFlags) : Nat × AFlags :=
  let (c, f) := Fmt.fp32.round ((Fmt.fp32.decode acc.1).add (scale.mul s))
  (if c = 0x80000000 then 0 else c, acc.2 ||| f)

/-- One output element: its groups of 64 K positions in ascending order (R89, R90). -/
def passElement (scale : Fl) : Nat → List Fl → List Fl → Nat × AFlags → Nat × AFlags
  | 0, _, _, acc => acc
  | n + 1, xs, ys, acc =>
    passElement scale n (xs.drop 64) (ys.drop 64) (addGroup scale (groupSum (xs.take 64) (ys.take 64)) acc)

/-- Every product of two lines of K positions is an exact zero (R162). -/
def zeroProducts (p : List Fl × List Fl) : Bool := (List.zipWith Fl.mul p.1 p.2).all Fl.isZero

/-- The results of a pass over two tiles that passed their checks, from the accumulators `old`, entry
m × N + n, with the flags of every addition (R88 to R92, R99, R100). The rounding that forms the pass scale raises its
flags too, but in a pass whose products are all exact zeros, which leaves the flags as they are (R162; DEDUCED,
assumptions 101 and 203). -/
def passResults (sh : Shape) (a b : TileRead) (old : List Nat) : List (Nat × AFlags) :=
  let ca := hdrFormat a.header
  let cb := hdrFormat b.header
  let rows := (List.range sh.m).map (operandLine ca sh.k (sh.m * sh.k) a.payload)
  let cols := (List.range sh.n).map (operandLine cb sh.k (sh.k * sh.n) b.payload)
  let t (h : List (BitVec 8)) : Fl := Fmt.fp32.decode (fieldAt h 12 4)
  let rounded := Fmt.fp32.round ((t a.header).mul (t b.header))
  let scale := Fmt.fp32.decode rounded.1
  let pairs := rows.flatMap fun x => cols.map fun y => (x, y)
  let flags : AFlags := if pairs.all zeroProducts then 0 else rounded.2
  List.zipWith (fun (p : List Fl × List Fl) o => passElement scale (sh.k / 64) p.1 p.2 (o, flags)) pairs old

end Sys2Proof.Machine
end

