-- ==== Sys2Proof/Machine/Operands.lean ====
section
/-!
DEFINITION. The operands of a cell's issue: the shift map, the cell that hosts a logical cell, its SRAM,
its registers at a beat, its guard field, the passes of its matrix unit, and the faults it records.
-/
namespace Sys2Proof.Machine

/-! ### The shift map (R63) and routes (R54) -/

/-- Bytes of a cell's SRAM (R48). -/
def sramBytes : Nat := 655360

/-- Die of a logical column (R63). -/
def dieOf (col : Nat) : Nat := col / 32

/-- Physical column that hosts die-local logical column `c` under fence entry `f` (R63). -/
def hostColumn (f : BitVec 6) (c : Nat) : Nat := if f.toNat ≤ 31 ∧ f.toNat ≤ c then c + 1 else c

/-- The fence entry of a row of a die (R63). -/
def fenceEntry (m : List (BitVec 6)) (row die : Nat) : BitVec 6 := m.getD (24 * die + row) 0x3F

/-- Number of a physical cell: row × 66 + die × 33 + column. -/
def physIndex (row die col : Nat) : Nat := row * 66 + die * 33 + col

/-- The physical cell that hosts a logical cell under a map (R63). -/
def hostIn (m : List (BitVec 6)) (logical : Nat) : Nat :=
  let row := logical / 64
  let col := logical % 64
  physIndex row (dieOf col) (hostColumn (fenceEntry m row (dieOf col)) (col % 32))

/-- The map on which the cells hold the state of logical columns: the map in force, each repair that is due or running
undone, the latest first (R68, R71). -/
def State.heldMap (s : State) : List (BitVec 6) :=
  s.grid.repairs.foldr (fun r m => m.set (24 * (if r.die then 1 else 0) + r.row) r.oldEntry) s.grid.fence.value

/-- The physical cell that hosts a logical cell (R63, R71); until a repair is complete, the one that still holds its state
(R68). -/
def State.hostOf (s : State) (logical : Nat) : Nat := hostIn s.heldMap logical

/-- The logical cell that a physical cell hosts under a map, none for a fenced cell or a jack in standby
(R63, R73). -/
def hostedIn (m : List (BitVec 6)) (phys : Nat) : Option Nat :=
  let row := phys / 66
  let die := phys % 66 / 33
  let p := phys % 33
  let f := fenceEntry m row die
  if f.toNat ≤ 31 then
    (if p < f.toNat then some (row * 64 + die * 32 + p)
     else if p = f.toNat then none else some (row * 64 + die * 32 + (p - 1)))
  else if p = 32 then none else some (row * 64 + die * 32 + p)

/-- Global physical position of a logical cell: 33 d + p (R54). -/
def State.position (s : State) (logical : Nat) : Nat := s.hostOf logical % 66

/-- Hop count between two logical cells (R54). -/
def State.hops (s : State) (a b : Nat) : Nat :=
  let x := s.position a
  let y := s.position b
  (if x ≤ y then y - x else x - y) + (if a / 64 ≤ b / 64 then b / 64 - a / 64 else a / 64 - b / 64)

/-- The route between two logical cells crosses the bridge (R54). -/
def crosses (a b : Nat) : Bool := decide (dieOf (a % 64) ≠ dieOf (b % 64))

/-- Cycle at which a flit injected in cycle `t` arrives (R54). -/
def State.flitArrival (s : State) (a b t : Nat) : Nat :=
  t + 4 + 2 * s.hops a b + (if crosses a b then 4 else 0)

/-- Hop count when neither row has a fenced cell (R55). -/
def nominalHops (a b : Nat) : Nat :=
  let x := 33 * dieOf (a % 64) + a % 64 % 32
  let y := 33 * dieOf (b % 64) + b % 64 % 32
  (if x ≤ y then y - x else x - y) + (if a / 64 ≤ b / 64 then b / 64 - a / 64 else a / 64 - b / 64)

/-- The write slot reserved for a flit injected in cycle `t`: the cycle after its arrival for one hop more
than the nominal count (R53, R55). -/
def flitSlot (a b t : Nat) : Nat :=
  t + 5 + 2 * (nominalHops a b + 1) + (if crosses a b then 4 else 0)

/-- Cycle at which a string token issued in cycle `t` arrives (R56, R190). -/
def State.tokenArrival (s : State) (a b t : Nat) : Nat :=
  t + 1 + s.hops a b + (if crosses a b then 2 else 0)

/-! ### Cells -/

/-- A physical cell (R41). -/
def State.phys (s : State) (k : Nat) : Cell := Sparse.get Cell.reset s.grid.cells k

/-- A physical cell changed. -/
def State.onPhys (k : Nat) (g : Cell → Cell) (s : State) : State :=
  s.onGrid fun x => { x with cells := Sparse.modify Cell.reset x.cells k g }

/-- The cell that hosts a logical cell. -/
def State.cell (s : State) (logical : Nat) : Cell := s.phys (s.hostOf logical)

/-- The cell that hosts a logical cell, changed. -/
def State.onCell (logical : Nat) (g : Cell → Cell) (s : State) : State := s.onPhys (s.hostOf logical) g

/-! ### What voids a step (R14, R21) -/

/-- The step is voided with a bit of `void_cause` (R14, R21). -/
def State.voidWith (b : Nat) (s : State) : State :=
  s.onStep fun g => { g with void := true, cause := g.cause ||| bit 8 b }

/-- The physical cell is charged with the step if it is voided, once per step (R64). -/
def State.charge (k : Nat) (s : State) : State :=
  s.onStep fun g => { g with charged := if k ∈ g.charged then g.charged else g.charged ++ [k] }

/-- A tile checksum failure found by a cell's own checksum unit or in its slot memory (R43, R62, R64). -/
def State.checksumFault (logical : Nat) (s : State) : State :=
  let s := s.onCell logical fun c => { c with fltChecksum := satInc c.fltChecksum }
  let s := s.onStep fun g => { g with checksums := g.checksums + 1 }
  (s.voidWith 0).charge (s.hostOf logical)

/-- A checksum failure found at landing: counted, not charged (R64, R168). -/
def State.landingFault (logical : Nat) (s : State) : State :=
  let s := s.onCell logical fun c => { c with fltChecksum := satInc c.fltChecksum }
  let s := s.onStep fun g => { g with checksums := g.checksums + 1 }
  s.voidWith 0

/-- A barrier fault of a cell (R61); charged when its missing producer is a unit of the same cell (R64). -/
def State.barrierFault (logical : Nat) (own : Bool) (s : State) : State :=
  let s := s.onCell logical fun c => { c with fltBarrier := satInc c.fltBarrier }
  let s := s.onStep fun g => { g with checksums := g.checksums + 1 }
  let s := s.voidWith 0
  if own then s.charge (s.hostOf logical) else s

/-- A steering mismatch of a cell (R59, R64). -/
def State.steeringFault (logical : Nat) (s : State) : State :=
  let s := s.onCell logical fun c => { c with fltSteering := satInc c.fltSteering }
  let s := s.onStep fun g => { g with steering := g.steering + 1 }
  (s.voidWith 1).charge (s.hostOf logical)

/-- Arithmetic flags reach the cell's sticky flags and its flags for the step (R100, R130). -/
def Cell.addFlags (f : AFlags) (c : Cell) : Cell :=
  { c with flags := c.flags ||| f, stepFlags := c.stepFlags ||| f }

/-! ### SRAM (R48 to R50) -/

/-- The reads of SRAM of an issue meet a double-bit error (R50). -/
def badRead (p : At) : Bool := decide (p.read = .uncorrectable)

/-- What the error-correcting codes of SRAM found in an issue's reads is counted (R50). -/
def State.countRead (logical : Nat) (e : Ecc) (s : State) : State :=
  if e = .corrected then s.onCell logical fun c => { c with eccSram := satInc c.eccSram } else s


/-- The 8-byte words of a range of SRAM. -/
def eccWords (a n : Nat) : List Nat := (List.range ((a + n + 7) / 8 - a / 8)).map (· + a / 8)

/-- A word of the range is poisoned (R50). -/
def Cell.poisonedAt (c : Cell) (a n : Nat) : Bool := (eccWords a n).any fun w => decide (w ∈ c.poisoned)

/-- Bytes of SRAM; addresses beyond the last byte read 0 (assumption 9). -/
def Cell.sramRead (c : Cell) (a n : Nat) : List (BitVec 8) := Mem.reads c.sram a n

/-- 128 bytes of SRAM as a flit. -/
def Cell.flitAt (c : Cell) (a : Nat) : BitVec 1024 := BitVec.ofNat 1024 (leNat (c.sramRead a 128))

/-- Two ranges of bytes meet. -/
def rangesMeet (a n b m : Nat) : Bool := decide (a < b + m) && decide (b < a + n)

/-- Bytes written to SRAM, poisoned or not; a write beyond the last byte is dropped (assumption 9). A tile that it
changes has not been read by a pass (R62). -/
def Cell.sramWrite (a : Nat) (bs : List (BitVec 8)) (poison : Bool) (c : Cell) : Cell :=
  if a + bs.length ≤ sramBytes then
    let ws := eccWords a bs.length
    let rest := c.poisoned.filter fun w => decide (w ∉ ws)
    { c with sram := Mem.writes c.sram a bs, poisoned := if poison then rest ++ ws else rest
             checked := c.checked.filter fun t => !rangesMeet a bs.length t.1 t.2.2.2 }
  else c

/-- The words of some ranges of SRAM are poisoned (R62). -/
def Cell.poisonSpans (spans : List (Nat × Nat)) (c : Cell) : Cell :=
  { c with poisoned := c.poisoned ++
      ((spans.flatMap fun r => eccWords r.1 r.2).filter fun w => decide (w ∉ c.poisoned)).dedup }

/-- Banks of a range of SRAM that starts on a 64-byte line (R48). -/
def banksOf (a n : Nat) : List Nat := (List.range (ceilDiv n 64)).map fun i => (a / 64 + i) % 32

/-- A bank access in a cycle by a client of a rank: matrix unit 0, vector engine 1, data mover 2, landing
port 3 (R49). It is refused where a client at least as high uses one of the banks; a lower client that
meant to write there loses its write. The answer says whether the access is served, and how many lower
accesses were dropped. Of two accesses of one client the first made is served (DESIGN CHOICE, assumption 29). -/
def Cell.useBanks (cycle : Nat) (banks : List Nat) (rank : Nat) (c : Cell) : Bool × Nat × Cell :=
  let meets (x : Nat × Nat × Nat) : Bool := decide (x.1 = cycle) && decide (x.2.1 ∈ banks)
  if c.banks.any fun x => meets x && decide (x.2.2 ≤ rank) then (false, 0, c)
  else
    let lost (l : Nat × Landing) : Bool :=
      match l.2 with
      | .sram a bs _ r => decide (l.1 = cycle + 1) && decide (rank < r) &&
          (banksOf a bs.length).any fun b => decide (b ∈ banks)
      | _ => false
    let n := (c.landings.filter lost).length
    let keep := c.banks.filter fun x => !meets x
    (true, n, { c with
      banks := keep ++ banks.map (fun b => (cycle, b, rank)),
      landings := c.landings.filter fun l => !lost l })

/-- A result that becomes visible at a cycle (R47, R110, R141). -/
def Cell.land (visible : Nat) (l : Landing) (c : Cell) : Cell :=
  { c with landings := c.landings ++ [(visible, l)] }

/-- A write of SRAM in a cycle, seen from the next cycle on (R49); a refused write is dropped and recorded
as a barrier fault. -/
def State.sramStore (logical cycle a : Nat) (bs : List (BitVec 8)) (poison : Bool) (rank : Nat)
    (s : State) : State :=
  let (ok, lost, c) := (s.cell logical).useBanks cycle (banksOf a bs.length) rank
  let s := s.onCell logical fun _ => c
  let s := (List.range lost).foldl (fun s _ => s.barrierFault logical false) s
  if ok then s.onCell logical (Cell.land (cycle + 1) (.sram a bs poison rank))
  else s.barrierFault logical false

/-- A signal of a barrier counter in a cycle, seen by checks from the next cycle on (R60, R141). -/
def Cell.signalAt (cycle : Nat) (ctr : Option (BitVec 4)) (c : Cell) : Cell :=
  match ctr with
  | none => c
  | some k => c.land (cycle + 1) (.raise k)

/-! ### Registers at a beat (R107, R110, R136) -/

/-- A vector register. -/
def Cell.vreg (c : Cell) (r : BitVec 5) : BitVec 2048 := Sparse.get 0 c.v r.toNat

/-- A mask register; `M0` reads all ones (R107). -/
def Cell.mreg (c : Cell) (m : BitVec 3) : BitVec 64 :=
  if m = 0 then BitVec.allOnes 64 else Sparse.get 0 c.m m.toNat

/-- A scalar register; `S0` reads 0 (R107). -/
def Cell.sreg (c : Cell) (r : BitVec 4) : BitVec 32 := if r = 0 then 0 else Sparse.get 0 c.sc r.toNat

/-- A valid-length register (R170). -/
def Cell.vlen (c : Cell) (r : BitVec 4) : BitVec 16 := Sparse.get 0 c.vl r.toNat

/-- A barrier counter (R60). -/
def Cell.counter (c : Cell) (k : BitVec 4) : BitVec 16 := Sparse.get 0 c.counters k.toNat

/-- A barrier claim (R141). -/
def Cell.claim (c : Cell) (k : BitVec 4) : BitVec 16 := Sparse.get 0 c.claims k.toNat

/-- Address register `MA` of the matrix unit (R138). -/
def Cell.maReg (c : Cell) (r : BitVec 3) : BitVec 14 := Sparse.get 0 c.ma r.toNat

/-- Address register `DA` of the data mover (R139). -/
def Cell.daReg (c : Cell) (r : BitVec 3) : BitVec 32 := Sparse.get 0 c.da r.toNat

/-- `MA[r]` advanced by its stride (R138). -/
def Cell.stepMa (r : BitVec 3) (c : Cell) : Cell :=
  { c with ma := Sparse.set 0 c.ma r.toNat (c.maReg r + Sparse.get 0 c.ms r.toNat) }

/-- `DA[r]` advanced by its stride, modulo 2^32 (R139). -/
def Cell.stepDa (r : BitVec 3) (c : Cell) : Cell :=
  { c with da := Sparse.set 0 c.da r.toNat (c.daReg r + (Sparse.get 0 c.ds r.toNat).signExtend 32) }

/-- A lane of a vector register (R109). -/
def lane (v : BitVec 2048) (i : Nat) : BitVec 32 := v.extractLsb' (32 * i) 32

/-- A vector register from its 64 lanes (R109). -/
def ofLanes (ls : List (BitVec 32)) : BitVec 2048 := BitVec.ofNat 2048 (leNat (ls.flatMap (bvBytes 4)))

/-- The lanes of `new` where the mask is set, of `old` elsewhere (R121). -/
def mergeLanes (mask : BitVec 64) (new old : BitVec 2048) : BitVec 2048 :=
  if mask = BitVec.allOnes 64 then new
  else ofLanes ((List.range 64).map fun i => if mask.getLsbD i then lane new i else lane old i)

/-! ### Tier-1 addresses of the cells (R139, R223, R261) -/

/-- Where a tier-1 address of a cell leads: a byte of tier 1, bytes that read as given, or nowhere. -/
inductive T1At where
  | addr (a : Nat)
  | fixed (d : BitVec 1024)
  | outside
  deriving DecidableEq, Repr

/-- Bytes of a page. -/
def pageBytes : Nat := 2097152

/-- Byte offset of a global address within its space (R200). -/
def gaOffset (g : BitVec 64) : Nat := (g.extractLsb' 0 48).toNat

/-- Space of a global address (R200). -/
def gaSpace (g : BitVec 64) : Nat := (g.extractLsb' 48 4).toNat

/-- Chip of a global address (R200). -/
def gaChip (g : BitVec 64) : BitVec 12 := g.extractLsb' 52 12

/-- A global address (R200). -/
def mkGa (chip : BitVec 12) (space offset : Nat) : BitVec 64 :=
  chip ++ BitVec.ofNat 4 space ++ BitVec.ofNat 48 offset

/-- A home directory entry (R203); the directory region, the first 1 GiB of tier 2, is `RESERVED` (R211). -/
def State.dirEntry (s : State) (tier slot : Nat) : DirEntry :=
  match tier with
  | 1 => Sparse.get DirEntry.reset s.mem.dir1 slot
  | 2 => if slot < 512 then { DirEntry.reset with ownerKind := 5, state := .reserved }
         else Sparse.get DirEntry.reset s.mem.dir2 slot
  | _ => Sparse.get DirEntry.reset s.mem.dir3 slot

/-- Tier and slot that a global address names. -/
def gaSlot (g : BitVec 64) : Nat × Nat := (gaSpace g, gaOffset g / pageBytes)

/-- A slot is freed: an action in which its page waits will move no other page that comes to lie there (R206). -/
def Memory.pageGone (tier slot : Nat) (m : Memory) : Memory :=
  { m with jobs := m.jobs.map fun j =>
      { j with gone := j.gone ++ j.waiting.filter fun g => decide (gaSlot g = (tier, slot)) } }

/-- A home directory entry takes a value. -/
def Memory.putEntry (tier slot : Nat) (e : DirEntry) (m : Memory) : Memory :=
  let m := if e.state = .free then m.pageGone tier slot else m
  match tier with
  | 1 => { m with dir1 := Sparse.set DirEntry.reset m.dir1 slot e }
  | 2 => { m with dir2 := Sparse.set DirEntry.reset m.dir2 slot e }
  | _ => { m with dir3 := Sparse.set DirEntry.reset m.dir3 slot e }

/-! ### Drives and the member layout (R226, R227) -/

/-- Root ports whose drives are accepted, in order: the members of the volume (R226, R227). -/
def Memory.memberPorts (m : Memory) : List Nat :=
  (List.range 8).filter fun p => (m.drives[p]?).any fun d => d.present && !d.refused && !d.failed

/-- Root port of the drive that holds a volume slot (R227). -/
def Memory.portOf (m : Memory) (slot : Nat) : Nat :=
  let ps := m.memberPorts
  ps.getD (slot % max 1 ps.length) 0

/-- Volume slots of each member, D (R227). -/
def Memory.perMember (m : Memory) : Nat := ceilDiv m.volSlots (max 1 m.memberPorts.length)

/-- The LBA of a record of the journal ring, by its sequence (R227). -/
def journalLba (seq : Nat) : Nat := 16 + seq % 262144

/-- The LBA that holds a volume slot's directory entry (R227). -/
def Memory.entryLba (m : Memory) (slot : Nat) : Nat := 262160 + slot / max 1 m.memberPorts.length / 128

/-- The first LBA of a volume slot's data (R227). -/
def Memory.dataLba (m : Memory) (slot : Nat) : Nat :=
  ceilDiv (262160 + 2 * m.perMember) 512 * 512 + 512 * (slot / max 1 m.memberPorts.length)

/-- Entries of an I/O queue that may be in use: 256 entries, one of which stays free (R226). -/
def queueRoom : Nat := 255

/-- The I/O queue pair of an NVMe command exists and has room (R226; assumption 145). -/
def Memory.room (m : Memory) (c : DriveCmd) : Bool :=
  ((m.drives[c.port]?).any fun d => decide (c.id % 8 < d.pairs)) &&
    decide ((m.driveDma.filter fun x => decide (x.port = c.port) && decide (x.id % 8 = c.id % 8)).length < queueRoom)

/-- NVMe commands that wait are submitted while their I/O queues have room (R226). -/
def Memory.pumpDrives (m : Memory) : Memory :=
  m.driveWait.foldl (fun m c =>
    if m.room c then { m with driveDma := m.driveDma ++ [c] } else { m with driveWait := m.driveWait ++ [c] })
    { m with driveWait := [] }

/-- NVMe commands to a drive, in order: what each does and its first LBA (R226). -/
def Memory.toDrive (port : Nat) (ops : List (DriveOp × Nat)) (move : Option (BitVec 32)) (m : Memory) : Memory :=
  let cs : List DriveCmd := ops.mapIdx fun i o =>
    { port := port, id := m.nextCid + i, op := o.1, lba := o.2, move := move }
  Memory.pumpDrives { m with driveWait := m.driveWait ++ cs, nextCid := m.nextCid + ops.length }

/-- A change of the tier-3 directory goes to the drives: the record to the journal of the member that holds the slot, then
the entries (R211, R227; assumption 145). -/
def Memory.toVolume (r : JournalRec) (entries : List (Nat × DirEntry)) (m : Memory) : Memory :=
  match entries with
  | [] => m
  | first :: _ =>
    let m := m.toDrive (m.portOf first.1) [(.journal m.journalSeq r, journalLba m.journalSeq)] none
    entries.foldl (fun m e => m.toDrive (m.portOf e.1) [(.entry e.1 e.2, m.entryLba e.1)] none) m

/-- A record written to the journals of the tiers it concerns (R211). -/
def Memory.record (r : JournalRec) (m : Memory) : Memory :=
  let third (t : BitVec 4) : Bool := decide (t ≠ 1) && decide (t ≠ 2)
  let source := r.commit.filter fun c => third c.1
  let m := if !third r.tier || r.commit.any (fun c => !third c.1) then { m with journal2 := r :: m.journal2 } else m
  let entries := (if third r.tier then [(r.slot, r.entry)] else []) ++ source.toList.map fun c => (c.2, DirEntry.reset)
  if entries.isEmpty then m
  else
    let m := if m.mounted then m.toVolume r entries else m
    { m with journal3 := r :: m.journal3, journalSeq := m.journalSeq + 1 }

/-- A home directory entry takes a value, its journal record written first (R211). -/
def Memory.changeDir (tier slot : Nat) (e : DirEntry) (commit : Option (BitVec 4 × Nat)) (m : Memory) : Memory :=
  (m.record { tier := BitVec.ofNat 4 tier, slot := slot, entry := e, commit := commit }).putEntry tier slot e

/-- A home directory entry takes a value, its journal record written first (R211). -/
def State.setDir (tier slot : Nat) (e : DirEntry) (commit : Option (BitVec 4 × Nat)) (s : State) : State :=
  s.onMem (Memory.changeDir tier slot e commit)

/-- The directory of a tier (R205). -/
def Memory.dirOf (tier : Nat) (m : Memory) : SMap DirEntry :=
  match tier with
  | 1 => m.dir1
  | 2 => m.dir2
  | _ => m.dir3

/-- The slots whose entries differ in two directories. -/
def changedSlots (a b : SMap DirEntry) : List Nat :=
  ((a ++ b).map (·.1)).dedup.filter fun i => decide (Sparse.get DirEntry.reset a i ≠ Sparse.get DirEntry.reset b i)

/-- The directory of a tier becomes another, each change journaled (R211). -/
def Memory.replaceDir (tier : Nat) (d : SMap DirEntry) (m : Memory) : Memory :=
  (changedSlots (m.dirOf tier) d).foldl (fun m i => m.changeDir tier i (Sparse.get DirEntry.reset d i) none) m

/-- One record makes a slot hold a page and frees the slot it came from (R207 step 4, R215). -/
def State.commitDir (tier slot : Nat) (e : DirEntry) (src : Nat × Nat) (s : State) : State :=
  (s.setDir tier slot e (some (BitVec.ofNat 4 src.1, src.2))).onMem (Memory.putEntry src.1 src.2 DirEntry.reset)

/-- A home directory entry changed. -/
def State.onDir (tier slot : Nat) (g : DirEntry → DirEntry) (s : State) : State :=
  s.setDir tier slot (g (s.dirEntry tier slot)) none

/-- A context (R269). -/
def State.ctx (s : State) (n : Nat) : Context := Sparse.get Context.reset s.srv.ctxs n

/-- A context changed. -/
def State.onCtx (n : Nat) (g : Context → Context) (s : State) : State :=
  s.onSrv fun v => { v with ctxs := Sparse.modify Context.reset v.ctxs n g }

/-- A model version held by the device (R236). -/
def State.model (s : State) (id : BitVec 28) (v : BitVec 8) : Option ModelVer :=
  s.wgt.models.find? fun m => decide (m.id = id) && decide (m.version = v)

/-- The model version that a 32-bit `model_id` and a version name: none for an identity of more than 28 bits, which no
version has (R236). -/
def State.modelAt (s : State) (id : Nat) (v : BitVec 8) : Option ModelVer :=
  if id < 2 ^ 28 then s.model (BitVec.ofNat 28 id) v else none

/-- A byte of a page that lies in tier 1 (R223). -/
def t1Page (g : BitVec 64) (o : Nat) : T1At :=
  if gaSpace g = 1 then .addr (gaOffset g / pageBytes * pageBytes + o) else .fixed 0

/-- 128 bytes of tier 1; a page with the zero flag reads as zeros until it is written (R174, R223). -/
def State.t1Flit (s : State) (a : Nat) : BitVec 1024 :=
  if (s.dirEntry 1 (a / pageBytes)).zero then 0 else BitVec.ofNat 1024 (leNat (Mem.reads s.mem.t1 a 128))

/-- The stack that holds a byte of tier 1: the stacks are interleaved at 4 KiB (R198). -/
def t1Stack (a : Nat) : Nat := a / 4096 % 8

/-- The stack sits on the east die; stacks 0 to 3 sit on the west die (R198). -/
def t1East (stack : Nat) : Bool := decide (4 ≤ stack)

/-- 128 bytes of tier 1 read poisoned: their page carries the poisoned flag, they were written so (R50, R203, R257), or
their stack was left out at boot and holds nothing (R198, R467; DESIGN CHOICE, assumption 144). -/
def State.t1Poisoned (s : State) (a : Nat) : Bool :=
  (s.dirEntry 1 (a / pageBytes)).poisoned || decide (a / 128 ∈ s.mem.poisonT1) || !s.mem.hbmStacks.getLsbD (t1Stack a)

/-- The null adapter image of the region that holds a batch slot, at an offset (R261). -/
def State.nullBytes (s : State) (img : List (BitVec 8)) (slot o : Nat) : BitVec 1024 :=
  match (imgRegions img).find? fun r => decide (r.first ≤ slot) && decide (slot < r.first + r.count) with
  | none => 0
  | some r => match (s.modelAt r.model r.version).bind (·.geometry) with
    | none => 0
    | some g => BitVec.ofNat 1024 (leNat (Mem.reads g.image o 128))

/-- Where offset `o` of window `w` of the active cylinder leads (R223, R261). -/
def State.windowAt (s : State) (w o : Nat) : T1At :=
  let img := s.active
  match (imgWindows img).find? fun b => decide (b.addr % 16 = w) with
  | none => .outside
  | some b =>
    if b.len ≤ o then .outside
    else
      let slots := (imgHeader img).slots
      let span := b.len / slots / pageBytes * pageBytes
      let i := o / span
      let p := o % span
      let occupant := (s.srv.slots.find? fun x => decide (x.1 = i)).map (·.2.ctx)
      if b.source = 3 then
        (if span = 0 then .fixed 0
         else match occupant with
          | none => .fixed 0
          | some n =>
            let x := s.ctx n
            let region := ((s.srv.slots.find? fun y => decide (y.1 = i)).map (·.2.region)).getD 0
            let list := if region = 1 then x.fbList else x.kvList
            match list[p / pageBytes]? with
            | none => .fixed 0
            | some g => t1Page g (p % pageBytes))
      else if b.source = 2 ∧ b.model = 0xFFFFFFFF then
        (if span = 0 then .fixed 0
         else
          -- in region 1 the span maps the null adapter image (R290)
          let region := ((s.srv.slots.find? fun y => decide (y.1 = i)).map (·.2.region)).getD 0
          let bound := if region = 1 then none else occupant.bind fun n => (s.ctx n).adapter
          let allowed := ((imgRegions img).find? fun r =>
            decide (r.first ≤ i) && decide (i < r.first + r.count)).any (·.adapters)
          match bound with
          | some a =>
            if allowed then
              match (s.model a.model a.version).map (fun m => Sparse.get 0 m.pages (p / pageBytes)) with
              | none => .fixed 0
              | some g => t1Page g (p % pageBytes)
            else .fixed (s.nullBytes img i p)
          | none => .fixed (s.nullBytes img i p))
      else if b.source = 2 then
        match (s.modelAt b.model b.version).map (fun m => Sparse.get 0 m.pages ((b.srcOff + o) / pageBytes)) with
        | none => .outside
        | some g => t1Page g ((b.srcOff + o) % pageBytes)
      else
        match s.cylOf .active with
        | none => .outside
        | some k =>
          match (k.windows.find? fun x => decide (x.1 = w)).bind (fun x => x.2[o / pageBytes]?) with
          | none => .outside
          | some f => .addr (f * pageBytes + o % pageBytes)

/-- Where a tier-1 address of the data mover leads: window index in [31:28], offset in 128-byte units in
[27:0] (R139). -/
def State.t1At (s : State) (a : BitVec 32) : T1At :=
  s.windowAt (a.extractLsb' 28 4).toNat ((a.extractLsb' 0 28).toNat * 128)

/-! ### Settling a cell to a cycle -/

/-- What a settled action does beyond its cell: a flit for the mesh, a write to tier 1, a request for a
tier-1 piece, an access dropped with a barrier fault, a failure of a pass's tiles, a failure at landing, or bytes of
SRAM written, with the bytes before and whether they were poisoned. -/
inductive CellOut where
  | flit (f : Flit)
  | t1 (a : Nat) (d : BitVec 1024) (poison : Bool)
  | request (entry : BitVec 32) (base : BitVec 32) (dst : Nat) (cycle : Nat) (last : Bool)
      (signal : Option (BitVec 4)) (bad : Bool)
  | fault
  | checksum
  | landingFault
  | wrote (a : Nat) (old new : List (BitVec 8)) (poison : Bool)
  deriving DecidableEq, Repr

/-- 128 bytes read by the data mover in a cycle (R52), `bad` where the read meets a double-bit error (R50); none where
the banks are taken, a barrier fault (R49). -/
def Cell.moverRead (cycle a : Nat) (bad : Bool) (c : Cell) : Option (BitVec 1024 × Bool) × Cell × List CellOut :=
  let (ok, lost, c) := c.useBanks cycle (banksOf a 128) 2
  let outs := List.replicate lost CellOut.fault
  if ok then (some (c.flitAt a, bad || c.poisonedAt a 128), c, outs) else (none, c, outs ++ [.fault])

/-- 128 bytes written by the data mover in a cycle (R52), dropped where the banks are taken (R49). -/
def Cell.moverStore (cycle a : Nat) (d : BitVec 1024) (poison : Bool) (c : Cell) : Cell × List CellOut :=
  let bs := bvBytes 128 d
  if a + 128 ≤ sramBytes then
    let (ok, lost, c) := c.useBanks cycle (banksOf a 128) 2
    let outs := List.replicate lost CellOut.fault
    if ok then (c.land (cycle + 1) (.sram a bs poison 2), outs) else (c, outs ++ [.fault])
  else (c, [.fault])

/-- The entries of a 128-byte index block that a `GATHER` uses, with the cycles of their pieces (R176). -/
def indexActions (cycle : Nat) (block : List (BitVec 8)) (base : BitVec 32) (dst count : Nat) (last : Bool)
    (signal : Option (BitVec 4)) (bad : Bool) : List (Nat × Landing) :=
  (List.range count).map fun k =>
    (cycle + 1 + k, .piece (BitVec.ofNat 32 (fieldAt block (4 * k) 4)) base (dst + 128 * k)
      (last && decide (k + 1 = count)) signal bad)

/-- The data base of a `GATHER` names an SRAM address: bits [31:14] are 0 (R139; assumption 10). -/
def baseInSram (b : BitVec 32) : Bool := decide (b.extractLsb' 14 18 = 0)

/-- The tile at an SRAM address, `e` elements of it (R165). -/
def Cell.tileAt (c : Cell) (a e : Nat) : TileRead :=
  let h := c.sramRead a 64
  let n := payloadSize (hdrFormat h) e
  { header := h, payload := c.sramRead (a + 64) n, poison := c.poisonedAt a (64 + n) }

/-- The bank number. -/
def bankNo (bank : Bool) : Nat := if bank then 1 else 0

/-- An accumulator bank. -/
def Cell.acc (c : Cell) (bank : Bool) : SMap (BitVec 32) := if bank then c.acc1 else c.acc0

/-- An accumulator bank replaced from its first entry on, with its flags and poison. -/
def Cell.setAcc (bank : Bool) (vs : List (BitVec 32)) (f : AFlags) (poison : Bool) (c : Cell) : Cell :=
  let m := Sparse.setRun 0 (c.acc bank) 0 vs
  let c := if bank then { c with acc1 := m } else { c with acc0 := m }
  { c with accFlags := Sparse.set 0 c.accFlags (bankNo bank) f
           accPoison := Sparse.set false c.accPoison (bankNo bank) poison }

/-- `n` free values of 32 bits, numbered from `k` on (assumption 4). -/
def freeWords (k n : Nat) : List (BitVec 32) := (List.range n).map fun i => Config.freeValue 32 (k + i)

/-- A tile that changed while a pass read it passes its check or not: which bytes were read is open (assumption 110). -/
def PassRec.tilesOk (q : PassRec) (changed : Bool) : Bool × Bool :=
  if changed then
    let n := q.shape.m * q.shape.n
    (Config.freeValue 1 (q.free + n) = 1, Config.freeValue 1 (q.free + n + 1) = 1)
  else (tileOk q.shape false q.tileA, tileOk q.shape true q.tileB)

/-- The last operand read of a pass in a cycle: the check of the tiles four cycles later, where the pass is the first
to read them or some word was poisoned (R50, R62, R167), and the results when the last group has been added (R47).
Where a tile is no operand, or changed while the pass read it, the results are free values (assumption 110). -/
def Cell.passRead (cycle : Nat) (q : PassRec) (c : Cell) : Cell :=
  let ta := c.tileAt q.addrA (q.shape.m * q.shape.k)
  let tb := c.tileAt q.addrB (q.shape.k * q.shape.n)
  let same (x y : TileRead) : Bool := decide (x.header = y.header) && decide (x.payload = y.payload)
  let changed := !(same q.tileA ta && same q.tileB tb)
  let (okA, okB) := q.tilesOk changed
  let bad := q.tileA.poison || q.tileB.poison || ta.poison || tb.poison
  let failed := bad || (q.firstA && !okA) || (q.firstB && !okB)
  let known := !changed && operandOk (hdrFormat ta.header) && operandOk (hdrFormat tb.header)
  (c.land (cycle + 4) (.passCheck failed)).land (cycle + 9) (.results q known (bad || !okA || !okB))

/-- The results of a pass reach their bank (R89 to R92, R100). Where they are free values, the pass raises no flag of its
own (DESIGN CHOICE, assumption 110). -/
def Cell.passResults (q : PassRec) (known poison : Bool) (c : Cell) : Cell :=
  let n := q.shape.m * q.shape.n
  let old := if q.add then (Sparse.getRun 0 (c.acc q.bank) 0 n).map (·.toNat) else List.replicate n 0
  let f0 := if q.add then Sparse.get 0 c.accFlags (bankNo q.bank) else 0
  let p0 := q.add && Sparse.get false c.accPoison (bankNo q.bank)
  if known then
    let rs := Machine.passResults q.shape q.tileA q.tileB old
    c.setAcc q.bank (rs.map fun r => BitVec.ofNat 32 r.1) (rs.foldl (fun f r => f ||| r.2) f0) (p0 || poison)
  else c.setAcc q.bank (freeWords q.free n) f0 (p0 || poison)

/-- One action of a cell at its cycle. -/
def Cell.act (cycle : Nat) (l : Landing) (c : Cell) : Cell × List CellOut :=
  match l with
  | .vreg r lanes v p =>
    ({ c with v := Sparse.set 0 c.v r.toNat (mergeLanes lanes v (c.vreg r)),
              vpoison := if p then c.vpoison ||| bit 32 r.toNat else c.vpoison &&& ~~~ bit 32 r.toNat }, [])
  | .mask m lanes v =>
    (if m = 0 then c
     else { c with m := Sparse.set 0 c.m m.toNat ((v &&& lanes) ||| (c.mreg m &&& ~~~ lanes)) }, [])
  | .scalar r v => (if r = 0 then c else { c with sc := Sparse.set 0 c.sc r.toNat v }, [])
  | .sram a bs p _ => (c.sramWrite a bs p, [.wrote a (c.sramRead a bs.length) bs (c.poisonedAt a bs.length)])
  | .raise k => ({ c with counters := Sparse.set 0 c.counters k.toNat (c.counter k + 1) }, [])
  | .raiseBy k n => ({ c with counters := Sparse.set 0 c.counters k.toNat (c.counter k + n) }, [])
  | .vlen r v => ({ c with vl := Sparse.set 0 c.vl r.toNat v }, [])
  | .flags f => ({ c with laneFlags := c.laneFlags ||| f }, [])
  | .clearFlags => ({ c with laneFlags := 0 }, [])
  | .copy src dst bad => match c.moverRead cycle src bad with
    | (some (d, p), c, outs) => let r := c.moverStore (cycle + 4) dst d p; (r.1, outs ++ r.2)
    | (none, c, outs) => (c, outs)
  | .inject src f bad => match c.moverRead cycle src bad with
    | (some (d, p), c, outs) => (c, outs ++ [.flit { f with data := d, poison := p }])
    | (none, c, outs) => (c, outs)
  | .toT1 src dst bad => match c.moverRead cycle src bad with
    | (some (d, p), c, outs) => (c, outs ++ [match dst with | none => .fault | some a => .t1 a d p])
    | (none, c, outs) => (c, outs)
  | .feed src st bad => match c.moverRead cycle src bad with
    | (some (d, p), c, outs) => ({ c with steerIn := c.steerIn ++ [(cycle + 2, st, d, p)] }, outs)
    | (none, c, outs) => (c, outs)
  | .indexBlock src base dst count last signal bad => match c.moverRead cycle src bad with
    | (some (d, p), c, outs) =>
      let more := indexActions cycle (bvBytes 128 d) base dst count last signal p
      ({ c with landings := c.landings ++ more }, outs)
    | (none, c, outs) => (c, outs)
  | .piece e base dst last signal bad =>
    if baseInSram base then
      let line := (base.toNat * 64) / 2048 + (e.extractLsb' 0 28).toNat
      let src := line * 2048 + 128 * (cycle % 16)
      let out := decide ((e.extractLsb' 28 2) ≠ 0) || decide (sramBytes < src + 128)
      let c := if last then c.signalAt (cycle + 3) signal else c
      if e.getLsbD 31 then c.moverStore (cycle + 3) dst 0 bad
      else if out then
        let r := c.moverStore (cycle + 3) dst 0 bad
        (r.1, r.2 ++ [.fault])
      else match c.moverRead cycle src bad with
        | (some (d, p), c, outs) => let r := c.moverStore (cycle + 3) dst d p; (r.1, outs ++ r.2)
        | (none, c, outs) => (c, outs)
    else (c, [.request e base dst cycle last signal bad])
  | .operands q => (c.passRead cycle q, [])
  | .passCheck failed => (c, if failed then [.checksum] else [])
  | .results q known poison => (c.passResults q known poison, [])
  | .landFailed spans => (c.poisonSpans spans, [.landingFault])

/-- An action reads SRAM, so writes of the same cycle come before it (R110). -/
def Landing.reads : Landing → Bool
  | .copy _ _ _ | .inject _ _ _ | .toT1 _ _ _ | .feed _ _ _ | .indexBlock _ _ _ _ _ _ _ | .piece _ _ _ _ _ _
  | .operands _ => true
  | _ => false

/-- Where a landing stands among those that are due: its cycle, and writes before reads. -/
def landingKey (l : Nat × Landing) : Nat := 2 * l.1 + (if l.2.reads then 1 else 0)

/-- The first landing due at cycle `t`, and the others: what is visible by then, and the reads of earlier cycles; a read
of cycle `t` itself follows the issues of that cycle, whose accesses may take its banks (R49). Landings of one cycle
act in the order of their issue: a clear of the lane flags takes those of an earlier issue (DESIGN CHOICE, assumption
196). -/
def firstDue (t : Nat) (ls : List (Nat × Landing)) : Option ((Nat × Landing) × List (Nat × Landing)) :=
  let due := ls.filter fun l => decide (landingKey l ≤ 2 * t)
  match due with
  | [] => none
  | x :: r =>
    let b := r.foldl (fun b y => if landingKey y < landingKey b then y else b) x
    some (b, ls.erase b)

/-- The landings due at or before cycle `t`, in their order, at most `n` of them. -/
def Cell.settleLoop (t : Nat) : Nat → Cell × List CellOut → Cell × List CellOut
  | 0, r => r
  | n + 1, (c, outs) =>
    match firstDue t c.landings with
    | none => (c, outs)
    | some (l, rest) =>
      let (c, o) := Cell.act l.1 l.2 { c with landings := rest }
      Cell.settleLoop t n (c, outs ++ o)

/-- The cell as an issue of cycle `t` sees it (R110). -/
def Cell.settle (t : Nat) (c : Cell) : Cell × List CellOut :=
  let pieces := c.landings.foldl (fun n l => match l.2 with
    | .indexBlock _ _ _ k _ _ _ => n + 3 * k
    | _ => n) 0
  Cell.settleLoop t (3 * c.landings.length + pieces) (c, [])

/-- The piece that a `GATHER` requests of tier 1 (R178, R179). -/
def State.requestPiece (logical : Nat) (entry base : BitVec 32) (dst cycle : Nat) (last : Bool)
    (signal : Option (BitVec 4)) (bad : Bool) (s : State) : State :=
  let at_ := s.windowAt (base.extractLsb' 28 4).toNat
    ((base.extractLsb' 0 28).toNat * 128 + (entry.extractLsb' 0 28).toNat * 128)
  let add (src : T1Src) (head : Bool) (s : State) : State :=
    s.onGrid fun g => { g with pieces := g.pieces ++
      [{ cell := logical, due := cycle + 630, src := src, dst := dst, head := head, tile := false,
         last := last, signal := signal, bad := bad }] }
  if entry.getLsbD 31 then add (.data 0) false s
  else if entry.extractLsb' 28 2 ≠ 0 then (add (.data 0) false s).barrierFault logical false
  else match at_ with
    | .addr a => add (.addr a) (entry.getLsbD 30) s
    | .fixed d => add (.data d) (entry.getLsbD 30) s
    | .outside => (add (.data 0) false s).barrierFault logical false

/-- Bytes written to tier 1 within one page: the page loses its zero flag, its other bytes reading as zeros,
and a shadow becomes dirty (R174, R214, R223). -/
def State.t1Write (a : Nat) (bs : List (BitVec 8)) (s : State) : State :=
  let f := a / pageBytes
  let e := s.dirEntry 1 f
  let s := if e.zero || (decide (e.state = .shadow) && !e.dirty) then
      s.onDir 1 f fun e => { e with zero := false, dirty := e.dirty || decide (e.state = .shadow) }
    else s
  s.onMem fun m =>
    let t := if e.zero then m.t1.filter (fun p => decide (p.1 / pageBytes ≠ f)) else m.t1
    let gone (u : Nat) : Bool := (e.zero && decide (128 * u / pageBytes = f)) ||
      (decide (a ≤ 128 * u) && decide (128 * u + 128 ≤ a + bs.length))
    { m with t1 := Mem.writes t a bs, poisonT1 := m.poisonT1.filter fun u => !gone u
             wbRun := m.wbRun.map fun w => if w.1 = f then (f, true) else w }

/-- 128 bytes written to tier 1 by a cell, poisoned or not (R50). -/
def State.t1Store (a : Nat) (d : BitVec 1024) (poison : Bool) (s : State) : State :=
  let s := s.t1Write a (bvBytes 128 d)
  if poison then s.onMem fun m => { m with poisonT1 := m.poisonT1 ++ [a / 128] } else s

/-- A run of bytes from an offset on, cut at page ends: each piece with its offset. -/
def pageCuts (o : Nat) (bs : List (BitVec 8)) : List (Nat × List (BitVec 8)) :=
  (List.range (ceilDiv (o % pageBytes + bs.length) pageBytes)).map fun i =>
    let a := max o ((o / pageBytes + i) * pageBytes)
    let n := min (o + bs.length) ((o / pageBytes + i + 1) * pageBytes) - a
    (a, (bs.drop (a - o)).take n)

/-- Bytes written to the carried mirrors of the active cylinder from an offset on (R51, R144). -/
def State.putMirror (o : Nat) (bs : List (BitVec 8)) (s : State) : State :=
  let frames := ((s.cylOf .active).map (·.mirrors)).getD []
  (pageCuts o bs).foldl (fun s x => match frames[x.1 / pageBytes]? with
    | none => s
    | some f => s.t1Write (f * pageBytes + x.1 % pageBytes) x.2) s

/-- The parts of a range of a cell's SRAM that lie in carried buffers: first byte, bytes, offset in the mirrors (R51). -/
def carriedParts (img : List (BitVec 8)) (logical a n : Nat) : List (Nat × Nat × Nat) :=
  (carriedOf img).filterMap fun x =>
    let lo := max a x.1.addr
    let hi := min (a + n) (x.1.addr + x.1.len)
    if x.1.cell = logical ∧ lo < hi then some (lo, hi - lo, x.2 + (lo - x.1.addr)) else none

/-- Bytes of SRAM that a cell has written within the step: those of a carried buffer are written through to its mirror,
and what they replace is kept until the step commits (R51). -/
def State.carriedWrite (logical a : Nat) (old new : List (BitVec 8)) (poison : Bool) (s : State) : State :=
  (carriedParts s.active logical a new.length).foldl (fun s x =>
    let part (bs : List (BitVec 8)) : List (BitVec 8) := (bs.drop (x.1 - a)).take x.2.1
    (s.onStep fun g => { g with undo := (logical, x.1, part old, poison) :: g.undo }).putMirror x.2.2 (part new)) s

/-- The step is voided: every carried byte it wrote holds its value as of the last commit, and its mirror too (R51). -/
def State.rollBack (s : State) : State :=
  let s' := s.step.undo.foldl (fun s u =>
    let s := s.onCell u.1 (Cell.sramWrite u.2.1 u.2.2.1 u.2.2.2)
    (carriedParts s.active u.1 u.2.1 u.2.2.1.length).foldl (fun s x => s.putMirror x.2.2 u.2.2.1) s) s
  s'.onStep fun g => { g with undo := [] }

/-- What a settled cell does beyond itself takes effect. -/
def State.emit (logical : Nat) (o : CellOut) (s : State) : State :=
  match o with
  | .flit f => s.onGrid fun g => { g with flits := g.flits ++ [f] }
  | .t1 a d p => s.t1Store a d p
  | .request e base dst cycle last signal bad => s.requestPiece logical e base dst cycle last signal bad
  | .fault => s.barrierFault logical false
  | .checksum => s.checksumFault logical
  | .landingFault => s.landingFault logical
  | .wrote a old new p => s.carriedWrite logical a old new p

/-- The logical cell brought to cycle `t`. -/
def State.settleCell (logical t : Nat) (s : State) : State :=
  let r := (s.cell logical).settle t
  let s := s.onCell logical fun _ => r.1
  r.2.foldl (fun s o => s.emit logical o) s

/-- Every cell brought to cycle `t`. -/
def State.settleAll (t : Nat) (s : State) : State :=
  (s.grid.cells.map (·.1)).foldl (fun s k =>
    match hostedIn s.grid.fence.value k with
    | none => s
    | some l => s.settleCell l t) s

/-! ### Beats and guards (R42, R137, R141) -/

/-- The origins of the bindings named in the beat that has passed advance by their strides, modulo 4,096
(R141). -/
def Cell.advanceSkips (c : Cell) : Cell :=
  let step (m : SMap SkipBinding) (k : Nat) : SMap SkipBinding :=
    if c.named.getLsbD k then
      Sparse.modify SkipBinding.reset m k fun b => { b with origin := b.origin + b.stride.setWidth 12 }
    else m
  { c with skips := (List.range 8).foldl step c.skips, named := 0 }

/-- The cell at beat `t`: when a later beat begins, the word that was to be played next is played, one word
a beat (R142), and the skip bindings of the beat before advance (R141). -/
def Cell.toBeat (t : Nat) (c : Cell) : Cell :=
  if c.beat < t then
    let w := c.loopNext + (t - c.beat - 1)
    { c.advanceSkips with word := w, loopNext := w + 1, beat := t }
  else c

/-- The guard field of no guard. -/
def Guard.none : Guard := { skip := 0, chkCtr := 0, chkAdd := 0, sigEn := false, sigCtr := 0 }

/-- The counter that a guard signals. -/
def Guard.signal (g : Guard) : Option (BitVec 4) := if g.sigEn then some g.sigCtr else Option.none

/-- The missing producer of counter `k` is a unit of the same cell (R64): an issue of the cell gave it no signal, or
nothing else could have, neither tier 1 nor what lies outside the cell (assumption 11). -/
def State.ownMissing (s : State) (logical : Nat) (k : BitVec 4) : Bool :=
  (s.cell logical).ownMissed.getLsbD k.toNat ||
  !((s.grid.pieces.any fun p => decide (p.cell = logical) && decide (p.signal = some k)) ||
    (s.grid.writes.any fun w => decide (w.cell = logical) && decide (w.signal = some k)) ||
    remoteFeeds s.active logical k)

/-- What a guard decides of an issue (R141): it runs, it is suppressed by length skip, or it is suppressed
by a failed check. -/
inductive Verdict where
  | run | skipped | failed
  deriving DecidableEq, Repr

/-- The bindings named in a beat, with that of a guard field (R141). -/
def Guard.names (g : Guard) (named : BitVec 8) : BitVec 8 := if g.skip = 0 then named else named ||| bit 8 g.skip.toNat

/-- The guard of an issue: length skip by its binding (R172), and the check of its counter against its
claim (R60); the claim rises whether or not the issue is skipped (assumption 12). -/
def State.guarded (logical : Nat) (g : Guard) (s : State) : Verdict × State :=
  let c := s.cell logical
  let b := Sparse.get SkipBinding.reset c.skips g.skip.toNat
  let skip := decide (g.skip ≠ 0) && decide ((c.vlen b.vl).toNat ≤ 16 * b.origin.toNat)
  let claim := c.claim g.chkCtr + g.chkAdd.setWidth 16
  let s := s.onCell logical fun c => { c with
    named := Guard.names g c.named,
    claims := if g.chkAdd = 0 then c.claims else Sparse.set 0 c.claims g.chkCtr.toNat claim }
  if skip then (.skipped, s)
  else if g.chkAdd ≠ 0 ∧ c.counter g.chkCtr < claim then
    let own := s.ownMissing logical g.chkCtr
    let s := match Guard.signal g with
      | none => s
      | some k => s.onCell logical fun c => { c with ownMissed := c.ownMissed ||| bit 16 k.toNat }
    (.failed, s.barrierFault logical own)
  else (.run, s)

/-- The cells play: a step is in progress whose beats are played (R11, R69), and the logical cell exists. -/
def State.plays (s : State) (p : At) : Bool := s.step.playing && decide (p.cell < 1536)

/-- The tick of a cycle of the step: beat 0 falls 256 ticks after the boundary that began the step (R11), and the core
clock of point n is 0.4 + 0.2 n GHz (R437). -/
def State.cycleTick (s : State) (cycle : Nat) : Nat := s.cad.bk + 256 + 5 * cycle / (2 + s.step.opAtStep.toNat)

/-- The state that an issue sees: the timebase at the beat's tick, its cell brought to the beat. -/
def State.atBeat (p : At) (s : State) : State :=
  ((s.at_ (s.cycleTick p.beat)).settleCell p.cell p.beat).onCell p.cell (Cell.toBeat p.beat)

/-- The state after an issue: a word with an uncorrectable error issues nothing (R43); the interrupt signals follow the
events registers. -/
def State.issued (p : At) (body : State → State) (s : State) : State :=
  (if p.fetch = .uncorrectable then s.atBeat p else body (s.atBeat p)).settle

/-- A sub-slot issues where the cells play. -/
def issue (p : At) (body : State → State) (s : State) : Out := .next (if s.plays p then s.issued p body else s)

end Sys2Proof.Machine
end

