-- ==== Sys2Proof/Machine/Control.lean ====
section
/-!
DEFINITION. The control sub-slot (R140, R142): guards, loops, idle runs, string tokens, skip bindings and the
steering selection. A slot word is fetched once, so the errors found in it are counted with its control
sub-slot.
-/
namespace Sys2Proof.Machine

/-- A control sub-slot issues; a corrected error of the word is counted, and a double-bit error suppresses
the word and counts as a checksum failure of the cell (R43, R64). -/
def ctlIssue (p : At) (body : State → State) (s : State) : Out :=
  issue { p with fetch := .clean } (fun s =>
    match p.fetch with
    | .clean => body s
    | .corrected => body (s.onCell p.cell fun c => { c with eccSlot := satInc c.eccSlot })
    | .uncorrectable => s.checksumFault p.cell) s

/-- `CNOP`: does nothing (R140). -/
def execCnop (p : At) (s : State) : Out := ctlIssue p (fun s => s) s

/-- The 15 bits of a guard field (R137). -/
def Guard.bits (g : Guard) : BitVec 15 :=
  g.skip ++ g.chkCtr ++ g.chkAdd ++ BitVec.ofBool g.sigEn ++ g.sigCtr

/-- `VGUARD`: the guard field of this beat's vector issue (R140); its binding counts as named in the beat (R141). -/
def execVguard (p : At) (guard : Guard) (s : State) : Out :=
  ctlIssue p (fun s => s.onCell p.cell fun c => { c with
    vguard := some (p.beat, Guard.bits guard), named := Guard.names guard c.named }) s

/-- `ENDLOOP`: closes a loop body (R142). -/
def execEndloop (p : At) (trip : BitVec 16) (body : BitVec 12) (s : State) : Out :=
  ctlIssue p (fun s => s.onCell p.cell fun c =>
    let r := loopStep c.word trip.toNat body.toNat c.loop
    { c with loop := r.1, loopNext := r.2 }) s

/-- `IDLE`: plays as its count of empty beats (R142). -/
def execIdle (p : At) (beats : BitVec 16) (s : State) : Out :=
  ctlIssue p (fun s => s.onCell p.cell fun c => { c with beat := max c.beat (p.beat + beats.toNat - 1) }) s

/-- A string token on its way (R56). -/
def State.sendToken (t : StrToken) (s : State) : State :=
  s.onGrid fun g => { g with tokens := g.tokens ++ [t] }

/-- `STRING`: sends the token of a template of the cell's table, its value replaced by a scalar register
where one is named (R140, R146). A token of kind 0 is none, and one to no cell reaches nothing. -/
def execString (p : At) (template : BitVec 6) (scalar : BitVec 4) (s : State) : Out :=
  ctlIssue p (fun s =>
    match imgTemplate s.active (imgCell s.active p.cell).2 template.toNat with
    | none => s
    | some w =>
      let row := (w.extractLsb' 48 5).toNat
      let dest := row * 64 + (w.extractLsb' 53 6).toNat
      let kind := w.extractLsb' 44 4
      if kind = 0 ∨ 24 ≤ row then s
      else s.sendToken
        { arrive := s.tokenArrival p.cell dest p.beat, cell := dest, lane := w.getLsbD 59, kind := kind,
          target := w.extractLsb' 40 4, tag := w.extractLsb' 32 8,
          value := if scalar = 0 then w.extractLsb' 0 32 else (s.cell p.cell).sreg scalar,
          bridge := crosses p.cell dest, row := p.cell / 64 }) s

/-- `SETSKIP`: a skip binding's register, origin and stride (R140); binding 0 is reserved. -/
def execSetskip (p : At) (binding : BitVec 3) (vl : BitVec 4) (origin : BitVec 12) (stride : BitVec 4)
    (s : State) : Out :=
  let b : SkipBinding := { vl := vl, origin := origin, stride := stride }
  ctlIssue p (fun s => if binding = 0 then s else s.onCell p.cell fun c =>
    { c with skips := Sparse.set SkipBinding.reset c.skips binding.toNat b }) s

/-- `STEERSEL`: the steering stream that `STEER` issues feed (R140). -/
def execSteersel (p : At) (stream : BitVec 4) (s : State) : Out :=
  ctlIssue p (fun s => s.onCell p.cell fun c => { c with steerSel := stream }) s

end Sys2Proof.Machine
end

