-- ==== Sys2Proof/Machine/Edge.lean ====
section
/-!
DEFINITION. The edge agent of the fabric-out streams: messages packed into data frames (R318), frames placed
on planes by the stripe lists (R322).
-/
namespace Sys2Proof.Machine

/-- The chip of a stage of the role in force (R387); none where the role has no such stage. -/
def State.stageChip (s : State) (stage : Nat) : Option (BitVec 12) := s.fab.memberChips[stage]?

/-- An outgoing stream in the step (R318). -/
def State.outStream (s : State) (i : Nat) : OutStream :=
  (s.fab.outs.find? fun o => decide (o.stream = i)).getD { OutStream.reset with stream := i }

/-- An outgoing stream changed. -/
def State.setOut (o : OutStream) (s : State) : State :=
  s.onFab fun f => { f with outs := (f.outs.filter fun x => decide (x.stream ≠ o.stream)) ++ [o] }

/-- The frame being filled is queued on the plane that the stripe list gives it (R318, R321, R322); where the
pair has no plane, it is lost. -/
def State.queueFrame (e : EdgeDecl) (o : OutStream) (last : Bool) (s : State) : State :=
  let o' : OutStream := { o with sent := o.sent + 1, flits := [], ends := 0, empties := 0, done := last, poison := false }
  let s := s.setOut o'
  match s.stageChip e.peer with
  | none => s
  | some chip =>
    let list := Sparse.get [] s.fab.stripes chip.toNat
    match list[(o.sent + e.index) % list.length]? with
    | none => s
    | some port =>
      -- a plane whose port went `DOWN` in the step carries nothing more of it (R335)
      if 16 ≤ port then s
      else s.onFab fun f => { f with dataQ := f.dataQ ++
        [{ port := port, dest := chip, stream := e.index, sequence := o.sent, lastBeat := e.last, last := last,
           flits := o.flits, empties := o.empties, endMap := o.ends, epoch := s.cyl.epoch, poison := o.poison
           origin := { source := s.fab.chip, partition := s.fab.partition, step := s.cad.step.setWidth 32
                       replay := BitVec.ofNat 16 s.step.replay, epoch := s.cyl.epoch } }] }

/-- A flit, poisoned or not, or an empty flit, reaches the edge on a stream; `fin` ends a message (R50, R318). -/
def State.edgeArrive (i : Nat) (data : Option (BitVec 1024)) (poison fin : Bool) (s : State) : State :=
  match imgEdge s.active i with
  | none => s
  | some e =>
    if e.kind ≠ 1 then s
    else
      let o := s.outStream i
      if o.done then s
      else
        let n := o.messages + (if fin then 1 else 0)
        let last := fin && decide (n = sendCount s.active e)
        match data with
        | none =>
          let o := { o with messages := n, empties := o.empties + 1 }
          if last then s.queueFrame e o true else s.setOut o
        | some d =>
          let k := o.flits.length
          let o := { o with messages := n, flits := o.flits ++ [d], ends := o.ends ||| flag 39 k fin, poison := o.poison || poison }
          if last then s.queueFrame e o true
          else if k + 1 = 39 then s.queueFrame e o false
          else s.setOut o

/-- At beat 0 the outgoing streams begin; one that no `SEND` names sends its one frame (R318). -/
def State.edgeOpen (s : State) : State :=
  let img := s.active
  let s := s.onFab fun f => { f with outs := [] }
  (imgEdges img).foldl (fun s e =>
    if e.kind = 1 ∧ sendCount img e = 0 then s.queueFrame e { OutStream.reset with stream := e.index } true
    else s) s

end Sys2Proof.Machine
end

