-- ==== Sys2Proof/Machine/Mover.lean ====
section
/-!
DEFINITION. The data mover (R52, R139, R175 to R180): one meaning for each operation of its sub-slot.
-/
namespace Sys2Proof.Machine

/-- `DA[src]` and `DA[dst]` advance by their strides, once where they are one register (R139). -/
def Cell.stepPair (o : DOp) (c : Cell) : Cell :=
  if o.src = o.dst then c.stepDa o.src else (c.stepDa o.src).stepDa o.dst

/-- A transfer issue (R139, R141): what it starts where it runs, what its suppression by length skip still
does, its signal in cycle `fin` (where it runs, only if `signals`; else what it starts gives the signal), and
the advance of its registers in every case. -/
def transfer (p : At) (o : DOp) (signals : Bool) (fin : Cell → Nat) (run skipped : Cell → State → State)
    (s : State) : Out :=
  issue p (fun s =>
    let (v, s) := s.guarded p.cell o.guard
    let c := s.cell p.cell
    let sig (s : State) : State := s.onCell p.cell (Cell.signalAt (fin c) (Guard.signal o.guard))
    let s := match v with
      | .run => let s := (run c s).countRead p.cell p.read; if signals then sig s else s
      | .skipped => sig (skipped c s)
      | .failed => s
    s.onCell p.cell (Cell.stepPair o)) s

/-- Actions of the data mover, one for each flit `j` in cycle `t` + j. -/
def Cell.perFlit (t n : Nat) (f : Nat → Landing) (c : Cell) : Cell :=
  { c with landings := c.landings ++ (List.range n).map fun j => (t + j, f j) }

/-- `COPY`: flit j is read in cycle t + j and written in cycle t + j + 4 (R52). -/
def execCopy (p : At) (o : DOp) (s : State) : Out :=
  transfer p o true (fun _ => p.beat + moverCount o + 3)
    (fun c s => s.onCell p.cell (Cell.perFlit p.beat (moverCount o) fun j =>
      .copy (daSram (c.daReg o.src) + 128 * j) (daSram (c.daReg o.dst) + 128 * j) (badRead p)))
    (fun _ s => s) s

/-- A flit injected in cycle `t` toward a mesh destination (R54, R55, R180). -/
def State.meshFlit (s : State) (src dest t addr : Nat) (counter : BitVec 4) : Flit :=
  if dest < 1536 then
    { Flit.reset with arrive := s.flitArrival src dest t, slot := flitSlot src dest t, cell := dest, addr := addr,
                      counter := counter, row := src / 64, bridge := crosses src dest }
  else { Flit.reset with arrive := t, slot := t, cell := dest, addr := addr, counter := counter, row := src / 64 }

/-- `SEND`: flit j is read in cycle t + j and injected in cycle t + j + 1; a suppressed `SEND` injects one
empty flit in the cycle of its last flit (R54, R173, R180). A destination that names no cell and no edge
stream receives nothing (assumption 13). -/
def execSend (p : At) (o : DOp) (s : State) : Out :=
  let n := (moverCount o)
  transfer p o true (fun _ => p.beat + n)
    (fun c s =>
      let d := c.daReg o.dst
      match meshCell d with
      | none => s
      | some k => s.onCell p.cell (Cell.perFlit p.beat n fun j =>
          .inject (daSram (c.daReg o.src) + 128 * j)
            { s.meshFlit p.cell k (p.beat + j + 1) (daSram d + 128 * j) (d.extractLsb' 25 4) with
              signal := decide (j + 1 = n) } (badRead p)))
    (fun c s =>
      let d := c.daReg o.dst
      match meshCell d with
      | none => s
      | some k => s.onGrid fun g => { g with flits := g.flits ++
          [{ s.meshFlit p.cell k (p.beat + n) 0 (d.extractLsb' 25 4) with signal := true, empty := true }] }) s

/-- `GATHER`: index block j is read in cycle t + 33 j, and its pieces in the cycles after it (R176 to R179).
The last piece from tier 1 is due within the latency bound (R198). -/
def execGather (p : At) (o : DOp) (s : State) : Out :=
  let n := moverCount o
  let blocks := ceilDiv n 32
  transfer p o false
    (fun c => if baseInSram (c.daReg (o.src + 1)) then p.beat + n + blocks + 2 else p.beat + n + 630)
    (fun c s => s.onCell p.cell fun c' => { c' with landings := c'.landings ++ (List.range blocks).map fun j =>
      (p.beat + 33 * j, Landing.indexBlock (daSram (c.daReg o.src) + 128 * j) (c.daReg (o.src + 1))
        (daSram (c.daReg o.dst) + 4096 * j) (min 32 (n - 32 * j)) (decide (j + 1 = blocks))
        (Guard.signal o.guard) (badRead p)) })
    (fun _ s => s) s

/-- Where flit `j` of a transfer lies in the window that a tier-1 address names (R139, R223). -/
def State.t1Flits (s : State) (a : BitVec 32) (j : Nat) : T1At :=
  s.windowAt (a.extractLsb' 28 4).toNat ((a.extractLsb' 0 28).toNat * 128 + 128 * j)

/-- `READ_T1`: piece j is requested in cycle t + j and is due within the tier-1 latency bound (R52, R178,
R198). A piece outside its window is not read: it lands as zeros and records a barrier fault, as a piece of
a `GATHER` does (R179; assumption 14). -/
def execReadT1 (p : At) (o : DOp) (s : State) : Out :=
  let n := moverCount o
  transfer p o false (fun _ => p.beat + n + 630)
    (fun c s => (List.range n).foldl (fun (s : State) j =>
      let add (src : T1Src) (s : State) : State := s.onGrid fun g => { g with pieces := g.pieces ++
        [{ cell := p.cell, due := p.beat + j + 630, src := src, dst := daSram (c.daReg o.dst) + 128 * j,
           head := false, tile := true, last := decide (j + 1 = n), signal := Guard.signal o.guard
           bad := false }] }
      match s.t1Flits (c.daReg o.src) j with
      | .addr x => add (.addr x) s
      | .fixed d => add (.data d) s
      | .outside => (add (.data 0) s).barrierFault p.cell false) s)
    (fun _ s => s) s

/-- `WRITE_T1`: flit j is read in cycle t + j; tier 1 acknowledges the last write within the latency bound
(R52, R141, R198). A write to a page that the window does not hold is dropped and records a barrier fault
(R223). -/
def execWriteT1 (p : At) (o : DOp) (s : State) : Out :=
  let n := moverCount o
  transfer p o false (fun _ => p.beat + n + 630)
    (fun c s =>
      let dst (j : Nat) : Option Nat :=
        match s.t1Flits (c.daReg o.dst) j with
        | .addr a => some a
        | _ => none
      (s.onCell p.cell (Cell.perFlit p.beat n fun j =>
        .toT1 (daSram (c.daReg o.src) + 128 * j) (dst j) (badRead p))).onGrid fun g => { g with writes := g.writes ++
          [{ cell := p.cell, due := p.beat + n + 630, signal := Guard.signal o.guard }] })
    (fun _ s => s) s

/-- `STEER`: flit j is read in cycle t + j and taken by the steering unit in cycle t + j + 2, on the
selected stream (R52, R139). -/
def execSteer (p : At) (o : DOp) (s : State) : Out :=
  transfer p o true (fun _ => p.beat + moverCount o + 1)
    (fun c s => s.onCell p.cell (Cell.perFlit p.beat (moverCount o) fun j =>
      .feed (daSram (c.daReg o.src) + 128 * j) c.steerSel (badRead p)))
    (fun _ s => s) s

/-- `DSETA`: half 1 writes bits [31:16] and clears [15:0], half 0 writes [15:0] and keeps the rest
(R139). -/
def execDseta (p : At) (reg : BitVec 3) (high : Bool) (imm : BitVec 16) (s : State) : Out :=
  issue p (fun s => s.onCell p.cell fun c =>
    let v : BitVec 32 := if high then imm ++ (0 : BitVec 16) else (c.daReg reg).extractLsb' 16 16 ++ imm
    { c with da := Sparse.set 0 c.da reg.toNat v }) s

/-- `DSETS`: the stride of a register (R139). -/
def execDsets (p : At) (reg : BitVec 3) (stride : BitVec 16) (s : State) : Out :=
  issue p (fun s => s.onCell p.cell fun c => { c with ds := Sparse.set 0 c.ds reg.toNat stride }) s

/-- `DNOP`: does nothing (R139). -/
def execDnop (p : At) (s : State) : Out := issue p (fun s => s) s

end Sys2Proof.Machine
end

