-- ==== Sys2Proof/Machine/Landings.lean ====
section
/-!
DEFINITION. What arrives at the cells: mesh flits, tier-1 pieces and acknowledgements, string tokens, and the
steering unit's pairs (R53, R56 to R60, R170 to R179, R188 to R191).
-/
namespace Sys2Proof.Machine

/-! ### Shared -/

/-- An arrival while the cells play: the timebase and every cell are brought to its cycle first. -/
def arrive (cycle : Nat) (body : State → State) (s : State) : Out :=
  if s.step.playing then .next (body ((s.at_ (s.cycleTick cycle)).settleAll cycle)).settle else .next s

/-- A flit or token whose bridge CRC failed: delivered, counted, the step voided, no cell charged; the row of
the link is its source row (R54, R57, R344). -/
def State.bridgeFailure (row : Nat) (s : State) : State :=
  let s := s.onGrid fun g => { g with bridgeErr := satInc g.bridgeErr }
  (s.onStep fun g => { g with bridgeRows := if row ∈ g.bridgeRows then g.bridgeRows else g.bridgeRows ++ [row] }).voidWith 0

/-- The first flit on its way that meets a condition, taken off the mesh. -/
def State.takeFlit (f : Flit → Bool) (s : State) : Option (Flit × State) :=
  match s.grid.flits.find? f with
  | none => none
  | some x => some (x, s.onGrid fun g => { g with flits := g.flits.erase x })

/-- The first token on its way of a kind that reaches a cell in a cycle, lane 0 before lane 1 (R170). -/
def State.takeToken (cell cycle kind : Nat) (s : State) : Option (StrToken × State) :=
  let here (lane : Bool) (t : StrToken) : Bool :=
    decide (t.cell = cell) && decide (t.arrive = cycle) && decide (t.kind.toNat = kind) && decide (t.lane = lane)
  match (s.grid.tokens.find? (here false)).orElse fun _ => s.grid.tokens.find? (here true) with
  | none => none
  | some x => some (x, s.onGrid fun g => { g with tokens := g.tokens.erase x })

/-! ### Mesh flits -/

/-- A mesh flit arrives at a landing port: it is written in its reserved slot, the cycle after its scheduled
arrival, and the last flit of a tile raises the counter (R53, R55). One that leaves for an edge stream goes
to the edge agent (R318). -/
def execLandingFlit (dest cycle : Nat) (bridgeBad : Bool) (s : State) : Out :=
  arrive cycle (fun s =>
    match s.takeFlit (fun f => decide (f.cell = dest) && !f.empty &&
        (decide (f.arrive = cycle) || decide (1536 ≤ dest))) with
    | none => s
    | some (f, s) =>
      let s := if bridgeBad && f.bridge then s.bridgeFailure f.row else s
      if 1536 ≤ dest then s.edgeArrive (dest - 1536) (some f.data) f.poison f.signal
      else
        let s := if f.header then s else s.sramStore dest f.slot f.addr (bvBytes 128 f.data) f.poison 3
        if f.signal then s.onCell dest (Cell.signalAt f.slot (some f.counter)) else s) s

/-- An empty flit arrives: nothing is written, and the counter is raised in the next cycle (R173); at the
edge it is an empty message (R318). -/
def execEmptyFlit (dest cycle : Nat) (bridgeBad : Bool) (s : State) : Out :=
  arrive cycle (fun s =>
    match s.takeFlit (fun f => decide (f.cell = dest) && f.empty &&
        (decide (f.arrive = cycle) || decide (1536 ≤ dest))) with
    | none => s
    | some (f, s) =>
      let s := if bridgeBad && f.bridge then s.bridgeFailure f.row else s
      if 1536 ≤ dest then s.edgeArrive (dest - 1536) none false true
      else s.onCell dest (Cell.signalAt (cycle + 1) (some f.counter))) s

/-! ### Tier 1 -/

/-- The landing checks of a tile's header and payload: items 1, 8 and 9 of R167, and the range of
`payload_bytes` (R165, R168). -/
def landingTileOk (h body : List (BitVec 8)) : Bool :=
  let n := fieldAt h 20 4
  decide (fieldAt h 0 2 = 0x4A54) && decide (byteAt h 5 = 0) && decide (fieldAt h 10 2 = 0) &&
    ((h.drop 32).take 32).all (fun b => decide (b = 0)) &&
    decide (64 ≤ n) && decide (n ≤ 1048576) && decide (n % 64 = 0) &&
    decide (body.length = n) && decide (crc32c body = BitVec.ofNat 32 (fieldAt h 16 4))

/-- More bytes of the tile being landed: none while it is incomplete, else whether it passes (R168, R178). -/
def OpenTile.more (t : OpenTile) (bs : List (BitVec 8)) (poison : Bool) : OpenTile × Option Bool :=
  let t := { t with body := t.body ++ bs.take (t.need - t.body.length), bad := t.bad || poison }
  let big := decide (1048576 < t.need)
  if t.need ≤ t.body.length ∨ big then (t, some (!big && !t.bad && landingTileOk t.header t.body)) else (t, none)

/-- A landed tile whose last bytes are written in a cycle is checked four cycles later: one that fails is poisoned and a
failure found at landing (R62, R168). -/
def State.tileLanded (logical cycle : Nat) (ok : Bool) (spans : List (Nat × Nat)) (s : State) : State :=
  if ok then s else s.onCell logical (Cell.land (cycle + 4) (.landFailed spans))

/-- A piece written at an address in a cycle passes the checksum unit of a landing port: a head piece begins a tile, and
one that arrives before the open tile is complete is a failure of that tile (R178). -/
def State.landPiece (logical cycle a : Nat) (head tile : Bool) (bs : List (BitVec 8)) (poison : Bool) (s : State) :
    State :=
  let open_ := (s.cell logical).openTile
  let begins := head || (tile && open_.isNone)
  let s := match open_ with
    | some t => if head then s.onCell logical (Cell.land cycle (.landFailed t.spans)) else s
    | none => s
  let r := if begins then
      (let h := bs.take 64
       some (OpenTile.more { OpenTile.reset with header := h, need := fieldAt h 20 4 } (bs.drop 64) poison))
    else open_.map fun t => t.more bs poison
  match r with
  | none => s
  | some (t, none) =>
    s.onCell logical fun c => { c with openTile := some { t with spans := t.spans ++ [(a, bs.length)] } }
  | some (t, some ok) =>
    (s.onCell logical fun c => { c with openTile := none }).tileLanded logical cycle ok (t.spans ++ [(a, bs.length)])

/-- The oldest tier-1 piece of a cell returns, poisoned where the read met an uncorrectable error or a poisoned page:
written in the next cycle, checked as part of its tile, and with the last piece the issue signals its counter (R50, R141,
R178, R257). -/
def execT1PieceArrival (cell cycle : Nat) (uncorrectable : Bool) (s : State) : Out :=
  arrive cycle (fun s =>
    match s.grid.pieces.find? fun p => decide (p.cell = cell) with
    | none => s
    | some p =>
      let s := s.onGrid fun g => { g with pieces := g.pieces.erase p }
      let d := match p.src with
        | .addr a => s.t1Flit a
        | .data d => d
      let poison := uncorrectable || p.bad || (match p.src with
        | .addr a => s.t1Poisoned a
        | .data _ => false)
      let bs := bvBytes 128 d
      let s := s.sramStore cell (cycle + 1) p.dst bs poison 3
      let s := s.landPiece cell (cycle + 1) p.dst p.head p.tile bs poison
      if p.last then s.onCell cell (Cell.signalAt (cycle + 1) p.signal) else s) s

/-- Tier 1 acknowledges the oldest `WRITE_T1` of a cell, which signals its counter (R141, R198). -/
def execT1WriteAck (cell cycle : Nat) (s : State) : Out :=
  arrive cycle (fun s =>
    match s.grid.writes.find? fun w => decide (w.cell = cell) with
    | none => s
    | some w =>
      (s.onGrid fun g => { g with writes := g.writes.erase w }).onCell cell (Cell.signalAt cycle w.signal)) s

/-! ### Tokens -/

/-- A string token arrives: taken off its lane, its bridge CRC accounted for (R56, R57). -/
def tokenArrives (kind cell cycle : Nat) (bridgeBad : Bool) (body : StrToken → State → State) (s : State) :
    Out :=
  arrive cycle (fun s =>
    match s.takeToken cell cycle kind with
    | none => s
    | some (t, s) => body t (if bridgeBad && t.bridge then s.bridgeFailure t.row else s)) s

/-- A valid-length token writes `VL[target]` at the end of its cycle, values above 65,535 as 65,535
(R170). -/
def execValidLengthToken (cell cycle : Nat) (bridgeBad : Bool) (s : State) : Out :=
  tokenArrives 1 cell cycle bridgeBad (fun t s =>
    s.onCell cell (Cell.land (cycle + 1) (.vlen t.target (BitVec.ofNat 16 (min 65535 t.value.toNat))))) s

/-- A remote barrier token raises a counter by its value (R60); the specification states no counter beyond
65,535, so such a counter takes a free value (assumption 4). -/
def execRemoteBarrierToken (cell cycle : Nat) (bridgeBad : Bool) (s : State) : Out :=
  tokenArrives 3 cell cycle bridgeBad (fun t s =>
    if ((s.cell cell).counter t.target).toNat + t.value.toNat ≤ 65535 then
      s.onCell cell (Cell.land (cycle + 1) (.raiseBy t.target (t.value.setWidth 16)))
    else (s.onCell cell (Cell.land (cycle + 1) (.raiseBy t.target (s.free 16)))).drawn) s

/-! ### The steering unit (R58, R59, R188 to R191) -/

/-- The declaration of a cell's steering stream (R147). -/
def State.steerDecl (s : State) (cell : Nat) (stream : BitVec 4) : Option SteerDecl :=
  (imgSteer s.active).find? fun d => decide (d.cell = cell) && decide (d.stream = stream.toNat)

/-- The declaration of a cell's steering stream that carries a tag (R147). -/
def State.steerTag (s : State) (cell : Nat) (tag : BitVec 8) : Option SteerDecl :=
  (imgSteer s.active).find? fun d => decide (d.cell = cell) && decide (d.tag = tag)

/-- The flit that the steering unit of `cell` forwards in cycle `t`: within its own cell the landing port
writes it in the next cycle (R190). -/
def State.steeredFlit (s : State) (cell dest t : Nat) (value : BitVec 32) (data : BitVec 1024)
    (poison header : Bool) : Flit :=
  let f := { s.meshFlit cell dest t (64 * (value.extractLsb' 0 14).toNat) (value.extractLsb' 25 4) with
    data := data, poison := poison, header := header, signal := value.getLsbD 29 }
  if dest = cell then { f with arrive := t, slot := t + 1 } else f

/-- A pair completes in cycle `t`: discarded for a null token, a mismatch for a reserved bit or for a second
destination cell of the stream, else forwarded in the next cycle (R58, R189, R190). A destination of row 24 to 31 fixes the
stream's destination and is received by nothing (DESIGN CHOICE, assumption 13); a null close is discarded as a null flit
is, and forwards no header (DESIGN CHOICE, assumption 197). -/
def State.steer (cell t : Nat) (stream : BitVec 4) (value : BitVec 32) (data : BitVec 1024)
    (poison header : Bool) (s : State) : State :=
  let row := (value.extractLsb' 20 5).toNat
  let dest := row * 64 + (value.extractLsb' 14 6).toNat
  if value.getLsbD 30 then s.steeringFault cell
  else if value.getLsbD 31 then s
  else
    let first := Sparse.get 0 (s.cell cell).steerDest stream.toNat
    if first ≠ 0 ∧ first ≠ dest + 1 then s.steeringFault cell
    else
      let s := s.onCell cell fun c =>
        { c with steerDest := Sparse.set 0 c.steerDest stream.toNat (dest + 1) }
      if 24 ≤ row then s
      else s.onGrid fun g =>
        { g with flits := g.flits ++ [s.steeredFlit cell dest (t + 1) value data poison header] }

/-- A steering control token arrives: paired with the held flit of its tag, a mismatch where flits are held
and its tag is that of no stream of the cell, else held for its window (R58, R59; assumption 17). -/
def execSteeringControlToken (cell cycle : Nat) (bridgeBad : Bool) (s : State) : Out :=
  tokenArrives 2 cell cycle bridgeBad (fun t s =>
    let c := s.cell cell
    match c.heldFlits.find? fun f => decide (f.tag = t.tag) with
    | some f =>
      (s.onCell cell fun c => { c with heldFlits := c.heldFlits.erase f }).steer cell cycle f.stream t.value
        f.data f.poison false
    | none =>
      let decl := s.steerTag cell t.tag
      if (c.heldFlits ≠ [] ∧ decl.isNone) ∨ 16 ≤ c.heldTokens.length then s.steeringFault cell
      else s.onCell cell fun c => { c with heldTokens := c.heldTokens ++
        [{ tag := t.tag, value := t.value, expiry := cycle + (decl.map (·.window)).getD 0 }] }) s

/-- A close token is paired without a flit and forwards a zero-length header (R58, R191); one whose tag is
that of no stream of the cell is a mismatch. -/
def execZeroLengthHeaderToken (cell cycle : Nat) (bridgeBad : Bool) (s : State) : Out :=
  tokenArrives 4 cell cycle bridgeBad (fun t s =>
    match s.steerTag cell t.tag with
    | none => s.steeringFault cell
    | some d => s.steer cell cycle (BitVec.ofNat 4 d.stream) t.value 0 false true) s

/-- A data flit reaches the steering unit: paired with the held token of its stream's tag, a mismatch where
tokens are held and its stream is not declared, else held for its window (R58, R59; assumption 17). -/
def execSteerFlitArrival (cell cycle : Nat) (s : State) : Out :=
  arrive cycle (fun s =>
    match (s.cell cell).steerIn.find? fun x => decide (x.1 = cycle) with
    | none => s
    | some (n, stream, data, poison) =>
      let s := s.onCell cell fun c => { c with steerIn := c.steerIn.erase (n, stream, data, poison) }
      let c := s.cell cell
      let decl := s.steerDecl cell stream
      let tag := (decl.map (·.tag)).getD 0
      match c.heldTokens.find? fun t => decide (t.tag = tag) with
      | some t =>
        (s.onCell cell fun c => { c with heldTokens := c.heldTokens.erase t }).steer cell cycle stream t.value
          data poison false
      | none =>
        if (c.heldTokens ≠ [] ∧ decl.isNone) ∨ 16 ≤ c.heldFlits.length then s.steeringFault cell
        else s.onCell cell fun c => { c with heldFlits := c.heldFlits ++
          [{ stream := stream, tag := tag, data := data, poison := poison,
             expiry := cycle + (decl.map (·.window)).getD 0 }] }) s

/-- Pairing windows expire: each flit and token whose window has passed is discarded, a mismatch each
(R59). -/
def execSteerWindowExpiry (cell cycle : Nat) (s : State) : Out :=
  arrive cycle (fun s =>
    let c := s.cell cell
    let n := (c.heldFlits.filter fun f => decide (f.expiry ≤ cycle)).length +
      (c.heldTokens.filter fun t => decide (t.expiry ≤ cycle)).length
    let s := s.onCell cell fun c => { c with
      heldFlits := c.heldFlits.filter fun f => decide (cycle < f.expiry)
      heldTokens := c.heldTokens.filter fun t => decide (cycle < t.expiry) }
    (List.range n).foldl (fun s _ => s.steeringFault cell) s) s

/-! ### Hub strings (R146, R171) -/

/-- The valid length of a batch slot in the step: ℓ + f where f > 0 positions are fed, else 0 (R171,
R277). -/
def State.slotLength (s : State) (slot : Nat) : Nat :=
  match Sparse.get 0 s.srv.fed slot, s.srv.slots.find? fun x => decide (x.1 = slot) with
  | 0, _ => 0
  | _, none => 0
  | f, some (_, b) => (if b.region = 1 then (s.ctx b.ctx).lenFb else (s.ctx b.ctx).len) + f

/-- Occupied slots of a region (R146). -/
def State.occupied (s : State) (region : Nat) : Nat :=
  (s.srv.slots.filter fun x => decide (x.2.region = region)).length

/-- At its scheduled beat the hub injects a token on lane 1 below row 23 of the destination's column; it
reaches row r after 24 − r hops (R146). A value selector that R146 does not list gives 0 (DESIGN CHOICE, assumption
174). -/
def execHubStringInject (entry : Nat) (s : State) : Out :=
  if s.step.playing then
    match (imgHubStrings s.active)[entry]? with
    | none => .next s
    | some h =>
      let value : BitVec 32 := match h.sel with
        | 0 => h.imm
        | 1 => BitVec.ofNat 32 (s.slotLength h.imm.toNat)
        | 2 => BitVec.ofNat 32 (s.occupied h.imm.toNat)
        | _ => 0
      if h.kind = 0 ∨ 24 ≤ h.row ∨ 64 ≤ h.col then .next s
      else .next (s.sendToken
        { arrive := h.beat + 24 - h.row, cell := h.row * 64 + h.col, lane := true, kind := h.kind,
          target := h.target, tag := h.tag, value := value, bridge := false, row := 23 })
  else .next s

end Sys2Proof.Machine
end

