-- ==== Sys2Proof/Machine/Matrix.lean ====
section
/-!
DEFINITION. The matrix unit: the meanings of the matrix sub-slot (R138), over the passes of `Operands`.
-/
namespace Sys2Proof.Machine

/-- The 64-byte lines of a tile at an SRAM address. -/
def tileLines (a : Nat) (t : TileRead) : List Nat :=
  (List.range (ceilDiv (64 + t.payload.length) 64)).map fun i => a / 64 + i

/-- The operand reads of a pass occupy their banks in the `d` cycles from `t` on (R47 to R49); which line is read when
is open (`Config.operandLines`). -/
def State.operandReads (logical t d : Nat) (q : PassRec) (s : State) : State :=
  let la := tileLines q.addrA q.tileA
  let lb := tileLines q.addrB q.tileB
  (List.range d).foldl (fun s j =>
    let lines := ((Config.operandLines la.length lb.length d j).filterMap fun i => (la ++ lb)[i]?).take 8
    let (ok, lost, c) := (s.cell logical).useBanks (t + j) ((lines.map fun l => l % 32).dedup) 0
    let s := s.onCell logical fun _ => c
    let s := (List.range lost).foldl (fun s _ => s.barrierFault logical false) s
    if ok then s else s.barrierFault logical false) s

/-- Whether a pass of the step has read the tile already (R62). -/
def Cell.seenTile (c : Cell) (a : Nat) (sh : Shape) (isB : Bool) : Bool :=
  c.checked.any fun t => decide (t.1 = a) && decide (t.2.1 = sh.code) && decide (t.2.2.1 = isB)

/-- A pass starts at beat `t` for `d` cycles (R47): its operands are read from that cycle on, the last in cycle
`t + d - 1`; the bank holds its results from then on. -/
def State.startPass (logical t d : Nat) (q : PassRec) (s : State) : State :=
  let n := q.shape.m * q.shape.n
  let seen (a : Nat) (b : Bool) (x : TileRead) (c : Cell) : Cell :=
    if c.seenTile a q.shape b then c
    else { c with checked := (a, q.shape.code, b, 64 + x.payload.length) :: c.checked }
  let s := s.operandReads logical t d q
  (s.onFreeCount (· + (n + 2))).onCell logical fun c =>
    (seen q.addrA false q.tileA (seen q.addrB true q.tileB c)).land (t + d - 1) (.operands q)

/-- The formats of matrix operands (R76). -/
def operandCodes : List Nat := [0x01, 0x02, 0x03, 0x04, 0x11, 0x12, 0x13, 0x21]

/-- The formats that the schedule counts for the A and the B tile of a pass, by its cell and beat: which ones of R76 is open,
since the tile headers, not the program, give them (assumption 28). -/
def scheduledFormats (cell beat : Nat) : Nat × Nat :=
  let k : BitVec 35 := Config.freeValue 35 (1536 * beat + cell)
  let codesB := operandCodes ++ [0x81, 0x82, 0x83, 0x91, 0x92, 0x93, 0xA1]
  (operandCodes.getD (k.toNat % 8) 0x01, codesB.getD (k.toNat / 8 % 15) 0x01)

/-- The duration that the schedule counts for a pass (R46). -/
def scheduledCycles (cell beat : Nat) (sh : Shape) : Nat :=
  let (fa, fb) := scheduledFormats cell beat
  passCycles sh fa fb

/-- `MPASS`: one tile product into an accumulator bank, guarded, then the address registers advance
(R138, R141). A suppressed pass gives its bank the size of its shape too: a drain of the bank then writes, and signals, as
it would have after the pass (R172, R192; assumption 193), and it signals when the pass would have ended by the duration that
the schedule counts for it: its tiles may never have been written, so no header gives one (DEDUCED, assumption 12). -/
def execMpass (p : At) (shape : Shape) (add bank : Bool) (a b : BitVec 3) (guard : Guard) (s : State) : Out :=
  issue p (fun s =>
    let c := s.cell p.cell
    let addrA := (c.maReg a).toNat * 64
    let addrB := (c.maReg b).toNat * 64
    let ta := c.tileAt addrA (shape.m * shape.k)
    let tb := c.tileAt addrB (shape.k * shape.n)
    let d := passCycles shape (hdrFormat ta.header) (hdrFormat tb.header)
    let q : PassRec :=
      { shape := shape, add := add, bank := bank, addrA := addrA, addrB := addrB
        tileA := { ta with poison := ta.poison || decide (p.read = .uncorrectable) }, tileB := tb
        firstA := !c.seenTile addrA shape false, firstB := !c.seenTile addrB shape true, free := s.freeCount }
    let (v, s) := s.guarded p.cell guard
    let s := match v with
      | .run => (s.startPass p.cell p.beat d q).countRead p.cell p.read
      | _ => s
    let s := match v with
      | .failed => s
      | .skipped => s.onCell p.cell
          (Cell.signalAt (p.beat + 4 + scheduledCycles p.cell p.beat shape + 3) (Guard.signal guard))
      | .run => s.onCell p.cell (Cell.signalAt (p.beat + 4 + d + 3) (Guard.signal guard))
    s.onCell p.cell fun c =>
      let c := { c with accSize := Sparse.set 0 c.accSize (bankNo bank) (shape.m * shape.n) }
      if a = b then c.stepMa a else (c.stepMa a).stepMa b) s

/-- The bytes that a drain writes, and its conversion flags (R93, R164). -/
def drainBytes (bf16 : Bool) (vs : List (BitVec 32)) : List (BitVec 8) × AFlags :=
  if bf16 then
    let rs := vs.map fun v => Fmt.bf16.round (Fmt.fp32.decode v.toNat)
    (rs.flatMap (fun r => leBytes 2 r.1),
      rs.foldl (fun f r => f ||| (r.2 &&& (fInvalid ||| fOverflow ||| fUnderflow ||| fInexact))) 0)
  else (vs.flatMap (bvBytes 4), 0)

/-- The writes of a drain, 256 bytes a cycle, each landing two cycles after its drain cycle (R47). -/
def State.drainStores (logical a : Nat) (poison : Bool) : Nat → Nat → List (BitVec 8) → State → State
  | 0, _, _, s => s
  | n + 1, cycle, bs, s =>
    let s := if a + 256 ≤ sramBytes then s.sramStore logical (cycle + 2) a (bs.take 256) poison 0
             else s.barrierFault logical false
    State.drainStores logical (a + 256) poison n (cycle + 1) (bs.drop 256) s

/-- A pass into the bank has not added its last group (R47). -/
def Cell.passPending (c : Cell) (bank : Bool) : Bool :=
  c.landings.any fun l => match l.2 with
    | .operands q => decide (q.bank = bank)
    | .results q _ _ => decide (q.bank = bank)
    | _ => false

/-- `MDRAIN`: an accumulator bank written to SRAM in FP32 or BF16, its flags reaching the cell (R93, R100,
R138, R164). A drain issued before the last group of a pass into its bank has been added writes free values
(R47; assumption 110). It writes as many results as
the last pass issued into the bank has, run or suppressed; none after reset (DEDUCED, assumption 193). -/
def execMdrain (p : At) (bf16 bank : Bool) (d : BitVec 3) (guard : Guard) (s : State) : Out :=
  issue p (fun s =>
    let c := s.cell p.cell
    let n := Sparse.get 0 c.accSize (bankNo bank)
    let early := c.passPending bank
    let (bs, f) := drainBytes bf16 (if early then freeWords s.freeCount n else Sparse.getRun 0 (c.acc bank) 0 n)
    let s := if early then s.onFreeCount (· + n) else s
    let cycles := ceilDiv bs.length 256
    let (v, s) := s.guarded p.cell guard
    let s := match v with
      | .run =>
        let f' := Sparse.get 0 c.accFlags (bankNo bank) ||| f
        let s := s.onCell p.cell fun c =>
          { c with accFlags := Sparse.set 0 c.accFlags (bankNo bank) f' }.addFlags f'
        s.drainStores p.cell ((c.maReg d).toNat * 64) (Sparse.get false c.accPoison (bankNo bank)) cycles
          p.beat bs
      | _ => s
    let s := match v with
      | .failed => s
      | _ => s.onCell p.cell (Cell.signalAt (p.beat + cycles + 1) (Guard.signal guard))
    s.onCell p.cell (Cell.stepMa d)) s

/-- `MSETA`: an address register of the matrix unit (R138). -/
def execMseta (p : At) (reg : BitVec 3) (addr : BitVec 14) (s : State) : Out :=
  issue p (fun s => s.onCell p.cell fun c => { c with ma := Sparse.set 0 c.ma reg.toNat addr }) s

/-- `MSETS`: a stride of the matrix unit (R138). -/
def execMsets (p : At) (reg : BitVec 3) (stride : BitVec 14) (s : State) : Out :=
  issue p (fun s => s.onCell p.cell fun c => { c with ms := Sparse.set 0 c.ms reg.toNat stride }) s

/-- `MNOP`: nothing issues (R138). -/
def execMnop (p : At) (s : State) : Out := issue p (fun s => s) s

end Sys2Proof.Machine
end

