-- ==== Sys2Proof/Machine/Codec.lean ====
section
/-!
DEFINITION. The stored form of pages in tiers 2 and 3: raw, or packed in 32 chunk images (R217 to R220). A
page's uncompressed content is a byte memory of 2 MiB, unlisted bytes 0.
-/
namespace Sys2Proof.Machine

/-- Bytes of a chunk (R217). -/
def chunkBytes : Nat := 65536

/-- Part of a byte memory, its keys counted from the part's start. -/
def Mem.slice (m : Mem) (a n : Nat) : Mem :=
  (m.filter fun p => decide (a ≤ p.1) && decide (p.1 < a + n)).map fun p => (p.1 - a, p.2)

/-- A byte memory with another laid over `n` bytes from `a` on. -/
def Mem.lay (m : Mem) (a n : Nat) (x : Mem) : Mem :=
  m.filter (fun p => decide (p.1 < a)) ++
    (x.filter fun p => decide (p.1 < n)).map (fun p => (p.1 + a, p.2)) ++
    m.filter (fun p => decide (a + n ≤ p.1))

/-! ### Canonical prefix codes (R219) -/

/-- The lengths form a code that R219 admits: complete, or one symbol of length 1. -/
def lengthsOk (ls : List Nat) : Bool :=
  let used := ls.filter fun l => decide (l ≠ 0)
  ls.all (fun l => decide (l ≤ 15)) &&
    (decide (used = [1]) || decide ((used.map fun l => 2 ^ (15 - l)).foldl (· + ·) 0 = 2 ^ 15))

/-- The first code of each length, by the canonical rule of RFC 1951, section 3.2.2. -/
def firstCode (ls : List Nat) : Nat → Nat
  | 0 => 0
  | n + 1 => (firstCode ls n + (if n = 0 then 0 else (ls.filter fun l => decide (l = n)).length)) * 2

/-- The code of a symbol: its length and its value (RFC 1951, section 3.2.2). -/
def codeOf (ls : List Nat) (sym : Nat) : Nat × Nat :=
  let l := ls.getD sym 0
  (l, firstCode ls l + ((ls.take sym).filter fun k => decide (k = l)).length)

/-- The bits of a code, most significant first. -/
def codeBits : Nat → Nat → List Bool
  | 0, _ => []
  | n + 1, v => decide (v / 2 ^ n % 2 = 1) :: codeBits n v

/-- Bits packed into bytes, filling each byte from bit 0 upward. -/
def packBits (n : Nat) (bits : List Bool) : List (BitVec 8) :=
  (List.range n).map fun i => BitVec.ofNat 8
    (((bits.drop (8 * i)).take 8).foldr (fun b v => (if b then 1 else 0) + 2 * v) 0)

/-- The bits of bytes, bit 0 first. -/
def unpackBits (bs : List (BitVec 8)) : List Bool := bs.flatMap fun b => (List.range 8).map fun i => b.getLsbD i

/-- The symbol with a length and a code. -/
def symbolOf (ls : List Nat) (len code : Nat) : Option Nat :=
  (List.range ls.length).find? fun s => decide (len ≠ 0) && decide (codeOf ls s = (len, code))

/-- `n` symbols from a stream that ends in the byte of the last one; none where it ends early or late, or holds no code
(R220). -/
def decodeSyms (ls : List Nat) : List Bool → Nat → Nat → Nat → Option (List Nat)
  | r, 0, _, _ => if r.length < 8 then some [] else none
  | [], _ + 1, _, _ => none
  | b :: r, n + 1, len, code =>
    let code := 2 * code + (if b then 1 else 0)
    match symbolOf ls (len + 1) code with
    | some s => (decodeSyms ls r n 0 0).map (s :: ·)
    | none => if 15 ≤ len then none else decodeSyms ls r (n + 1) (len + 1) code

/-- The nibbles of bytes, the low nibble first (R219). -/
def nibblesOf (bs : List (BitVec 8)) : List Nat := bs.flatMap fun b => [b.toNat % 16, b.toNat / 16]

/-- Bytes from nibbles. -/
def ofNibbles : List Nat → List (BitVec 8)
  | a :: b :: r => BitVec.ofNat 8 (a + 16 * b) :: ofNibbles r
  | _ => []

/-- The code lengths that the device chooses for symbols (R219): the specification says how a code follows
from its lengths, not which lengths are chosen, so they are a free choice among those that cover the symbols
(assumption 4); all symbols of one length where the free choice covers them not. -/
def chosenLengths (alphabet : Nat) (syms : List Nat) : List Nat :=
  let ls := Config.codeLengths alphabet syms
  let covers := syms.all fun s => decide (ls.getD s 0 ≠ 0)
  if ls.length = alphabet ∧ lengthsOk ls ∧ covers then ls
  else List.replicate alphabet (if alphabet = 16 then 4 else 8)

/-- The coded bytes of symbols: table, then stream (R219). -/
def codeSyms (alphabet : Nat) (syms : List Nat) : List (BitVec 8) :=
  let ls := chosenLengths alphabet syms
  let codes := (List.range alphabet).map fun s => let c := codeOf ls s; codeBits c.1 c.2
  let bits := syms.flatMap fun s => codes.getD s []
  ofNibbles ls ++ packBits (ceilDiv bits.length 8) bits

/-! ### Chunk and page images (R217, R218) -/

/-- A chunk's method and the bytes after its header: the fewest coded bytes, the lower method on a tie
(R219). -/
def codeChunk (m : Mem) : Nat × List (BitVec 8) :=
  if m = [] then (1, [])
  else
    let bs := Mem.reads m 0 chunkBytes
    let nib := codeSyms 16 (nibblesOf bs)
    let byt := codeSyms 256 (bs.map (·.toNat))
    let best : Nat × List (BitVec 8) := (0, bs)
    let best := if nib.length < best.2.length then (2, nib) else best
    if byt.length < best.2.length then (3, byt) else best

/-- A chunk image: header, coded bytes, padding to 128 bytes (R218). -/
def chunkImage (m : Mem) : List (BitVec 8) :=
  let (method, coded) := codeChunk m
  let h := leBytes 2 0x4B43 ++ [BitVec.ofNat 8 method, 0] ++ leBytes 4 coded.length ++
    bvBytes 4 (crc32c (Mem.reads m 0 chunkBytes)) ++ leBytes 4 0
  padTo ((16 + coded.length + 127) / 128 * 128) (h ++ coded)

/-- A packed page image (R217). -/
def packPage (m : Mem) : List (BitVec 8) :=
  let chunks := (List.range 32).map fun k => chunkImage (Mem.slice m (chunkBytes * k) chunkBytes)
  let offsets := (chunks.foldl (fun (x : List Nat × Nat) c => (x.1 ++ [x.2 / 128], x.2 + c.length)) ([], 128)).1
  let h := leBytes 2 0x5047 ++ [1, 0] ++ offsets.flatMap (leBytes 2) ++ List.replicate 56 0
  h ++ bvBytes 4 (crc32c h) ++ chunks.flatten

/-- The 65,536 bytes of a chunk image; none for an error of R220. -/
def unpackChunk (img : List (BitVec 8)) : Option (List (BitVec 8)) :=
  let method := (byteAt img 2).toNat
  let n := fieldAt img 4 4
  let body := (img.drop 16).take n
  if fieldAt img 0 2 ≠ 0x4B43 ∨ 3 < method ∨ byteAt img 3 ≠ 0 ∨ fieldAt img 12 4 ≠ 0 ∨ body.length ≠ n then none
  else
    let coded (alphabet table count : Nat) (back : List Nat → List (BitVec 8)) : Option (List (BitVec 8)) :=
      let ls := nibblesOf (body.take table)
      if n < table ∨ !lengthsOk ls then none
      else (decodeSyms (ls.take alphabet) (unpackBits (body.drop table)) count 0 0).map back
    let out := match method with
      | 0 => if n = chunkBytes then some body else none
      | 1 => if n = 0 then some (List.replicate chunkBytes 0) else none
      | 2 => coded 16 8 (2 * chunkBytes) ofNibbles
      | _ => coded 256 128 chunkBytes fun ss => ss.map (BitVec.ofNat 8)
    match out with
    | none => none
    | some bs => if crc32c bs = BitVec.ofNat 32 (fieldAt img 8 4) then some bs else none

/-- Chunk `k` of a packed page image (R217). -/
def pageChunk (img : List (BitVec 8)) (k : Nat) : Option (List (BitVec 8)) :=
  unpackChunk (img.drop (128 * fieldAt img (4 + 2 * k) 2))

/-- The page index of a packed image holds no error of R220. -/
def pageIndexOk (img : List (BitVec 8)) : Bool :=
  decide (fieldAt img 0 2 = 0x5047) && decide (byteAt img 2 = 1) && decide (byteAt img 3 = 0) &&
    ((img.drop 68).take 56).all (fun b => decide (b = 0)) &&
    decide (crc32c (img.take 124) = BitVec.ofNat 32 (fieldAt img 124 4))

/-- The content of a packed page image; none for an error of R220. -/
def unpackPage (img : List (BitVec 8)) : Option Mem :=
  if !pageIndexOk img then none
  else
    (List.range 32).foldl (fun acc k => match acc, pageChunk img k with
      | some m, some bs => some (m ++ Sparse.run 0 (chunkBytes * k) bs)
      | _, _ => none) (some [])

end Sys2Proof.Machine
end

