-- ==== Sys2Proof/Machine/Protocol.lean ====
section
/-!
DEFINITION. The command protocol: queues, records, handles, the examinations of a packet, and the end of
every step (`finish`), which reads the packets that may be read and brings the interrupt lines up to date.
-/
namespace Sys2Proof.Machine

/-! ### Status codes (R381) -/

/-- `OK` -/
def stOk : BitVec 16 := 0x0000
/-- `ACCEPTED` -/
def stAccepted : BitVec 16 := 0x0001
/-- `DEGRADED` -/
def stDegraded : BitVec 16 := 0x0002
/-- `BUSY` -/
def stBusy : BitVec 16 := 0x0100
/-- `NO_SPACE` -/
def stNoSpace : BitVec 16 := 0x0101
/-- `BAD_PARAM` -/
def stBadParam : BitVec 16 := 0x0102
/-- `BAD_HANDLE` -/
def stBadHandle : BitVec 16 := 0x0103
/-- `NOT_ALLOWED_IN_STATE` -/
def stNotAllowed : BitVec 16 := 0x0104
/-- `DIGEST_MISMATCH` -/
def stDigest : BitVec 16 := 0x0105
/-- `SHARD_MISSING` -/
def stShardMissing : BitVec 16 := 0x0106
/-- `CONFIG_INVALID` -/
def stConfigInvalid : BitVec 16 := 0x0107
/-- `ALREADY_FINISHED` -/
def stFinished : BitVec 16 := 0x0108
/-- `CANCELLED` -/
def stCancelled : BitVec 16 := 0x0109
/-- `CHECK_FAILED` -/
def stCheckFailed : BitVec 16 := 0x010A
/-- `PEER_LOST` -/
def stPeerLost : BitVec 16 := 0x010B
/-- `TTL_EXPIRED` -/
def stTtlExpired : BitVec 16 := 0x010C
/-- `VERSION_RETIRED` -/
def stRetired : BitVec 16 := 0x010D
/-- `INTERNAL` -/
def stInternal : BitVec 16 := 0x01FF

/-- The detail of a failed host read (R378). -/
def readFailed : BitVec 32 := 0xFFFFFFF0

/-! ### Functions and queues -/

/-- A function (R389). -/
def State.func (s : State) (f : Nat) : Func := s.cmd.funcs.getD f Func.reset

/-- A function changed. -/
def State.onFunc (f : Nat) (g : Func → Func) (s : State) : State :=
  s.onCmd fun c => { c with funcs := listModify c.funcs f g }

/-- A queue of a function (R362). -/
def Func.queue (x : Func) (q : Nat) : Queue := x.queues.getD q Queue.reset

/-- A queue changed. -/
def State.onQueue (f q : Nat) (g : Queue → Queue) (s : State) : State :=
  s.onFunc f fun x => { x with queues := listModify x.queues q g }

/-- Records are written for the function: it is `ON` or `STOPPING` (R389). -/
def FuncState.records (x : FuncState) : Bool := decide (x = .on) || decide (x = .stopping)

/-- The state code of a function (R389). -/
def FuncState.code : FuncState → Nat
  | .off => 0 | .starting => 1 | .on => 2 | .stopping => 3 | .wedged => 4

/-- A record in a response ring: tag, handle, status, kind, phase bit and detail (R7, R366). -/
def recordBytes (tag handle : BitVec 32) (status : BitVec 16) (kind : BitVec 8) (phase : Bool)
    (detail : BitVec 32) : List (BitVec 8) :=
  bvBytes 4 tag ++ bvBytes 4 handle ++ bvBytes 2 status ++ [kind, flag 8 0 phase] ++ bvBytes 4 detail

/-- A record written to the response ring of a queue (R366). -/
def State.putRecord (f q : Nat) (tag handle : BitVec 32) (status : BitVec 16) (kind : BitVec 8)
    (detail : BitVec 32) (s : State) : State :=
  let x := s.func f
  let u := x.queue q
  if x.state.records then
    let n := 2 ^ u.rspOrder.toNat
    let j := u.rspTail.toNat
    let bs := recordBytes tag handle status kind (decide (j / n % 2 = 0)) detail
    (s.hostWrite f (u.rspBase.toNat + 16 * (j % n)) bs).onQueue f q fun u => { u with rspTail := u.rspTail + 1 }
  else s

/-! ### Handles (R374) -/

/-- The slot of a handle. -/
def handleSlot (h : BitVec 32) : Nat := (h.extractLsb' 0 24).toNat

/-- The generation of a handle. -/
def handleGen (h : BitVec 32) : BitVec 8 := h.extractLsb' 24 8

/-- A handle. -/
def mkHandle (gen : BitVec 8) (slot : Nat) : BitVec 32 := gen ++ BitVec.ofNat 24 slot

/-- The live command in a handle slot; a slot that holds none reads as opcode 0 (R374). -/
def State.slotLive (s : State) (slot : Nat) : Live := Sparse.get Live.reset s.cmd.live slot

/-- The live command of a handle, none when the handle is not live (R374). -/
def State.liveOf (s : State) (h : BitVec 32) : Option Live :=
  let l := s.slotLive (handleSlot h)
  if l.opcode ≠ 0 ∧ Sparse.get 1 s.cmd.gens (handleSlot h) = handleGen h then some l else none

/-- The handles of the live commands, in order of their acceptance (R17). -/
def State.liveHandles (s : State) : List (BitVec 32) :=
  let xs := s.cmd.live.map fun p => (p.2.order, mkHandle (Sparse.get 1 s.cmd.gens p.1) p.1)
  (xs.mergeSort fun a b => decide (a.1 ≤ b.1)).map (·.2)

/-- A live command changed. -/
def State.onLive (h : BitVec 32) (g : Live → Live) (s : State) : State :=
  s.onCmd fun c => { c with live := Sparse.modify Live.reset c.live (handleSlot h) g }

/-- A live command waits for the work it has started (R377). -/
def State.working (h : BitVec 32) (s : State) : State := s.onLive h fun l => { l with phase := .working }

/-- A live command waits for the boundary that takes it (R17). -/
def State.atBoundary (h : BitVec 32) (s : State) : State := s.onLive h fun l => { l with phase := .boundary }

/-- One of a command's parameters, `n` bytes at byte `o` of its packet (R6). -/
def Live.param (l : Live) (o n : Nat) : Nat := fieldAt l.params o n

/-- The lowest number from `c` on that the rising list leaves out. -/
def lowestFrom : Nat → List Nat → Nat
  | c, [] => c
  | c, k :: r => if k = c then lowestFrom (c + 1) r else lowestFrom c r

/-- The lowest free handle slot of a function, none when all 8,192 are taken (R374). -/
def State.freeSlot (s : State) (f : Nat) : Option Nat :=
  let ks := (s.cmd.live.map (·.1)).filter fun k => decide (8192 * f ≤ k) && decide (k < 8192 * (f + 1))
  let c := lowestFrom (8192 * f) ks
  if c < 8192 * (f + 1) then some c else none

/-- The queue leaves service when it is draining or faulted and nothing is pending (R364, R369). -/
def Queue.leave (u : Queue) : Queue :=
  if u.pending = 0 ∧ (u.draining ∨ u.fault) then { u with enabled := false, draining := false } else u

/-- The completion of a command (R377): its record, its signal under the `IRQ` flag (R371), and the end of
its handle (R374). A command of a `WEDGED` function never completes (R375). -/
def State.complete (h : BitVec 32) (status : BitVec 16) (detail : BitVec 32) (s : State) : State :=
  match s.liveOf h with
  | none => s
  | some l =>
    let f := l.func.toNat
    if (s.func f).state = .wedged then s
    else
      let s := s.putRecord f l.queue l.tag h status 0x02 detail
      let u := (s.func f).queue l.queue
      let s := if l.flags.getLsbD 1 && !u.noVector then s.vectorEvent (globalVector f u.vector.toNat) else s
      let s := s.onCmd fun c => { c with live := Sparse.set Live.reset c.live (handleSlot h) Live.reset }
      s.onQueue f l.queue fun u => { u with pending := u.pending - 1 }.leave

/-- Every command ends without completion (R375). -/
def State.endHandles (s : State) : State := s.onCmd fun c => { c with
  live := [], funcs := c.funcs.map fun x => { x with queues := x.queues.map fun u => { u with pending := 0 } } }

/-- Several commands complete alike, in the order given. -/
def State.completeAll (hs : List (BitVec 32)) (status : BitVec 16) (detail : BitVec 32) (s : State) : State :=
  hs.foldl (fun s h => s.complete h status detail) s

/-- A command that may be absent completes. -/
def State.completeOpt (h : Option (BitVec 32)) (status : BitVec 16) (detail : BitVec 32) (s : State) : State :=
  match h with
  | none => s
  | some h => s.complete h status detail

/-! ### Opcodes (R382) -/

/-- The opcode is marked PF (R382). -/
def opcodePf (o : Nat) : Bool :=
  decide (o ∈ [0x02, 0x10, 0x11, 0x12, 0x14, 0x24, 0x60, 0x61, 0x62, 0x63, 0x64, 0x7A, 0x90, 0x91, 0x92,
    0xA0, 0xA1, 0xA2, 0xC0, 0xC1]) || decide (0xF1 ≤ o)

/-- The opcode is listed (R382). -/
def opcodeKnown (o : Nat) : Bool :=
  opcodePf o || decide (o ∈ [0x01, 0x03, 0x04, 0x13, 0x20, 0x21, 0x22, 0x23, 0x40, 0x41, 0x42, 0x43, 0x44, 0x45,
    0x46, 0x47, 0x48, 0x49]) || decide (o ∈ [0x70, 0x71, 0x72, 0x73, 0x74, 0x75, 0x76, 0x77, 0x78, 0x79, 0x7B,
    0xA3, 0xA4, 0xC2, 0xF0])

/-- The opcode table gives the command's completion as "At once" (R382). -/
def atOnce (l : Live) : Bool :=
  decide (l.opcode.toNat ∈ [0x01, 0x03, 0x04, 0x13, 0x14, 0x21, 0x23, 0x48, 0x49, 0x64, 0x70, 0x77, 0x7B, 0x91,
    0xA3, 0xA4, 0xC2, 0xF0]) || (decide (l.opcode = 0x90) && decide (byteAt l.params 8 = 0))

/-- The parameter bytes an opcode defines, as runs (first, number); every other parameter byte is
reserved (R370, R382). -/
def definedBytes (o : Nat) : List (Nat × Nat) :=
  match o with
  | 0x01 => [(16, 8)]
  | 0x02 => [(8, 1)]
  | 0x03 => [(16, 8)]
  | 0x04 => [(8, 4)]
  | 0x10 => [(8, 2), (10, 2), (16, 8)]
  | 0x20 => [(8, 1), (9, 1), (12, 4), (16, 8)]
  | 0x21 => [(8, 1), (12, 4), (16, 8)]
  | 0x22 => [(8, 1), (9, 1), (10, 2), (12, 4), (16, 8), (24, 8)]
  | 0x23 => [(8, 8), (16, 8)]
  | 0x24 => [(8, 1)]
  | 0x40 | 0x45 | 0x46 | 0x47 => [(8, 8), (16, 4), (20, 1), (21, 1), (24, 32), (56, 8)]
  | 0x41 => [(8, 4), (12, 1), (16, 4), (24, 8)]
  | 0x42 => [(8, 4), (12, 1), (16, 4), (24, 8), (32, 4)]
  | 0x43 => [(8, 4), (12, 1), (16, 8)]
  | 0x44 => [(8, 4), (12, 1), (13, 1)]
  | 0x48 => [(8, 4), (12, 1), (13, 1), (16, 8)]
  | 0x49 => [(8, 4), (12, 1), (16, 8)]
  | 0x60 => [(8, 8), (16, 4), (24, 32)]
  | 0x61 | 0x64 => [(8, 4)]
  | 0x62 => [(8, 1)]
  | 0x63 => [(8, 4), (16, 8)]
  | 0x70 => [(8, 2), (10, 1), (11, 1), (12, 4), (16, 4), (20, 1), (21, 1), (22, 2), (24, 8), (32, 8), (40, 4), (44, 2)]
  | 0x71 => [(8, 4), (12, 2), (14, 1), (16, 4), (20, 4), (24, 8), (32, 8)]
  | 0x72 => [(8, 4), (14, 1), (16, 4), (24, 8)]
  | 0x73 | 0x74 | 0x76 => [(8, 4)]
  | 0x75 => [(8, 4), (16, 8), (24, 8)]
  | 0x77 => [(8, 4), (12, 4), (16, 1), (18, 2), (20, 2)]
  | 0x78 | 0x79 => [(8, 4), (12, 1), (14, 2), (16, 4), (20, 4), (24, 8)]
  | 0x7A => [(8, 8), (16, 2), (24, 8)]
  | 0x7B => [(8, 4), (16, 8)]
  | 0x90 => [(8, 1), (12, 2), (16, 8)]
  | 0x91 => [(8, 1), (16, 10)]
  | 0x92 => [(8, 2)]
  | 0x11 => [(24, 32)]
  | 0x12 => [(8, 1), (9, 1), (10, 2), (12, 4), (16, 8), (24, 2)]
  | 0x13 => [(8, 8)]
  | 0x14 => [(8, 4), (12, 1), (13, 1), (14, 1), (16, 8)]
  | 0xA0 | 0xA1 => [(8, 1), (9, 1), (10, 1), (11, 1)]
  | 0xA2 => [(8, 1), (9, 1), (10, 1), (12, 4)]
  | 0xA3 => [(16, 8)]
  | 0xA4 => [(8, 1), (16, 8)]
  | 0xC0 => [(8, 1), (12, 2), (16, 4), (20, 4), (24, 4)]
  | 0xC1 | 0xC2 => [(8, 1)]
  | 0xF0 => [(8, 4)]
  | _ => []

/-- Offset of the first nonzero parameter byte that the opcode does not define (R370, examination 4). -/
def firstReserved (p : List (BitVec 8)) : Option Nat :=
  let o := (byteAt p 0).toNat
  if 0xF1 ≤ o then none
  else ((List.range 56).map (· + 8)).find? fun i =>
    decide (byteAt p i ≠ 0) && !((definedBytes o).any fun r => decide (r.1 ≤ i) && decide (i < r.1 + r.2))

/-- The examinations of a packet, in order: the status and detail of the first failure (R370). A manufacturing-test
opcode that passes examination 2 passes examinations 3 and 4 (R388). -/
def examine (f q : Nat) (debugLock : Bool) (room : Bool) (p : List (BitVec 8)) :
    Option (BitVec 16 × BitVec 32) :=
  let o := (byteAt p 0).toNat
  if (byteAt p 2).toNat ≠ f then some (stBadParam, 2)
  else if (byteAt p 3).toNat ≠ q then some (stBadParam, 3)
  else if !opcodeKnown o || (opcodePf o && decide (f ≠ 0)) || (decide (0xF1 ≤ o) && debugLock) then
    some (stBadParam, 0)
  else if decide (o < 0xF1) && decide ((byteAt p 1).toNat / 4 ≠ 0) then some (stBadParam, 1)
  else match firstReserved p with
    | some i => some (stBadParam, BitVec.ofNat 32 i)
    | none => if room then none else some (stBusy, 0)

/-- The `detail` of an acceptance record that carries `ACCEPTED` (R373): the step whose closing boundary
is the first to take the command; on the serving chip of a larger partition `DRAIN` or a generation command accepted
after the decisions of the step in progress were sent is taken one step later (R274). -/
def State.acceptDetail (s : State) (op : Nat) : BitVec 32 :=
  if s.unarmed then 0xFFFFFFFF
  else
    let late := s.step.cut.isSome && (decide (op = 0x62) || (decide (0x70 ≤ op) && decide (op ≤ 0x7B)))
    (s.cad.step + (if late then 1 else 0)).setWidth 32

/-- A ring fault: no further packet is read, and the queue leaves service when nothing is pending
(R369). -/
def State.ringFault (f q : Nat) (s : State) : State :=
  (s.onQueue f q fun u => { u with fault := true }.leave).raiseCmd 0

/-- Entries of the response ring that are free for the next packet (R367). -/
def Queue.room (u : Queue) : Int :=
  (2 ^ u.rspOrder.toNat : Nat) - ((u.rspTail - u.rspHead).toNat : Int) - (u.pending : Int)

/-! ### Bindings to a current version (R238) -/

/-- The versions held of a model (R236). -/
def State.versions (s : State) (id : BitVec 28) : List ModelVer := s.wgt.models.filter fun m => decide (m.id = id)

/-- The current version of a model: its highest-numbered version in state `ACTIVE` (R238). -/
def State.current (s : State) (id : BitVec 28) (adapter : Bool) : Option (BitVec 8) :=
  let vs := ((s.versions id).filter fun m => decide (m.adapter = adapter) && decide (m.state = .active)).map
    fun m => m.version.toNat
  match vs with
  | [] => none
  | _ => some (BitVec.ofNat 8 (vs.foldl max 0))

/-- What a binding that names version 0 comes to at its acceptance: status 0 and the current version, or the status with
which it fails (R238). -/
def State.currentFor (s : State) (id : Nat) (adapter : Bool) : BitVec 16 × BitVec 8 :=
  let id' := BitVec.ofNat 28 id
  let held := (s.versions id').filter fun m => decide (m.adapter = adapter)
  if 2 ^ 28 ≤ id then (stBadParam, 0)
  else match s.current id' adapter with
    | some v => (0, v)
    | none => (if held = [] then stBadParam
      else if held.all fun m => decide (m.state = .retiring) then stRetired else stNotAllowed, 0)

/-- The bindings of `CTX_OPEN` and `FALLBACK_BIND`, resolved to the versions current at acceptance (R238, R258, R303). -/
def State.bindingsOf (s : State) (p : List (BitVec 8)) : List (BitVec 16 × BitVec 8) :=
  match (byteAt p 0).toNat with
  | 0x70 => [s.currentFor (fieldAt p 12 4) false, s.currentFor (fieldAt p 16 4) true]
  | 0x77 => [s.currentFor (fieldAt p 12 4) false]
  | _ => []

/-- A packet leaves the queue with its acceptance record: the time since the doorbell that made it visible, less what
R372 leaves out, counts in `CMD_ACCEPT_MAX` (R365, R396). -/
def State.packetTaken (f q : Nat) (s : State) : State :=
  let u := (s.func f).queue q
  let rung := match u.bells.find? fun b => decide (b.1 ≠ u.cmdHead) with
    | some b => b.2
    | none => u.doorbell
  let s := s.onCmd fun c => { c with acceptMax := satOf 16 (max c.acceptMax.toNat (s.uptime - max rung u.doorbell)) }
  s.onQueue f q fun u => { u with
    cmdHead := u.cmdHead + 1, bells := u.bells.filter (fun b => decide (b.1 ≠ u.cmdHead + 1)), doorbell := s.uptime }

/-- A packet is accepted: a handle, the acceptance record and the live command (R370, R374). -/
def State.accept (f q slot : Nat) (p : List (BitVec 8)) (s : State) : State :=
  let g := Sparse.get 1 s.cmd.gens slot
  let g' : BitVec 8 := if g = 0xFF then 1 else g + 1
  let tag := BitVec.ofNat 32 (fieldAt p 4 4)
  let d := s.acceptDetail (byteAt p 0).toNat
  let s := s.putRecord f q tag (mkHandle g' slot) stAccepted 0x01 d
  let s := s.onCmd fun c => { c with
    gens := Sparse.set 1 c.gens slot g'
    live := Sparse.set Live.reset c.live slot
      { func := BitVec.ofNat 4 f, queue := q, opcode := byteAt p 0, flags := byteAt p 1, tag := tag,
        params := p, phase := .accepted, accepted := s.now, order := c.orderNext, work := []
        shardWas := .outstanding, resolved := s.bindingsOf p }
    orderNext := c.orderNext + 1 }
  (s.packetTaken f q).onQueue f q fun u => { u with pending := u.pending + 1 }

/-- A packet is refused: its acceptance record only (R370). -/
def State.refusePacket (f q : Nat) (p : List (BitVec 8)) (status : BitVec 16) (detail : BitVec 32)
    (s : State) : State :=
  let s := s.putRecord f q (BitVec.ofNat 32 (fieldAt p 4 4)) 0 status 0x01 detail
  (s.onCmd fun c => { c with refused := satInc c.refused }).packetTaken f q

/-- A command of the queue whose completion comes at once is still pending (R380 item 2); `DRAIN` `RELEASE` completes at
once while the cadence is `UNARMED` (R382). -/
def State.blockedAtOnce (s : State) (f q : Nat) : Bool :=
  s.cmd.live.any fun p => decide (p.2.func.toNat = f) && decide (p.2.queue = q) &&
    (atOnce p.2 || (s.unarmed && decide (p.2.opcode = 0x62) && decide (byteAt p.2.params 8 = 2)))

/-- The next packet of a queue: read, examined, and accepted or refused; none when it may not be read
now (R365, R367, R369 to R371, R380). After a halt only `DEVICE_RESET` of the physical function is read
(R385). -/
def State.nextPacket (f q : Nat) (s : State) : Option State :=
  let x := s.func f
  let u := x.queue q
  if x.state ≠ .on ∨ !u.enabled ∨ u.draining ∨ u.fault ∨ u.cmdTail = u.cmdHead ∨ s.cmd.frozen ∨
      !s.pins.linkUp ∨ s.hlt.pwrfail ∨ s.blockedAtOnce f q then none
  else if u.room < 2 then some (s.onQueue f q fun u => { u with noRoom := true })
  else
    let a := u.cmdBase.toNat + 64 * (u.cmdHead.toNat % 2 ^ u.cmdOrder.toNat)
    match s.hostRead f a 64 with
    | none => some (s.ringFault f q)
    | some p =>
      if s.hlt.halted ∧ (f ≠ 0 ∨ byteAt p 0 ≠ 0x02) then none
      else if (byteAt p 1).getLsbD 0 ∧ u.pending ≠ 0 then
        some (s.onQueue f q fun u => { u with orderedWait := true })
      else
        let slot := s.freeSlot f
        match examine f q (s.sys.lock.value.getLsbD 0) slot.isSome p with
        | some (st, d) => some (s.refusePacket f q p st d)
        | none => some (s.accept f q (slot.getD 0) p)

/-- Packets of a queue are read while they may be, at most `n` of them (R365). -/
def State.pump (f q : Nat) : Nat → State → State
  | 0, s => s
  | n + 1, s =>
    -- the time of a wait for room or under `ORDERED` is no acceptance time (R372, R396)
    let s0 := s.onQueue f q fun u => { u with
      doorbell := if u.noRoom || u.orderedWait then s.uptime else u.doorbell, noRoom := false, orderedWait := false }
    match s0.nextPacket f q with
    | none => s0
    | some s' =>
      let u := (s'.func f).queue q
      if u.noRoom || u.orderedWait || u.fault then s' else State.pump f q n s'

/-- Every queue with packets to read (R365). -/
def State.pumpAll (s : State) : State :=
  (List.range 16).foldl (fun s f =>
    if (s.func f).state = .on then
      (List.range 8).foldl (fun s q =>
        let u := (s.func f).queue q
        if u.enabled && decide (u.cmdTail ≠ u.cmdHead) then
          State.pump f q (u.cmdTail - u.cmdHead).toNat s else s) s
    else s) s

/-- The end of every step: the packets that may now be read are read (R365, R367, R380), and the
interrupt signals follow the events registers (R407). -/
def State.stepEnd (s : State) : State := s.pumpAll.settle

/-- A step that has done its work. -/
def finish (s : State) : Out := .next s.stepEnd

/-- The commands of one opcode that wait for a boundary and that it takes, in order of acceptance. -/
def State.waitingFor (s : State) (op : BitVec 8) (ok : Live → Bool) : List (BitVec 32 × Live) :=
  s.liveHandles.filterMap fun h => match s.liveOf h with
    | some l => if l.opcode = op ∧ l.phase = .boundary ∧ ok l then some (h, l) else none
    | none => none

/-! ### Carrying out a command -/

/-- A committed device configuration block is in force (R471, R379). -/
def State.configured (s : State) : Bool := s.cfg.block.isSome

/-- A command is carried out: its handle names a live command of that opcode that has been accepted and
not yet carried out. Without a committed configuration only the commands of R379 are carried out
(`open_`). A handle that names no such command leaves the state unchanged (assumption 5). -/
def carryOut (op : BitVec 8) (open_ : Bool) (h : BitVec 32) (body : Live → State → State) (s : State) : Out :=
  match s.liveOf h with
  | none => .next s
  | some l =>
    if l.opcode = op ∧ l.phase = .accepted then
      if s.configured || open_ then finish (body l s)
      else finish (s.complete h stConfigInvalid 0)
    else .next s

end Sys2Proof.Machine
end

