-- ==== Sys2Proof/Machine/Tiers.lean ====
section
/-!
DEFINITION. The memory tiers: page content, placement and spill (R221, R222), and access by global address
(R200 to R204, R220).
-/
namespace Sys2Proof.Machine

/-! ### The configuration block -/

/-- A field of the committed configuration block, 0 when none is committed (R472). -/
def State.cfgField (s : State) (o n : Nat) : Nat :=
  match s.cfg.block with
  | none => 0
  | some b => fieldAt b o n

/-- The host address that an offset of space 5 names (R200). -/
def State.hostAddr (s : State) (offset : Nat) : Nat := s.cfgField 24 2 * 2 ^ 48 + offset

/-! ### Owners -/

/-- Owner kinds (R203). -/
def ownFunction : BitVec 4 := 1
/-- A model owns the page. -/
def ownModel : BitVec 4 := 2
/-- A context owns the page. -/
def ownContext : BitVec 4 := 3
/-- A cylinder owns the page. -/
def ownCylinder : BitVec 4 := 4
/-- The device owns the page. -/
def ownDevice : BitVec 4 := 5

/-- The global address of a slot on this chip (R200). -/
def State.slotGa (s : State) (tier slot : Nat) : BitVec 64 := mkGa s.fab.chip tier (slot * pageBytes)

/-- The entries of a tier that are not free. -/
def State.dirOf (s : State) (tier : Nat) : SMap DirEntry := s.mem.dirOf tier

/-- Pages that an owner has in a tier (R394). -/
def State.owned (s : State) (tier : Nat) (kind : BitVec 4) (id : BitVec 28) : Nat :=
  ((s.dirOf tier).filter fun p => decide (p.2.ownerKind = kind) && decide (p.2.ownerId = id)).length

/-! ### Content (R203, R217) -/

/-- The stored bytes of a tier-2 or tier-3 slot start here. -/
def DirEntry.base (e : DirEntry) (tier slot : Nat) : Nat :=
  if tier = 2 then e.granule.toNat * 4096 else slot * pageBytes

/-- The uncompressed content of a slot; none where its read meets an uncorrectable error (R220, R224 to
R226). -/
def State.content (s : State) (tier slot : Nat) : Option Mem :=
  let e := s.dirEntry tier slot
  if e.poisoned then none
  else match tier with
  | 1 =>
    if s.mem.poisonT1.any fun u => decide (128 * u / pageBytes = slot) then none
    else if e.zero then some [] else some (Mem.slice s.mem.t1 (slot * pageBytes) pageBytes)
  | 2 =>
    if e.raw then some (Mem.slice s.mem.t2 (e.base 2 slot) pageBytes)
    else unpackPage (Mem.reads s.mem.t2 (e.base 2 slot) e.stored.toNat)
  | _ =>
    if e.raw then some (Mem.slice s.mem.t3 (e.base 3 slot) pageBytes)
    else unpackPage (Mem.reads s.mem.t3 (e.base 3 slot) e.stored.toNat)

/-- The stored form of a page in a tier: raw or not, and its packed image. In tier 3 a slot holds 2 MiB, so a
page whose packed image is larger is stored raw (assumption 19). -/
def storedForm (tier : Nat) (raw : Bool) (m : Mem) : Bool × List (BitVec 8) :=
  if tier = 1 ∨ raw then (true, [])
  else
    let p := packPage m
    if tier = 3 ∧ pageBytes < p.length then (true, []) else (false, p)

/-- Bytes that a stored form takes. -/
def storedSize (f : Bool × List (BitVec 8)) : Nat := if f.1 then pageBytes else f.2.length

/-- The bytes of a page written to its slot. -/
def State.fill (tier slot granule : Nat) (f : Bool × List (BitVec 8)) (m : Mem) (s : State) : State :=
  let put (x : Mem) (a : Nat) : Mem :=
    if f.1 then Mem.lay x a pageBytes m else Mem.writes x a f.2
  s.onMem fun g => match tier with
    | 1 => { g with t1 := Mem.lay g.t1 (slot * pageBytes) pageBytes m
                    poisonT1 := g.poisonT1.filter fun u => decide (128 * u / pageBytes ≠ slot) }
    | 2 => { g with t2 := put g.t2 (granule * 4096) }
    | _ => { g with t3 := put g.t3 (slot * pageBytes) }

/-! ### Placement (R221) -/

/-- The first of the numbers from `c` on, cyclically below `n` and not below `lo`, that the list does not
hold. -/
def nextFree (used : List Nat) (lo n : Nat) : Nat → Nat → Option Nat
  | 0, _ => none
  | k + 1, c =>
    if n ≤ lo then none
    else
      let c := if n ≤ c then lo else c
      if c ∈ used then nextFree used lo n k (c + 1) else some c

/-- The first start of `n` free granules from `c` on, cyclically within `lo` to `hi`, between the occupied
runs. -/
def runSearch (runs : List (Nat × Nat)) (lo hi n : Nat) : Nat → Nat → Option Nat
  | 0, _ => none
  | k + 1, c =>
    if hi < lo + n then none
    else if hi < c + n then runSearch runs lo hi n k lo
    else match runs.find? fun r => decide (r.1 < c + n) && decide (c < r.1 + r.2) with
      | some r => runSearch runs lo hi n k (r.1 + r.2)
      | none => some c

/-- Granules of tier 2 (R197, R200). -/
def State.granules (s : State) : Nat := s.mem.t2Bytes / 4096

/-- The occupied runs of granules: start and number (R203). -/
def State.runsOf (s : State) : List (Nat × Nat) :=
  (s.mem.dir2.filter fun p => decide (p.2.state ≠ .lost) && decide (p.2.state ≠ .free)).map fun p =>
    (p.2.granule.toNat, ceilDiv p.2.stored.toNat 4096)

/-- A free slot of a tier for a page of `bytes` stored bytes, and its first granule; which one the device
takes is open (assumption 4). -/
def State.findSlot (s : State) (tier bytes : Nat) : Option (Nat × Nat) :=
  let used := (s.dirOf tier).map (·.1)
  match tier with
  | 1 =>
    if s.mem.hbmStacks = 0 then none
    else (nextFree used 0 262144 (used.length + 1) (s.free 32 : BitVec 32).toNat).map fun x => (x, 0)
  | 2 =>
    let n := ceilDiv bytes 4096
    match nextFree used 512 8388608 (used.length + 2) (512 + (s.free 32 : BitVec 32).toNat % 8388096),
        runSearch s.runsOf 262144 s.granules n (2 * s.runsOf.length + 4)
          (262144 + (s.free 32 : BitVec 32).toNat % (s.granules + 1)) with
    | some v, some g => some (v, g)
    | _, _ => none
  | _ =>
    if s.mem.mounted then
      (nextFree used 0 s.mem.volSlots (used.length + 2) ((s.free 32 : BitVec 32).toNat % (s.mem.volSlots + 1))).map
        fun x => (x, 0)
    else none

/-- A function's limit in a tier; 0 for none (R394). -/
def Func.limit (x : Func) (tier : Nat) : Nat :=
  match tier with
  | 1 => x.lim1
  | 2 => x.lim2
  | _ => x.lim3

/-- The owner may take one page more in the tier (R394). -/
def State.roomFor (s : State) (tier : Nat) (kind : BitVec 4) (id : BitVec 28) : Bool :=
  let l := (s.func id.toNat).limit tier
  decide (kind ≠ ownFunction) || decide (l = 0) || decide (s.owned tier kind id < l)

/-- Where a page is placed: the preferred tier, else the next lower tier with room unless the placement is
strict; the tier, slot and first granule (R221). -/
def State.placement (s : State) (pref : Nat) (strict : Bool) (kind : BitVec 4) (id : BitVec 28) (raw : Bool)
    (m : Mem) : Option (Nat × Nat × Nat) :=
  let tiers := if strict then [pref] else [1, 2, 3].filter fun t => decide (pref ≤ t)
  tiers.findSome? fun t =>
    if s.roomFor t kind id then
      (s.findSlot t (storedSize (storedForm t raw m))).map fun x => (t, x.1, x.2)
    else none

/-- An entry for a page placed in a tier (R203): its raw flag says how the page is stored, and `keepRaw` that its `ALLOC`
marked it raw (R229). -/
def placedEntry (kind : BitVec 4) (id : BitVec 28) (index : Nat) (st : PageState) (granule : Nat)
    (f : Bool × List (BitVec 8)) (keepRaw : Bool) (seq : BitVec 32) : DirEntry :=
  { DirEntry.reset with
      ownerKind := kind, ownerId := id, index := BitVec.ofNat 32 index, state := st
      raw := f.1, allocRaw := keepRaw, stored := BitVec.ofNat 32 (storedSize f), granule := BitVec.ofNat 32 granule,
      moveSeq := seq }

/-- One page spilled below its preferred tier (R221). -/
def State.spilled (s : State) : State := (s.onMem fun m => { m with spills := satInc m.spills }).raiseMem 0

/-- A page with a content placed as `HOME` (R221); the answer names its tier and slot. -/
def State.placePage (pref : Nat) (strict : Bool) (kind : BitVec 4) (id : BitVec 28) (index : Nat) (raw zero : Bool)
    (m : Mem) (s : State) : Option (Nat × Nat) × State :=
  match s.placement pref strict kind id raw m with
  | none => (none, s.drawn)
  | some (t, slot, g) =>
    let f := storedForm t raw m
    let e := { placedEntry kind id index .home g f raw s.mem.moveSeq with zero := zero }
    let s := ((s.drawn.setDir t slot e none).fill t slot g f m)
    (some (t, slot), if t = pref then s else s.spilled)

/-- A slot freed. -/
def State.freeSlotAt (tier slot : Nat) (s : State) : State := s.setDir tier slot DirEntry.reset none

/-- An entry becomes `LOST` (R205, R210, R212). -/
def State.losePage (tier slot : Nat) (s : State) : State :=
  let s := s.onDir tier slot fun e => { e with state := .lost, peer := 0, peerChip := 0, granule := 0 }
  (s.onMem fun m => { m with lostPages := satInc m.lostPages }).raiseMem 1

/-! ### Access by global address (R202, R204) -/

/-- What an access by global address answers. -/
inductive Acc where
  | ok (bs : List (BitVec 8))
  | refused
  | poisoned
  deriving DecidableEq, Repr

/-- The reserved offset bits of a space are zero and the offset is in range (R200, R202). -/
def State.offsetOk (s : State) (g : BitVec 64) : Bool :=
  let o := gaOffset g
  match gaSpace g with
  | 0 => decide (o < 2 ^ 31) && decide (o / 2 ^ 20 < 1536) && decide (o % 2 ^ 20 < sramBytes)
  | 1 => decide (o < 2 ^ 39)
  | 2 => decide (o < 2 ^ 44)
  | 3 => decide (o / pageBytes < s.mem.volSlots)
  | 4 => decide (o < 2 ^ 26)
  | 5 => true
  | _ => false

/-- The requester may access a page: `who` is the function of a host requester, none for the device itself
(R202). -/
def DirEntry.permits (e : DirEntry) (who : Option Nat) : Bool :=
  match who with
  | none => true
  | some f =>
    !(decide (e.ownerKind = ownFunction) && decide (e.ownerId.toNat ≠ f)) && decide (e.ownerKind ≠ ownDevice)

/-- The state of an entry serves reads by address (R204). -/
def PageState.reads : PageState → Bool
  | .home | .moving | .pending | .sending | .shadow => true
  | _ => false

/-- The shadow of a tier-2 page that has one, also while the shadow itself is in a move (R214). -/
def State.shadowOf (s : State) (tier slot : Nat) : Option Nat :=
  let e := s.dirEntry tier slot
  if tier = 2 ∧ e.state = .home ∧ e.peer ≠ 0 then some (gaOffset e.peer / pageBytes) else none

/-- The slot where a page is read, written and moved from: its shadow where it has one (R214). -/
def State.liveSlot (s : State) (tier slot : Nat) : Nat × Nat :=
  match s.shadowOf tier slot with
  | some f => (1, f)
  | none => (tier, slot)

/-- An uncorrectable read of a page occurred: it is counted, and its owner is handled at the next boundary where the page
lies in tier 1 or 2 (R235, R349). -/
def State.uncorrectable (tier slot : Nat) (s : State) : State :=
  let s := (s.onMem fun m => { m with ueReads := satInc m.ueReads }).raiseMem 2
  if tier = 3 then s else s.onHlt fun h => { h with ueReads := h.ueReads ++ [(s.now, BitVec.ofNat 4 tier, slot)] }

/-- The stored image of a packed page. -/
def State.image (s : State) (tier slot : Nat) : List (BitVec 8) :=
  let e := s.dirEntry tier slot
  Mem.reads (if tier = 2 then s.mem.t2 else s.mem.t3) (e.base tier slot) e.stored.toNat

/-- The chunks of a packed page image that `n` bytes from `o` on cover, decoded (R220). -/
def coveredChunks (img : List (BitVec 8)) (o n : Nat) : List (Option (List (BitVec 8))) :=
  let k0 := o / chunkBytes
  (List.range ((o + n + chunkBytes - 1) / chunkBytes - k0)).map fun i => pageChunk img (k0 + i)

/-- Bytes of a packed page do not decode (R220). -/
def State.decodeFails (s : State) (tier slot o n : Nat) : Bool :=
  let e := s.dirEntry tier slot
  decide (tier ≠ 1) && !e.raw && e.state.reads &&
    (!pageIndexOk (s.image tier slot) || (coveredChunks (s.image tier slot) o n).any (·.isNone))

/-- Bytes of one page, at offset `o` (R202, R204, R214, R220); of tier 1 those are poisoned whose 128-byte units are
(R224). -/
def State.readSlot (s : State) (who : Option Nat) (tier slot o n : Nat) : Acc :=
  let e := s.dirEntry tier slot
  if !e.state.reads || !e.permits who then .refused
  else
    let (t, sl) := s.liveSlot tier slot
    let e := s.dirEntry t sl
    if t ≠ 1 ∧ !e.raw then
      if e.poisoned || s.decodeFails t sl o n then .poisoned
      else
        let chunks := coveredChunks (s.image t sl) o n
        .ok (((chunks.flatMap fun c => c.getD []).drop (o - o / chunkBytes * chunkBytes)).take n)
    else if t = 1 then
      if (List.range (ceilDiv (o % 128 + n) 128)).any fun i =>
        s.t1Poisoned (sl * pageBytes + o / 128 * 128 + 128 * i) then .poisoned
      else .ok (if e.zero then List.replicate n 0 else Mem.reads s.mem.t1 (sl * pageBytes + o) n)
    else match s.content t sl with
      | none => .poisoned
      | some m => .ok (Mem.reads m o n)

/-- The cells' SRAM may be reached by address: no cylinder plays (R202). -/
def State.sramOpen (s : State) : Bool := (s.cylOf .active).isNone || s.unarmed

/-- `n` bytes at a global address of this chip, within one page (R202); a failed read of host memory is
refused (R378). Space 4 is read through the register map, not here. -/
def State.readGa (s : State) (who : Option Nat) (g : BitVec 64) (n : Nat) : Acc :=
  let o := gaOffset g
  if !s.offsetOk g then .refused
  else match gaSpace g with
  | 0 =>
    if !s.sramOpen || decide (sramBytes < o % 2 ^ 20 + n) then .refused
    else
      let c := s.cell (o / 2 ^ 20)
      if c.poisonedAt (o % 2 ^ 20) n then .poisoned else .ok (c.sramRead (o % 2 ^ 20) n)
  | 5 => match s.hostRead (who.getD 0) (s.hostAddr o) n with
    | none => .refused
    | some bs => .ok bs
  | 4 => .refused
  | t => if pageBytes < o % pageBytes + n then .refused else s.readSlot who t (o / pageBytes) (o % pageBytes) n

/-- The pieces of a run of `n` bytes from a global address, cut at page ends: address and length. -/
def gaPieces (g : BitVec 64) (n : Nat) : List (BitVec 64 × Nat) :=
  let o := gaOffset g
  let first := min n (pageBytes - o % pageBytes)
  let rest := n - first
  (if first = 0 then [] else [(g, first)]) ++ (List.range (ceilDiv rest pageBytes)).map fun i =>
    (g + BitVec.ofNat 64 (first + i * pageBytes), min pageBytes (rest - i * pageBytes))

/-- `n` bytes from a global address on, over as many pages as they cover. -/
def State.readRun (s : State) (who : Option Nat) (g : BitVec 64) (n : Nat) : Acc :=
  if gaSpace g = 5 then s.readGa who g n
  else (gaPieces g n).foldl (fun acc p => match acc with
    | .ok bs => (match s.readGa who p.1 p.2 with
      | .ok x => .ok (bs ++ x)
      | y => y)
    | y => y) (.ok [])

/-- The first page of a run that is read whose bytes do not decode counts as an uncorrectable read (R220). -/
def State.noteRead (g : BitVec 64) (n : Nat) (s : State) : State :=
  if gaSpace g ≠ 2 ∧ gaSpace g ≠ 3 then s
  else match (gaPieces g n).find? fun p =>
      let x := s.liveSlot (gaSpace p.1) (gaOffset p.1 / pageBytes)
      s.decodeFails x.1 x.2 (gaOffset p.1 % pageBytes) p.2 with
    | some p => s.uncorrectable (gaSpace p.1) (gaOffset p.1 / pageBytes)
    | none => s

/-- The state of an entry takes writes by address: at once (`some true`), held (`some false`), or refuses
them; a packed page takes none (R202, R204). -/
def DirEntry.takes (e : DirEntry) (tier : Nat) : Option Bool :=
  if tier ≠ 1 ∧ !e.raw then none
  else match e.state with
  | .home | .shadow => some true
  | .moving | .pending => some false
  | _ => none

/-- Bytes written to a slot that is home, within one page. -/
def State.writeHome (tier slot o : Nat) (bs : List (BitVec 8)) (s : State) : State :=
  let e := s.dirEntry tier slot
  match tier with
  | 1 => s.t1Write (slot * pageBytes + o) bs
  | t =>
    let s := if e.zero then s.onDir t slot fun e => { e with zero := false } else s
    s.onMem fun m =>
      if t = 2 then { m with t2 := Mem.writes m.t2 (e.base 2 slot + o) bs }
      else { m with t3 := Mem.writes m.t3 (e.base 3 slot + o) bs }

/-- Bytes written to one page by address, held while it moves; none where refused (R202, R204, R214). -/
def State.writeSlot (who : Option Nat) (tier slot o : Nat) (bs : List (BitVec 8)) (s : State) : Option State :=
  let e := s.dirEntry tier slot
  if !e.permits who ∨ (tier = 3 ∧ (o % 4096 ≠ 0 ∨ bs.length % 4096 ≠ 0)) then none
  else
    let (t, sl) := s.liveSlot tier slot
    match (s.dirEntry t sl).takes t with
    | none => none
    | some true => some (s.writeHome t sl o bs)
    | some false => some (s.onMem fun m => { m with held := m.held ++
        [{ tier := BitVec.ofNat 4 t, slot := sl, offset := o, data := bs }] })

/-- Bytes written at a global address of this chip, within one page; none where refused (R202). -/
def State.writeGa (who : Option Nat) (g : BitVec 64) (bs : List (BitVec 8)) (s : State) : Option State :=
  let o := gaOffset g
  if !s.offsetOk g then none
  else match gaSpace g with
  | 0 =>
    if !s.sramOpen || decide (sramBytes < o % 2 ^ 20 + bs.length) then none
    else some (s.onCell (o / 2 ^ 20) (Cell.sramWrite (o % 2 ^ 20) bs false))
  | 5 => some (s.hostWrite (who.getD 0) (s.hostAddr o) bs)
  | 4 => none
  | t =>
    if pageBytes < o % pageBytes + bs.length then none
    else s.writeSlot who t (o / pageBytes) (o % pageBytes) bs

/-- Free slots or granules of a tier (R234). -/
def State.freePages (s : State) (tier : Nat) : Nat :=
  match tier with
  | 1 => if s.mem.hbmStacks = 0 then 0 else 262144 - s.mem.dir1.length
  | 2 => (s.granules - 262144 - (s.runsOf.map (·.2)).foldl (· + ·) 0) / 512
  | _ => if s.mem.mounted then s.mem.volSlots - s.mem.dir3.length else 0

end Sys2Proof.Machine
end

