-- ==== Sys2Proof/Machine/Wire.lean ====
section
/-!
DEFINITION. Frames as they leave a port: the bytes of the bodies (R34, R327 to R330, R332), the frame around them (R312),
and the codewords that carry its pieces (R310, R311).
-/
namespace Sys2Proof.Machine

/-! ### Bodies -/

/-- A slot entry of a verdict frame (R327). -/
def slotEntryBytes (e : SlotEntry) : List (BitVec 8) :=
  padTo 16 (leBytes 2 e.slot ++ [e.ops, 0] ++ bvBytes 4 e.ctx ++ bvBytes 4 e.token ++ bvBytes 2 e.chunk)

/-- The body of a verdict frame (R327). -/
def verdictBytes (b : VerdictBody) : List (BitVec 8) :=
  let flags : BitVec 8 := flag 8 0 b.serving ||| flag 8 1 b.hostFormed ||| flag 8 2 b.mayLead
  padTo 64 ([if b.commit then 1 else 2, b.cause, flags, 0] ++ bvBytes 8 b.step ++ bvBytes 8 b.capacity ++
    leBytes 2 b.slots.length ++ leBytes 2 b.additions.length) ++
    b.slots.flatMap slotEntryBytes ++ b.additions.flatMap fun a => padTo 8 (bvBytes 4 a.1 ++ bvBytes 2 a.2)

/-- The payload of a cadence frame (R34). -/
def cadenceBytes (b : CadenceBody) : List (BitVec 8) :=
  padTo 32 ([b.kind, 0] ++ bvBytes 2 b.sender ++ bvBytes 4 b.partition ++ bvBytes 8 b.sequence ++ bvBytes 4 b.period ++
    bvBytes 4 b.correction)

/-- The body of a message of a move (R330). -/
def moveBytes (b : MoveBody) : List (BitVec 8) :=
  padTo 64 (bvBytes 4 b.move ++ [b.op, b.acked] ++ bvBytes 2 b.chunk ++ bvBytes 4 b.owner ++ bvBytes 4 b.index ++
    bvBytes 4 b.crc ++ bvBytes 4 b.offset ++ leBytes 4 b.data.length) ++ b.data

/-- The body of a management frame (R34, R327 to R330, R332). -/
def msgBytes : MsgBody → List (BitVec 8)
  | .verdict b => verdictBytes b
  | .cadence b => cadenceBytes b
  | .leave cause last => padTo 8 [cause] ++ bvBytes 8 last
  | .request id write addr len data =>
    padTo 64 (padTo 8 (bvBytes 4 id ++ [if write then 2 else 1]) ++ bvBytes 8 addr ++ leBytes 4 len) ++ data
  | .response id status data => padTo 64 (bvBytes 4 id ++ [status]) ++ data
  | .move b => moveBytes b
  | .ident chip port width => bvBytes 2 chip ++ [port, width]
  | .echo departure => bvBytes 8 departure

/-- The kind of a management frame (R312). -/
def msgKind : MsgBody → BitVec 8
  | .verdict _ => 2
  | .cadence _ => 3
  | .leave _ _ => 4
  | .request _ _ _ _ _ => 5
  | .response _ _ _ => 6
  | .move _ => 7
  | .ident _ _ _ => 8
  | .echo _ => 9

/-- The frame concerns the sender's partition (R312): verdicts, cadence frames and leave notices go to its members; remote
accesses, moves, ident and echo frames concern none (assumption 154). -/
def msgPartitioned : MsgBody → Bool
  | .verdict _ => true
  | .cadence _ => true
  | .leave _ _ => true
  | _ => false

/-- Ident and echo frames, which a disabled plane and a port in `IDENT` carry too (R332, R339). -/
def msgTraining : MsgBody → Bool
  | .ident _ _ _ => true
  | .echo _ => true
  | _ => false

/-! ### Frames (R312) -/

/-- The 64 bytes of a header (R312). -/
def headerBytes (kind flags : BitVec 8) (o : Origin) (dest : BitVec 16) (stream port : Nat) (sequence : BitVec 32)
    (flits empties : Nat) (endMap : BitVec 39) : List (BitVec 8) :=
  padTo 64 (bvBytes 2 (0x4C50 : BitVec 16) ++ [kind, flags] ++ bvBytes 2 o.source ++ bvBytes 2 dest ++ bvBytes 4 o.partition ++
    bvBytes 4 o.step ++ bvBytes 2 o.replay ++ leBytes 1 stream ++ leBytes 1 port ++ bvBytes 4 sequence ++ leBytes 1 flits ++
    leBytes 1 empties ++ bvBytes 5 endMap)

/-- The 5,120 bytes of a frame: header, payload, and a trailer with the CRC-32C of both (R312). -/
def frameBytes (header payload : List (BitVec 8)) : List (BitVec 8) :=
  let h := padTo 64 header ++ padTo 4992 payload
  h ++ padTo 64 (bvBytes 4 (crc32c h))

/-- The bytes of a management frame that leaves by a port (R312). -/
def OutMsg.bytes (port : Nat) (m : OutMsg) : List (BitVec 8) :=
  let o := if msgPartitioned m.body then m.origin else { m.origin with partition := 0 }
  frameBytes (headerBytes (msgKind m.body) (m.origin.epoch.setWidth 8 ||| flag 8 5 m.multicast) o m.dest 0 port m.seq 0 0 0)
    (msgBytes m.body)

/-- The bytes of a data frame (R312, R318). -/
def OutFrame.bytes (f : OutFrame) : List (BitVec 8) :=
  frameBytes (headerBytes 1 (f.epoch.setWidth 8 ||| flag 8 4 f.last) f.origin (f.dest.setWidth 16) f.stream f.port
    (BitVec.ofNat 32 f.sequence) f.flits.length f.empties f.endMap) (f.flits.flatMap (bvBytes 128))

/-! ### Codewords (R310, R311) -/

/-- The 20 control bits of the codeword that carries piece `i` of a frame in slot `slot` of its port (R310). -/
def controlBits (i slot : Nat) : BitVec 20 := put 20 0 3 i ||| put 20 3 4 slot ||| flag 20 7 (decide (i = 0))

/-! ### The code RS(544,514) (R309)

The code is that of IEEE 802.3: symbols of GF(2^10) under x^10 + x^3 + 1, and a generator polynomial with the roots α^0 to α^29.
That the frame data come before the control bits, each symbol taken from the lowest bit up, is the model's (assumption
191). -/

/-- A symbol times α. -/
def gfDouble (a : BitVec 10) : BitVec 10 := (a <<< 1) ^^^ (if a.getLsbD 9 then 0x009 else 0)

/-- The product of two symbols. -/
def gfMul (a b : BitVec 10) : BitVec 10 :=
  (List.range 10).foldl (fun r i => if b.getLsbD (9 - i) then gfDouble r ^^^ a else gfDouble r) 0

/-- A polynomial, highest coefficient first, times x + r. -/
def gfExtend (r : BitVec 10) (g : List (BitVec 10)) : List (BitVec 10) :=
  List.zipWith (· ^^^ ·) (g ++ [0]) (0 :: g.map (gfMul r))

/-- The generator polynomial below its leading coefficient, highest first. -/
def rsGenerator : List (BitVec 10) :=
  (((List.range 30).foldl (fun (p : List (BitVec 10) × BitVec 10) _ => (gfExtend p.2 p.1, gfDouble p.2)) ([1], 1)).1).drop 1

/-- The parity symbols of a message, first symbol first: the remainder by the generator polynomial. -/
def rsParity (msg : List (BitVec 10)) : List (BitVec 10) :=
  msg.foldl (fun st m =>
    let f := m ^^^ st.headD 0
    List.zipWith (fun a g => a ^^^ gfMul f g) (st.drop 1 ++ [0]) rsGenerator) (List.replicate 30 0)

/-- The 514 message symbols of a codeword: its frame data, then its control bits (R310). -/
def messageSymbols (data : List (BitVec 8)) (control : BitVec 20) : List (BitVec 10) :=
  let n := leNat data + 2 ^ 5120 * control.toNat
  (List.range 514).map fun i => BitVec.ofNat 10 (n / 2 ^ (10 * i))

/-- The eight pieces of a frame on the active lanes of its port: piece i on lane i mod w, in codeword time i ÷ w, each with
its parity (R309, R311). -/
def codewords (lanes : List Nat) (slot : Nat) (frame : List (BitVec 8)) : List Codeword :=
  (List.range 8).map fun i =>
    let data := (frame.drop (640 * i)).take 640
    { lane := lanes.getD (i % lanes.length) 0, time := i / lanes.length, control := controlBits i slot
      data := data, parity := rsParity (messageSymbols data (controlBits i slot)) }

/-- The lanes that a port uses: all of them in `IDENT`, which follows a training at full width, else those of its active
group (R331, R334). -/
def Port.activeLanes (x : Port) : List Nat :=
  (List.range 8).filter fun l => decide (x.state = .ident) || x.lanes.getLsbD l

/-- A frame leaves by a port in its slot of count `slot` (R310, R311). -/
def State.toWire (port slot : Nat) (frame : List (BitVec 8)) (s : State) : State :=
  let lanes := (s.fab.ports.getD port Port.reset).activeLanes
  s.onFab fun f => { f with
    wire := { port := port, tick := s.now, slot := slot, words := codewords lanes slot frame } :: f.wire }

end Sys2Proof.Machine
end

