-- ==== Sys2Proof/WellFormed.lean ====
section
/-!
DEFINITION. Well-formed commands: operands that name what the device has.
-/
namespace Sys2Proof

/-- The issuing cell is a logical cell (R41). -/
def At.ok (p : At) : Bool := decide (p.cell < 1536)

/-- A frame kind that R312 defines. -/
def kindListed (k : BitVec 8) : Bool := decide (1 ≤ k.toNat) && decide (k.toNat ≤ 9)

/-- The frame arrives on a port of the device (R308), and its kind is that of the command or reserved (R312). A frame
has 8 pieces, a codeword each (R310), of 544 symbols (R309). -/
def FrameHdr.ok (kind : BitVec 8) (h : FrameHdr) : Bool :=
  decide (h.inPort < 16) && decide (h.symbolErrors.length ≤ 8) && h.symbolErrors.all (fun n => decide (n ≤ 544)) &&
    (decide (h.kind = kind) || !kindListed h.kind)

/-- The operands of a command are in range: cells, ports, streams, contexts, memory units and interrupt
sources exist, and a sub-slot is one of the forms that R115, R139 and R140 permit. -/
def Instr.wf : Instr → Bool
  | .boundary _ _ => true
  | .lastBeat => true
  | .cadenceMarker _ => true
  | .cadenceFrame hdr _ => hdr.ok 3
  | .associationWindowClose => true
  | .armTimeout => true
  | .leaderFrameTimeout => true
  | .mpass p _ _ _ _ _ _ => p.ok
  | .mdrain p _ _ _ _ => p.ok
  | .mseta p _ _ => p.ok
  | .msets p _ _ => p.ok
  | .mnop p => p.ok
  | .copy p _ => p.ok
  | .send p _ => p.ok
  | .gather p o => p.ok && decide (o.src ≠ 7)
  | .readT1 p _ => p.ok
  | .writeT1 p _ => p.ok
  | .steer p o => p.ok && decide (o.dst = 0)
  | .dseta p _ _ _ => p.ok
  | .dsets p _ _ => p.ok
  | .dnop p => p.ok
  | .cnop p => p.ok
  | .vguard p _ => p.ok
  | .endloop p trip body => p.ok && decide (trip ≠ 0) && decide (body ≠ 0)
  | .idle p beats => p.ok && decide (beats ≠ 0)
  | .string p _ _ => p.ok
  | .setskip p binding _ _ _ => p.ok && decide (binding ≠ 0)
  | .steersel p _ => p.ok
  | .vnop p => p.ok
  | .vadd p o => p.ok && vectorOk (.vadd p o)
  | .vsub p o => p.ok && vectorOk (.vsub p o)
  | .vmul p o => p.ok && vectorOk (.vmul p o)
  | .vfma p o => p.ok && vectorOk (.vfma p o)
  | .vmax p o => p.ok && vectorOk (.vmax p o)
  | .vmin p o => p.ok && vectorOk (.vmin p o)
  | .vabs p o => p.ok && vectorOk (.vabs p o)
  | .vneg p o => p.ok && vectorOk (.vneg p o)
  | .exp2 p o => p.ok && vectorOk (.exp2 p o)
  | .log2 p o => p.ok && vectorOk (.log2 p o)
  | .rcp p o => p.ok && vectorOk (.rcp p o)
  | .rsqrt p o => p.ok && vectorOk (.rsqrt p o)
  | .sigm p o => p.ok && vectorOk (.sigm p o)
  | .tanh p o => p.ok && vectorOk (.tanh p o)
  | .rsum p o => p.ok && vectorOk (.rsum p o)
  | .rmax p o => p.ok && vectorOk (.rmax p o)
  | .rmin p o => p.ok && vectorOk (.rmin p o)
  | .ramax p o => p.ok && vectorOk (.ramax p o)
  | .iadd p o => p.ok && vectorOk (.iadd p o)
  | .isub p o => p.ok && vectorOk (.isub p o)
  | .vand p o => p.ok && vectorOk (.vand p o)
  | .vor p o => p.ok && vectorOk (.vor p o)
  | .vxor p o => p.ok && vectorOk (.vxor p o)
  | .vshl p o => p.ok && vectorOk (.vshl p o)
  | .vshr p o => p.ok && vectorOk (.vshr p o)
  | .vsel p _ => p.ok
  | .vmov p _ => p.ok
  | .vbcast p o => p.ok && vectorOk (.vbcast p o)
  | .vperm p o => p.ok && vectorOk (.vperm p o)
  | .viota p o => p.ok && vectorOk (.viota p o)
  | .vcmp p o => p.ok && vectorOk (.vcmp p o)
  | .mlog p o => p.ok && vectorOk (.mlog p o)
  | .mvl p _ => p.ok
  | .mflg p _ => p.ok
  | .vcvtBf16 p o => p.ok && vectorOk (.vcvtBf16 p o)
  | .vcvtFp16 p o => p.ok && vectorOk (.vcvtFp16 p o)
  | .vcvtFp8 p o => p.ok && vectorOk (.vcvtFp8 p o)
  | .vcvtFp4 p o => p.ok && vectorOk (.vcvtFp4 p o)
  | .vqblk p o => p.ok && vectorOk (.vqblk p o)
  | .vunpk p o => p.ok && vectorOk (.vunpk p o)
  | .vld p _ => p.ok
  | .vst p _ => p.ok
  | .vsthOpen p _ => p.ok
  | .vsthClose p _ => p.ok
  | .slui p _ => p.ok
  | .slli p _ => p.ok
  | .smov p o => p.ok && vectorOk (.smov p o)
  | .sadd p _ => p.ok
  | .landingFlit dest _ _ => decide (dest < 1600)
  | .emptyFlit dest _ _ => decide (dest < 1600)
  | .t1PieceArrival cell _ _ => decide (cell < 1536)
  | .t1WriteAck cell _ => decide (cell < 1536)
  | .validLengthToken cell _ _ => decide (cell < 1536)
  | .steeringControlToken cell _ _ => decide (cell < 1536)
  | .remoteBarrierToken cell _ _ => decide (cell < 1536)
  | .zeroLengthHeaderToken cell _ _ => decide (cell < 1536)
  | .steerFlitArrival cell _ => decide (cell < 1536)
  | .steerWindowExpiry cell _ => decide (cell < 1536)
  | .hubStringInject _ => true
  | .repairStart _ => true
  | .repairDone _ => true
  | .stagingComplete _ => true
  | .switchFillStart => true
  | .switchFillDone _ => true
  | .dataFrame hdr _ flits => hdr.ok 1 && decide (flits.length = hdr.flits.toNat) && decide (flits.length ≤ 39)
  | .streamWindowEnd stream => decide (stream < 64)
  | .slotTransmit port _ => decide (port < 16)
  | .verdictFrame hdr _ => hdr.ok 2
  | .leaveNotice hdr _ _ => hdr.ok 4
  | .remoteRequest hdr _ _ _ _ _ => hdr.ok 5
  | .remoteResponse hdr _ _ _ => hdr.ok 6
  | .remoteRequestTimeout _ _ => true
  | .moveOffer hdr _ => hdr.ok 7
  | .moveAccept hdr _ => hdr.ok 7
  | .moveRefuse hdr _ => hdr.ok 7
  | .moveData hdr _ => hdr.ok 7
  | .moveReady hdr _ => hdr.ok 7
  | .moveCommit hdr _ => hdr.ok 7
  | .moveAbort hdr _ => hdr.ok 7
  | .moveAck hdr _ => hdr.ok 7
  | .moveReadyTimeout _ _ => true
  | .moveCommitResend _ _ => true
  | .moveAbortResend _ _ => true
  | .localMoveComplete _ _ _ _ => true
  | .writeBackComplete _ _ => true
  | .conversionPassDone => true
  | .ttl2Expiry ctx => decide (ctx < 1024)
  | .ttl3Expiry ctx => decide (ctx < 1024)
  | .shardIngestDone _ _ => true
  | .shardDeadlineExpiry _ _ _ => true
  | .scrubDue _ _ => true
  | .scrubPageRead _ _ _ => true
  | .uncorrectableRead tier _ unit _ => (decide (tier = 1) && decide (unit < 8)) || (decide (tier = 2) && decide (unit < 12)) ||
    (decide (tier = 3) && decide (unit < 8))
  | .hbmStackFailure stack => decide (stack < 8)
  | .ddrChannelFailure channel => decide (channel < 12)
  | .flashDriveTimeout port => decide (port < 8)
  | .nvmeCompletion port _ _ => decide (port < 8)
  | .pcieLinkDown => true
  | .hostPerst _ => true
  | .pcieConfigRequest _ => true
  | .functionLevelReset _ _ => true
  | .bar4Access _ _ _ => true
  | .funcSetupDone _ => true
  | .funcStopComplete _ => true
  | .funcWedgeTimeout _ _ => true
  | .portStateDone port _ => decide (port < 16)
  | .portStateTimeout port _ => decide (port < 16)
  | .portRetryTimer port _ => decide (port < 16)
  | .identFrame hdr _ _ => hdr.ok 8
  | .echoFrame hdr _ arrival _ => hdr.ok 9 && decide (arrival = hdr.tick)
  | .laneFailure port _ => decide (port < 16)
  | .powerOn _ => true
  | .resetNAssert _ => true
  | .pwrfail _ => true
  | .thermalScan _ _ _ _ => true
  | .thermalCapRaise _ => true
  | .railCurrentRead _ _ => true
  | .marginTrip west east => (west || east)
  | .stretchEnd _ => true
  | .pllLock _ => true
  | .pllSlip _ => true
  | .clockQualification _ _ => true
  | .unarmedOpTick _ _ _ => true
  | .voteScan _ => true
  | .heartbeatInterval => true
  | .bootStageDone _ => true
  | .bootStageRetry => true
  | .sourceAssert source _ => decide (1 ≤ source) && decide (source ≤ 1019)
  | .notifyModerationTimeout _ _ => true
  | .stormWindow => true
  | .vectorModerationTimeout vector _ => decide (vector < 1984)
  | .msixVectorUnmask vector => decide (vector < 1984)
  | .dmaReadComplete _ _ => true
  | .dmaWriteResponse _ => true
  | .icClaimRead _ _ => true
  | .icCompleteWrite _ _ _ => true
  | .icGwAckWrite _ _ => true
  | .icPendRead _ _ => true
  | .icDoorbellWrite _ _ _ => true
  | .icStormUnmask _ source _ => decide (1 ≤ source) && decide (source ≤ 1019)
  | .dmaGo _ _ _ => true
  | .dmaAbort _ _ _ => true
  | .queueEnable _ _ _ => true
  | .queueDisable _ _ _ => true
  | .cmdTailDoorbell _ _ _ _ => true
  | .rspHeadDoorbell _ _ _ _ => true
  | .srHeadDoorbell _ => true
  | .tokenDoorbell _ _ _ => true
  | .gridPendWrite _ _ _ => true
  | .gridCellSelWrite _ _ => true
  | .gridLockWrite _ _ => true
  | .arithCtrlWrite _ _ => true
  | .sysClkEnWrite _ _ => true
  | .sysLockWrite _ _ => true
  | .pwrOpReqWrite _ _ => true
  | .pwrOpLimitsWrite _ _ => true
  | .mgtFwFloorWrite _ _ => true
  | .heartbeatWrite _ _ _ => true
  | .rstCtrlReset _ _ => true
  | .rcRegisterRead acc => acc.ok
  | .latchedLowRead acc => acc.ok
  | .registerWrite acc _ => acc.ok
  | .sbRegisterRead _ => true
  | .sbRegisterWrite _ => true
  | .sbReset _ => true
  | .sbMailboxWrite _ => true
  | .sbMailboxRead _ => true
  | .jtagInstruction _ => true
  | .identify _ => true
  | .deviceReset _ => true
  | .telemetry _ => true
  | .handleQuery _ => true
  | .cfgWrite _ => true
  | .cfgCommit _ => true
  | .cadenceSet _ => true
  | .cadenceStatus _ => true
  | .roleSet _ => true
  | .alloc _ => true
  | .free _ => true
  | .move _ => true
  | .pageQuery _ => true
  | .memMode _ => true
  | .modelDeclare _ => true
  | .shardLoad _ => true
  | .shardFromFlash _ => true
  | .modelActivate _ => true
  | .modelRetire _ => true
  | .adapterLoad _ => true
  | .adapterReplace _ => true
  | .modelReplace _ => true
  | .scrubSet _ => true
  | .modelStatus _ => true
  | .cylLoad _ => true
  | .cylVerify _ => true
  | .drain _ => true
  | .cylSwitch _ => true
  | .cylUnload _ => true
  | .ctxOpen _ => true
  | .promptSubmit _ => true
  | .append _ => true
  | .cancel _ => true
  | .ctxClose _ => true
  | .ctxPark _ => true
  | .ctxResume _ => true
  | .fallbackBind _ => true
  | .kvExport _ => true
  | .kvImport _ => true
  | .batchStep _ => true
  | .deadlineSet _ => true
  | .linkStatus _ => true
  | .routeSet _ => true
  | .planeMask _ => true
  | .fenceCell _ => true
  | .unfenceCell _ => true
  | .calibrate _ => true
  | .calStatus _ => true
  | .healthRead _ => true
  | .funcEnable _ => true
  | .funcDisable _ => true
  | .funcStatus _ => true
  | .diagNop _ => true
  | .manufacturingTest _ => true
  | .powerRemoved => true
  | .resetNRelease _ _ => true
  | .resetPulseEnd _ => true
  | .pcieLinkUp => true
  | .firmwareSramUncorrectable => true
  | .calibrationStoreWriteDone _ _ => true
  | .cylLoadChecked _ => true
  | .kvImageTransferDone _ _ => true
  | .i3cAddressAssignment _ => true
  | .memoryPatrolScrub tier _ _ _ _ => decide (1 ≤ tier.toNat) && decide (tier.toNat ≤ 2)

end Sys2Proof
end

