-- ==== Sys2Proof/Machine/Message.lean ====
section
/-!
DEFINITION. Management messages: queued for transmission (R325), and what a receiver discards (R313).
-/
namespace Sys2Proof.Machine

/-- Where a frame that is queued now comes from (R157, R312). -/
def State.origin (s : State) : Origin :=
  { source := s.fab.chip, partition := s.fab.partition, step := s.cad.step.setWidth 32
    replay := BitVec.ofNat 16 s.step.replay, epoch := s.cyl.epoch }

/-- A management frame queued (R325): its priority, its destination and its body. -/
def State.sendMsg (prio : Nat) (dest : BitVec 12) (multicast : Bool) (port : Option Nat) (body : MsgBody)
    (s : State) : State :=
  s.onFab fun f => { f with
    mgmtQ := f.mgmtQ ++ [{ prio := prio, port := port, dest := dest.setWidth 16, multicast := multicast,
                           body := body, seq := f.msgSeq, origin := s.origin }]
    msgSeq := f.msgSeq + 1 }

/-! ### Remote accesses as the requester makes them (R201, R329) -/

/-- The longest remote access, in bytes (R329). -/
def remoteMax : Nat := 4096

/-- A remote access is sent: one request, outstanding until its response (R329). -/
def State.remoteSend (dest : BitVec 12) (write : Bool) (addr : BitVec 64) (len : Nat) (data : List (BitVec 8))
    (owner : ReqOwner) (s : State) : State :=
  let id := s.fab.nextReq
  let r : RemoteReq := { id := id, dest := dest, write := write, addr := addr, data := data, len := len,
                         resent := 0, sentAt := s.uptime, owner := owner, port := none }
  (s.onFab fun f => { f with requests := f.requests ++ [r], nextReq := id + 1 }).sendMsg 5 dest false none
    (.request id write addr len data)

/-! ### Ports -/

/-- A port is `UP` (R331). -/
def State.portUp (s : State) (p : Nat) : Bool := decide ((s.fab.ports.getD p Port.reset).state = .up)

/-- A port changed. -/
def State.onPort (p : Nat) (g : Port → Port) (s : State) : State :=
  s.onFab fun f => { f with ports := listModify f.ports p g }

/-- Units of a port's width (R311). -/
def Port.units (p : Port) : Nat :=
  if p.state ≠ .up then 0 else if p.width = 8 then 4 else if p.width = 4 then 2 else if p.width = 2 then 1 else 0

/-- The plane mask in force enables the plane (R339). -/
def State.planeOn (s : State) (p : Nat) : Bool := s.fab.mask.value.getLsbD p

/-- A frame other than ident, echo and training may travel on a plane: it is enabled, or it was when a mask was replaced
whose stripe lists are still in force (R339). -/
def State.planeCarries (s : State) (p : Nat) : Bool :=
  s.planeOn p || s.fab.maskPending.any fun x => decide (x.2.1 ≠ 0) && x.2.2.getLsbD p

/-- The live ports: `UP`, on a plane that carries frames, in descending width, then ascending number (R326, R339). -/
def State.livePorts (s : State) : List Nat :=
  let w (p : Nat) : Nat := (s.fab.ports.getD p Port.reset).width
  let up := (List.range 16).filter fun p => s.portUp p && s.planeCarries p
  [8, 4, 2].flatMap fun k => up.filter fun p => decide (w p = k)

/-- Two copies of a frame to each group, on two ports chosen in turn from the live ports (R326). -/
def State.sendGroups (prio : Nat) (body : MsgBody) (s : State) : State :=
  let ps := s.livePorts
  (s.fab.groups.mapIdx fun i g => (i, g)).foldl (fun s x =>
    let send (j : Nat) (s : State) : State := s.sendMsg prio x.2 true ps[(2 * x.1 + j) % ps.length]? body
    send 1 (send 0 s)) s

/-- A leave notice to each group on every live port (R328). -/
def State.sendLeave (cause : BitVec 8) (s : State) : State :=
  let body := MsgBody.leave cause (s.step.committed.getD 0xFFFFFFFFFFFFFFFF)
  s.fab.groups.foldl (fun s g => s.livePorts.foldl (fun s p => s.sendMsg 3 g true (some p) body) s) s

/-! ### Frames that leave (R310 to R312, R325) -/

/-- A body as it departs: a cadence frame carries the ticks since its marker instant, which it holds while it waits (R34),
an echo frame the tick of its
departure (R332). -/
def State.departing (s : State) (b : MsgBody) : MsgBody :=
  match b with
  | .cadence c => .cadence { c with correction := BitVec.ofNat 32 s.now - c.correction }
  | .echo _ => .echo s.cad.tb
  | b => b

/-- The port by which a remote request left (R329). -/
def RemoteReq.leaves (port : Nat) (b : MsgBody) (r : RemoteReq) : RemoteReq :=
  match b with
  | .request id _ _ _ _ => if r.id = id then { r with port := some port } else r
  | _ => r

/-- A management frame leaves by a port in its slot of count `slot`. -/
def State.departMsg (port slot : Nat) (m : OutMsg) (s : State) : State :=
  let m' := { m with port := some port, body := s.departing m.body }
  (s.onFab fun g => { g with
    mgmtQ := g.mgmtQ.erase m, sent := m' :: g.sent, requests := g.requests.map (RemoteReq.leaves port m.body) }).toWire
      port slot (m'.bytes port)

/-- A data frame leaves by its port in its slot of count `slot`. -/
def State.departData (slot : Nat) (f : OutFrame) (s : State) : State :=
  (s.onFab fun g => { g with dataQ := g.dataQ.erase f, sentData := f :: g.sentData }).toWire f.port slot f.bytes

/-- The leave notices of a chip that is about to reset leave before it does (R328, R385). -/
def State.lastNotices (s : State) : State :=
  (s.fab.mgmtQ.filter fun m => decide (m.prio = 3)).foldl (fun s m => match m.port with
    | some p => s.departMsg p (s.fab.ports.getD p Port.reset).slots.toNat m
    | none => s) s

/-! ### Frames that arrive (R313) -/

/-- The frame is one the receiver keeps (R313). -/
def State.frameOk (s : State) (h : FrameHdr) : Bool :=
  h.crcOk && h.reservedZero && decide (h.mark = 0x4C50) && kindListed h.kind &&
    (if h.multicast then decide (h.dest ∈ s.fab.groups) else decide (h.dest = s.fab.chip))

/-- What RS(544,514) makes of codewords, by their symbols received in error (R309): its 30 parity symbols correct up to 15
in a codeword, which is uncorrectable with more. The symbols corrected and the uncorrectable codewords (assumption 191). -/
def decodeCodewords (errors : List Nat) : Nat × Nat :=
  ((errors.filter fun n => decide (n ≤ 15)).sum, (errors.filter fun n => decide (15 < n)).length)

/-- The symbols corrected and the codewords found uncorrectable in a frame are counted on its port (R337, R340). -/
def Port.heard (corrected uncorrectable : Nat) (x : Port) : Port :=
  { x with
    corr := satAdd x.corr corrected, corrRep := satAdd x.corrRep corrected
    uncorr := satAdd x.uncorr uncorrectable, uncorrRep := satAdd x.uncorrRep uncorrectable }

/-- A frame is heard at its tick. -/
def State.heard (h : FrameHdr) (s : State) : State :=
  let d := decodeCodewords h.symbolErrors
  (s.at_ h.tick).onPort h.inPort (Port.heard d.1 d.2)

/-- A frame arrives on a port in service for it: discarded and counted under R313, else acted on. A port that is
not receives nothing. -/
def receiveIf (service : State → Bool) (h : FrameHdr) (body : State → State) (s : State) : Out :=
  if !service s then finish (s.at_ h.tick)
  else
    let s := s.heard h
    if s.frameOk h then finish (body s)
    else finish (s.onFab fun f => { f with frameErr := satInc f.frameErr })

/-- The port of a frame is `UP` on a plane that carries it; a rack cadence frame arrives on a disabled plane too (R339).
Without its clock the fabric block hears nothing (R402). -/
def State.listens (rack : Bool) (h : FrameHdr) (s : State) : Bool :=
  s.clocked 6 && s.portUp h.inPort && (s.planeCarries h.inPort || rack)

/-- A frame other than an ident, echo or rack cadence frame arrives. -/
def receive (h : FrameHdr) (body : State → State) (s : State) : Out := receiveIf (State.listens false h) h body s

end Sys2Proof.Machine
end

