-- ==== Sys2Proof/Machine/Paging.lean ====
section
/-!
DEFINITION. Moves of pages: within the chip (R207, R208), between chips (R209, R210), in the write-back mode
(R213 to R215), and the actions that move many pages.
-/
namespace Sys2Proof.Machine

/-! ### Names of pages -/

/-- A page's address in a list replaced. -/
def replaceGa (old new : BitVec 64) (l : List (BitVec 64)) : List (BitVec 64) :=
  l.map fun g => if g = old then new else g

/-- Every reference that the device holds to a page is rewritten: context page lists, model images, and the
frames of cylinders (R207). -/
def State.rename (old new : BitVec 64) (s : State) : State :=
  let ctx (c : Context) : Context := { c with
    kvList := replaceGa old new c.kvList, fbList := replaceGa old new c.fbList
    histPage := c.histPage.map fun g => if g = old then new else g }
  let s := s.onSrv fun v => { v with ctxs := v.ctxs.map fun p => (p.1, ctx p.2) }
  let s := s.onWgt fun w => { w with models := w.models.map fun m =>
    { m with pages := m.pages.map fun p => (p.1, if p.2 = old then new else p.2) } }
  let f := (gaSlot old).2
  let f' := (gaSlot new).2
  if gaSpace old = 1 ∧ gaSpace new = 1 then
    s.onCyl fun c => { c with known := c.known.map fun k =>
      { k with frames := k.frames.map fun x => if x = f then f' else x } }
  else s

/-- The page is in a move (R208). -/
def PageState.inMove : PageState → Bool
  | .moving | .sending | .inbound | .pending => true
  | _ => false

/-- A window of a cylinder names the page: one of its own frames, a page of a model that it maps, or a page of an
adapter bound to a context in a batch slot (R144, R222, R261). -/
def State.windowNames (s : State) (k : KnownCyl) (tier slot : Nat) : Bool :=
  let g := s.slotGa tier slot
  (decide (tier = 1) && (decide (slot ∈ k.mirrors) || k.windows.any fun w => decide (slot ∈ w.2))) ||
  (imgWindows k.image).any fun b => decide (b.source = 2) &&
    if b.model = 0xFFFFFFFF then s.srv.slots.any fun x => (s.ctx x.2.ctx).adapter.any fun a =>
      (s.model a.model a.version).any fun m => m.pages.any fun p => decide (p.2 = g)
    else (s.model (BitVec.ofNat 28 b.model) b.version).any fun m => m.pages.any fun p => decide (p.2 = g) &&
      decide (b.srcOff < (p.1 + 1) * pageBytes) && decide (p.1 * pageBytes < b.srcOff + b.len)

/-- The page is pinned: its owner is the device or a context in a batch slot, or an active
or verified cylinder's window or mirror names it (R222). -/
def State.isPinned (s : State) (tier slot : Nat) : Bool :=
  let e := s.dirEntry tier slot
  let inSlot := s.srv.slots.any fun x => decide (x.2.ctx = e.ownerId.toNat)
  decide (e.ownerKind = ownDevice) || (decide (e.ownerKind = ownContext) && inSlot) ||
    s.cyl.known.any fun k => decide (k.status ≠ .loaded) && s.windowNames k tier slot

/-! ### Stored content replaced -/

/-- The content of a home slot replaced; a packed page takes a new run of granules (R217). A page for which
no run is found is poisoned, its content lost. -/
def State.restore (tier slot : Nat) (m : Mem) (s : State) : State :=
  let e := s.dirEntry tier slot
  let f := storedForm tier e.allocRaw m
  if tier = 2 ∧ !e.raw then
    let free := s.freeSlotAt 2 slot
    match runSearch free.runsOf 262144 s.granules (ceilDiv (storedSize f) 4096) (2 * free.runsOf.length + 4)
        e.granule.toNat with
    | none => s.onDir 2 slot fun e => { e with poisoned := true }
    | some g =>
      (s.setDir 2 slot { e with granule := BitVec.ofNat 32 g, stored := BitVec.ofNat 32 (storedSize f),
                                raw := f.1, zero := false } none).fill 2 slot g f m
  else ((s.onDir tier slot fun e => { e with
    stored := BitVec.ofNat 32 (storedSize f), raw := f.1, zero := false }).fill tier slot e.granule.toNat f m)

/-- The writes held for a slot are applied at the page's home (R204). -/
def State.applyHeld (from_ : Nat × Nat) (home : Nat × Nat) (s : State) : State :=
  let mine (w : HeldWrite) : Bool :=
    let k := (w.tier.toNat, w.slot)
    decide (k = from_) || decide (k = home)
  let ws := s.mem.held.filter mine
  let s := s.onMem fun m => { m with held := m.held.filter fun w => !mine w }
  ws.foldl (fun s w =>
    let e := s.dirEntry home.1 home.2
    if home.1 = 1 ∨ e.raw then s.writeHome home.1 home.2 w.offset w.data
    else match s.content home.1 home.2 with
      | none => s
      | some m => s.restore home.1 home.2 (Mem.writes m w.offset w.data)) s

/-! ### Actions over many pages -/

/-- An action changed. -/
def State.onJob (id : Nat) (g : PageJob → PageJob) (s : State) : State :=
  s.onMem fun m => { m with jobs := m.jobs.map fun j => if j.id = id then g j else j }

/-- An action. -/
def State.job (s : State) (id : Nat) : Option PageJob := s.mem.jobs.find? fun j => decide (j.id = id)

/-- What became of a page of an action. -/
inductive PageEnd where
  /-- moved, or there already -/
  | moved
  /-- placed lower than preferred -/
  | lower
  /-- no room was found -/
  | noSpace
  /-- its chip was lost (R210) -/
  | peerLost
  /-- it failed otherwise -/
  | failed
  deriving DecidableEq, Repr

/-- A page of an action has committed or failed; `old` is its address in the list, `new` its address now. -/
def State.pageEnd (id : Nat) (old new : BitVec 64) (r : PageEnd) (s : State) : State :=
  s.onJob id fun j => { j with
    left := j.left - 1
    degraded := j.degraded + (if r = .lower then 1 else 0)
    stayed := j.stayed + (if r = .lower ∧ old = new then 1 else 0)
    failed := j.failed + (if r = .moved ∨ r = .lower then 0 else 1)
    noSpace := j.noSpace || decide (r = .noSpace)
    peerLost := j.peerLost || decide (r = .peerLost)
    results := replaceGa old new j.results }

/-- Root ports of the members of the volume (R226, R227). -/
def State.memberPorts (s : State) : List Nat := s.mem.memberPorts

/-- NVMe commands that wait are submitted while their I/O queues have room (R226). -/
def State.pumpDrives (s : State) : State := s.onMem Memory.pumpDrives

/-- NVMe commands to a drive, in order: what each does and its first LBA (R226). -/
def State.toDrive (port : Nat) (ops : List (DriveOp × Nat)) (move : Option (BitVec 32)) (s : State) : State :=
  s.onMem (Memory.toDrive port ops move)

/-- The commands over a volume slot, each covering 512 KiB (R226). -/
def State.slotOps (s : State) (op : DriveOp) (slot : Nat) : List (DriveOp × Nat) :=
  (List.range 4).map fun i => (op, s.mem.dataLba slot + 128 * i)

/-- A page leaves a volume slot, which is deallocated (R226; assumption 145). -/
def State.deallocate (slot : Nat) (s : State) : State :=
  s.toDrive (s.mem.portOf slot) (s.slotOps .deallocate slot) none

/-- The commands of a move of a page from or to tier 3: its reads, or its writes and a Flush (R226; assumption 145). -/
def State.moveDrive (srcTier src dstTier dst : Nat) (seq : BitVec 32) (s : State) : State :=
  let s := if srcTier = 3 then s.toDrive (s.mem.portOf src) (s.slotOps .read src) (some seq) else s
  if dstTier = 3 then s.toDrive (s.mem.portOf dst) (s.slotOps .write dst ++ [(.flush, s.mem.dataLba dst)]) (some seq) else s

/-- The commands of a move are given up with it. -/
def State.endDrive (seq : BitVec 32) (s : State) : State :=
  (s.onMem fun m => { m with
    driveDma := m.driveDma.filter fun c => decide (c.move ≠ some seq)
    driveWait := m.driveWait.filter fun c => decide (c.move ≠ some seq) }).pumpDrives

/-- A member label as the device writes it: that of the drive with its next generation and the journal's head (R228). -/
def labelBytes (old : List (BitVec 8)) (slots head : Nat) : List (BitVec 8) :=
  let h := old.take 28 ++ leBytes 8 (fieldAt old 28 8 + 1) ++ leBytes 4 slots ++ leBytes 8 head ++
    List.replicate 4044 0
  h ++ bvBytes 4 (crc32c h)

/-- One copy of a member label holds (R228). -/
def labelOk (bs : List (BitVec 8)) : Bool :=
  decide (bs.length = 4096) && decide (bs.take 8 = [0x4A, 0x58, 0x56, 0x4F, 0x4C, 0x55, 0x4D, 0x45]) &&
    decide (fieldAt bs 8 2 = 1) && decide (crc32c (bs.take 4092) = BitVec.ofNat 32 (fieldAt bs 4092 4))

/-- The label of a drive: the copy with the higher generation that holds (R228). -/
def Drive.label (d : Drive) : Option (List (BitVec 8)) :=
  let g (bs : List (BitVec 8)) : Nat := fieldAt bs 28 8
  if labelOk d.label1 && (!labelOk d.label2 || decide (g d.label2 ≤ g d.label1)) then some d.label1
  else if labelOk d.label2 then some d.label2 else none

/-- Every member's label is written again, the first copy and, once that is there, the second, with the oldest live
record of the journal (R228). The records before the change just made are not live (assumption 148). -/
def State.writeLabels (s : State) : State :=
  let head := s.mem.journalSeq
  let s := s.onMem fun m => { m with journalHead := head }
  s.memberPorts.foldl (fun s p => match (s.mem.drives[p]?).bind Drive.label with
    | none => s
    | some l => s.toDrive p [(.label false (labelBytes l s.mem.volSlots head), 0)] none) s

/-- The labels are written again when the journal's ring of 262,144 records is full of live ones (R227, R228). -/
def State.keepLabels (s : State) : State :=
  if s.mem.mounted ∧ 262144 ≤ s.mem.journalSeq - s.mem.journalHead then s.writeLabels else s

/-! ### Moves within the chip (R207) -/

/-- The tier-2 home of a shadow (R214). -/
def DirEntry.homeSlot (e : DirEntry) : Option Nat := if e.state = .shadow then some (gaSlot e.peer).2 else none

/-- A page of an action goes to a slot: the destination `INBOUND`, the source `MOVING`, each naming the other (R207 step
1). A page that has a shadow moves from it, since all its reads and writes go there (R214). -/
def State.launch (id : Nat) (g : BitVec 64) (src : Nat × Nat) (t d gr : Nat) (m : Mem) (s : State) : State :=
  let e := s.dirEntry src.1 src.2
  let seq := s.mem.moveSeq + 1
  let dg := s.slotGa t d
  let de := { placedEntry e.ownerKind e.ownerId e.index.toNat .inbound gr (storedForm t e.allocRaw m) e.allocRaw seq with
    peer := s.slotGa src.1 src.2, hostVisible := e.hostVisible }
  let s := s.setDir t d de none
  let s := s.onDir src.1 src.2 fun e => { e with state := .moving, peer := dg }
  let s := s.onMem fun mm => { mm with
    moveSeq := seq
    moves := mm.moves ++ [{ seq := seq, srcTier := BitVec.ofNat 4 src.1, src := src.2, dstTier := BitVec.ofNat 4 t
                            dst := d, job := id, shadow := mm.writeBack && decide (src.1 = 2) && decide (t = 1)
                            name := g, pair := e.homeSlot }] }
  s.moveDrive src.1 src.2 t d seq

/-- A move within the chip begins (R207, R221). A page that would spill to its own tier or below it stays where it is:
placed lower than preferred, and not moved (R231; assumption 146). -/
def State.beginLocal (id : Nat) (g : BitVec 64) (pref : Nat) (strict : Bool) (s : State) : State :=
  let tier := (gaSlot g).1
  let src := s.liveSlot tier (gaSlot g).2
  let e := s.dirEntry src.1 src.2
  let m := (s.content src.1 src.2).getD []
  if src.1 = pref then s.pageEnd id g g .moved
  else match s.placement pref strict e.ownerKind e.ownerId e.allocRaw m with
  | none => if pref < tier ∧ !strict then s.drawn.spilled.pageEnd id g g .lower else s.drawn.pageEnd id g g .noSpace
  | some (t, d, gr) =>
    let s := s.drawn
    if pref < tier ∧ tier ≤ t then s.spilled.pageEnd id g g .lower
    else (if t = pref then s else s.spilled).launch id g src t d gr m

/-- The chunks of a page as move data messages: 14 of up to 4,928 bytes each (R330). -/
def moveDataMsgs (seq : BitVec 32) (m : Mem) : List MoveBody :=
  (List.range 32).flatMap fun k => (List.range 14).map fun i =>
    let n := min 4928 (chunkBytes - 4928 * i)
    { move := seq, op := 4, acked := 0, chunk := BitVec.ofNat 16 k, owner := 0, index := 0, crc := 0,
      offset := BitVec.ofNat 32 (4928 * i), data := Mem.reads m (chunkBytes * k + 4928 * i) n }

/-- A control message of a move (R330). -/
def moveMsg (seq : BitVec 32) (op acked : BitVec 8) : MoveBody :=
  { move := seq, op := op, acked := acked, chunk := 0, owner := 0, index := 0, crc := 0, offset := 0, data := [] }

/-- A message of a move sent to a chip (R325). -/
def State.sendMove (chip : BitVec 12) (b : MoveBody) (s : State) : State :=
  s.sendMsg (if b.op = 4 then 6 else 4) chip false none (.move b)

/-- The CRC-32C of a page's uncompressed content (R207). -/
def pageCrc (m : Mem) : BitVec 32 := crc32c (Mem.reads m 0 pageBytes)

/-- The read of a page to be moved met an error that cannot be corrected: its poisoned flag is set, and a page that does
not decode counts as an uncorrectable read (R207 step 5, R220). -/
def State.readFails (tier slot : Nat) (s : State) : State :=
  let s := if s.decodeFails tier slot 0 pageBytes then s.uncorrectable tier slot else s
  s.onDir tier slot fun e => { e with poisoned := true }

/-- A move to another chip begins with `OFFER` (R209 step 1). -/
def State.beginRemote (id : Nat) (g : BitVec 64) (chip : BitVec 12) (s : State) : State :=
  let (tier, slot) := s.liveSlot (gaSlot g).1 (gaSlot g).2
  let e := s.dirEntry tier slot
  match s.content tier slot with
  | none => (s.readFails tier slot).pageEnd id g g .failed
  | some m =>
    let seq := s.mem.moveSeq + 1
    let crc := pageCrc m
    let b : MoveBody := { moveMsg seq 1 0 with owner := e.ownerKind ++ e.ownerId, index := e.index, crc := crc }
    (s.onMem fun mm => { mm with
      moveSeq := seq
      remotes := mm.remotes ++ [{ seq := seq, outgoing := true, peer := chip, tier := BitVec.ofNat 4 tier,
                                  slot := slot, phase := .offered, crc := crc, chunks := [], bytes := [],
                                  since := s.uptime, job := id, name := g, pair := e.homeSlot
                                  sent := false, entry := e }] }).sendMove chip b

/-- The next page of an action begins its move. A page that is not at home any more, whose slot was freed since the action
began, or that is pinned by now, is not moved and has failed (R206, R222). -/
def State.beginPage (id : Nat) (s : State) : State :=
  match s.job id with
  | none => s
  | some j => match j.waiting with
    | [] => s
    | g :: rest =>
      let s := s.onJob id fun j => { j with waiting := rest }
      let (tier, slot) := gaSlot g
      let e := s.dirEntry tier slot
      let live := s.liveSlot tier slot
      if (e.state ≠ .home ∧ e.state ≠ .shadow) ∨ (s.dirEntry live.1 live.2).state.inMove ∨ g ∈ j.gone ∨
          s.isPinned tier slot = true then
        s.pageEnd id g g .failed
      else match j.chip with
        | some c => s.beginRemote id g c
        | none => if tier = j.tier.toNat then s.pageEnd id g g .moved else s.beginLocal id g j.tier.toNat j.strict

/-- As many pages of an action are under way as may be at once before the page `g` begins: of a resume up to 16
from tier 2 and 8 from tier 3 (R299), else up to 4 (assumption 20). -/
def State.jobFull (s : State) (j : PageJob) (g : BitVec 64) : Bool :=
  match j.purpose with
  | .resume _ =>
    let n := (s.mem.moves.filter fun m => decide (m.job = j.id) && decide (m.srcTier.toNat = gaSpace g)).length
    decide ((if gaSpace g = 3 then 8 else 16) ≤ n)
  | _ => decide (4 ≤ j.left - j.waiting.length)

/-- Moves of an action begin while they may, at most `n` of them. -/
def State.runJob (id : Nat) : Nat → State → State
  | 0, s => s
  | n + 1, s =>
    match s.job id with
    | none => s
    | some j => match j.waiting with
      | [] => s
      | g :: _ => if s.jobFull j g then s else State.runJob id n (s.beginPage id)

/-- An action begins over pages, in the order of the list. -/
def State.startJob (j : PageJob) (pages : List (BitVec 64)) (s : State) : State :=
  let id := s.mem.nextJob
  let j := { j with id := id, left := pages.length, results := pages, waiting := pages, start := s.uptime }
  (s.onMem fun m => { m with jobs := m.jobs ++ [j], nextJob := id + 1 }).runJob id pages.length

/-- An action ends its pages in progress and starts no further page (R391). -/
def State.stopJob (id : Nat) (s : State) : State :=
  s.onJob id fun j => { j with
    left := j.left - j.waiting.length, failed := j.failed + j.waiting.length, waiting := [] }

/-! ### The end of a local move (R207 steps 2 to 5) -/

/-- The source of a move that ends without moving its page is as it was: `HOME`, or a shadow of its home (R207 step 5,
R214). -/
def State.sourceBack (tier slot : Nat) (pair : Option Nat) (s : State) : State :=
  s.onDir tier slot fun e => match pair with
    | some h => { e with state := .shadow, peer := s.slotGa 2 h, peerChip := 0 }
    | none => { e with state := .home, peer := 0, peerChip := 0 }

/-- A local move fails: the destination is freed and the source is as it was; writes held are applied there. -/
def State.failLocal (mv : LocalMove) (s : State) : State :=
  let src := (mv.srcTier.toNat, mv.src)
  let dst := (mv.dstTier.toNat, mv.dst)
  let s := (s.freeSlotAt dst.1 dst.2).sourceBack src.1 src.2 mv.pair
  (s.applyHeld dst src).pageEnd mv.job mv.name mv.name .failed

/-- A local move commits (R207 step 4): one journal record makes the destination `HOME` and the source `FREE`; a move from
tier 2 to tier 1 in the write-back mode makes a shadow of its home instead (R214), and the tier-2 home of a shadow that
moved is freed with it. References are rewritten, and held writes applied. -/
def State.commitLocal (mv : LocalMove) (m : Mem) (s : State) : State :=
  let src := (mv.srcTier.toNat, mv.src)
  let dst := (mv.dstTier.toNat, mv.dst)
  let sg := s.slotGa src.1 src.2
  let dg := s.slotGa dst.1 dst.2
  let pref := ((s.job mv.job).map (·.tier.toNat)).getD dst.1
  let se := s.dirEntry src.1 src.2
  let de := s.dirEntry dst.1 dst.2
  let s := s.fill dst.1 dst.2 de.granule.toNat (storedForm dst.1 de.allocRaw m) m
  let s := if mv.shadow && s.mem.writeBack then
      (s.setDir dst.1 dst.2 { de with state := .shadow, peer := sg, zero := se.zero } none).onDir src.1 src.2
        fun e => { e with state := .home, peer := dg }
    else
      let s := s.commitDir dst.1 dst.2 { de with state := .home, peer := 0, zero := se.zero } src
      let s := match mv.pair with
        | some h => (s.freeSlotAt 2 h).rename (s.slotGa 2 h) dg
        | none => s
      if src.1 = 3 then s.deallocate src.2 else s
  ((s.rename sg dg).applyHeld src dst).pageEnd mv.job mv.name dg (if dst.1 = pref then .moved else .lower)

/-- A local move ends: it commits on a match, and fails on a mismatch or an uncorrectable error of its source (R207 steps
3 to 5). -/
def State.endLocal (mv : LocalMove) (mismatch uncorrectable : Bool) (s : State) : State :=
  let (st, ss) := (mv.srcTier.toNat, mv.src)
  let s := (s.onMem fun m => { m with moves := m.moves.filter fun x => decide (x.seq ≠ mv.seq) }).endDrive mv.seq
  match (if uncorrectable then none else s.content st ss) with
  | none => (s.readFails st ss).failLocal mv
  | some m => if mismatch then s.failLocal mv else s.commitLocal mv m

/-! ### Remote moves (R209, R210) -/

/-- A remote move of this chip, by its sequence number and the side. -/
def State.remote (s : State) (seq : BitVec 32) (peer : BitVec 12) (outgoing : Bool) : Option RemoteMove :=
  s.mem.remotes.find? fun r => decide (r.seq = seq) && decide (r.peer = peer) && decide (r.outgoing = outgoing)

/-- A remote move changed, or ended. -/
def State.setRemote (r : RemoteMove) (new : Option RemoteMove) (s : State) : State :=
  s.onMem fun m => { m with remotes := m.remotes.flatMap fun x => if x = r then new.toList else [x] }

/-- `ABORT` is sent and repeated until it is acknowledged (R209). -/
def State.abortMove (r : RemoteMove) (s : State) : State :=
  (s.setRemote r (some { r with phase := .aborting, since := s.uptime })).sendMove r.peer (moveMsg r.seq 7 0)

/-- A page of an import takes its place in the lists of its context (R302). -/
def Context.takePage (c : Context) (index : Nat) (g : BitVec 64) : Context :=
  if index / 65536 = 2 then { c with histPage := some g }
  else
    let l := if c.kvList.length ≤ index then c.kvList ++ List.replicate (index + 1 - c.kvList.length) 0 else c.kvList
    { c with kvList := l.set index g }

/-- The destination slot of a remote move becomes the page's `HOME`; a page of an import joins its context's lists (R209
step 5, R210, R302). -/
def State.homePage (t sl : Nat) (s : State) : State :=
  let s := (s.onDir t sl fun e => { e with state := .home, peer := 0, peerChip := 0 }).applyHeld (t, sl) (t, sl)
  let e := s.dirEntry t sl
  if e.ownerKind = ownContext ∧ (s.ctx e.ownerId.toNat).importFrom.isSome then
    s.onCtx e.ownerId.toNat fun c => c.takePage e.index.toNat (s.slotGa t sl)
  else s

/-- An import of a context from another chip has failed with a status; it ends once its pages in progress are over
(R301, R302). -/
def State.importFails (n : Nat) (st : BitVec 16) (s : State) : State :=
  if (s.ctx n).importFrom.isSome ∧ (s.ctx n).importFail.isNone then s.onCtx n fun c => { c with importFail := some st }
  else s

/-- The import that a page of a remote move belongs to has failed. -/
def State.pageImportFails (t sl : Nat) (st : BitVec 16) (s : State) : State :=
  let e := s.dirEntry t sl
  if e.ownerKind = ownContext then s.importFails e.ownerId.toNat st else s

/-- The destination slot of a remote move is freed; writes held for it are given to the page's home, on the source chip
(R204; assumption 147). -/
def State.dropInbound (r : RemoteMove) (s : State) : State :=
  let (t, sl) := (r.tier.toNat, r.slot)
  let mine (w : HeldWrite) : Bool := decide (w.tier = r.tier) && decide (w.slot = sl)
  let peer := (s.dirEntry t sl).peer
  let ws := s.mem.held.filter mine
  -- whole words, as a remote access needs them, filled from the verified copy of the page
  let m := ws.foldl (fun m w => Mem.writes m w.offset w.data) ((s.content t sl).getD [])
  let send (s : State) (w : HeldWrite) : State :=
    let a := w.offset / 4 * 4
    let n := ceilDiv (w.offset + w.data.length) 4 * 4 - a
    (List.range (ceilDiv n remoteMax)).foldl (fun s i =>
      let k := min remoteMax (n - remoteMax * i)
      s.remoteSend r.peer true (peer + BitVec.ofNat 64 (a + remoteMax * i)) k (Mem.reads m (a + remoteMax * i) k) .none) s
  let s := s.onMem fun m => { m with held := m.held.filter fun w => !mine w }
  (ws.foldl send s).freeSlotAt t sl

/-- One side of a remote move resolves it alone, its peer lost (R210). A source that has not begun to send is still
`HOME`. -/
def State.resolveRemote (r : RemoteMove) (s : State) : State :=
  let (t, sl) := (r.tier.toNat, r.slot)
  let s := s.setRemote r none
  if r.outgoing then
    if r.phase = .committed then s
    else if r.sent then
      let s := s.losePage t sl
      let s := match r.pair with
        | some h => s.freeSlotAt 2 h
        | none => s
      s.pageEnd r.job r.name r.name .peerLost
    else s.pageEnd r.job r.name r.name .peerLost
  else
    let s := s.pageImportFails t sl stPeerLost
    if (s.dirEntry t sl).state = .pending then s.homePage t sl
    else (s.onMem fun m => { m with held := m.held.filter fun w => !(decide (w.tier = r.tier) && decide (w.slot = sl)) }).freeSlotAt
      t sl

/-- Every remote move with a lost chip is resolved, and the imports that wait for it fail (R210). -/
def State.resolvePeer (chip : BitVec 12) (s : State) : State :=
  let s := (s.mem.remotes.filter fun r => decide (r.peer = chip)).foldl (fun s r => s.resolveRemote r) s
  let waiting := (s.srv.ctxs.filter fun p => p.2.importFrom.any fun x => decide (x.1 = chip)).map (·.1)
  waiting.foldl (fun s n => s.importFails n stPeerLost) s

/-! ### Write-back (R214) -/

/-- A write-back of a dirty shadow begins. -/
def State.beginWriteBack (f : Nat) (s : State) : State :=
  if s.mem.wbRun.any fun w => decide (w.1 = f) then s
  else s.onMem fun m => { m with wbRun := m.wbRun ++ [(f, false)] }

/-- The dirty shadows (R234). -/
def State.dirtyShadows (s : State) : List Nat :=
  (s.mem.dir1.filter fun p => decide (p.2.state = .shadow) && p.2.dirty).map (·.1)

/-- Every dirty shadow's write-back begins (R214). -/
def State.writeBackAll (s : State) : State := s.dirtyShadows.foldl (fun s f => s.beginWriteBack f) s

end Sys2Proof.Machine
end

