-- ==== Sys2Proof/Machine/Vector.lean ====
section
/-!
DEFINITION. The vector engine (R107 to R131): one meaning for each operation of the vector sub-slot.
-/
namespace Sys2Proof.Machine

/-! ### Issue, results and flags -/

/-- The guard that `VGUARD` gave for the vector issue of a beat, none where it gave none (R140). -/
def State.vecGuard (p : At) (s : State) : Guard :=
  match (s.cell p.cell).vguard with
  | some (b, g) =>
    if b = p.beat then
      { skip := g.extractLsb' 12 3, chkCtr := g.extractLsb' 8 4, chkAdd := g.extractLsb' 5 3,
        sigEn := g.getLsbD 4, sigCtr := g.extractLsb' 0 4 }
    else Guard.none
  | none => Guard.none

/-- A vector issue of latency `lat` (R110, R129, R141): the guard that `VGUARD` gave for this beat; the
instruction's effect where the issue runs; its signal in cycle t + lat unless its check failed. -/
def State.vecBody (p : At) (lat : Nat) (body : State → State) (skipped : State → State) (s : State) : State :=
  let g := s.vecGuard p
  let (v, s) := s.guarded p.cell g
  match v with
  | .run => (body s).onCell p.cell (Cell.signalAt (p.beat + lat) (Guard.signal g))
  | .skipped => (skipped s).onCell p.cell (Cell.signalAt (p.beat + lat) (Guard.signal g))
  | .failed => s

/-- A vector issue. -/
def vecIssue (p : At) (lat : Nat) (body : State → State) (skipped : State → State) (s : State) : Out :=
  issue p (State.vecBody p lat body skipped) s

/-- A vector issue whose suppression leaves nothing behind. -/
def vecOp (p : At) (lat : Nat) (f : Cell → Cell) (s : State) : Out :=
  vecIssue p lat (fun s => s.onCell p.cell f) (fun s => s) s

/-- Flags by lane, as the 320 sticky bits (R107). -/
def laneFlagBits (fs : List AFlags) : BitVec 320 :=
  BitVec.ofNat 320 (fs.foldr (fun f n => f.toNat + 32 * n) 0)

/-- Every flag of a list of flags. -/
def orFlags (fs : List AFlags) : AFlags := fs.foldl (fun a f => a ||| f) 0

/-- A vector result of latency `lat`: the lanes of the mask, and their flags, which reach the cell at once
and the sticky lane flags with the result (R110, R121, R130). -/
def Cell.vecResult (t lat : Nat) (vd : BitVec 5) (mask : BitVec 64) (lanes : List (BitVec 32))
    (fs : List AFlags) (poison : Bool) (c : Cell) : Cell :=
  let gated := fs.mapIdx fun i f => if mask.getLsbD i then f else 0
  let f := orFlags gated
  let c := c.land (t + lat) (.vreg vd mask (ofLanes lanes) poison)
  let c := if f = 0 then c else c.land (t + lat) (.flags (laneFlagBits gated))
  c.addFlags f

/-- Operand b of an issue: a register, or the value of a scalar register in every lane (R113). -/
def Cell.bLane (c : Cell) (b : BSrc) (i : Nat) : BitVec 32 :=
  match b with
  | .reg vb => lane (c.vreg vb) i
  | .scalar sn => c.sreg sn

/-- The value of `Sn`; 0 where the issue names no scalar (R113), as an `MVL` may, which R115 does not refuse (DESIGN CHOICE,
assumption 196). -/
def Cell.bScalar (c : Cell) (b : BSrc) : BitVec 32 :=
  match b with
  | .reg _ => 0
  | .scalar sn => c.sreg sn

/-- A BF16 half of operand b: of the lane, or bits [15:0] of the scalar in both halves (R116). -/
def Cell.bHalf (c : Cell) (b : BSrc) (i h : Nat) : Nat :=
  match b with
  | .reg vb => ((lane (c.vreg vb) i).extractLsb' (16 * h) 16).toNat
  | .scalar sn => ((c.sreg sn).extractLsb' 0 16).toNat

/-- Operand b's register was made from poisoned data (R50). -/
def Cell.bPoison (c : Cell) (b : BSrc) : Bool :=
  match b with
  | .reg vb => c.vpoison.getLsbD vb.toNat
  | .scalar _ => false

/-- An operation of the floating-point groups on the halves or the whole of each lane, with types FP32 and
BF16 (R116, R117). -/
def fpOp (p : At) (o : VOp) (lat : Nat) (useD : Bool) (f : Fmt → Nat → Nat → Nat → Nat × AFlags)
    (s : State) : Out :=
  if o.ty = .int32 then issue p (fun s => s) s
  else vecOp p lat (fun c =>
    let a := c.vreg o.va
    let d := c.vreg o.vd
    let rs : List (BitVec 32 × AFlags) := (List.range 64).map fun i =>
      if o.ty = .bf16 then
        let half (h : Nat) : Nat × AFlags :=
          f .bf16 ((lane a i).extractLsb' (16 * h) 16).toNat (c.bHalf o.b i h)
            ((lane d i).extractLsb' (16 * h) 16).toNat
        let x := half 0
        let y := half 1
        (BitVec.ofNat 32 (x.1 + 65536 * y.1), x.2 ||| y.2)
      else
        let r := f .fp32 (lane a i).toNat (c.bLane o.b i).toNat (lane d i).toNat
        (BitVec.ofNat 32 r.1, r.2)
    let poison := c.vpoison.getLsbD o.va.toNat || c.bPoison o.b || (useD && c.vpoison.getLsbD o.vd.toNat)
    c.vecResult p.beat lat o.vd (c.mreg o.mask) (rs.map (·.1)) (rs.map (·.2)) poison) s

/-- An operation on two exact values, rounded once (R116). -/
def rounded2 (g : Fl → Fl → Fl) (f : Fmt) (a b _d : Nat) : Nat × AFlags :=
  f.round (g (f.decode a) (f.decode b))

/-- A change of the sign bit of a value that is not NaN (R117). -/
def signOp (g : Bool → Bool) (f : Fmt) (a _b _d : Nat) : Nat × AFlags :=
  if (f.decode a).isNan then (f.nanCode, fInvalid)
  else
    let h := 2 ^ (f.width - 1)
    (f.signed (g (decide (h ≤ a))) (a % h), 0)

/-- `VNOP`: does nothing (R114). -/
def execVnop (p : At) (s : State) : Out := issue p (fun s => s) s

/-- `VADD`: a + b (R116). -/
def execVadd (p : At) (o : VOp) (s : State) : Out := fpOp p o 4 false (rounded2 Fl.add) s

/-- `VSUB`: a − b (R116). -/
def execVsub (p : At) (o : VOp) (s : State) : Out :=
  fpOp p o 4 false (rounded2 fun x y => x.add y.negate) s

/-- `VMUL`: a × b (R116). -/
def execVmul (p : At) (o : VOp) (s : State) : Out := fpOp p o 4 false (rounded2 Fl.mul) s

/-- `VFMA`: a × b + d with one rounding; `vd` is read at issue (R116). -/
def execVfma (p : At) (o : VOp) (s : State) : Out :=
  fpOp p o 4 true (fun f a b d => f.round (((f.decode a).mul (f.decode b)).add (f.decode d))) s

/-- `VMAX`: max(a, b) (R117). -/
def execVmax (p : At) (o : VOp) (s : State) : Out := fpOp p o 2 false (rounded2 Fl.max) s

/-- `VMIN`: min(a, b) (R117). -/
def execVmin (p : At) (o : VOp) (s : State) : Out := fpOp p o 2 false (rounded2 Fl.min) s

/-- `VABS`: |a| (R117). -/
def execVabs (p : At) (o : VOp) (s : State) : Out := fpOp p { o with b := .scalar 0 } 2 false (signOp fun _ => false) s

/-- `VNEG`: −a (R117). -/
def execVneg (p : At) (o : VOp) (s : State) : Out := fpOp p { o with b := .scalar 0 } 2 false (signOp not) s

/-- A function of R118 on FP32 lanes; another type is no permitted encoding and does nothing. -/
def fnOp (p : At) (o : VOp) (g : Fl → Fl) (zeroOverflows : Bool) (s : State) : Out :=
  if o.ty ≠ .fp32 then issue p (fun s => s) s
  else vecOp p 6 (fun c =>
    let rs := (List.range 64).map fun i => fnFp32 g zeroOverflows (lane (c.vreg o.va) i)
    c.vecResult p.beat 6 o.vd (c.mreg o.mask) (rs.map fun r => BitVec.ofNat 32 r.1) (rs.map (·.2))
      (c.vpoison.getLsbD o.va.toNat)) s

/-- `EXP2`: 2^a (R118). -/
def execExp2 (p : At) (o : VOp) (s : State) : Out := fnOp p o flExp2 false s
/-- `LOG2`: log2 a (R118). -/
def execLog2 (p : At) (o : VOp) (s : State) : Out := fnOp p o flLog2 true s
/-- `RCP`: 1 ÷ a (R118). -/
def execRcp (p : At) (o : VOp) (s : State) : Out := fnOp p o flRcp true s
/-- `RSQRT`: 1 ÷ √a (R118). -/
def execRsqrt (p : At) (o : VOp) (s : State) : Out := fnOp p o flRsqrt true s
/-- `SIGM`: 1 ÷ (1 + e^−a) (R118). -/
def execSigm (p : At) (o : VOp) (s : State) : Out := fnOp p o flSigm false s
/-- `TANH`: tanh a (R118). -/
def execTanh (p : At) (o : VOp) (s : State) : Out := fnOp p o flTanh false s

/-! ### Reductions (R119) -/

/-- One level of the tree: neighbours combined. -/
def combinePairs (f : Nat → Nat → Nat × AFlags) : List Nat → List Nat × AFlags
  | x :: y :: r =>
    let z := f x y
    let t := combinePairs f r
    (z.1 :: t.1, z.2 ||| t.2)
  | r => (r, 0)

/-- The six levels of the tree (R119). -/
def reduceTree (f : Nat → Nat → Nat × AFlags) : Nat → List Nat × AFlags → List Nat × AFlags
  | 0, r => r
  | n + 1, (xs, fl) =>
    let t := combinePairs f xs
    reduceTree f n (t.1, fl ||| t.2)

/-- A reduction over the 64 lanes: a lane whose mask bit is clear contributes the identity; the result goes
to the lanes of the mask, all flags to lane 0 (R119, R130). -/
def reduceOp (p : At) (o : VOp) (leaf : Nat → Nat) (ident : Nat) (g : Fl → Fl → Fl) (s : State) : Out :=
  if o.ty ≠ .fp32 then issue p (fun s => s) s
  else vecOp p 8 (fun c =>
    let mask := c.mreg o.mask
    let xs := (List.range 64).map fun i =>
      if mask.getLsbD i then leaf (lane (c.vreg o.va) i).toNat else ident
    let (r, f) := reduceTree (fun x y => rounded2 g .fp32 x y 0) 6 (xs, 0)
    let v := BitVec.ofNat 32 (r.getD 0 0)
    let c := c.land (p.beat + 8) (.vreg o.vd mask (ofLanes (List.replicate 64 v)) (c.vpoison.getLsbD o.va.toNat))
    let c := if f = 0 then c else c.land (p.beat + 8) (.flags (laneFlagBits [f]))
    c.addFlags f) s

/-- `RSUM`: the sum over lanes (R119). -/
def execRsum (p : At) (o : VOp) (s : State) : Out := reduceOp p o id 0x80000000 Fl.add s
/-- `RMAX`: the maximum over lanes (R119). -/
def execRmax (p : At) (o : VOp) (s : State) : Out := reduceOp p o id 0xFF800000 Fl.max s
/-- `RMIN`: the minimum over lanes (R119). -/
def execRmin (p : At) (o : VOp) (s : State) : Out := reduceOp p o id 0x7F800000 Fl.min s
/-- `RAMAX`: the maximum of |a| over lanes (R119). -/
def execRamax (p : At) (o : VOp) (s : State) : Out := reduceOp p o (· % 0x80000000) 0 Fl.max s

/-! ### Integers, logic and moves (R120) -/

/-- An exact operation on each lane (R120). -/
def laneOp (p : At) (o : VOp) (lat : Nat) (ok : Bool) (g : Cell → Nat → BitVec 32) (s : State) : Out :=
  if !ok then issue p (fun s => s) s
  else vecOp p lat (fun c =>
    c.vecResult p.beat lat o.vd (c.mreg o.mask) ((List.range 64).map (g c)) []
      (c.vpoison.getLsbD o.va.toNat || c.bPoison o.b)) s

/-- An INT32 operation on each lane. -/
def intOp (p : At) (o : VOp) (f : BitVec 32 → BitVec 32 → BitVec 32) (s : State) : Out :=
  laneOp p o 2 (decide (o.ty = .int32)) (fun c i => f (lane (c.vreg o.va) i) (c.bLane o.b i)) s

/-- `IADD`: a + b mod 2^32. -/
def execIadd (p : At) (o : VOp) (s : State) : Out := intOp p o (fun a b => a + b) s
/-- `ISUB`: a − b mod 2^32. -/
def execIsub (p : At) (o : VOp) (s : State) : Out := intOp p o (fun a b => a - b) s
/-- `VAND`: a AND b. -/
def execVand (p : At) (o : VOp) (s : State) : Out := intOp p o (fun a b => a &&& b) s
/-- `VOR`: a OR b. -/
def execVor (p : At) (o : VOp) (s : State) : Out := intOp p o (fun a b => a ||| b) s
/-- `VXOR`: a XOR b. -/
def execVxor (p : At) (o : VOp) (s : State) : Out := intOp p o (fun a b => a ^^^ b) s
/-- `VSHL`: a shifted left by b mod 32. -/
def execVshl (p : At) (o : VOp) (s : State) : Out := intOp p o (fun a b => a <<< (b.toNat % 32)) s
/-- `VSHR`: a shifted right by b mod 32, arithmetic where `mod` bit 0 is 1. -/
def execVshr (p : At) (o : VOp) (s : State) : Out :=
  intOp p o (fun a b => if o.mod.getLsbD 0 then a.sshiftRight (b.toNat % 32) else a >>> (b.toNat % 32)) s

/-- `VSEL`: lanes where the mask is set take a, others take b; every lane is written (R121). A scalar operand is all 32 bits
of `Sn` whatever the type (R113; DEDUCED, assumption 204). -/
def execVsel (p : At) (o : VOp) (s : State) : Out :=
  vecOp p 2 (fun c =>
    let mask := c.mreg o.mask
    let ls := (List.range 64).map fun i =>
      if mask.getLsbD i then lane (c.vreg o.va) i else c.bLane o.b i
    c.land (p.beat + 2) (.vreg o.vd (BitVec.allOnes 64) (ofLanes ls)
      (c.vpoison.getLsbD o.va.toNat || c.bPoison o.b))) s

/-- `VMOV`: a. -/
def execVmov (p : At) (o : VOp) (s : State) : Out :=
  laneOp p { o with b := .scalar 0 } 2 true (fun c i => lane (c.vreg o.va) i) s

/-- `VBCAST`: `Sn` in every lane; `scalar` must be 1. -/
def execVbcast (p : At) (o : VOp) (s : State) : Out :=
  match o.b with
  | .reg _ => issue p (fun s => s) s
  | .scalar sn => vecOp p 2 (fun c =>
      c.vecResult p.beat 2 o.vd (c.mreg o.mask) (List.replicate 64 (c.sreg sn)) [] false) s

/-- `VPERM`: lane i takes lane (b_i mod 64) of a. -/
def execVperm (p : At) (o : VOp) (s : State) : Out :=
  laneOp p o 3 (decide (o.ty = .int32)) (fun c i => lane (c.vreg o.va) ((c.bLane o.b i).toNat % 64)) s

/-- `VIOTA`: lane i takes `Sn` + i; `scalar` must be 1. -/
def execViota (p : At) (o : VOp) (s : State) : Out :=
  match o.b with
  | .reg _ => issue p (fun s => s) s
  | .scalar sn => if o.ty ≠ .int32 then issue p (fun s => s) s else vecOp p 3 (fun c =>
      c.vecResult p.beat 3 o.vd (c.mreg o.mask)
        ((List.range 64).map fun i => c.sreg sn + BitVec.ofNat 32 i) [] false) s

/-! ### Masks (R122) -/

/-- A mask from a rule for each lane. -/
def maskOf (f : Nat → Bool) : BitVec 64 :=
  BitVec.ofNat 64 ((List.range 64).foldr (fun i n => (if f i then 1 else 0) + 2 * n) 0)

/-- Mask register named by `vd`[2:0]. -/
def maskDest (vd : BitVec 5) : BitVec 3 := vd.extractLsb' 0 3

/-- `VCMP`: lane i is set when the condition in `mod`[1:0] holds; a lane whose mask bit is clear is written
0 (R122). -/
def execVcmp (p : At) (o : VOp) (s : State) : Out :=
  if o.ty = .bf16 then issue p (fun s => s) s
  else vecOp p 2 (fun c =>
    let cond (i : Nat) : Bool :=
      let a := lane (c.vreg o.va) i
      let b := c.bLane o.b i
      let m := (o.mod.extractLsb' 0 2).toNat
      if o.ty = .int32 then
        (match m with
          | 0 => decide (a = b)
          | 1 => a.slt b
          | 2 => a.sle b
          | _ => false)
      else
        let x := Fmt.fp32.decode a.toNat
        let y := Fmt.fp32.decode b.toNat
        let nan := x.isNan || y.isNan
        match m with
        | 0 => !nan && !x.less false y && !y.less false x
        | 1 => x.less false y
        | 2 => !nan && !y.less false x
        | _ => nan
    let mask := c.mreg o.mask
    c.land (p.beat + 2) (.mask (maskDest o.vd) (BitVec.allOnes 64)
      (maskOf fun i => mask.getLsbD i && cond i))) s

/-- `MLOG`: AND, OR, XOR or AND NOT of two masks (R122). -/
def execMlog (p : At) (o : VOp) (s : State) : Out :=
  match o.b with
  | .scalar _ => issue p (fun s => s) s
  | .reg vb => vecOp p 1 (fun c =>
      let a := c.mreg (maskDest o.va)
      let b := c.mreg (maskDest vb)
      let r := match (o.mod.extractLsb' 0 2).toNat with
        | 0 => a &&& b
        | 1 => a ||| b
        | 2 => a ^^^ b
        | _ => a &&& ~~~ b
      c.land (p.beat + 1) (.mask (maskDest o.vd) (BitVec.allOnes 64) r)) s

/-- `MVL`: lane i is set when `Sn` + i < `VLn`, compared unsigned (R122); an `Sn` not named counts as 0 (DESIGN CHOICE,
assumption 196). -/
def execMvl (p : At) (o : VOp) (s : State) : Out :=
  vecOp p 1 (fun c =>
    let n := (c.bScalar o.b).toNat
    let l := (c.vlen (o.mod.extractLsb' 0 4)).toNat
    c.land (p.beat + 1) (.mask (maskDest o.vd) (BitVec.allOnes 64)
      (maskOf fun i => decide (n + i < l)))) s

/-- `MFLG`: lane i is set when flag `mod`[2:0] is set in lane i; with `mod`[3] every lane flag is then
cleared (R122). A flag number of 5 to 7 names no flag and sets no lane; the clear takes the flags of an earlier issue that
land in its cycle too (DESIGN CHOICE, assumption 196). -/
def execMflg (p : At) (o : VOp) (s : State) : Out :=
  vecOp p 1 (fun c =>
    let f := (o.mod.extractLsb' 0 3).toNat
    let c' := c.land (p.beat + 1) (.mask (maskDest o.vd) (BitVec.allOnes 64)
      (maskOf fun i => decide (f < 5) && c.laneFlags.getLsbD (5 * i + f)))
    if o.mod.getLsbD 3 then c'.land (p.beat + 1) .clearFlags else c') s

/-! ### Conversions (R123 to R126) -/

/-- FP32 element k of consecutive registers from `va` on (R123). -/
def Cell.srcElem (c : Cell) (va : BitVec 5) (k : Nat) : BitVec 32 :=
  lane (c.vreg (va + BitVec.ofNat 5 (k / 64))) (k % 64)

/-- Some of `n` registers from `va` on was made from poisoned data. -/
def Cell.srcPoison (c : Cell) (va : BitVec 5) (n : Nat) : Bool :=
  (List.range n).any fun i => c.vpoison.getLsbD (va + BitVec.ofNat 5 i).toNat

/-- Codes of `w` bits packed into a register (R109). -/
def packCodes (w : Nat) (cs : List Nat) : BitVec 2048 :=
  BitVec.ofNat 2048 (cs.foldr (fun c n => c + 2 ^ w * n) 0)

/-- The flags of elements, gathered by the lane of the result that holds them (R130). -/
def laneGather (per : Nat) (fs : List AFlags) : List AFlags :=
  (List.range 64).map fun i => orFlags ((fs.drop (per * i)).take per)

/-- A converted result: the register, its lanes' flags and the cell's flags. -/
def Cell.convResult (t lat : Nat) (vd : BitVec 5) (w : Nat) (rs : List (Nat × AFlags)) (poison : Bool)
    (c : Cell) : Cell :=
  let fs := laneGather (32 / w) (rs.map (·.2))
  let f := orFlags fs
  let c := c.land (t + lat) (.vreg vd (BitVec.allOnes 64) (packCodes w (rs.map (·.1))) poison)
  let c := if f = 0 then c else c.land (t + lat) (.flags (laneFlagBits fs))
  c.addFlags f

/-- The value divided by 2^e: exact, but a subnormal quotient is rounded to FP32 (R124). -/
def scaleDown (e : Int) (x : Fl) : Fl × AFlags :=
  match x with
  | .fin n m k =>
    let y := Fl.fin n m (k - e)
    if m ≠ 0 ∧ lgVal m (k - e) < -126 then
      let (c, f) := Fmt.fp32.round y
      (Fmt.fp32.decode c, f)
    else (y, 0)
  | x => (x, 0)

/-- The largest finite magnitude among FP32 codes, +0 when there is none (R101). -/
def largestFinite (xs : List (BitVec 32)) : BitVec 32 :=
  BitVec.ofNat 32 (xs.foldl (fun m x =>
    let a := x.toNat % 0x80000000
    if a < 0x7F800000 then max m a else m) 0)

/-- The tracker of a cell (R101). -/
def Cell.tracker (c : Cell) (n : Nat) : Tracker := Sparse.get Tracker.reset c.trackers n

/-- A conversion of `n` registers of FP32 elements to codes of `f` (R123, R124). -/
def convert (p : At) (o : COp) (f : Fmt) (regs : Nat) (scales : Bool) (s : State) : Out :=
  vecOp p 3 (fun c =>
    let xs := (List.range (64 * regs)).map (c.srcElem o.va)
    let tr := c.tracker o.tracker.toNat
    let tracked := scales && o.tracked
    let rs := xs.map fun x =>
      let (y, f1) := if tracked then scaleDown tr.e (Fmt.fp32.decode x.toNat) else (Fmt.fp32.decode x.toNat, 0)
      let (k, f2) := f.round y
      (k, f1 ||| f2)
    let c := c.convResult p.beat 3 o.vd f.width rs (c.srcPoison o.va regs)
    if tracked then
      let a := largestFinite xs
      let tr' : Tracker := { tr with amax := if tr.amax < a then a else tr.amax }
      { c with trackers := Sparse.set Tracker.reset c.trackers o.tracker.toNat tr' }
    else c) s

/-- `VCVT.BF16`: 128 FP32 to BF16 (R123). -/
def execVcvtBf16 (p : At) (o : COp) (s : State) : Out := convert p o .bf16 2 false s
/-- `VCVT.FP16`: 128 FP32 to FP16 (R123). -/
def execVcvtFp16 (p : At) (o : COp) (s : State) : Out := convert p o .fp16 2 false s
/-- `VCVT.FP8`: 256 FP32 to E4M3 or E5M2, divided by the tracker's scale where tracked (R123, R124). -/
def execVcvtFp8 (p : At) (o : COp) (s : State) : Out :=
  convert p o (if o.fmt = 1 then .e5m2 else .e4m3) 4 true s
/-- `VCVT.FP4`: 512 FP32 to FP4 E2M1, divided by the tracker's scale where tracked (R123, R124). -/
def execVcvtFp4 (p : At) (o : COp) (s : State) : Out := convert p o .fp4 8 true s

/-- A quantised block (R87): its scale, its four micro-shifts as a byte, its codes with their flags. -/
structure QBlock where
  /-- block scale E -/
  scale : Nat
  /-- micro-shift byte -/
  shifts : Nat
  /-- element codes and flags -/
  codes : List (Nat × AFlags)
  deriving DecidableEq, Repr

/-- The finite value of largest magnitude in a list: its mantissa and exponent; mantissa 0 when all are
zero (R87). -/
def largest (xs : List Fl) : Nat × Int :=
  xs.foldl (fun b x => match x with
    | .fin _ m e => if (Fl.fin false b.1 b.2).less false (.fin false m e) then (m, e) else b
    | _ => b) (0, 0)

/-- The quantisation of a block of 32 values to an MX format or to SSF4 (R87). A block with a value that is not finite raises
invalid with each of its 32 codes, in the lanes that hold them (DESIGN CHOICE, assumption 204). -/
def quantBlock (f : Fmt) (ssf4 : Bool) (xs : List Fl) : QBlock :=
  if xs.any fun x => !x.isFin then ⟨0xFF, 0, xs.map fun _ => (0, fInvalid)⟩
  else if xs.all (·.isZero) then ⟨0, 0, xs.map fun x => (f.signed x.neg? 0, 0)⟩
  else
    let a := largest xs
    let l := lgVal a.1 a.2
    let e0 := l - f.emax + 127
    let e : Int := max 0 (min e0 254)
    let shift (j : Nat) : Nat :=
      if !ssf4 then 0
      else
        let b := largest ((xs.drop (8 * j)).take 8)
        if b.1 = 0 then 3 else min 3 (l - lgVal b.1 b.2).toNat
    let ms := (List.range 4).map shift
    let extra : AFlags := if 254 < e0 then fSaturated else 0
    ⟨e.toNat, ms.foldr (fun m n => m + 4 * n) 0,
      xs.mapIdx fun i x =>
        let r := f.round (x.shift (-(e - 127 - (ms.getD (i / 8) 0 : Nat))))
        (r.1, (r.2 &&& ~~~ fSaturated) ||| extra)⟩

/-- Element format of a `VQBLK` form (R125). -/
def qblkFmt (fmt : BitVec 3) : Fmt :=
  match fmt.toNat with
  | 2 => .e4m3
  | 3 => .e5m2
  | _ => .fp4

/-- `VQBLK`: FP32 to MX or SSF4 blocks, the codes in `vd` and the scale and micro-shift bytes in `vd`+1
(R125); a reserved form does nothing. -/
def execVqblk (p : At) (o : COp) (s : State) : Out :=
  if o.fmt = 0 ∨ 4 < o.fmt.toNat then issue p (fun s => s) s
  else vecOp p 6 (fun c =>
    let f := qblkFmt o.fmt
    let regs := if f = .fp4 then 8 else 4
    let xs := (List.range (64 * regs)).map fun k => Fmt.fp32.decode (c.srcElem o.va k).toNat
    let bs := (List.range (2 * regs)).map fun b => quantBlock f (decide (o.fmt = 4)) ((xs.drop (32 * b)).take 32)
    let poison := c.srcPoison o.va regs
    let scales := bs.map (fun b => BitVec.ofNat 8 b.scale)
    let shifts := if o.fmt = 4 then bs.map (fun b => BitVec.ofNat 8 b.shifts) else []
    let c := c.convResult p.beat 6 o.vd f.width (bs.flatMap (·.codes)) poison
    c.land (p.beat + 6) (.vreg (o.vd + 1) (BitVec.allOnes 64)
      (BitVec.ofNat 2048 (leNat (scales ++ shifts))) poison)) s

/-- Source format of `VUNPK` (R126). -/
def unpkFmt (fmt : BitVec 3) : Option Fmt :=
  match fmt.toNat with
  | 0 => some .bf16 | 1 => some .fp16 | 2 => some .e4m3 | 3 => some .e5m2 | 4 => some .fp4
  | _ => none

/-- `VUNPK`: 64 elements widened to FP32 exactly (R126). The flags of an element go to the lane of its result (R130; DEDUCED,
assumption 204). -/
def execVunpk (p : At) (o : COp) (s : State) : Out :=
  match unpkFmt o.fmt with
  | none => issue p (fun s => s) s
  | some f => vecOp p 3 (fun c =>
      let w := f.width
      let rs := (List.range 64).map fun i =>
        let k := 64 * o.part.toNat + i
        Fmt.fp32.round (f.decode ((c.vreg o.va).extractLsb' (w * k) w).toNat)
      c.vecResult p.beat 3 o.vd (BitVec.allOnes 64) (rs.map fun r => BitVec.ofNat 32 r.1) (rs.map (·.2))
        (c.vpoison.getLsbD o.va.toNat)) s

/-! ### Memory (R127, R128) -/

/-- Address of a load or store (R127). -/
def Cell.vecAddr (c : Cell) (sbase : BitVec 4) (offset : Nat) : Nat :=
  (c.sreg sbase + BitVec.ofNat 32 (64 * offset)).toNat

/-- The address lies on a line and its `n` bytes in the SRAM (R127). -/
def addrOk (a n : Nat) : Bool := decide (a % 64 = 0) && decide (a + n ≤ sramBytes)

/-- The post-increment of a load or store, seen from the next cycle on (R110, R127). -/
def Cell.postInc (t : Nat) (o : LOp) (c : Cell) : Cell :=
  match o.post with
  | .none => c
  | .up => c.land (t + 1) (.scalar o.sbase (c.sreg o.sbase + 256))
  | .down => c.land (t + 1) (.scalar o.sbase (c.sreg o.sbase - 256))

/-- `VLD`: 256 bytes from SRAM into the lanes of the mask (R127); R121 speaks of the mask of arithmetic operations and of
`VST` alone (DESIGN CHOICE, assumption 178). A dropped access still takes its post-increment and gives its signal (DESIGN
CHOICE, assumption 178). -/
def execVld (p : At) (o : LOp) (s : State) : Out :=
  vecIssue p 4 (fun s =>
    let c := s.cell p.cell
    let a := c.vecAddr o.sbase o.offset.toNat
    let s := s.onCell p.cell (Cell.postInc p.beat o)
    if !addrOk a 256 then s.barrierFault p.cell false
    else
      let (ok, lost, c) := (s.cell p.cell).useBanks p.beat (banksOf a 256) 1
      let s := s.onCell p.cell fun _ => c
      let s := (List.range lost).foldl (fun s _ => s.barrierFault p.cell false) s
      if !ok then s.barrierFault p.cell false
      else
        (s.onCell p.cell fun c => c.land (p.beat + 4) (.vreg o.v (c.mreg o.mask)
          (BitVec.ofNat 2048 (leNat (c.sramRead a 256)))
          (c.poisonedAt a 256 || decide (p.read = .uncorrectable)))).onCell p.cell
          fun c => if p.read = .corrected then { c with eccSram := satInc c.eccSram } else c)
    (fun s => s) s

/-- The stores of the lanes of a mask, 4 bytes each; one store of 256 bytes under a full mask (R121,
R127). -/
def State.storeLanes (logical cycle a : Nat) (mask : BitVec 64) (v : BitVec 2048) (poison : Bool)
    (s : State) : State :=
  if mask = BitVec.allOnes 64 then s.sramStore logical cycle a (bvBytes 256 v) poison 1
  else
    let (ok, lost, c) := (s.cell logical).useBanks cycle (banksOf a 256) 1
    let s := s.onCell logical fun _ => c
    let s := (List.range lost).foldl (fun s _ => s.barrierFault logical false) s
    if !ok then s.barrierFault logical false
    else (List.range 64).foldl (fun s i =>
      if mask.getLsbD i then
        s.onCell logical (Cell.land (cycle + 1) (.sram (a + 4 * i) (bvBytes 4 (lane v i)) poison 1))
      else s) s

/-- `VST`: 256 bytes to SRAM in cycle t + 2, part of the open tile stream where there is one (R127,
R128). -/
def execVst (p : At) (o : LOp) (s : State) : Out :=
  vecIssue p 2 (fun s =>
    let c := s.cell p.cell
    let a := c.vecAddr o.sbase o.offset.toNat
    let v := c.vreg o.v
    let s := s.onCell p.cell (Cell.postInc p.beat o)
    if !addrOk a 256 then s.barrierFault p.cell false
    else
      let s := s.onCell p.cell fun c => match c.stream with
        | none => c
        | some t => { c with stream := some { t with next := t.next + 256, crc := crcBytes t.crc (bvBytes 256 v) } }
      s.storeLanes p.cell (p.beat + 2) a (c.mreg o.mask) v (c.vpoison.getLsbD o.v.toNat))
    (fun s => s) s

/-- `VSTH` with `close` 0: a tile stream opens; nothing is written (R128). -/
def execVsthOpen (p : At) (o : HOp) (s : State) : Out :=
  vecIssue p 2 (fun s =>
    let a := (s.cell p.cell).vecAddr o.sbase o.offset.toNat
    s.onCell p.cell fun c => { c with stream := some { base := a, next := a + 64, crc := 0xFFFFFFFF } })
    (fun s => s) s

/-- FP32 of 2^e for −126 ≤ e ≤ 127 (R101). -/
def pow2Fp32 (e : Int) : Nat := ((e + 127).toNat % 256) * 2 ^ 23

/-- `VSTH` with `close` 1, which without an open stream writes at its own address, with the CRC of no bytes (DESIGN
CHOICE, assumption 179): the header with the stream's CRC-32C, and the tracker's scale where tracked, is
written in cycle t + 2 (R128); a suppressed close writes nothing and the stream counts as closed
(R129). -/
def execVsthClose (p : At) (o : HOp) (s : State) : Out :=
  vecIssue p 2 (fun s =>
    let c := s.cell p.cell
    let a := match c.stream with
      | some t => t.base
      | none => c.vecAddr o.sbase o.offset.toNat
    let crc := match c.stream with
      | some t => ~~~ t.crc
      | none => crc32c []
    let h := (bvBytes 256 (c.vreg o.vs)).take 64
    let scale := if o.tracked then leBytes 4 (pow2Fp32 (c.tracker o.tracker.toNat).e) else (h.drop 12).take 4
    let h := h.take 12 ++ scale ++ bvBytes 4 crc ++ h.drop 20
    let s := s.onCell p.cell fun c => { c with stream := none }
    if !addrOk a 64 then s.barrierFault p.cell false
    else s.sramStore p.cell (p.beat + 2) a h (c.vpoison.getLsbD o.vs.toNat) 1)
    (fun s => s.onCell p.cell fun c => { c with stream := none }) s

/-! ### Scalars (R114, R131) -/

/-- A scalar result, seen from the next cycle on (R110). -/
def scalarOp (p : At) (o : SOp) (f : Cell → BitVec 32) (s : State) : Out :=
  vecOp p 1 (fun c => c.land (p.beat + 1) (.scalar o.sd (f c))) s

/-- `SLUI`: `Sd` = `imm` × 2^16. -/
def execSlui (p : At) (o : SOp) (s : State) : Out := scalarOp p o (fun _ => o.imm ++ (0 : BitVec 16)) s

/-- `SLLI`: `Sd` = (`Sd` AND 0xFFFF_0000) OR `imm`. -/
def execSlli (p : At) (o : SOp) (s : State) : Out :=
  scalarOp p o (fun c => (c.sreg o.sd &&& 0xFFFF0000) ||| o.imm.setWidth 32) s

/-- `SMOV`: `Sd` from a valid length or a lane (R131); a reserved selector does nothing. -/
def execSmov (p : At) (o : SOp) (s : State) : Out :=
  match (o.sel.extractLsb' 4 2).toNat with
  | 0 => scalarOp p o (fun c => (c.vlen (o.imm.extractLsb' 0 4)).setWidth 32) s
  | 1 => scalarOp p o (fun c => lane (c.vreg (o.imm.extractLsb' 11 5)) (o.imm.extractLsb' 0 6).toNat) s
  | _ => issue p (fun s => s) s

/-- `SADD`: `Sd` = S[`sel`[3:0]] + `imm`, sign-extended, mod 2^32. -/
def execSadd (p : At) (o : SOp) (s : State) : Out :=
  scalarOp p o (fun c => c.sreg (o.sel.extractLsb' 0 4) + o.imm.signExtend 32) s

end Sys2Proof.Machine
end

