-- ==== Sys2Proof/Machine/Ingest.lean ====
section
/-!
DEFINITION. The ingest engine: manifests (R241 to R244), and the tiles that it makes of source bytes (R245 to
R247).
-/
namespace Sys2Proof.Machine

/-! ### The manifest (R241 to R243) -/

/-- A tensor-table entry (R242). -/
structure Tensor where
  /-- `tensor` -/
  id : BitVec 32
  /-- `source_format` -/
  src : Nat
  /-- `target_format` -/
  tgt : Nat
  /-- `shape` -/
  shape : Nat
  /-- `role` -/
  role : Nat
  /-- `rows` -/
  rows : Nat
  /-- `cols` -/
  cols : Nat
  /-- `image_offset` -/
  img : Nat
  /-- `stream_offset` -/
  str : Nat
  /-- the reserved bytes are zero -/
  clean : Bool
  deriving DecidableEq, Repr

/-- A shard-table entry (R243). -/
structure ShardEntry where
  /-- `shard` -/
  index : Nat
  /-- `compression` -/
  comp : Nat
  /-- `stream_offset` -/
  off : Nat
  /-- `stream_length` -/
  len : Nat
  /-- `shard_bytes` -/
  bytes : Nat
  /-- `digest` -/
  digest : BitVec 256
  /-- the reserved bytes are zero -/
  clean : Bool
  deriving DecidableEq, Repr

/-- Number of tensors of a manifest (R241). -/
def manTensorCount (m : List (BitVec 8)) : Nat := fieldAt m 22 2

/-- Number of shards of a manifest (R241). -/
def manShardCount (m : List (BitVec 8)) : Nat := fieldAt m 24 2

/-- `image_size` (R241). -/
def manImageSize (m : List (BitVec 8)) : Nat := fieldAt m 36 8

/-- `stream_size` (R241). -/
def manStreamSize (m : List (BitVec 8)) : Nat := fieldAt m 44 8

/-- The shard timeout in ticks (R241). -/
def manTimeout (m : List (BitVec 8)) : Nat :=
  if fieldAt m 28 8 = 0 then 30000000000 else fieldAt m 28 8

/-- `model_id` (R241). -/
def manModel (m : List (BitVec 8)) : BitVec 28 := BitVec.ofNat 28 (fieldAt m 12 4)

/-- `version` (R241). -/
def manVersion (m : List (BitVec 8)) : BitVec 8 := byteAt m 11

/-- The base that an adapter extends (R241). -/
def manBase (m : List (BitVec 8)) : Binding := ⟨BitVec.ofNat 28 (fieldAt m 16 4), byteAt m 20⟩

/-- The tensor table (R242). -/
def manTensors (m : List (BitVec 8)) : List Tensor :=
  (List.range (manTensorCount m)).map fun i =>
    let e := (m.drop (128 + 64 * i)).take 64
    { id := BitVec.ofNat 32 (fieldAt e 0 4), src := fieldAt e 4 1, tgt := fieldAt e 5 1, shape := fieldAt e 6 1,
      role := fieldAt e 7 1, rows := fieldAt e 8 4, cols := fieldAt e 12 4, img := fieldAt e 16 8,
      str := fieldAt e 24 8, clean := decide (fieldAt e 32 32 = 0) }

/-- The shard table (R243). -/
def manShards (m : List (BitVec 8)) : List ShardEntry :=
  (List.range (manShardCount m)).map fun i =>
    let e := (m.drop (128 + 64 * (manTensorCount m + i))).take 64
    { index := fieldAt e 0 4, comp := fieldAt e 4 1, off := fieldAt e 8 8, len := fieldAt e 16 4,
      bytes := fieldAt e 20 4, digest := BitVec.ofNat 256 (fieldAt e 32 32),
      clean := decide (fieldAt e 5 3 = 0) && decide (fieldAt e 24 8 = 0) }

/-- The tensor table with `stream_offset` left out (R262). -/
def manGeometry (m : List (BitVec 8)) : List (BitVec 8) :=
  (List.range (manTensorCount m)).flatMap fun i =>
    let e := (m.drop (128 + 64 * i)).take 64
    e.take 24 ++ e.drop 32

/-! ### The layout of a tensor (R246) -/

/-- The shape of a header code (R161). -/
def shapeOf (c : Nat) : Option Shape :=
  match c with
  | 1 => some .s16 | 2 => some .s64 | 3 => some .s256 | 4 => some .sa | _ => none

/-- Element format of a format code without bit 7 (R76). -/
def fmtOf (c : Nat) : Option Fmt :=
  match c with
  | 0x05 => some .fp32 | 0x06 => some .fp16 | c => operandFmt c

/-- The tensor is of role B (R242). -/
def Tensor.isB (t : Tensor) : Bool := decide (t.role = 2)

/-- N of the tensor's shape (R161). -/
def Tensor.n (t : Tensor) : Nat := ((shapeOf t.shape).map Shape.n).getD 64

/-- K of the tensor's shape (R161). -/
def Tensor.k (t : Tensor) : Nat := ((shapeOf t.shape).map Shape.k).getD 128

/-- K chunks of a role B tensor (R246). -/
def Tensor.chunks (t : Tensor) : Nat := ceilDiv t.cols t.k

/-- Tiles of the tensor (R246). -/
def Tensor.tiles (t : Tensor) : Nat := if t.isB then ceilDiv t.rows t.n * t.chunks else t.rows

/-- Payload bytes of one of its tiles (R83, R246). -/
def Tensor.payload (t : Tensor) : Nat :=
  if t.isB then payloadSize t.tgt (t.k * t.n)
  else pad64 (ceilDiv (t.cols * ((fmtOf t.tgt).map Fmt.width).getD 8) 8)

/-- Footprint of one of its tiles (R169). -/
def Tensor.foot (t : Tensor) : Nat := (64 + t.payload + 127) / 128 * 128

/-- Bytes of a source element; a pre-tiled source has none (R242). -/
def Tensor.elem (t : Tensor) : Nat := ((fmtOf t.src).map Fmt.width).getD 8 / 8

/-- The source is pre-tiled (R242). -/
def Tensor.pre (t : Tensor) : Bool := decide (t.src = 0x80)

/-- Bytes of a band of the source: the unit that no shard boundary cuts (R244). -/
def Tensor.band (t : Tensor) : Nat :=
  if t.pre then t.foot else if t.isB then t.n * t.cols * t.elem else t.cols * t.elem

/-- Bytes of the source of the tensor. -/
def Tensor.size (t : Tensor) : Nat := if t.pre then t.tiles * t.foot else t.rows * t.cols * t.elem

/-- Bands of the tensor. -/
def Tensor.bands (t : Tensor) : Nat := ceilDiv t.size t.band

/-- The tiles that a band makes. -/
def Tensor.bandTiles (t : Tensor) (j : Nat) : List Nat :=
  if t.pre || !t.isB then [j] else (List.range t.chunks).map fun k => j * t.chunks + k

/-- The shard that carries a byte of the stream (R243). -/
def shardOf (ss : List ShardEntry) (x : Nat) : Nat :=
  (ss.findIdx fun e => decide (e.off ≤ x) && decide (x < e.off + e.len))

/-- The shards whose tiles fall in a page of the image (R248). -/
def pageShards (m : List (BitVec 8)) (p : Nat) : List Nat :=
  ((manTensors m).flatMap fun t => (List.range t.bands).flatMap fun j =>
    if (t.bandTiles j).any fun i =>
        decide (t.img + i * t.foot < (p + 1) * pageBytes) && decide (p * pageBytes < t.img + (i + 1) * t.foot)
    then [shardOf (manShards m) (t.str + j * t.band)] else []).eraseDups

/-- Pages of the image. -/
def manPages (m : List (BitVec 8)) : Nat := ceilDiv (manImageSize m) pageBytes

/-! ### Examination of a manifest (R244) -/

/-- The header is in order (R241, R244). -/
def headerOk (m : List (BitVec 8)) (length : Nat) (adapter : Bool) (baseHeld : Bool) : Bool :=
  let id := fieldAt m 12 4
  decide (m.take 8 = [0x4A, 0x58, 0x4D, 0x41, 0x4E, 0x46, 0x53, 0x54]) && decide (fieldAt m 8 2 = 1) &&
  decide (byteAt m 10 = if adapter then 2 else 1) && decide (byteAt m 11 ≠ 0) &&
  decide (1 ≤ id) && decide (id < 2 ^ 28) &&
  (if adapter then decide (1 ≤ fieldAt m 21 1) && decide (fieldAt m 21 1 ≤ 64) && decide (fieldAt m 16 4 < 2 ^ 28) && baseHeld
   else decide (fieldAt m 16 4 = 0) && decide (byteAt m 20 = 0) && decide (byteAt m 21 = 0)) &&
  decide (1 ≤ manTensorCount m) && decide (1 ≤ manShardCount m) && decide (manShardCount m ≤ 1024) &&
  decide (fieldAt m 26 2 = 0) && decide (fieldAt m 28 8 ≤ 3600000000000) && decide (fieldAt m 56 72 = 0) &&
  decide (fieldAt m 52 4 = length) && decide (length = 128 + 64 * (manTensorCount m + manShardCount m))

/-- The source and target formats are a permitted pair for the role (R244). -/
def Tensor.pairOk (t : Tensor) : Bool :=
  (decide (t.src ∈ [0x02, 0x03, 0x04, 0x05, 0x06]) || t.pre) &&
    (if t.isB then operandOk t.tgt && (shapeOf t.shape).isSome
     else decide (t.role = 4) && decide (t.shape = 0) && decide (1 ≤ t.tgt) && decide (t.tgt ≤ 6))

/-- Two ranges overlap. -/
def overlaps (a la b lb : Nat) : Bool := decide (a < b + lb) && decide (b < a + la)

/-- A tensor entry is in order (R242, R244). -/
def tensorOk (m : List (BitVec 8)) (ts : List Tensor) (i : Nat) (t : Tensor) : Bool :=
  t.clean && t.pairOk && decide (1 ≤ t.rows) && decide (t.rows ≤ 2 ^ 24) && decide (1 ≤ t.cols) &&
  decide (t.cols ≤ 2 ^ 24) && decide (t.img % 128 = 0) && decide (t.img + t.tiles * t.foot ≤ manImageSize m) &&
  decide (t.str + t.size ≤ manStreamSize m) &&
  (ts.mapIdx fun j u => decide (j = i) ||
    !(overlaps t.img (t.tiles * t.foot) u.img (u.tiles * u.foot) || overlaps t.str t.size u.str u.size)).all id

/-- A shard entry is in order: it follows the one before it, and its start cuts no band (R243, R244). -/
def shardOk (m : List (BitVec 8)) (ts : List Tensor) (ss : List ShardEntry) (i : Nat) (e : ShardEntry) : Bool :=
  let prev := match i with
    | 0 => 0
    | j + 1 => (ss[j]?.map fun p => p.off + p.len).getD 0
  e.clean && decide (e.index = i) && decide (e.comp ≤ 1) && decide (e.off = prev) && decide (1 ≤ e.len) &&
  decide (e.len ≤ 2 ^ 30) && decide (1 ≤ e.bytes) && decide (e.bytes ≤ 2 ^ 30) &&
  (decide (e.comp = 1) || decide (e.bytes = e.len)) &&
  (decide (i + 1 < ss.length) || decide (e.off + e.len = manStreamSize m)) &&
  ts.all fun t => decide (e.off ≤ t.str) || decide (t.str + t.size ≤ e.off) || decide ((e.off - t.str) % t.band = 0)

/-- The first offence of a manifest, as the completion detail gives it (R244). -/
def manifestFault (m : List (BitVec 8)) (length : Nat) (adapter baseHeld : Bool) : Option (BitVec 32) :=
  if !headerOk m length adapter baseHeld then some 0xFFFFFFFF
  else
    let ts := manTensors m
    let ss := manShards m
    match (List.range ts.length).find? fun i => (ts[i]?.map fun t => !tensorOk m ts i t).getD false with
    | some i => some (BitVec.ofNat 32 i)
    | none => ((List.range ss.length).find? fun i => (ss[i]?.map fun e => !shardOk m ts ss i e).getD false).map
        fun i => BitVec.ofNat 32 (0x10000 + i)

/-! ### Tiles (R246, R247) -/

/-- A tile's header (R165). -/
def tileHeader (shape fmt role rows cols : Nat) (scale : Nat) (payload : List (BitVec 8)) (tensor : BitVec 32)
    (origin : Nat) : List (BitVec 8) :=
  leBytes 2 0x4A54 ++ leBytes 1 shape ++ leBytes 1 fmt ++ leBytes 1 role ++ [0] ++ leBytes 2 rows ++
  leBytes 2 cols ++ leBytes 2 0 ++ leBytes 4 scale ++ bvBytes 4 (crc32c payload) ++
  leBytes 4 payload.length ++ bvBytes 4 tensor ++ leBytes 4 origin ++ List.replicate 32 0

/-- A magnitude does not exceed another; where NaN ranks is open (assumption 4). -/
def magLe (nanTop : Bool) (x y : Fl) : Bool :=
  if x.isNan then !nanTop || y.isNan else if y.isNan then nanTop else !(y.abs.less false x.abs)

/-- The two positions that a group of four keeps: the two of largest magnitude, the lower on a tie (R247). -/
def keepTwo (nanTop : Bool) (g : List Fl) : Nat × Nat :=
  let v (i : Nat) : Fl := g.getD i (.fin false 0 0)
  -- position i is kept when fewer than two others come before it
  let before (i : Nat) : Nat := ((List.range 4).filter fun j => decide (j ≠ i) &&
    (if j < i then magLe nanTop (v i) (v j) else !magLe nanTop (v j) (v i))).length
  match (List.range 4).filter fun i => decide (before i < 2) with
  | a :: b :: _ => (a, b)
  | _ => (0, 1)

/-- The values of a line along K with the pruned positions as zeros, and the positions kept (R247). -/
def prune (nanTop : Bool) (xs : List Fl) : List Fl × List (Nat × Nat) :=
  let gs := (List.range (xs.length / 4)).map fun g => keepTwo nanTop ((xs.drop (4 * g)).take 4)
  (xs.mapIdx fun i x =>
    let k := gs.getD (i / 4) (0, 1)
    if i % 4 = k.1 ∨ i % 4 = k.2 then x else .fin false 0 0, gs)

/-- Codes of an element format as bytes; a lone last 4-bit code stands in the low half of its byte (R83). -/
def codeBytes (f : Fmt) (cs : List Nat) : List (BitVec 8) :=
  if f.width = 4 then ofNibbles (if cs.length % 2 = 0 then cs else cs ++ [0]) else cs.flatMap (leBytes (f.width / 8))

/-- The exponent T of a plain FP4 or FP8 tile scale (R247). -/
def tileExp (f : Fmt) (a : Nat × Int) : Int :=
  match f.decode f.maxCode with
  | .fin _ m e =>
    let t := lgVal a.1 a.2 - lgVal m e
    let t := if (Fl.fin false m (e + t)).less false (.fin false a.1 a.2) then t + 1 else t
    max (-126) (min t 127)
  | _ => 0

/-- A tile made of lines of values along K, or of the elements of a row of data: its scale as an FP32 code,
its payload and the flags raised (R247). -/
def quantTile (nanTop : Bool) (tgt : Nat) (lines : List (List Fl)) : Nat × List (BitVec 8) × AFlags :=
  let code := tgt % 128
  let f := (fmtOf code).getD .fp32
  let pruned := lines.map fun l => if sparseCode tgt then prune nanTop l else (l, [])
  let kept (l : List Nat) (gs : List (Nat × Nat)) : List Nat :=
    if sparseCode tgt then gs.mapIdx (fun g k => [l.getD (4 * g + k.1) 0, l.getD (4 * g + k.2) 0]) |>.flatten else l
  let metas := codeBytes .fp4 (pruned.flatMap fun l => l.2.map fun k => k.1 + 4 * k.2)
  let area (bs : List (BitVec 8)) : List (BitVec 8) := padTo (pad64 bs.length) bs
  if blocked code then
    let blocks := pruned.map fun l =>
      (List.range (l.1.length / 32)).map fun b => quantBlock f (isSsf4 code) ((l.1.drop (32 * b)).take 32)
    let codes := List.zipWith (fun bs (l : List Fl × List (Nat × Nat)) =>
      kept (bs.flatMap fun (b : QBlock) => b.codes.map (·.1)) l.2) blocks pruned
    let all := blocks.flatten
    (0x3F800000,
     area (codeBytes f codes.flatten) ++ (if sparseCode tgt then area metas else []) ++
       area (all.map fun b => BitVec.ofNat 8 b.scale) ++
       (if isSsf4 code then area (all.map fun b => BitVec.ofNat 8 b.shifts) else []),
     all.foldl (fun a b => b.codes.foldl (fun a c => a ||| c.2) a) 0)
  else
    let scaled := decide (f = .fp4) || decide (f = .e4m3) || decide (f = .e5m2)
    let a := largest (pruned.flatMap (·.1))
    let t : Int := if scaled && decide (a.1 ≠ 0) then tileExp f a else 0
    let rs := pruned.map fun l => (l.1.map fun x => f.round (x.shift (-t)), l.2)
    ((t + 127).toNat * 2 ^ 23,
     area (codeBytes f (rs.flatMap fun l => kept (l.1.map (·.1)) l.2)) ++ (if sparseCode tgt then area metas else []),
     rs.foldl (fun a l => l.1.foldl (fun a c => a ||| c.2) a) 0)

/-- The source element at row `r` and column `c` of a band's bytes whose first row is `r0`; zero beyond the
tensor (R162, R246). -/
def Tensor.value (t : Tensor) (src : List (BitVec 8)) (r0 r c : Nat) : Fl :=
  if r < t.rows ∧ c < t.cols then
    ((fmtOf t.src).getD .fp32).decode (fieldAt src (((r - r0) * t.cols + c) * t.elem) t.elem)
  else .fin false 0 0

/-- Tile `i` of a tensor, made from the bytes of its band: the bytes of its footprint and the flags raised;
none where a pre-tiled tile fails its check (R246, R247). A data row longer than its header field can say
leaves the field a free value (assumption 4). A pre-tiled tile is its header and payload, copied unchanged; the bytes of its
footprint after them are zero, as of every tile (R169). -/
def Tensor.tile (t : Tensor) (i : Nat) (src : List (BitVec 8)) (free : BitVec 17) :
    Option (List (BitVec 8) × AFlags) :=
  let foot (h p : List (BitVec 8)) : List (BitVec 8) := padTo t.foot (h ++ p)
  if t.pre then
    let h := src.take 64
    let p := (src.drop 64).take t.payload
    match shapeOf t.shape with
    | some sh =>
      if tileOk sh true { header := h, payload := p, poison := false } && decide (hdrFormat h = t.tgt) then
        some (foot h p, 0) else none
    | none => none
  else if t.isB then
    let b := i / t.chunks
    let k := i % t.chunks
    let lines := (List.range t.n).map fun n => (List.range t.k).map fun j =>
      t.value src (b * t.n) (b * t.n + n) (k * t.k + j)
    let q := quantTile (free.getLsbD 16) t.tgt lines
    some (foot (tileHeader t.shape t.tgt 2 (min t.k (t.cols - k * t.k)) (min t.n (t.rows - b * t.n)) q.1 q.2.1
      t.id (b * t.n)) q.2.1, q.2.2)
  else
    let q := quantTile false t.tgt [(List.range t.cols).map fun c => t.value src i i c]
    let cols := if t.cols < 65536 then t.cols else (free.extractLsb' 0 16).toNat
    some (foot (tileHeader 0 t.tgt 4 1 cols q.1 q.2.1 t.id i) q.2.1, q.2.2)

/-- Chunk images decoded one after another, up to the first that fails, and whether none does (R220, R243). -/
def decodeChunks : Nat → List (BitVec 8) → List (BitVec 8) → List (BitVec 8) × Bool
  | 0, _, acc => (acc, true)
  | n + 1, img, acc => match unpackChunk img with
    | none => (acc, false)
    | some c => decodeChunks n (img.drop ((16 + fieldAt img 4 4 + 127) / 128 * 128)) (acc ++ c)

/-- The stream bytes of a shard from the bytes delivered, up to the first chunk image that fails, and whether none does
(R220, R243). -/
def shardStream (e : ShardEntry) (bs : List (BitVec 8)) : List (BitVec 8) × Bool :=
  if e.comp = 0 then (bs, true)
  else
    let r := decodeChunks (ceilDiv e.len chunkBytes) bs []
    (r.1.take e.len, r.2)

/-- The tiles that the whole bands of a stretch of the stream make, image offset and bytes, none where a pre-tiled tile
fails its check; and the flags that their quantisation raises (R245, R247). -/
def streamTiles (ts : List Tensor) (off : Nat) (stream : List (BitVec 8)) (free : BitVec 17) :
    Option (List (Nat × List (BitVec 8))) × AFlags :=
  let bands := ts.flatMap fun t => ((List.range t.bands).filter fun j =>
    decide (off ≤ t.str + j * t.band) && decide (t.str + min (t.size) ((j + 1) * t.band) ≤ off + stream.length)).map
      fun j => (t, j)
  bands.foldl (fun acc x =>
    let (t, j) := x
    let src := (stream.drop (t.str + j * t.band - off)).take t.band
    (t.bandTiles j).foldl (fun acc i => match t.tile i src free with
      | some (bs, g) => (acc.1.map fun ls => ls ++ [(t.img + i * t.foot, bs)], acc.2 ||| g)
      | none => (none, acc.2)) acc) (some [], 0)

/-- The null adapter image of a manifest: what an all-zero source stream makes (R261). -/
def nullImage (m : List (BitVec 8)) : Mem :=
  (manTensors m).foldl (fun mem t =>
    let t := if t.pre then { t with src := 5 } else t
    (List.range t.tiles).foldl (fun mem i => match t.tile i [] 0 with
      | some (bs, _) => Mem.writes mem (t.img + i * t.foot) bs
      | none => mem) mem) []

end Sys2Proof.Machine
end

