-- ==== Sys2Proof/Machine/Models.lean ====
section
/-!
DEFINITION. Held model versions: references and bindings (R236 to R240), loading (R245 to R251), activation
and rest (R252, R253), scrubbing (R255 to R257), replacing and retiring (R258 to R260).
-/
namespace Sys2Proof.Machine

/-! ### Versions -/

/-- A held version changed. -/
def State.onModel (id : BitVec 28) (v : BitVec 8) (g : ModelVer → ModelVer) (s : State) : State :=
  s.onWgt fun w => { w with models := w.models.map fun m => if m.id = id ∧ m.version = v then g m else m }

/-- Model slots of a kind in use: every held version but those in `PENDING_ROOM` (R236, R259). -/
def State.slotsUsed (s : State) (adapter : Bool) : Nat :=
  (s.wgt.models.filter fun m => decide (m.adapter = adapter) && decide (m.state ≠ .pendingRoom)).length

/-- Model slots of a kind (R236). -/
def slotsOf (adapter : Bool) : Nat := if adapter then 1024 else 256

/-- The status with which a command that names an absent version fails (R238). -/
def State.absentStatus (s : State) (id : BitVec 28) (v : BitVec 8) (kind : Option Bool) : BitVec 16 :=
  if (s.versions id).any fun m => decide (kind = none ∨ kind = some m.adapter) && decide (v.toNat < m.version.toNat)
  then stRetired else stBadParam

/-- The offset of the first offending byte of a command that names an absent version: that of the version where some
version of the `model_id`, of the kind named, is held, else that of the `model_id` (R377). -/
def State.absentAt (s : State) (id : BitVec 28) (kind : Option Bool) (idAt verAt : Nat) : Nat :=
  if (s.versions id).any fun m => decide (kind = none ∨ kind = some m.adapter) then verAt else idAt

/-- A binding resolved, or the status with which it fails (R238): one that names version 0 as its acceptance resolved it,
where that version is still held. -/
def State.resolve (s : State) (id : BitVec 28) (v : BitVec 8) (adapter : Bool) (accepted : BitVec 16 × BitVec 8) :
    Except (BitVec 16) Binding :=
  if v = 0 then
    if accepted.1 ≠ 0 then .error accepted.1
    else if (s.model id accepted.2).isSome then .ok ⟨id, accepted.2⟩
    else .error (s.absentStatus id accepted.2 (some adapter))
  else match s.model id v with
    | none => .error (s.absentStatus id v (some adapter))
    | some m =>
      if m.adapter ≠ adapter then .error stBadParam
      else match m.state with
        | .active => .ok ⟨id, v⟩
        | .retiring => .error stRetired
        | _ => .error stNotAllowed

/-- A function may load, activate, rest, retire, replace or scrub the version (R240). -/
def ModelVer.rights (m : ModelVer) (f : BitVec 4) : Bool := decide (f = 0) || decide (f = m.declarer)

/-! ### References (R239) -/

/-- A context is bound to a version (R239). -/
def Context.boundTo (c : Context) (id : BitVec 28) (v : BitVec 8) : Bool :=
  let b : Binding := ⟨id, v⟩
  decide (c.state ≠ .free) && (decide (c.base = b) || decide (c.adapter = some b) || decide (c.fallback = some b))

/-- Contexts bound to a version (R239, R266). -/
def State.boundCtxs (s : State) (id : BitVec 28) (v : BitVec 8) : Nat :=
  (s.srv.ctxs.filter fun p => p.2.boundTo id v).length

/-- An image's regions, buffers, windows or edge streams name a version (R239). -/
def imgNames (img : List (BitVec 8)) (id : BitVec 28) (v : BitVec 8) : Bool :=
  (imgRegions img).any (fun r => decide (r.model = id.toNat) && decide (r.version = v)) ||
  (imgBuffers img).any (fun b => decide (b.source = 2) && decide (b.model = id.toNat) && decide (b.version = v)) ||
  (imgEdges img).any fun e => decide (e.kind = 3) && decide (e.model = id.toNat) && decide (e.version = v)

/-- Known cylinders that name a version (R239, R266). -/
def State.namingCyls (s : State) (id : BitVec 28) (v : BitVec 8) : Nat :=
  (s.cyl.known.filter fun k => imgNames k.image id v).length

/-- The references of a version (R239): the contexts bound to it, and for a base the known cylinders that name it. -/
def State.refs (s : State) (id : BitVec 28) (v : BitVec 8) : Nat :=
  s.boundCtxs id v + (if (s.model id v).any (·.adapter) then 0 else s.namingCyls id v)

/-- An action of a version is under way. -/
def State.placingJob (s : State) (id : BitVec 28) (v : BitVec 8) : Bool :=
  s.mem.jobs.any fun j => decide (j.purpose = .activate id.toNat v.toNat) || decide (j.purpose = .rest id.toNat v.toNat)

/-- A page of a version freed, its shadow with it. -/
def State.freePage (g : BitVec 64) (s : State) : State :=
  let (t, sl) := gaSlot g
  let e := s.dirEntry t sl
  let s := s.freeSlotAt t sl
  let s := if t = 3 then s.deallocate sl else s
  if (e.state = .shadow ∨ (t = 2 ∧ e.state = .home)) ∧ e.peer ≠ 0 then s.freeSlotAt (gaSlot e.peer).1 (gaSlot e.peer).2
  else s

/-- A retiring version with no reference left is freed (R239, R260); one whose pages are in a move waits for
it. -/
def State.tryFree (m : ModelVer) (s : State) : State :=
  match s.model m.id m.version with
  | none => s
  | some m =>
    if m.state = .retiring ∧ s.refs m.id m.version = 0 ∧ !s.placingJob m.id m.version ∧
        !(s.wgt.flight.any fun x => decide (x.id = m.id) && decide (x.version = m.version)) then
      let s := (m.pages ++ m.restored).foldl (fun s p => s.freePage p.2) s
      let s := (s.onWgt fun w => { w with models := w.models.filter fun x =>
        !(decide (x.id = m.id) && decide (x.version = m.version)) }).raiseWgt 6
      s.completeOpt m.retireHandle stOk 0
    else s

/-- Every retiring version that may be freed is freed (R239). -/
def State.freeRetired (s : State) : State :=
  (s.wgt.models.filter fun m => decide (m.state = .retiring)).foldl (fun s m => s.tryFree m) s

/-! ### Activation and rest (R252, R253) -/

/-- The image offset from which a version's pages stream from tier 2: an adapter's are all in tier 1 (R252, R262; assumption
150). -/
def ModelVer.cut (m : ModelVer) : Nat :=
  if m.adapter then max m.streamFrom.toNat (manImageSize m.manifest) else m.streamFrom.toNat

/-- Pages of a version's image: number and address. -/
def ModelVer.pageList (m : ModelVer) : List (Nat × BitVec 64) := m.pages.filter fun p => decide (p.2 ≠ 0)

/-- The pages of a version start to move for activation: those below `stream_from` to tier 1, strictly, and
those above it that lie in tier 3 to tier 2 (R252). -/
def State.beginActivate (id : BitVec 28) (v : BitVec 8) (s : State) : State :=
  match s.model id v with
  | none => s
  | some m =>
    let cut := m.cut
    let low := (m.pageList.filter fun p => decide (p.1 * pageBytes < cut)).map (·.2)
    let high := (m.pageList.filter fun p => decide (cut ≤ p.1 * pageBytes) && decide (gaSpace p.2 = 3)).map (·.2)
    let s := s.onModel id v fun m => { m with state := .placing, waitRoom := false }
    let j : PageJob := { PageJob.reset with purpose := .activate id.toNat v.toNat }
    (s.startJob { j with tier := 1, strict := true } low).startJob { j with tier := 2 } high

/-- The pages of a version in tier 1 start to move to tier 2 (R253). -/
def State.beginRest (id : BitVec 28) (v : BitVec 8) (s : State) : State :=
  match s.model id v with
  | none => s
  | some m =>
    let pages := (m.pageList.filter fun p => decide (gaSpace p.2 = 1)).map (·.2)
    (s.onModel id v fun m => { m with state := .placing }).startJob
      { PageJob.reset with purpose := .rest id.toNat v.toNat, tier := 2 } pages

/-- Older versions of a model that serve or rest become `RETIRING` in the instant of a replace (R258). -/
def State.retireOlder (id : BitVec 28) (v : BitVec 8) (s : State) : State :=
  s.onWgt fun w => { w with models := w.models.map fun m =>
    if m.id = id ∧ m.version.toNat < v.toNat ∧ (m.state = .active ∨ m.state = .resting) then
      { m with state := .retiring } else m }

/-- Every shard of a version is ingested. -/
def ModelVer.whole (m : ModelVer) : Bool := m.shards.all fun x => decide (x = .ingested)

/-- The state of a version that is not placed: `INCOMPLETE` where a shard is wanted (R237, R264). -/
def ModelVer.resting (m : ModelVer) : ModelState := if m.whole then .resting else .incomplete

/-- The moves of an activation have ended (R252, R258 to R260). -/
def State.endActivate (id : BitVec 28) (v : BitVec 8) (j : PageJob) (s : State) : State :=
  match s.model id v with
  | none => s
  | some m =>
    let s := s.onModel id v fun m => { m with activateHandle := none }
    if m.state = .retiring then
      let s := s.onModel id v fun m => { m with handle := none, replace := false }
      (s.completeOpt m.activateHandle stCancelled 0).completeOpt m.handle stCancelled 0
    else if j.failed = 0 ∧ m.whole then
      let st := if j.cancelled then stCancelled else if m.degraded || decide (j.degraded ≠ 0) then stDegraded else stOk
      let s := s.onModel id v fun m => { m with state := .active, replace := false, handle := none }
      let s := if m.replace then s.retireOlder id v else s
      (s.completeOpt m.activateHandle (if j.cancelled then stCancelled else if j.degraded = 0 then stOk else stDegraded) 0).completeOpt m.handle st 0
    else
      let st := if j.cancelled then stCancelled else if j.noSpace then stNoSpace else stCheckFailed
      if m.replace && j.noSpace && !j.cancelled then s.onModel id v fun m => { m with state := .resting, waitRoom := true }
      else
        let s := s.onModel id v fun m => { m with state := m.resting, handle := none, replace := false }
        (s.completeOpt m.activateHandle st (BitVec.ofNat 32 j.failed)).completeOpt m.handle st (BitVec.ofNat 32 j.failed)

/-- The moves of a rest have ended (R253). -/
def State.endRest (id : BitVec 28) (v : BitVec 8) (j : PageJob) (s : State) : State :=
  match s.model id v with
  | none => s
  | some m =>
    let st := if m.state = .retiring ∨ j.cancelled then stCancelled else if j.noSpace then stNoSpace
      else if j.failed ≠ 0 then stCheckFailed else if j.degraded ≠ 0 then stDegraded else stOk
    let s := s.onModel id v fun m => { m with
      activateHandle := none, state := if m.state = .retiring then .retiring else m.resting }
    s.completeOpt m.activateHandle st (BitVec.ofNat 32 j.failed)

/-! ### Room for replaces (R259) -/

/-- Tier-1 frames that a version's image still needs for service (R252, R259). -/
def ModelVer.framesNeeded (m : ModelVer) : Nat :=
  let n := ceilDiv (min m.cut (manImageSize m.manifest)) pageBytes
  n - (m.pageList.filter fun p => decide (p.1 < n) && decide (gaSpace p.2 = 1)).length

/-- There is room for a pending version (R259). -/
def State.hasRoom (s : State) (m : ModelVer) : Bool :=
  decide (s.slotsUsed m.adapter < slotsOf m.adapter) &&
  decide (manImageSize m.manifest ≤ (s.freePages 2 + s.freePages 3) * pageBytes) &&
  decide (m.framesNeeded ≤ s.freePages 1)

/-- Replaces that wait for room proceed where it has appeared (R259). -/
def State.recheckRoom (s : State) : State :=
  s.wgt.models.foldl (fun s m =>
    if m.state = .pendingRoom then
      if s.hasRoom m then
        (s.onModel m.id m.version fun m => { m with
          state := .loading, deadline := some (s.now + manTimeout m.manifest) }).raiseWgt 5
      else s
    else if m.waitRoom ∧ m.state = .resting then
      if m.framesNeeded ≤ s.freePages 1 then (s.beginActivate m.id m.version).raiseWgt 5 else s
    else s) s

/-! ### Loading (R245 to R251) -/

/-- Shards of a version in a state. -/
def ModelVer.count (m : ModelVer) (st : ShardState) : Nat := (m.shards.filter fun x => decide (x = st)).length

/-- The scrub interval of a version (R255). -/
def State.scrubInterval (s : State) (m : ModelVer) : Nat := (m.interval.getD s.wgt.scrubDef).toNat

/-- A version whose image is complete rests (R251), and its next scrub is set (R255). For an adapter, the
first of its base, the null image is built (R262). -/
def State.imageComplete (id : BitVec 28) (v : BitVec 8) (s : State) : State :=
  match s.model id v with
  | none => s
  | some m =>
    let s := (s.onModel id v fun m => { m with
      state := .resting, deadline := none, nextScrub := s.uptime + s.scrubInterval m }).raiseWgt 2
    if m.adapter then
      let b := manBase m.manifest
      s.onModel b.model b.version fun x => match x.geometry with
        | some g => if g.built || decide (g.first ≠ ⟨id, v⟩) then x else { x with geometry := some { g with image := nullImage m.manifest, built := true } }
        | none => x
    else s

/-- A loading version all of whose shards are ingested, failed or missing ends its loading (R251). -/
def State.checkLoaded (id : BitVec 28) (v : BitVec 8) (s : State) : State :=
  match s.model id v with
  | none => s
  | some m =>
    if m.state ≠ .loading ∨ m.count .outstanding ≠ 0 ∨ m.count .inFlight ≠ 0 then s
    else if m.whole then
      let s := s.imageComplete id v
      if m.replace then s.beginActivate id v
      else
        let s := s.onModel id v fun m => { m with handle := none }
        let s := s.completeOpt m.handle (if m.degraded then stDegraded else stOk) 0
        if m.activateAfter then s.beginActivate id v else s
    else
      let s := s.onModel id v fun m => { m with state := .incomplete, deadline := none, handle := none, replace := false }
      let st := if m.count .missing ≠ 0 then stShardMissing else m.firstFail.getD stDigest
      s.completeOpt m.handle st (BitVec.ofNat 32 (m.count .failed + 65536 * m.count .missing))

/-- A page that scrubbing found bad, or a page not yet written, and that is still wanted. -/
def ModelVer.wants (m : ModelVer) (p : Nat) : Bool :=
  decide (p < manPages m.manifest) &&
    (decide (Sparse.get 0 m.pages p = 0) || (decide (p ∈ m.failedPages) && decide (Sparse.get 0 m.restored p = 0)))

/-- The `index` of a page of a version's image (R236). -/
def pageIndex (v : BitVec 8) (p : Nat) : Nat := v.toNat * 2 ^ 24 + p

/-- A page of the image is written, its digest recorded (R248). A poisoned page of a serving version gets a
new page that takes its place at the next boundary, in the tier of the old one, where its images and windows look for it
(DEDUCED, assumption 194); one of a version that does not serve is replaced at once, in the preferred tier of the version
(R257). None where no room is found. -/
def State.writeImagePage (id : BitVec 28) (v : BitVec 8) (p : Nat) (s : State) : Option State :=
  match s.model id v with
  | none => some s
  | some m =>
    let c := Mem.slice m.staged (p * pageBytes) pageBytes
    let old := Sparse.get 0 m.pages p
    let serving := decide (old ≠ 0) && m.suspect
    let pref := if serving then gaSpace old else m.tier.toNat
    match s.placePage pref (m.strict || serving) ownModel id (pageIndex v p) false false c with
    | (none, _) => none
    | (some (t, sl), s) =>
      let g := s.slotGa t sl
      let s := s.onModel id v fun m => { m with
        digests := Sparse.set 0 m.digests p (digestBits (sha256 (Mem.reads c 0 pageBytes)))
        degraded := m.degraded || decide (t ≠ pref) }
      if old = 0 then some (s.onModel id v fun m => { m with pages := Sparse.set 0 m.pages p g })
      else if m.suspect then some (s.onModel id v fun m => { m with restored := Sparse.set 0 m.restored p g })
      else some ((s.freePage old).onModel id v fun m => { m with
        pages := Sparse.set 0 m.pages p g, failedPages := m.failedPages.filter fun x => decide (x ≠ p) })

/-- Every page of the image whose shards are all ingested is written (R248). The answer says whether room was
found for all. -/
def State.writePages (id : BitVec 28) (v : BitVec 8) (s : State) : Bool × State :=
  match s.model id v with
  | none => (true, s)
  | some m =>
    let ready := (List.range (manPages m.manifest)).filter fun p => m.wants p &&
      (pageShards m.manifest p).all fun i => decide (m.shards[i]? = some .ingested)
    let r := ready.foldl (fun (r : Bool × State) p => match r.2.writeImagePage id v p with
      | some s => (r.1, s)
      | none => (false, r.2.drawn)) (true, s)
    (r.1, r.2.onModel id v fun m => { m with staged := m.staged.filter fun c => m.wants (c.1 / pageBytes) })

/-- A shard takes a state. -/
def State.setShard (id : BitVec 28) (v : BitVec 8) (i : Nat) (st : ShardState) (s : State) : State :=
  s.onModel id v fun m => { m with shards := listModify m.shards i fun _ => st }

/-- A shard has failed (R249). -/
def State.shardFails (x : Ingest) (st : BitVec 16) (detail : BitVec 32) (s : State) : State :=
  let s := (s.setShard x.id x.version x.shard .failed).raiseWgt 0
  let s := s.onWgt fun w => { w with rejected := satInc w.rejected }
  let s := s.onModel x.id x.version fun m => { m with firstFail := some (m.firstFail.getD st) }
  (s.complete x.handle st detail).checkLoaded x.id x.version

/-- Why the bytes of a command could not be read: its status and detail, and the place whose bytes cannot be read at all. -/
abbrev ReadFail := BitVec 16 × BitVec 32 × Option (BitVec 64 × Nat)

/-- The failure of a read of `n` bytes at `g` (R201, R202, R220). -/
def Acc.fail (g : BitVec 64) (n : Nat) (a : Acc) : ReadFail :=
  if a = .poisoned then (stCheckFailed, 0, some (g, n))
  else (stBadParam, if gaSpace g = 5 then readFailed else 24, none)

/-- A page that a failed read found undecodable counts as an uncorrectable read (R220). -/
def State.noteFail (f : ReadFail) (s : State) : State :=
  match f.2.2 with
  | none => s
  | some x => s.noteRead x.1 x.2

/-- A delivery is refused: its shard is as it was before the command (R249). -/
def State.shardRefused (x : Ingest) (st : BitVec 16) (detail : BitVec 32) (s : State) : State :=
  let was := ((s.liveOf x.handle).map (·.shardWas)).getD .outstanding
  ((s.setShard x.id x.version x.shard was).complete x.handle st detail).checkLoaded x.id x.version

/-- The bytes that a shard command delivers (R249); a host read that fails, or a page that cannot be read,
answers the status and detail with which the command ends. -/
def State.shardBytes (s : State) (l : Live) (n : Nat) : Except ReadFail (List (BitVec 8)) :=
  let f := l.func.toNat
  if l.opcode = 0x41 then
    let g := BitVec.ofNat 64 (l.param 24 8)
    match s.readRun (some f) g n with
    | .ok bs => .ok bs
    | a => .error (a.fail g n)
  else
    let pages := (List.range (ceilDiv n pageBytes)).map fun i => BitVec.ofNat 64 (fieldAt l.work (8 * i) 8)
    let all : Except ReadFail (List (BitVec 8)) := pages.foldl (fun acc g => match acc with
      | .error e => .error e
      | .ok bs => match s.readGa (some f) g pageBytes with
        | .ok x => .ok (bs ++ x)
        | a => .error (a.fail g pageBytes)) (.ok [])
    all.map (·.take n)

/-- A shard in flight ends (R245 to R249, R251, R257). -/
def State.ingest (x : Ingest) (l : Live) (s : State) : State :=
  match s.model x.id x.version with
  | none => s.complete x.handle stCancelled 0
  | some m =>
    let ss := manShards m.manifest
    match ss[x.shard]? with
    | none => s.complete x.handle stBadParam 16
    | some e =>
      match s.shardBytes l e.bytes with
      | .error e =>
        if e.1 = stBadParam then (s.noteFail e).shardRefused x e.1 e.2.1 else (s.noteFail e).shardFails x e.1 e.2.1
      | .ok bs =>
        -- the bytes are quantised as they arrive, beside the digest
        let str := shardStream e bs
        let r := streamTiles (manTensors m.manifest) e.off str.1 (s.free 17)
        let s := s.drawn.onWgt fun w => { w with flags := w.flags ||| r.2 }
        let d := r.2.setWidth 32
        if digestBits (sha256 bs) ≠ e.digest then s.shardFails x stDigest d
        else match (if str.2 then r.1 else none) with
          | none => s.shardFails x stCheckFailed d
          | some tiles =>
            let s := s.onWgt fun w => { w with ingestBytes := w.ingestBytes + e.len }
            let before := s
            let s := s.onModel x.id x.version fun m => { m with
              staged := tiles.foldl (fun mem t => Mem.writes mem t.1 t.2) m.staged
              deadline := if m.state = .loading then some (s.now + manTimeout m.manifest) else m.deadline }
            let s := s.setShard x.id x.version x.shard .ingested
            match s.writePages x.id x.version with
            -- its tiles are discarded, and no page that holds them is written (R248)
            | (false, s) => (before.onFreeCount fun _ => s.freeCount).shardFails x stNoSpace d
            | (true, s) =>
              let whole := (s.model x.id x.version).any (·.whole)
              let revived := decide (m.state = .incomplete) && whole
              let s := if revived then s.imageComplete x.id x.version else s
              let d := d ||| flag 32 31 (whole && (revived || decide (m.state = .loading)))
              (s.complete x.handle stOk d).checkLoaded x.id x.version

/-- The next shard that waits enters flight (R245). -/
def State.nextShard (s : State) : State :=
  match s.wgt.waiting with
  | [] => s
  | h :: r =>
    if 8 ≤ s.wgt.flight.length then s
    else match s.liveOf h with
      | none => s.onWgt fun w => { w with waiting := r }
      | some l => s.onWgt fun w => { w with waiting := r, flight := w.flight ++
          [{ handle := h, id := BitVec.ofNat 28 (l.param 8 4), version := BitVec.ofNat 8 (l.param 12 1),
             shard := l.param 16 4 }] }

/-! ### Scrubbing (R255 to R257) -/

/-- The state of a version has a scrub interval (R255). -/
def ModelVer.scrubs (m : ModelVer) : Bool :=
  decide (m.state = .resting) || decide (m.state = .placing) || decide (m.state = .active) || decide (m.state = .retiring)

/-- A scrub pass of a version starts (R255, R256). -/
def State.startScrub (m : ModelVer) (s : State) : State :=
  s.onModel m.id m.version fun m => { m with
    nextScrub := s.uptime + s.scrubInterval m, scrubLeft := m.pageList.map (·.1), scrubSkipped := [] }

/-- The passes that are due start (R255). -/
def State.startScrubs (s : State) : State :=
  (s.wgt.models.filter fun m => m.scrubs && decide (m.nextScrub ≠ 0) && decide (m.nextScrub ≤ s.uptime)).foldl
    (fun s m => s.startScrub m) s

/-- A page of a version fails its scrub (R257). A shard that is in flight has been marked before, and its ingest decides what
it becomes. -/
def State.scrubMismatch (m : ModelVer) (p : Nat) (s : State) : State :=
  let (t, sl) := gaSlot (Sparse.get 0 m.pages p)
  let s := (s.onDir t sl fun e => { e with poisoned := true }).raiseWgt 3
  let s := s.onWgt fun w => { w with mismatch := satInc w.mismatch }
  let s := (pageShards m.manifest p).foldl (fun s i =>
    if (s.model m.id m.version).any fun m => decide (m.shards[i]? = some ShardState.inFlight) then s
    else s.setShard m.id m.version i .failed) s
  s.onModel m.id m.version fun m => { m with
    failedPages := if p ∈ m.failedPages then m.failedPages else m.failedPages ++ [p]
    state := if m.state = .resting then .incomplete else m.state
    suspect := m.suspect || decide (m.state = .active) || decide (m.state = .retiring) }

/-- The poisoned pages of suspect versions whose new pages are complete are replaced, and the mark is cleared
(R257). -/
def State.restoreSuspects (s : State) : State :=
  (s.wgt.models.filter fun m => m.suspect && m.failedPages.all fun p => decide (Sparse.get 0 m.restored p ≠ 0)).foldl
    (fun s m =>
      let s := m.failedPages.foldl (fun s p =>
        let old := Sparse.get 0 m.pages p
        let new := Sparse.get 0 m.restored p
        let s := (s.rename old new).freePage old
        if gaSpace old = 1 then
          s.onCyl fun c => { c with known := c.known.map fun k => { k with windows := k.windows.map fun w =>
            (w.1, w.2.map fun x => if x = (gaSlot old).2 then (gaSlot new).2 else x) } }
        else s) s
      (s.onModel m.id m.version fun m => { m with suspect := false, failedPages := [], restored := [] }).raiseWgt 4) s

end Sys2Proof.Machine
end

