-- ==== Sys2Proof/Machine/Serving.lean ====
section
/-!
DEFINITION. Serving: contexts and their pages (R269 to R272), feeding (R276 to R281), what a committing boundary
publishes (R18, R19, R293 to R295), and the decisions of phases 7, 8 and 9 (R283 to R290).
-/
namespace Sys2Proof.Machine

/-! ### Contexts (R269, R270) -/

/-- The numbers of the contexts that are not `FREE`, ascending. -/
def State.openCtxs (s : State) : List Nat := (s.srv.ctxs.filter fun p => decide (p.2.state ≠ .free)).map (·.1)

/-- The context identifier of a number (R269). -/
def State.ctxIdent (s : State) (n : Nat) : BitVec 32 :=
  BitVec.ofNat 32 (n + 65536 * (s.ctx n).incarnation.toNat)

/-- The chips of the partition (R387). -/
def State.chips (s : State) : Nat := max 1 s.fab.size

/-- This chip speaks for the contexts of its partition: the stage of its active cylinder is the last (R273). -/
def State.isServing (s : State) : Bool :=
  (s.cylOf .active).isSome && decide ((imgHeader s.active).stage + 1 = (imgHeader s.active).partSize)

/-- This chip is stage 0: the stage of its active cylinder (R273, R307). -/
def State.isStage0 (s : State) : Bool := (s.cylOf .active).isSome && decide ((imgHeader s.active).stage = 0)

/-- The active cylinder uses host-formed batches (R286). -/
def State.hostFormed (s : State) : Bool := (imgHeader s.active).hostFormed

/-- Place of a live command in the order of acceptance. -/
def State.orderOf (s : State) (h : BitVec 32) : Nat := ((s.liveOf h).map (·.order)).getD 0

/-- The boundary takes a command: it was accepted before the commit point, which on the serving chip of a larger
partition is the sending of the verdict frame (R17, R274). -/
def State.taken (s : State) (h : BitVec 32) : Bool :=
  match s.step.cut with
  | none => true
  | some k => decide (s.orderOf h < k)

/-- The batch slot that a context holds. -/
def State.slotOf (s : State) (n : Nat) : Option Nat :=
  (s.srv.slots.find? fun x => decide (x.2.ctx = n)).map (·.1)

/-- The region in which a context runs (R276). -/
def State.regionOf (s : State) (n : Nat) : Nat :=
  ((s.srv.slots.find? fun x => decide (x.2.ctx = n)).map (·.2.region)).getD 0

/-- The committed length that counts in a region (R277, R290). -/
def Context.lenIn (c : Context) (region : Nat) : Nat := if region = 1 then c.lenFb else c.len

/-- The number of the step that the boundary at hand begins: one above the closing step when that commits. -/
def State.nextStep (s : State) : Nat := if s.step.running then s.cad.step.toNat + 1 else s.cad.step.toNat

/-- A drain is in progress or complete (R154). -/
def State.draining (s : State) : Bool :=
  decide (s.cyl.drain ≠ 0) && (s.cyl.drainHandle.all fun h => s.taken h)

/-! ### Pages of a context (R270, R283) -/

/-- Indexes of a context's pages in its directory entries: the KV list from 0, the fallback list from 65,536,
the history page at 131,072 (assumption 21). -/
def ctxIndex (kind : Nat) (i : Nat) : Nat := 65536 * kind + i

/-- A page for a context, strictly in tier 1, that reads as zeros (R174, R221). -/
def State.ctxPage (n index : Nat) (s : State) : Option (BitVec 64 × State) :=
  match s.placePage 1 true ownContext (BitVec.ofNat 28 n) index false true [] with
  | (some (t, sl), s) => some (s.slotGa t sl, s)
  | (none, _) => none

/-- Pages added to a context's list until it holds `want`; none where tier 1 lacks room. -/
def State.growList (n region want : Nat) : Nat → State → Option State
  | 0, s => some s
  | k + 1, s =>
    let c := s.ctx n
    let l := if region = 1 then c.fbList else c.kvList
    if want ≤ l.length then some s
    else match s.ctxPage n (ctxIndex region l.length) with
      | none => none
      | some (g, s) => State.growList n region want k (s.onCtx n fun c =>
          if region = 1 then { c with fbList := c.fbList ++ [g] } else { c with kvList := c.kvList ++ [g] })

/-- Pages that a context needs in a region for `h` history positions and `r` tokens to come (R283). -/
def Context.pagesFor (c : Context) (region h r : Nat) : Nat :=
  ceilDiv (min 65535 (h + r)) (if region = 1 then c.fbPositions else c.pagePositions)

/-- A context's list given the pages it needs; none where tier 1 lacks room (R283). -/
def State.giveKv (n region h r : Nat) (s : State) : Option State :=
  let want := (s.ctx n).pagesFor region h r
  s.growList n region want want

/-- The history page of a context, placed where it has none (R270). -/
def State.giveHist (n : Nat) (s : State) : Option State :=
  if (s.ctx n).histPage.isSome then some s
  else match s.ctxPage n (ctxIndex 2 0) with
    | none => none
    | some (g, s) => some (s.onCtx n fun c => { c with histPage := some g })

/-- The history page that an image of a context carries: none where no position is recorded (R300). -/
def Context.histCarried (c : Context) : Option (BitVec 64) := if c.hist = 0 then none else c.histPage

/-- Stage 0 of a larger partition holds the history list of every open context, since the serving chip writes into it before
it announces anything (R273, R275); when it gets its page no rule says (assumption 152). -/
def State.holdHist (n : Nat) (s : State) : State :=
  if s.chips ≠ 1 ∧ s.fab.stage = 0 then (s.giveHist n).getD s else s

/-- Token identifiers written to the history list from a position on (R270). -/
def State.putHist (n pos : Nat) (ts : List (BitVec 32)) (s : State) : State :=
  match (s.ctx n).histPage with
  | none => s
  | some g =>
    let (t, sl) := gaSlot g
    if t = 1 then s.t1Write (sl * pageBytes + 4 * pos) (ts.flatMap (bvBytes 4)) else s

/-- Token identifiers of the history list (R270). -/
def State.getHist (s : State) (n pos k : Nat) : List (BitVec 8) :=
  match (s.ctx n).histPage with
  | none => List.replicate (4 * k) 0
  | some g => match s.content (gaSlot g).1 (gaSlot g).2 with
    | none => List.replicate (4 * k) 0
    | some m => Mem.reads m (4 * pos) (4 * k)

/-- The history page of a context freed. -/
def State.dropHist (n : Nat) (s : State) : State :=
  ((s.ctx n).histPage.toList.foldl (fun s g => s.freePage g) s).onCtx n fun c => { c with histPage := none }

/-- The pages of a context freed (R295, R297, R301). -/
def State.dropPages (n : Nat) (s : State) : State :=
  let c := s.ctx n
  let s := (c.kvList ++ c.fbList ++ c.histPage.toList).foldl (fun s g => s.freePage g) s
  s.onCtx n fun c => { c with kvList := [], fbList := [], histPage := none }

/-- A context is freed: its pages and its references go; its number keeps its incarnation (R269, R295). -/
def State.freeCtx (n : Nat) (s : State) : State :=
  (s.dropPages n).onCtx n fun c => { Context.reset with incarnation := c.incarnation }

/-! ### Records (R292, R293) -/

/-- Free entries of a context's token ring (R292). -/
def Context.ringFree (c : Context) : Int := (2 ^ c.ringOrder : Nat) - (c.producedRecs : Int) + (c.consumed : Int)

/-- A token record in the next entry of its ring, the produced word after it, and the context's vector (R292). -/
def State.tokenRecord (n : Nat) (bs : List (BitVec 8)) (s : State) : State :=
  let c := s.ctx n
  let f := c.func.toNat
  let s := s.hostWrite f (c.ring.toNat + 64 + 16 * (c.producedRecs % 2 ^ c.ringOrder)) bs
  let s := s.hostWrite f c.ring.toNat (leBytes 8 (c.producedRecs + 1))
  let s := s.onCtx n fun c => { c with producedRecs := c.producedRecs + 1 }
  let s := s.onStep fun g => { g with tokens := g.tokens + 1 }
  if c.vector = 0xFFFF then s else s.vectorEvent (globalVector f c.vector.toNat)

/-- Token records of the context's function are written: not by a function that writes none (R389, R392), nor once the chip
has halted (R351). -/
def State.tokensFlow (s : State) (n : Nat) : Bool := !s.hlt.halted && (s.func (s.ctx n).func.toNat).state.records

/-- A token record (R8, R293). A context with no ring receives none. No record is dropped and none overwrites another: where
the ring has no room for it, it waits behind those that wait already (R285; DESIGN CHOICE, assumption 199). -/
def State.putToken (n : Nat) (token : BitVec 32) (step : BitVec 32) (logprob : BitVec 16) (flags : BitVec 16)
    (counts : Bool) (s : State) : State :=
  let c := s.ctx n
  if c.ring = 0 ∨ !s.tokensFlow n then s
  else
    let bs := bvBytes 4 token ++ bvBytes 4 step ++ leBytes 4 c.seqIndex ++ bvBytes 2 logprob ++ bvBytes 2 flags
    let s := s.onCtx n fun c => { c with seqIndex := c.seqIndex + (if counts then 1 else 0) }
    if c.heldRecs ≠ [] ∨ c.ringFree ≤ 0 then s.onCtx n fun c => { c with heldRecs := c.heldRecs ++ [bs] }
    else s.tokenRecord n bs

/-- The flags of a token record (R8, R293, R20). -/
def State.tokenFlags (s : State) (n : Nat) (final cancelled : Bool) (region : Nat) : BitVec 16 :=
  let c := s.ctx n
  let suspect (b : Binding) : Bool := (s.model b.model b.version).any (·.suspect)
  flag 16 0 final ||| flag 16 1 cancelled |||
    (if cancelled then 0 else flag 16 2 (decide (region = 1)) |||
      flag 16 3 (suspect c.base || c.adapter.any suspect)) ||| flag 16 4 (decide (0 < s.step.replay))

/-- The marker of a cancellation (R295). -/
def State.marker (n : Nat) (step : BitVec 32) (s : State) : State :=
  s.putToken n 0xFFFFFFFF step 0xFC00 (s.tokenFlags n false true 0) false

/-- A completion record made due in phase 2 (R18). -/
def State.due (h : BitVec 32) (st : BitVec 16) (d : BitVec 32) (s : State) : State :=
  s.onStep fun g => { g with dues := g.dues ++ [(h, st, d, s.orderOf h, 1)] }

/-- The completion record of a context's generation made due, once the records that wait for room are written (R18). -/
def State.dueEnd (n : Nat) (h : BitVec 32) (st : BitVec 16) (d : BitVec 32) (s : State) : State :=
  if (s.ctx n).heldRecs = [] then s.due h st d
  else s.onCtx n fun c => { c with heldEnds := c.heldEnds ++ [(h, st, d)] }

/-- The records of a context that wait are written, as many as its ring has room for, and after the last of them the
completions that wait for it are due (R18, R285; DESIGN CHOICE, assumption 199). -/
def State.flushHeld (n : Nat) (s : State) : State :=
  let c := s.ctx n
  let k := if s.tokensFlow n then c.ringFree.toNat else 0
  let s := (c.heldRecs.take k).foldl (fun s bs => s.tokenRecord n bs) s
  let s := s.onCtx n fun c => { c with heldRecs := c.heldRecs.drop k }
  if (s.ctx n).heldRecs ≠ [] then s
  else
    let ends := c.heldEnds
    ends.foldl (fun s x => s.due x.1 x.2.1 x.2.2) (s.onCtx n fun c => { c with heldEnds := [] })

/-- The completion record of an `APPEND` made due just before that of its generation (R304). -/
def State.dueBefore (h gen : BitVec 32) (st : BitVec 16) (s : State) : State :=
  s.onStep fun g => { g with dues := g.dues ++ [(h, st, 0, s.orderOf gen, 0)] }

/-- The completion records made due are written, in order of acceptance of their commands (R18). -/
def State.writeDues (s : State) : State :=
  let ds := s.step.dues.mergeSort fun a b =>
    decide (a.2.2.2.1 < b.2.2.2.1) || (decide (a.2.2.2.1 = b.2.2.2.1) && decide (a.2.2.2.2 ≤ b.2.2.2.2))
  let s := s.onStep fun g => { g with dues := [] }
  ds.foldl (fun s d => s.complete d.1 d.2.1 d.2.2.1) s

/-! ### The end of a generation (R294, R304) -/

/-- The detail of a generation's completion: reason, and the tokens it produced (R294). -/
def Gen.detail (g : Gen) (reason : Nat) : BitVec 32 :=
  BitVec.ofNat 32 (reason + (if g.region1 then 128 else 0) + 256 * (g.produced % 2 ^ 24))

/-- The generation of a context ends: its `APPEND`s that are not fed complete with its status, then it does
(R294, R304). -/
def State.endGen (n : Nat) (st : BitVec 16) (reason : Nat) (s : State) : State :=
  let c := s.ctx n
  match c.gen with
  | none => s
  | some g =>
    let fed := c.lenIn (s.regionOf n)
    let s := c.appends.foldl (fun s a => if a.upto ≤ fed then s.due a.handle stOk 0 else s.dueBefore a.handle g.handle st) s
    let s := (c.additions.filter (·.append)).foldl (fun s a => s.dueBefore a.handle g.handle st) s
    let s := s.onCtx n fun c => { c with
      gen := none, appends := []
      additions := c.additions.map fun a => { a with append := false, closes := false } }
    let s := s.onSrv fun v => { v with slots := v.slots.map fun x =>
      (x.1, if x.2.ctx = n then { x.2 with ended := true } else x.2) }
    s.dueEnd n g.handle st (g.detail reason)

/-- The boundary frees the context as a `CTX_CLOSE` would (R295, R391). -/
def State.closeDue (s : State) (n : Nat) : Bool :=
  (s.ctx n).closing && s.step.cut.all fun k => decide ((s.ctx n).closeOrder < k)

/-- A `CANCEL` of the context, or a `CTX_CLOSE` that resolves as one, is taken (R19, R295). -/
def State.cancelDue (s : State) (n : Nat) : Bool :=
  let c := s.ctx n
  c.cancels.any s.taken || c.closeHandle.any s.taken || s.closeDue n

/-- The `CANCEL`s of a context that are taken complete (R19). -/
def State.endCancels (n : Nat) (st : BitVec 16) (s : State) : State :=
  let hs := (s.ctx n).cancels.filter s.taken
  let s := s.onCtx n fun c => { c with cancels := c.cancels.filter fun h => decide (h ∉ hs) }
  hs.foldl (fun s h => s.due h st 0) s

/-- The generation of a context is cancelled: a marker, its completion, and those of the `CANCEL`s (R19,
R295). -/
def State.cancelGen (n : Nat) (s : State) : State :=
  (((s.marker n (s.cad.step.setWidth 32)).endGen n stCancelled 4)).endCancels n stOk

/-! ### Feeding (R276, R277, R281) -/

/-- A batch slot is on phase on this chip in a step (R276). -/
def State.onPhase (s : State) (b : BatchSlot) (step : Nat) : Bool :=
  if b.region = 1 then s.isServing
  else decide ((step + 65536 * s.chips * 65536 - b.n0 - s.fab.stage) % s.chips = 0)

/-- The positions fed to a slot in a step: none when it is off phase or nothing is pending (R277). -/
def State.feedOf (s : State) (b : BatchSlot) (step : Nat) : Nat :=
  let c := s.ctx b.ctx
  if s.onPhase b step then min b.chunk (c.hist - c.lenIn b.region) else 0

/-- Byte address in tier 1 of an offset of the serving window (R279). -/
def State.servingAt (s : State) (o : Nat) : Option Nat :=
  match s.windowAt 15 o with
  | .addr a => some a
  | _ => none

/-- Bytes that the hub writes into the serving window (R279). -/
def State.putServing (o : Nat) (bs : List (BitVec 8)) (s : State) : State :=
  match s.servingAt o with
  | none => s
  | some a => s.t1Write a bs

/-- The input entry and the token list of a slot, written by stage 0's hub (R279, R281). -/
def State.putInput (slot : Nat) (s : State) : State :=
  let e := 0x1000 + 16 * slot
  match s.srv.slots.find? fun x => decide (x.1 = slot), Sparse.get 0 s.srv.fed slot with
  | some (_, b), f =>
    if f = 0 then s.putServing e (List.replicate 16 0)
    else
      let first := (s.ctx b.ctx).lenIn b.region
      let s := s.putServing e (leBytes 2 f ++ leBytes 1 b.region ++ [0] ++ leBytes 4 first ++ leBytes 4 (first + f) ++ leBytes 4 0)
      s.putServing (0x2000 + 4096 * slot) (s.getHist b.ctx first f)
  | none, _ => s.putServing e (List.replicate 16 0)

/-- The slots that generate in a step: they are fed position H − 1, the input is closed, and tokens remain to
be produced (R277). -/
def State.genSlots (s : State) (fed : SMap Nat) : List Nat :=
  (s.srv.slots.filter fun x =>
    let c := s.ctx x.2.ctx
    let f := Sparse.get 0 fed x.1
    s.isServing && decide (f ≠ 0) && decide (c.lenIn x.2.region + f = c.hist) &&
      c.gen.any fun g => !g.open_ && decide (g.produced < g.maxTokens)).map (·.1)

/-- The next step's inputs become its staging set (R15 phase 11): what each slot is fed, and on stage 0 the input
entries. -/
def State.stageInputs (s : State) : State :=
  let n := s.cad.step.toNat
  let fed := s.srv.slots.foldl (fun m x => Sparse.set 0 m x.1 (s.feedOf x.2 n)) []
  let s := s.onSrv fun v => { v with fed := fed }
  let s := s.onSrv fun v => { v with gens := s.genSlots fed }
  if s.fab.stage = 0 then (List.range (imgHeader s.active).slots).foldl (fun s i => s.putInput i) s else s

/-! ### Publication (R18, R19, R277 to R280, R293 to R295) -/

/-- The result entry of a slot (R280): token, log-probability, stop and valid. -/
def State.resultOf (s : State) (slot : Nat) : BitVec 32 × BitVec 16 × Bool × Bool :=
  match s.servingAt (16 * slot) with
  | none => (0, 0, false, false)
  | some a =>
    let bs := if (s.dirEntry 1 (a / pageBytes)).zero then List.replicate 16 0 else Mem.reads s.mem.t1 a 16
    (BitVec.ofNat 32 (fieldAt bs 0 4), BitVec.ofNat 16 (fieldAt bs 4 2), (byteAt bs 6).getLsbD 0,
      decide (byteAt bs 7 = 1))

/-- Why a token would be final: stop, then `max_tokens`, then the length limit; 0 when it is not (R294). -/
def Context.finalReason (c : Context) (g : Gen) (stop : Bool) : Nat :=
  if stop then 2 else if g.maxTokens ≤ g.produced + 1 then 1 else if 65535 ≤ c.hist + 1 then 3 else 0

/-- The history of a context rises by a token (R277). -/
def State.addToken (n : Nat) (t : BitVec 32) (s : State) : State :=
  (s.putHist n (s.ctx n).hist [t]).onCtx n fun c => { c with hist := c.hist + 1 }

/-- The committed length of a slot's occupant rises by the positions it was fed (R277). -/
def State.commitFed (x : Nat × BatchSlot) (s : State) : State :=
  let f := Sparse.get 0 s.srv.fed x.1
  s.onCtx x.2.ctx fun c => if x.2.region = 1 then { c with lenFb := c.lenFb + f } else { c with len := c.len + f }

/-- What phase 2 does for a slot on the serving chip (R18, R19, R277 to R280, R294, R295). -/
def State.publishSlot (x : Nat × BatchSlot) (s : State) : State :=
  let n := x.2.ctx
  let c := s.ctx n
  let f := Sparse.get 0 s.srv.fed x.1
  let s := s.commitFed x
  match c.gen with
  | none => s
  | some g =>
    let gens := decide (x.1 ∈ s.srv.gens)
    let (tok, lp, stop, valid) := s.resultOf x.1
    let reason := if gens && valid then c.finalReason g stop else 0
    if reason = 0 ∧ s.cancelDue n then s.cancelGen n
    else if gens then
      if !valid then (s.raiseSrv 6).endGen n stCheckFailed 6
      else
        let s := s.putToken n tok (s.cad.step.setWidth 32) lp (s.tokenFlags n (decide (reason ≠ 0)) false x.2.region) true
        let s := (s.addToken n tok).onCtx n fun c => { c with gen := c.gen.map fun g => { g with
          produced := g.produced + 1, region1 := g.region1 || decide (x.2.region = 1) } }
        if reason = 0 then s else s.endGen n stOk reason
    else if g.maxTokens = 0 ∧ !g.open_ ∧ (g.prefillDone ∨ (f ≠ 0 ∧ c.lenIn x.2.region + f = c.hist)) then
      s.endGen n stOk 5
    else s

/-- What phase 2 does for a context that waits (R278, R295). -/
def State.publishWaiting (n : Nat) (s : State) : State :=
  let c := s.ctx n
  match c.state, c.gen with
  | .waiting, some g =>
    if s.cancelDue n then (s.cancelGen n).onCtx n fun c => { c with state := .idle }
    else if g.prefillDone then (s.endGen n stOk 5).onCtx n fun c => { c with state := .idle }
    else s
  | _, _ => s

/-- `APPEND`s whose positions are fed, `CANCEL`s of generations that have ended, and `CTX_CLOSE`s of contexts
that have none, complete (R19, R295, R304). -/
def State.settleCtx (n : Nat) (s : State) : State :=
  let c := s.ctx n
  let fed := c.lenIn (s.regionOf n)
  let s := (c.appends.filter fun a => decide (a.upto ≤ fed)).foldl (fun s a => s.due a.handle stOk 0) s
  let s := s.onCtx n fun c => { c with appends := c.appends.filter fun a => decide (fed < a.upto) }
  if c.gen.isSome || decide (c.state = .moving) then s
  else
    let s := s.endCancels n stFinished
    match c.closeHandle with
    | none => s
    | some h => if s.taken h ∧ c.heldRecs = [] then
        (s.due h stOk 0).onCtx n fun c => { c with
          closeHandle := none, closing := true
          closeOrder := if c.closing then min c.closeOrder (s.orderOf h) else s.orderOf h } else s

/-- Place, in the order of acceptance, of what cancels a context's generation at the boundary: the first of its `CANCEL`s
that are taken, its `CTX_CLOSE`, or the stop of its function; 0 where nothing does. -/
def State.cancelRank (s : State) (n : Nat) : Nat :=
  let c := s.ctx n
  let hs := (c.cancels ++ c.closeHandle.toList).filter s.taken
  let ranks := hs.map s.orderOf ++ (if s.closeDue n then [c.closeOrder] else [])
  (ranks.min?).getD 0

/-- Phase 2 on the serving chip: the records that waited for room, those of the slots, those of waiting contexts in the order
in which what cancels them was accepted, and what follows from them (R17, R18; assumptions 45 and 199). -/
def State.publish (s : State) : State :=
  let s := s.openCtxs.foldl (fun s n => if (s.ctx n).heldRecs = [] then s else s.flushHeld n) s
  let s := (s.srv.slots.mergeSort fun a b => decide (a.1 ≤ b.1)).foldl (fun s x => s.publishSlot x) s
  (s.openCtxs.mergeSort fun a b => decide (s.cancelRank a ≤ s.cancelRank b)).foldl
    (fun s n => (s.publishWaiting n).settleCtx n) s

/-- Phase 2 on another chip of the partition: the lengths of the slots, and the tokens that the serving chip
announced (R274, R277). -/
def State.publishPeer (es : List SlotEntry) (s : State) : State :=
  let s := s.srv.slots.foldl (fun s x => s.commitFed x) s
  es.foldl (fun s e => if e.ops.getLsbD 3 then match s.srv.slots.find? fun x => decide (x.1 = e.slot) with
    | some x => s.addToken x.2.ctx e.token
    | none => s else s) s

/-! ### Slot changes (R283, R284, R289, R290) -/

/-- A slot entry noted for the verdict frame: one for each slot (R327). -/
def State.noteSlot (e : SlotEntry) (s : State) : State :=
  s.onStep fun g =>
    let (es, adds) := g.serial.getD ([], [])
    let enters : Bool := e.ops.getLsbD 1 || e.ops.getLsbD 2
    let new := match es.find? fun x => decide (x.slot = e.slot) with
      | none => es ++ [e]
      | some _ => es.map fun x => if x.slot = e.slot then { x with
          ops := x.ops ||| e.ops, ctx := if enters then e.ctx else x.ctx
          chunk := if enters then e.chunk else x.chunk
          token := if e.ops.getLsbD 3 then e.token else x.token } else x
    { g with serial := some (new, adds) }

/-- A context leaves its slot: back to waiting while a generation is left, else idle (R272, R284). One that closes is freed
at the end of phase 7, by `State.freeClosing` (R295). -/
def State.leaveSlot (slot : Nat) (s : State) : State :=
  match s.srv.slots.find? fun x => decide (x.1 = slot) with
  | none => s
  | some x =>
    let n := x.2.ctx
    let c := s.ctx n
    let s := s.onSrv fun v => { v with
      slots := v.slots.filter fun y => decide (y.1 ≠ slot), leaves := satInc v.leaves }
    if c.state ≠ .running then s
    else s.onCtx n fun c => { c with
      state := if c.gen.isSome then .waiting else .idle, waitSince := s.srv.waitClock }

/-- The slots that are left in phase 7 on the serving chip: the generation has ended, the context closes, a
`SUSPEND` drain applies, or the ring lacks room (R284, R285). -/
def State.leavingSlots (s : State) : List (Nat × Bool) :=
  s.srv.slots.filterMap fun x =>
    let c := s.ctx x.2.ctx
    let ring := decide (c.ring ≠ 0) && c.gen.isSome && decide (c.ringFree < 2)
    let idle := c.gen.isNone && (!s.hostFormed || x.2.ended)
    if idle || s.closeDue x.2.ctx || (s.draining && s.cyl.suspend) then some (x.1, false)
    else if ring then some (x.1, true) else none

/-- Phase 7 on the serving chip (R284, R285). -/
def State.phase7 (s : State) : State :=
  (s.leavingSlots.mergeSort fun a b => decide (a.1 ≤ b.1)).foldl (fun s x =>
    let occ := (s.srv.slots.find? fun y => decide (y.1 = x.1)).map (·.2.ctx)
    let s := s.noteSlot { slot := x.1, ops := 1, ctx := s.ctxIdent (occ.getD 0), token := 0, chunk := 0 }
    let s := s.onStep fun g => { g with
      leavesN := g.leavesN + 1, ringWaits := g.ringWaits + (if x.2 then 1 else 0) }
    s.leaveSlot x.1) s

/-- The region that a slot lies in. -/
def regionSlots (img : List (BitVec 8)) (r : Nat) : List Nat :=
  match imgRegion img r with
  | none => []
  | some x => (List.range x.count).map (· + x.first)

/-- The lowest free slot of a region (R283). A slot that a pre-emption has released is given to the context that
pre-empted, and is not free (R289). -/
def State.freeSlotIn (s : State) (r : Nat) : Option Nat :=
  (regionSlots s.active r).find? fun i =>
    !(s.srv.slots.any fun x => decide (x.1 = i)) && !s.srv.preempted.any fun x => decide (x.1 = i)

/-- Tokens that a generation has left to produce (R283). -/
def Context.remaining (c : Context) : Nat := match c.gen with
  | none => 0
  | some g => g.maxTokens - g.produced

/-- The conditions of a join but for a free slot and pages (R283). -/
def State.fits (s : State) (n r : Nat) : Bool :=
  let c := s.ctx n
  match imgRegion s.active r with
  | none => false
  | some x =>
    let b : Binding := ⟨x.model, x.version⟩
    (if r = 1 then decide (c.fallback = some b) else decide (c.base = b) && (c.adapter.isNone || x.adapters)) &&
      (decide (c.ring = 0) || decide (2 ≤ c.ringFree))

/-- The predicted completion of a context, in region 1 where it runs there, else in region 0 (R288, R290). -/
def State.predicted (s : State) (b n : Nat) : Nat :=
  let c := s.ctx n
  match c.gen with
  | none => b
  | some g =>
    let fb := decide (c.state = .running) && decide (s.regionOf n = 1)
    let q := ceilDiv (c.hist - c.lenIn (if fb then 1 else 0)) (max 1 (if fb then c.fbChunk else g.chunk))
    b + (if fb then 1 else s.chips) * s.cad.period.value.toNat * (q + (c.remaining - 1))

/-- A context enters a slot (R283, R289). -/
def State.enterSlot (slot n region chunk : Nat) (s : State) : State :=
  (s.onSrv fun v => { v with slots := (v.slots.filter fun x => decide (x.1 ≠ slot)) ++
    [(slot, { ctx := n, region := region, n0 := s.nextStep, chunk := chunk, ended := false })] }).onCtx n
      fun c => { c with state := .running }

/-- The entries of a fallback placement: that of its slot of region 1, and one of the slot of region 0 that it releases, whose
occupancy changes too; the bit for the placement says so, hence that one sets none (R327; DEDUCED, assumption 200). -/
def State.notePlacement (slot n chunk : Nat) (s : State) : State :=
  let s := match s.slotOf n with
    | some old => s.noteSlot { slot := old, ops := 0, ctx := s.ctxIdent n, token := 0, chunk := 0 }
    | none => s
  s.noteSlot { slot := slot, ops := bit 8 2, ctx := s.ctxIdent n, token := 0, chunk := BitVec.ofNat 16 chunk }

/-- A context is placed in a slot of region 1, its slot in region 0 released (R289, R290). -/
def State.placeFallback (slot n chunk : Nat) (s : State) : State :=
  let c := s.ctx n
  let s := match s.slotOf n with
    | none => s
    | some old => s.onSrv fun v => { v with
        slots := v.slots.filter fun x => decide (x.1 ≠ old), leaves := satInc v.leaves }
  let s := s.onCtx n fun c => { c with
    lenFb := if c.fbVersion = c.fallback then c.lenFb else 0, fbVersion := c.fallback }
  let s := s.onStep fun g => { g with placedN := g.placedN + 1 }
  ((s.onSrv fun v => { v with movesFb := satInc v.movesFb }).raiseSrv 1).enterSlot slot n 1 (if c.gen.isSome then c.fbChunk else chunk)

/-- A context joins a slot of region 0 (R283). -/
def State.join (slot n chunk : Nat) (s : State) : State :=
  let s := s.onStep fun g => { g with joinsN := g.joinsN + 1 }
  (s.onSrv fun v => { v with joins := satInc v.joins }).enterSlot slot n 0 chunk

/-- A running context is released by pre-emption (R289). -/
def State.preempt (slot : Nat) (s : State) : State :=
  let s := s.leaveSlot slot
  (s.onSrv fun v => { v with preempts := satInc v.preempts }).raiseSrv 2

/-- A miss is left unremedied (R289). -/
def State.missOne (n : Nat) (s : State) : State := s.onStep fun g => { g with missed := g.missed ++ [n] }

/-- The context that a pre-emption releases: running in region 0, not yet taken, with the latest deadline later
than the candidate's (R289). -/
def State.victim (s : State) (n : Nat) (done : List Nat) : Option (Nat × Nat) :=
  let key (m : Nat) : Nat := if (s.ctx m).deadline = 0 then 2 ^ 64 else (s.ctx m).deadline.toNat
  let vs := (s.srv.slots.filter fun x => decide (x.2.region = 0) && decide (x.2.ctx ∉ done) &&
    decide (key n < key x.2.ctx)).map fun x => (x.1, x.2.ctx)
  (vs.mergeSort fun a b => decide (key b.2 < key a.2) || (decide (key a.2 = key b.2) && decide (b.2 ≤ a.2))).head?

/-- A generation of the context is taken by the boundary (R17, R22). -/
def State.eligibleCtx (s : State) (n : Nat) : Bool := (s.ctx n).gen.any fun g => s.taken g.handle

/-- One candidate of the deadline monitor at the boundary of tick `b`; `done` are the contexts already taken
(R289). -/
def State.monitor (b n : Nat) (r : State × List Nat) : State × List Nat :=
  let (s, done) := r
  let c := s.ctx n
  let t := s.predicted b n
  let dl := c.deadline.toNat
  let waits := decide (c.state = .waiting)
  if t ≤ dl then
    if waits ∧ (s.freeSlotIn 0).isNone = true ∧ dl < t + s.cad.period.value.toNat ∧ s.fits n 0 ∧
        (s.giveKv n 0 c.hist c.remaining).isSome ∧ !s.draining then
      match s.victim n done with
      | none => (s, done ++ [n])
      | some (slot, v) =>
        let s := s.noteSlot { slot := slot, ops := bit 8 4, ctx := s.ctxIdent v, token := 0, chunk := 0 }
        let s := (s.preempt slot).onSrv fun w => { w with preempted := w.preempted ++ [(slot, n)] }
        (s, done ++ [n, v])
    else (s, done ++ [n])
  else match (if s.fits n 1 ∧ (!waits ∨ !s.draining) then s.freeSlotIn 1 else none) with
    | none => (s.missOne n, done ++ [n])
    | some slot => match s.giveKv n 1 c.hist c.remaining with
      | none => (s.missOne n, done ++ [n])
      | some s =>
        ((s.notePlacement slot n c.fbChunk).placeFallback slot n c.fbChunk, done ++ [n])

/-- The candidates of the deadline monitor: with a deadline, running in region 0 or waiting, in ascending
deadline, then number (R289); with host-formed batches, where it only predicts, running in region 1 too (R286, R288). -/
def State.candidates (s : State) : List Nat :=
  let cs := s.openCtxs.filter fun n =>
    let c := s.ctx n
    decide (c.deadline ≠ 0) && c.gen.isSome && s.eligibleCtx n &&
      (decide (c.state = .waiting) || (decide (c.state = .running) && (decide (s.regionOf n = 0) || s.hostFormed)))
  cs.mergeSort fun a b => decide ((s.ctx a).deadline.toNat < (s.ctx b).deadline.toNat) ||
    (decide ((s.ctx a).deadline = (s.ctx b).deadline) && decide (a ≤ b))

/-- Phase 8 on the serving chip: the deadline monitor; with host-formed batches it only counts misses (R286,
R289). -/
def State.phase8 (b : Nat) (s : State) : State :=
  if s.hostFormed then
    s.candidates.foldl (fun s n => if s.predicted b n ≤ (s.ctx n).deadline.toNat then s else s.missOne n) s
  else (s.candidates.foldl (fun r n => State.monitor b n r) (s, [])).1

/-! ### Additions and the close of input (R275, R277, R278) -/

/-- The tokens of an addition are written into the history list of the context on stage 0, from history position
`pos` on (R275). Where that list lies on the other chip is known to that chip only (assumption 26). -/
def State.remoteHistory (n : Nat) (h : BitVec 32) (pos : Nat) (ts : List (BitVec 32)) (s : State) : State :=
  let chip := s.fab.memberChips.getD 0 0
  let base := (s.free 18 : BitVec 18).toNat * pageBytes
  let s := s.drawn
  (List.range (ceilDiv ts.length 1024)).foldl (fun s k =>
    let bs := ((ts.drop (1024 * k)).take 1024).flatMap (bvBytes 4)
    s.remoteSend chip true (mkGa chip 1 (base + 4 * (pos + 1024 * k))) bs.length bs (.history n h)) s

/-- The additions that wait behind a refused `APPEND` enter at lower positions than those for which they were written into
the history of stage 0: in a larger partition they are written again, and announced only once that is acknowledged
(R275). -/
def State.resendHistory (n : Nat) (s : State) : State :=
  if s.chips = 1 then s
  else
    let c := s.ctx n
    let s := s.onCtx n fun c => { c with additions := c.additions.map fun a =>
      { a with acked := decide (a.tokens = []), announced := false, refused := false } }
    (c.additions.foldl (fun r a =>
      (if a.tokens = [] then r.1 else r.1.remoteHistory n a.handle r.2 a.tokens, r.2 + a.tokens.length)) (s, c.hist)).1

/-- An addition enters the history (R277); an `APPEND` whose pages cannot be given completes `NO_SPACE` and adds
nothing (R304). On the serving chip of a larger partition that was decided at the instant of its verdict frame (R274). -/
def State.admitOne (n : Nat) (a : Addition) (s : State) : State :=
  let c := s.ctx n
  let s := s.onCtx n fun c => { c with additions := c.additions.erase a }
  let region := s.regionOf n
  let h := c.hist + a.tokens.length
  let given := if a.handle ∈ s.step.barred then none
    else if a.append then s.giveKv n region h c.remaining else some s
  match given with
  | none => ((s.complete a.handle stNoSpace 0).onStep fun g => { g with barred := g.barred ++ [a.handle] }).resendHistory n
  | some s =>
    let s := (s.putHist n c.hist a.tokens).onCtx n fun c => { c with hist := h }
    let s := if a.append then s.onCtx n fun c => { c with
        appends := c.appends ++ [{ handle := a.handle, upto := if a.tokens = [] then 0 else h }] } else s
    if a.closes then
      let empty := decide (h = c.lenIn region)
      s.onCtx n fun c => { c with gen := c.gen.map fun g => { g with
        open_ := false
        prefillDone := empty && decide (g.maxTokens = 0)
        rewind := empty && decide (g.maxTokens ≠ 0) } }
    else s

/-- The additions of the open contexts that `ok` picks, each with its context, in the order in which their commands were
accepted (R17). -/
def State.additionsOf (s : State) (ok : Addition → Bool) : List (Nat × Addition) :=
  (s.openCtxs.flatMap fun n => ((s.ctx n).additions.takeWhile ok).map fun a => (n, a)).mergeSort
    fun a b => decide (s.orderOf a.2.handle ≤ s.orderOf b.2.handle)

/-- The additions that the boundary takes enter the history: those whose commands are taken, and in a larger
partition those that were announced (R274, R275, R277). A context that has no history page yet, and can get
none, keeps its additions waiting; so does one whose earlier `APPEND` is refused, until they are written anew. -/
def State.enrol (s : State) : State :=
  (s.additionsOf fun a => if s.chips = 1 then s.taken a.handle else a.announced).foldl (fun s x =>
    if x.2 ∉ (s.ctx x.1).additions then s
    else match s.giveHist x.1 with
    | none => s
    | some s => s.admitOne x.1 x.2) s

/-- The rewind of a context (R278): the committed length that its region feeds from leaves one position pending; ℓ does not
change in region 1 (R290). Every chip of a partition applies the same rewind; on a chip whose length is below that already,
as ℓ_f is on every chip but the serving chip, it stays (DEDUCED, assumption 181). -/
def Context.rewound (region : Nat) (c : Context) : Context :=
  { c with
    gen := c.gen.map fun g => { g with rewind := false }
    len := if region = 1 then c.len else min c.len (c.hist - 1)
    lenFb := if region = 1 then min c.lenFb (c.hist - 1) else c.lenFb }

/-- Rewinds that are due take effect: in a larger partition once the context holds a slot, marked in its slot
entry (R278). -/
def State.rewinds (s : State) : State :=
  s.openCtxs.foldl (fun s n =>
    let slot := s.slotOf n
    if (s.ctx n).gen.any (·.rewind) ∧ (s.chips = 1 ∨ slot.isSome) then
      let s := match slot with
        | some i => s.noteSlot { slot := i, ops := bit 8 5, ctx := s.ctxIdent n, token := 0, chunk := 0 }
        | none => s
      s.onCtx n (Context.rewound (s.regionOf n))
    else s) s

/-! ### Joins (R22, R283) -/

/-- A context joins a slot, its pages given; counted among the waits where they cannot be (R283). -/
def State.tryJoin (slot n : Nat) (s : State) : State :=
  let c := s.ctx n
  match s.giveKv n 0 c.hist c.remaining with
  | none => s.onStep fun g => { g with pageWaits := g.pageWaits + 1 }
  | some s =>
    let chunk := (c.gen.map (·.chunk)).getD 1
    let s := s.noteSlot { slot := slot, ops := bit 8 1, ctx := s.ctxIdent n, token := 0, chunk := BitVec.ofNat 16 chunk }
    s.join slot n chunk

/-- The waiting contexts in the order in which the device takes them (R283). -/
def State.waiters (s : State) : List Nat :=
  let ws := s.openCtxs.filter fun n => decide ((s.ctx n).state = .waiting) && s.eligibleCtx n
  let key (n : Nat) : Nat := if (s.ctx n).deadline = 0 then 2 ^ 64 else (s.ctx n).deadline.toNat
  ws.mergeSort fun a b => decide (key a < key b) || (decide (key a = key b) &&
    (decide ((s.ctx a).waitSince < (s.ctx b).waitSince) ||
      (decide ((s.ctx a).waitSince = (s.ctx b).waitSince) && decide (a ≤ b))))

/-- The waits and misses decided for the boundary are counted (R285, R289, R307). -/
def State.countNotes (s : State) : State :=
  let g := s.step
  let s := s.onSrv fun v => { v with
    waitsRing := satAdd v.waitsRing g.ringWaits, waitsPages := satAdd v.waitsPages g.pageWaits
    misses := satAdd v.misses g.missed.length }
  let s := if g.ringWaits ≠ 0 then s.raiseSrv 3 else s
  g.missed.foldl (fun s n =>
    if (s.ctx n).gen.any fun g => !g.missed then
      (s.onCtx n fun c => { c with gen := c.gen.map fun g => { g with missed := true } }).raiseSrv 0
    else s) s

/-- Some page of a context is in a move (R208). -/
def State.ctxBusy (s : State) (n : Nat) : Bool :=
  let c := s.ctx n
  (c.kvList ++ c.fbList ++ c.histPage.toList).any fun g => (s.dirEntry (gaSlot g).1 (gaSlot g).2).state.inMove

/-- Place of the close of a context in the order of acceptance: of its `CTX_CLOSE`, else of the stop of its function. -/
def State.closeRank (s : State) (n : Nat) : Nat :=
  let c := s.ctx n
  match c.closeHandle with
  | some h => s.orderOf h
  | none => c.closeOrder

/-- What still waits behind records for which a ring had no room completes, where the stop of its function frees the context
(R391; DESIGN CHOICE, assumption 199). -/
def State.endHeld (n : Nat) (s : State) : State := (s.ctx n).heldEnds.foldl (fun s x => s.complete x.1 x.2.1 x.2.2) s

/-- Contexts that close and hold no slot are freed in phase 7, in the order in which their closes were accepted (R17,
R295); on a chip other than the serving chip the close then completes. -/
def State.freeClosing (s : State) : State :=
  (s.openCtxs.mergeSort fun a b => decide (s.closeRank a ≤ s.closeRank b)).foldl (fun s n =>
    let c := s.ctx n
    if (s.slotOf n).isSome ∨ c.state = .moving ∨ s.ctxBusy n then s
    else if s.closeDue n then ((s.endHeld n).freeCtx n).completeOpt c.closeHandle stOk 0
    else match c.closeHandle with
      | some h => if !s.isServing && s.taken h then (s.freeCtx n).complete h stOk 0 else s
      | none => s) s

/-! ### Host-formed batches (R286) -/

/-- The pages with which a context enters a slot. The serving chip gives those that the join or placement needs (R283). A
verdict frame does not carry how many tokens remain, so another chip gives the KV list every page that the context can need,
its `kv_pages` (assumption 153); region 1 runs on the serving chip alone, and needs none elsewhere (R276). -/
def State.slotPages (n region : Nat) (s : State) : Option State :=
  let c := s.ctx n
  if s.isServing then s.giveKv n region c.hist c.remaining
  else if region = 1 then some s
  else s.growList n 0 c.kvPages c.kvPages

/-- A chip withdraws from its partition (R347). -/
def State.withdraw (s : State) : State :=
  if s.hlt.withdrawn then s
  else (s.onHlt fun h => { h with
    withdrawn := true, withdrawNow := true, withdrawals := satInc h.withdrawals }).raiseHlt 2

/-- The entry of a verdict frame that lets a context enter a slot (R327): by a fallback placement where `op` is 2, by a join
where it is 1. -/
def entryFor (op slot : Nat) (es : List SlotEntry) : Option SlotEntry :=
  es.find? fun e => decide (e.slot = slot) && e.ops.getLsbD (if op = 2 then 2 else 1)

/-- The list of a `BATCH_STEP` that the boundary applies, one phase of it: leaves (3), fallback placements (2),
joins (1); skipped entries are counted (R286). `told` is what the serving chip announced: it gives the chunks, and its
drain, not that of another chip, decides which contexts enter (R154); none where this chip decides. A chip of a larger
partition that lacks the pages withdraws (R283); alone, it leaves the context waiting, as a join that is deferred. -/
def State.applyBatch (op : Nat) (told : Option (List SlotEntry)) (s : State) : State :=
  (s.srv.batches.filter fun b => !b.applied && decide (b.atStep.toNat = s.nextStep)).foldl (fun s b =>
    (b.entries.filter fun e => decide (e.2.1 = op)).foldl (fun s e =>
      let skip (s : State) : State := s.onSrv fun v => { v with batches := v.batches.map fun x =>
        if x.handle = b.handle then { x with skippedN := x.skippedN + 1 } else x }
      let n := e.2.2.toNat % 1024
      let c := s.ctx n
      let occupied := s.srv.slots.any fun x => decide (x.1 = e.1)
      let stale := decide (c.state = .free) || decide (s.ctxIdent n ≠ e.2.2)
      if stale then skip s
      else if op = 3 then
        if !occupied then skip s
        else
          let s := s.noteSlot { slot := e.1, ops := 1, ctx := s.ctxIdent n, token := 0, chunk := 0 }
          (s.onStep fun g => { g with leavesN := g.leavesN + 1 }).leaveSlot e.1
      else if occupied || (decide (c.state ≠ .waiting) && decide (c.state ≠ .idle)) ||
          (match told with
            | some es => (entryFor op e.1 es).isNone
            | none => s.draining) then skip s
      else
        let region := if op = 2 then 1 else 0
        match s.slotPages n region with
        | none => if s.chips = 1 then s.onStep fun g => { g with pageWaits := g.pageWaits + 1 } else s.withdraw
        | some s =>
          let chunk := ((told.bind (entryFor op e.1)).map (·.chunk.toNat)).getD (if region = 1 then c.fbChunk else (c.gen.map (·.chunk)).getD 1)
          if op = 2 then (s.notePlacement e.1 n chunk).placeFallback e.1 n chunk
          else (s.noteSlot { slot := e.1, ops := bit 8 1, ctx := s.ctxIdent n, token := 0,
                             chunk := BitVec.ofNat 16 chunk }).join e.1 n chunk) s) s

/-- Phase 9 on the serving chip: the additions, from its start (R277), the joins of host-formed batches (R286), the slots of
pre-emption and the other joins (R283, R289), and the rewinds (R278). -/
def State.phase9 (s : State) : State :=
  let s := s.enrol.applyBatch 1 none
  let s := s.srv.preempted.foldl (fun s p => s.tryJoin p.1 p.2) s
  let s := s.onSrv fun v => { v with preempted := [] }
  let s := if s.hostFormed || s.draining then s
    else s.waiters.foldl (fun s n =>
      if (s.ctx n).state = .waiting ∧ s.fits n 0 then match s.freeSlotIn 0 with
        | none => s
        | some slot => s.tryJoin slot n
      else s) s
  s.rewinds

/-- The `BATCH_STEP`s of the boundary have been applied (R304). -/
def State.batchesApplied (s : State) : State :=
  let step := s.nextStep
  s.onSrv fun v => { v with batches := v.batches.map fun b =>
    if !b.applied ∧ b.atStep.toNat = step then { b with applied := true } else b }

/-- The `BATCH_STEP`s applied at an earlier boundary complete in phase 2 (R304). -/
def State.completeBatches (s : State) : State :=
  let bs := s.srv.batches.filter (·.applied)
  let s := s.onSrv fun v => { v with batches := v.batches.filter fun b => !b.applied }
  bs.foldl (fun s b => s.due b.handle stOk (BitVec.ofNat 32 b.skippedN)) s

/-! ### The serving section of a verdict frame (R274, R327) -/

/-- Phases 7, 8 and 9 of the serving chip for a boundary of tick `b`; contexts that close are freed in phase 7 (R295). -/
def State.plan (b : Nat) (s : State) : State :=
  let s := (s.applyBatch 3 none).phase7.freeClosing
  ((s.applyBatch 2 none).phase8 b).phase9

/-- The additions that the verdict frame can announce: taken, and acknowledged by stage 0, each after those of its context
that were accepted before it; at most 104 (R275, R327). -/
def State.readyAdds (s : State) : List (Nat × Addition) :=
  (s.additionsOf fun a => a.acked && s.taken a.handle).take 104

/-- A `RELEASE` that the boundary takes: the drain ends, and the `DRAIN` completes before it (R154), even one that was accepted
after the `RELEASE`: a drain is in progress from its acceptance (DEDUCED, assumption 129). -/
def State.takeReleases (s : State) : State :=
  ((s.waitingFor 0x62 fun _ => true).filter fun x => s.taken x.1).foldl (fun s x =>
    let s := match s.cyl.drainHandle with
      | some h => s.due h stCancelled 0
      | none => s
    ((s.working x.1).onCyl fun y => { y with drain := 0, drainHandle := none, suspend := false }).due x.1 stOk 0) s

/-- The additions of the open contexts marked as announced: those in `as`, and no other (R274). -/
def State.markAnnounced (as : List (Nat × Addition)) (s : State) : State :=
  s.openCtxs.foldl (fun s n => s.onCtx n fun c => { c with
    additions := c.additions.map fun a => { a with announced := as.any fun x => decide (x.1 = n) && decide (x.2.handle = a.handle) } }) s

/-- The history pages that additions to be announced need are given at once, so that what is announced can be carried out
(R274); a context that can get none keeps its additions waiting. -/
def State.histReady (as : List (Nat × Addition)) (s : State) : List (Nat × Addition) × State :=
  as.foldl (fun r x => match r.2.giveHist x.1 with
    | none => r
    | some s => (r.1 ++ [x], s)) ([], s)

/-- The serving chip of a larger partition decides the boundary at the instant of its verdict frame: what it
announces, and which commands it has taken (R274, R327). An `APPEND` that it refuses for want of pages is not announced
(R304), nor is an addition behind it (R275). The pages that what it announces needs are given at once. -/
def State.announce (s : State) : State :=
  let s := s.onStep fun g => { g with cut := some s.cmd.orderNext, serial := none, barred := [] }
  let (ready, s) := s.histReady s.readyAdds
  let s := s.markAnnounced ready
  let tokens (s' : State) : State := s'.srv.gens.foldl (fun t i =>
    let r := s'.resultOf i
    match s'.srv.slots.find? fun x => decide (x.1 = i) with
    | some x =>
      -- a token that a cancellation leaves out is not announced (R295)
      if r.2.2.2 && !(s'.cancelDue x.2.ctx && ((s'.ctx x.2.ctx).gen.any fun g =>
          decide ((s'.ctx x.2.ctx).finalReason g r.2.2.1 = 0))) then
        t.noteSlot { slot := i, ops := bit 8 3, ctx := s'.ctxIdent x.2.ctx, token := r.1, chunk := 0 }
      else t
    | none => t) s'
  let rehearsed := (((tokens s).publish).takeReleases).plan s.cad.next
  let es := (rehearsed.step.serial.getD ([], [])).1
  let barred := rehearsed.step.barred
  let waits (x : Nat × Addition) : Bool := (rehearsed.ctx x.1).additions.any fun a => decide (a.handle = x.2.handle)
  let done := ready.filter fun x => !waits x
  let adds := done.filter fun x => decide (x.2.handle ∉ barred)
  let enters := es.filter fun e => e.ops.getLsbD 1 || e.ops.getLsbD 2
  let grown : List Nat := (((adds.filter fun x => x.2.append).map fun x => x.1) ++
    enters.map fun e : SlotEntry => e.ctx.toNat % 1024).eraseDups
  let s := grown.foldl (fun s n =>
    let c := rehearsed.ctx n
    (s.giveKv n (rehearsed.regionOf n) c.hist c.remaining).getD s) (s.markAnnounced done)
  s.onStep fun g => { g with
    barred := barred
    serial := some (es, adds.map fun a => (s.ctxIdent a.1, BitVec.ofNat 16 a.2.tokens.length))
    ringWaits := rehearsed.step.ringWaits, pageWaits := rehearsed.step.pageWaits, missed := rehearsed.step.missed }

/-- A join or placement that the serving chip announced; a chip other than the serving chip that lacks the pages
withdraws (R283). -/
def State.applyEnter (e : SlotEntry) (region : Nat) (s : State) : State :=
  let n := e.ctx.toNat % 1024
  match s.slotPages n region with
  | none => s.withdraw
  | some s =>
    if region = 1 then s.placeFallback e.slot n e.chunk.toNat else s.join e.slot n e.chunk.toNat

/-- Phases 7, 8 and 9 of a chip of a larger partition, from what the serving chip announced (R274, R286). The
regions of host-formed joins come from the chip's own `BATCH_STEP`. -/
def State.applySerial (es : List SlotEntry) (adds : List (BitVec 32 × BitVec 16)) (s : State) : State :=
  let formed := s.hostFormed
  let has (k : Nat) (e : SlotEntry) : Bool := e.ops.getLsbD k
  -- phase 7
  let s := if formed then s.applyBatch 3 (some es) else s
  let s := (es.filter (has 0)).foldl (fun s e =>
    if s.srv.slots.any fun x => decide (x.1 = e.slot) then
      (s.onStep fun g => { g with leavesN := g.leavesN + 1 }).leaveSlot e.slot else s) s
  let s := s.freeClosing
  -- phase 8
  let s := (es.filter (has 4)).foldl (fun s e => s.preempt e.slot) s
  let s := if formed then s.applyBatch 2 (some es) else
    (es.filter (has 2)).foldl (fun s e => s.applyEnter e 1) s
  -- phase 9
  let s := if s.isServing then s.enrol
    else adds.foldl (fun s a =>
      let n := a.1.toNat % 1024
      let s := s.holdHist n
      let s := if s.isStage0 && (s.ctx n).histPage.isNone then s.withdraw else s
      s.onCtx n fun c => { c with hist := c.hist + a.2.toNat }) s
  let s := if formed then s.applyBatch 1 (some es) else
    (es.filter (has 1)).foldl (fun s e => s.applyEnter e 0) s
  (es.filter (has 5)).foldl (fun s e =>
    let n := e.ctx.toNat % 1024
    s.onCtx n (Context.rewound (s.regionOf n))) s

/-! ### Losing contexts (R305, R346, R349) -/

/-- A context is lost: every pending command of it completes, the generation with reason 0x07 (R294, R305, R346,
R349). -/
def State.loseCtx (n : Nat) (st : BitVec 16) (s : State) : State :=
  let c := s.ctx n
  if c.state = .free then s
  else
    let gen := (c.gen.map (·.handle)).getD 0
    let s := (c.appends.map (·.handle) ++ (c.additions.filter (·.append)).map (·.handle)).foldl
      (fun s h => s.dueBefore h gen st) s
    let s := match c.gen with
      | none => s
      | some g => s.dueEnd n g.handle st (g.detail 7)
    let hs := c.cancels ++ c.closeHandle.toList ++ c.moveHandle.toList
    let s := hs.foldl (fun s h => s.due h st 0) s
    s.onCtx n fun c => { c with
      state := .lost, gen := none, appends := [], additions := [], cancels := [], closeHandle := none
      moveHandle := none, importFrom := none, importFail := none, imageAddr := none, ttl2At := none, ttl3At := none }

/-- The contexts of the partition are lost; `CONTEXT_LOST` says that contexts became `LOST` (R305, R307). -/
def State.losePartition (s : State) : State :=
  let ns := s.openCtxs.filter fun n => decide ((s.ctx n).state ≠ .parked) && decide ((s.ctx n).state ≠ .expired)
  let any := ns.any fun n => decide ((s.ctx n).state ≠ .lost)
  let s := ns.foldl (fun s n => s.loseCtx n stPeerLost) s
  if any then s.raiseSrv 5 else s

/-- Slots whose occupants are lost are released in phase 7, though the step was voided (R346, R349); each is a leave of the
boundary (R21). -/
def State.forcedLeaves (s : State) : State :=
  let out := s.srv.slots.filter fun x => decide ((s.ctx x.2.ctx).state = .lost)
  out.foldl (fun s x =>
    let s := s.onSrv fun v => { v with
      slots := v.slots.filter fun y => decide (y.1 ≠ x.1), leaves := satInc v.leaves
      fed := Sparse.set 0 v.fed x.1 0, gens := v.gens.filter fun i => decide (i ≠ x.1) }
    let s := s.onStep fun g => { g with leavesN := g.leavesN + 1 }
    (s.onHlt fun h => { h with forced := satInc h.forced }).raiseHlt 4) s

/-- Some region of the active cylinder serves the binding of a context (R283). -/
def State.served (s : State) (c : Context) : Bool :=
  (imgRegions s.active).any fun r => decide (c.base.model.toNat = r.model) && decide (c.base.version = r.version) && (c.adapter.isNone || r.adapters)

/-- Contexts whose binding no region of the incoming cylinder serves end their generations at a switch
(R287). -/
def State.unserved (s : State) : State :=
  s.openCtxs.foldl (fun s n =>
    let c := s.ctx n
    let served := s.served c
    match c.state, c.gen with
    | .waiting, some g =>
      if served then s
      else
        let hs := c.appends.map (·.handle) ++ (c.additions.filter (·.append)).map (·.handle)
        let s := s.completeAll hs stNotAllowed 0
        (s.complete g.handle stNotAllowed 0).onCtx n fun c => { c with
          state := .idle, gen := none, appends := []
          additions := c.additions.map fun a => { a with append := false, closes := false } }
    | _, _ => s) s

end Sys2Proof.Machine
end

