-- ==== Sys2Proof/Machine/Jobs.lean ====
section
/-!
DEFINITION. What follows from the work of a step: actions over pages that have ended, versions that may be freed,
and room that has appeared; and the form of a command whose step does such work.
-/
namespace Sys2Proof.Machine

/-- The status with which an action over pages ends (R221, R231). -/
def PageJob.status (j : PageJob) : BitVec 16 :=
  if j.cancelled then stCancelled
  else if j.peerLost then stPeerLost
  else if j.noSpace then stNoSpace
  else if j.failed ≠ 0 then stCheckFailed
  else if j.degraded ≠ 0 then stDegraded
  else stOk

/-- Pages of an action that did not move (R231). -/
def PageJob.unmoved (j : PageJob) : Nat := j.failed + j.stayed

/-- A `MOVE` ends: its result list, and its completion (R231). -/
def State.endMove (j : PageJob) (s : State) : State :=
  match j.handle with
  | none => s
  | some h =>
    let f := ((s.liveOf h).map fun l => l.func.toNat).getD 0
    (s.hostWrite f j.list.toNat (j.results.flatMap (bvBytes 8))).complete h j.status (BitVec.ofNat 32 j.unmoved)

/-- The pages of a context's lists (R270). -/
def Context.pageList (c : Context) : List (BitVec 64) := c.kvList ++ c.fbList ++ c.histPage.toList

/-- The pages of a parked context start to move to tier 1 (R298). -/
def State.beginResume (n : Nat) (s : State) : State :=
  s.startJob { PageJob.reset with purpose := .resume n, tier := 1, strict := true } (s.ctx n).pageList

/-- A park ends (R296). A park that could not move every page leaves the context `PARKED` all the same
(assumption 22). -/
def State.endPark (n : Nat) (j : PageJob) (s : State) : State :=
  let c := s.ctx n
  if c.state ≠ .moving then s
  else
    let s := s.onCtx n fun c => { c with
      state := .parked, moveHandle := none, ttl2At := c.ttl2At.map fun d => s.now + d, ttl3At := none }
    s.completeOpt c.moveHandle j.status (BitVec.ofNat 32 j.unmoved)

/-- The move of a parked context to tier 3 ends: it counts where some page moved, and its tier-3 timer starts, or the resume
that waited for it begins (R297, R298, R307). -/
def State.endToTier3 (n : Nat) (j : PageJob) (s : State) : State :=
  let c := s.ctx n
  let s := s.onCtx n fun c => { c with toTier3 := false }
  let s := if j.results.any fun g => decide (gaSpace g = 3) then s.onSrv fun v => { v with toTier3 := satInc v.toTier3 } else s
  if c.state = .parked then s.onCtx n fun c => { c with ttl3At := some (s.now + c.ttl3.toNat) }
  else if c.state = .moving then (s.onCtx n fun c => { c with ttlLeft := some (0, c.ttl3.toNat) }).beginResume n
  else s

/-- A resume ends: the context is idle, or parked again with its timers' remaining times (R298). -/
def State.endResume (n : Nat) (j : PageJob) (s : State) : State :=
  let c := s.ctx n
  if c.state ≠ .moving then s
  else
    let s := if j.failed = 0 then s.onCtx n fun c => { c with state := .idle, moveHandle := none, ttlLeft := none }
      else s.onCtx n fun c => { c with
        state := .parked, moveHandle := none, ttlLeft := none
        ttl2At := c.ttlLeft.bind fun x => if x.1 = 0 then none else some (s.now + x.1)
        ttl3At := c.ttlLeft.bind fun x => if x.2 = 0 then none else some (s.now + x.2) }
    s.completeOpt c.moveHandle j.status (BitVec.ofNat 32 j.unmoved)

/-- The context after an export: no pages, and lengths of 0 (R301). -/
def State.exported (n : Nat) (s : State) : State :=
  ((s.dropPages n).onCtx n fun c => { c with
    state := .idle, hist := 0, len := 0, lenFb := 0, fbVersion := none, moveHandle := none, imageAddr := none }).holdHist n

/-- An export to another chip ends (R301): every page moved, none, or only some. -/
def State.endExport (n : Nat) (j : PageJob) (s : State) : State :=
  let c := s.ctx n
  if c.state ≠ .moving then s
  else if j.failed = 0 then
    -- the pages that moved are no longer here
    let s := (s.onCtx n fun c => { c with
      kvList := [], histPage := if c.histCarried.isSome then none else c.histPage }).exported n
    s.completeOpt c.moveHandle (if j.cancelled then stCancelled else stOk) 0
  else
    let carried := c.kvList ++ c.histCarried.toList
    if carried.all fun g => decide ((s.dirEntry (gaSlot g).1 (gaSlot g).2).state = .home) then
      (s.onCtx n fun c => { c with state := .idle, moveHandle := none }).completeOpt c.moveHandle j.status 0
    else
      let s := (s.onCtx n fun c => { c with moveHandle := none }).completeOpt c.moveHandle j.status 0
      ((s.loseCtx n j.status).raiseSrv 5).writeDues

/-- The page of a context is on its way from another chip. -/
def State.arriving (s : State) (n : Nat) : Bool :=
  s.mem.remotes.any fun r =>
    let e := s.dirEntry r.tier.toNat r.slot
    !r.outgoing && decide (e.ownerKind = ownContext) && decide (e.ownerId.toNat = n)

/-- An import from another chip that has failed ends once its pages in progress are over: the context is lost where some
page had committed, and unchanged otherwise (R301, R302). -/
def State.endFailedImport (n : Nat) (s : State) : State :=
  let c := s.ctx n
  match c.importFail with
  | none => s
  | some st =>
    if s.arriving n then s
    else if c.pageList = [] then
      ((s.onCtx n fun c => { c with state := .idle, importFrom := none, importFail := none, moveHandle := none }).holdHist n).completeOpt
        c.moveHandle st 0
    else ((s.loseCtx n st).raiseSrv 5).writeDues

/-- The imports that have failed end. -/
def State.endImports (s : State) : State := s.openCtxs.foldl (fun s n => s.endFailedImport n) s

/-- An action over pages has ended. -/
def State.endJob (j : PageJob) (s : State) : State :=
  let s := s.onMem fun m => { m with jobs := m.jobs.filter fun x => decide (x.id ≠ j.id) }
  match s.mem.jobs.find? fun x => decide (x.purpose = j.purpose) && decide (j.purpose ≠ .move) &&
      decide (j.purpose ≠ .none) with
  | some k => s.onJob k.id fun k => { k with
      degraded := k.degraded + j.degraded, stayed := k.stayed + j.stayed, failed := k.failed + j.failed, noSpace := k.noSpace || j.noSpace
      peerLost := k.peerLost || j.peerLost }
  | none => match j.purpose with
    | .move => s.endMove j
    | .activate id v => s.endActivate (BitVec.ofNat 28 id) (BitVec.ofNat 8 v) j
    | .rest id v => s.endRest (BitVec.ofNat 28 id) (BitVec.ofNat 8 v) j
    | .park n => s.endPark n j
    | .toTier3 n => s.endToTier3 n j
    | .resume n => s.endResume n j
    | .export_ n => s.endExport n j
    | .import_ _ => s
    | .none => s

/-- Every action whose pages have all committed or failed ends, and the others begin further moves, at most `n`
ends. -/
def State.endJobs : Nat → State → State
  | 0, s => s
  | n + 1, s =>
    let s := s.mem.jobs.foldl (fun s j => s.runJob j.id j.waiting.length) s
    match s.mem.jobs.find? fun j => decide (j.left = 0) with
    | none => s
    | some j => State.endJobs n (s.endJob j)

/-- The pages that a function owns and that are in no move are freed (R391). -/
def State.freeOwned (f : Nat) (s : State) : State :=
  [1, 2, 3].foldl (fun s t =>
    let mine := (s.dirOf t).filter fun p => decide (p.2.ownerKind = ownFunction) && decide (p.2.ownerId.toNat = f) &&
      !p.2.state.inMove
    mine.foldl (fun s p => s.freePage (s.slotGa t p.1)) s) s

/-- The functions that stop, and those that are wedged, give up the pages whose moves have ended (R391, R392). -/
def State.freeStopped (s : State) : State :=
  (List.range 16).foldl (fun s f =>
    if (s.func f).state = .stopping ∨ (s.func f).state = .wedged then s.freeOwned f else s) s

/-- What follows from the work of a step: actions that have ended, versions freed, room that has appeared. -/
def State.settleWork (s : State) : State :=
  let fuel (s : State) : Nat := s.mem.jobs.length + 4 * s.wgt.models.length + 4 * s.srv.ctxs.length + 8
  let s := s.endJobs (fuel s)
  let s := s.freeRetired.recheckRoom
  let s := (s.endJobs (fuel s)).endImports.keepLabels.freeStopped
  -- while the cadence is unarmed no boundary frees a context that closes (R295, R391)
  if s.unarmed then s.freeClosing else s

/-- The end of a step that did such work. -/
def State.workEnd (s : State) : State := s.settleWork.stepEnd

/-- A step that has done such work. -/
def close (s : State) : Out := .next s.workEnd

/-- A command is carried out, and what follows from its work. -/
def carry (op : BitVec 8) (open_ : Bool) (h : BitVec 32) (body : Live → State → State) (s : State) : Out :=
  carryOut op open_ h (fun l s => (body l s).settleWork) s

/-- A frame arrives, and what follows from its work. -/
def receiveWork (h : FrameHdr) (body : State → State) (s : State) : Out :=
  receive h (fun s => (body s).settleWork) s

end Sys2Proof.Machine
end

