-- ==== Sys2Proof/Machine/Static.lean ====
section
/-!
DEFINITION. What a slot program does at its scheduled beats, as the loader reads it (R150): the SRAM it touches, the
counters it raises and checks, the registers its vector results land in, and what it sends.
-/
namespace Sys2Proof.Machine

/-- An access to SRAM that a program schedules. -/
structure Touch where
  /-- cycle -/
  cycle : Nat
  /-- client: 0 matrix unit, 1 vector engine, 2 data mover, 3 landing port -/
  rank : Nat
  /-- it writes -/
  write : Bool
  /-- byte address; none where a program does not fix it -/
  addr : Option Nat
  /-- bytes; 0 for a slot that is only reserved -/
  len : Nat
  /-- banks -/
  banks : List Nat
  deriving DecidableEq, Repr

/-- What a program schedules. -/
structure Trace where
  /-- accesses to SRAM -/
  touches : List Touch
  /-- raises of counters: cycle, counter, amount -/
  signals : List (Nat × Nat × Nat)
  /-- checks: beat, counter, claim increment -/
  checks : List (Nat × Nat × Nat)
  /-- vector results: cycle in which they are written, port of R111 (8 more for the second of a pair), register -/
  results : List (Nat × Nat × Nat)
  /-- sends: beat, flits, mesh destination -/
  sends : List (Nat × Nat × BitVec 32)
  /-- tokens: beat, template, scalar register's value where one replaces the template's -/
  strings : List (Nat × Nat × Option (Option (BitVec 32)))
  /-- windows named: window index -/
  windows : List Nat
  /-- steering streams selected or fed -/
  steers : List Nat
  /-- flits that the steering unit takes from the data mover: cycle, stream -/
  feeds : List (Nat × Nat)
  /-- last cycles of its transfers -/
  ends : List Nat
  /-- tracked conversions: tracker, target format -/
  tracked : List (Nat × BitVec 8)
  /-- a tile stream breaks R128 -/
  streamBad : Bool
  deriving DecidableEq, Repr

/-- Nothing is scheduled. -/
def Trace.none : Trace := ⟨[], [], [], [], [], [], [], [], [], [], [], false⟩

/-- The registers that address a program's accesses, and what it has scheduled so far. -/
structure Walk where
  /-- `MA0` to `MA7` -/
  ma : SMap (BitVec 14)
  /-- their strides -/
  ms : SMap (BitVec 14)
  /-- data-mover registers -/
  dar : DaRegs
  /-- `S0` to `S15`; none where the data decides -/
  sc : SMap (Option (BitVec 32))
  /-- selected steering stream -/
  steer : Nat
  /-- results of each accumulator bank -/
  acc : SMap Nat
  /-- open tile stream: its header and next payload address, none where the data decides -/
  stream : Option (Option (Nat × Nat))
  /-- guard field of this beat's vector issue -/
  vguard : Guard
  /-- scheduled so far -/
  out : Trace
  deriving DecidableEq, Repr

/-- At beat 0 every register is 0 (R108, R136). -/
def Walk.start : Walk := ⟨[], [], ⟨[], []⟩, [], 0, [], none, Guard.none, Trace.none⟩

/-- A scalar register (R107). -/
def Walk.sreg (w : Walk) (r : BitVec 4) : Option (BitVec 32) :=
  if r = 0 then some 0 else Sparse.get (some 0) w.sc r.toNat

/-- A scalar register written. -/
def Walk.setSreg (r : BitVec 4) (v : Option (BitVec 32)) (w : Walk) : Walk :=
  if r = 0 then w else { w with sc := Sparse.set (some 0) w.sc r.toNat v }

/-- What is scheduled grows. -/
def Walk.onOut (f : Trace → Trace) (w : Walk) : Walk := { w with out := f w.out }

/-- Accesses to SRAM. -/
def Walk.touch (ts : List Touch) (w : Walk) : Walk := w.onOut fun o => { o with touches := ts ++ o.touches }

/-- The check and the signal of a guard field, the signal in cycle `fin` (R141). -/
def Walk.guard (b fin : Nat) (g : Guard) (w : Walk) : Walk :=
  w.onOut fun o => { o with
    checks := if g.chkAdd = 0 then o.checks else (b, g.chkCtr.toNat, g.chkAdd.toNat) :: o.checks
    signals := if g.sigEn then (fin, g.sigCtr.toNat, 1) :: o.signals else o.signals }

/-- An access of `n` bytes at a static address, with its banks (R48). -/
def touchAt (cycle rank : Nat) (write : Bool) (addr n : Nat) : Touch :=
  { cycle := cycle, rank := rank, write := write, addr := some addr, len := n, banks := banksOf addr n }

/-- An access that occupies no bank the program fixes. -/
def touchOnly (cycle rank : Nat) (write : Bool) (addr n : Nat) : Touch :=
  { touchAt cycle rank write addr n with banks := [] }

/-- A run of flits, flit j in cycle `cycle` + j (R52). -/
def touchFlits (cycle rank : Nat) (write : Bool) (addr n : Nat) : List Touch :=
  (List.range n).map fun j => touchAt (cycle + j) rank write (addr + 128 * j) 128

/-! ### The matrix sub-slot -/

/-- The operand reads of a pass in its cycles (R47 to R49); which line is read when is open (`Config.operandLines`). -/
def operandTouches (b d addrA lenA addrB lenB : Nat) : List Touch :=
  let lines (a n : Nat) : List Nat := (List.range (ceilDiv n 64)).map fun i => a / 64 + i
  let la := lines addrA lenA
  let lb := lines addrB lenB
  (List.range d).map fun j =>
    { cycle := b + j, rank := 0, write := false, addr := none, len := 64
      banks := ((((Config.operandLines la.length lb.length d j).filterMap fun i => (la ++ lb)[i]?).take 8).map
        (· % 32)).dedup }

/-- An address register advanced by its stride (R138). -/
def Walk.stepMa (r : BitVec 3) (w : Walk) : Walk :=
  { w with ma := Sparse.modify 0 w.ma r.toNat fun v => v + Sparse.get 0 w.ms r.toNat }

/-- A matrix sub-slot at beat `b` (R47, R138): a pass reads the bytes of its operands from its beat on, and their banks in
its cycles. -/
def Walk.matrix (cell b : Nat) (i : Instr) (w : Walk) : Walk :=
  let at_ (r : BitVec 3) : Nat := 64 * (Sparse.get 0 w.ma r.toNat).toNat
  match i with
  | .mpass _ sh _ bank ra rb g =>
    let (fa, fb) := scheduledFormats cell b
    let d := scheduledCycles cell b sh
    let na := 64 + payloadSize fa (sh.m * sh.k)
    let nb := 64 + payloadSize fb (sh.k * sh.n)
    let w := w.guard b (b + 4 + d + 3) g
    let w := w.touch ([touchOnly b 0 false (at_ ra) na, touchOnly b 0 false (at_ rb) nb] ++
      operandTouches b d (at_ ra) na (at_ rb) nb)
    let w := { w with acc := Sparse.set 0 w.acc (bankNo bank) (sh.m * sh.n) }
    if ra = rb then w.stepMa ra else (w.stepMa ra).stepMa rb
  | .mdrain _ bf16 bank d g =>
    let bytes := Sparse.get 0 w.acc (bankNo bank) * (if bf16 then 2 else 4)
    let cycles := ceilDiv bytes 256
    let w := w.guard b (b + cycles + 1) g
    (w.touch ((List.range cycles).map fun k =>
      touchAt (b + k + 2) 0 true (at_ d + 256 * k) (min 256 (bytes - 256 * k)))).stepMa d
  | .mseta _ r a => { w with ma := Sparse.set 0 w.ma r.toNat a }
  | .msets _ r a => { w with ms := Sparse.set 0 w.ms r.toNat a }
  | _ => w

/-! ### The data-mover sub-slot -/

/-- The window that a tier-1 address names (R139). -/
def t1Window (v : BitVec 32) : Nat := (v.extractLsb' 28 4).toNat

/-- The cycle of the write slot that the schedule reserves for piece `j` of a tier-1 read issued at beat `b` of a cell:
within the latency bound; which one is open (R53, R198; assumption 29). -/
def landingSlot (cell b j : Nat) : Nat :=
  let k : BitVec 40 := Config.freeValue 40 (1536 * (128 * b + j) + cell)
  b + j + 1 + k.toNat % 631

/-- A data-mover sub-slot at beat `b` (R52, R139, R176 to R180). A landing from tier 1 is counted as complete at the end
of the latency bound (R198). -/
def Walk.mover (cell b : Nat) (i : Instr) (w : Walk) : Walk :=
  let da (r : BitVec 3) : BitVec 32 := Sparse.get 0 w.dar.da r.toNat
  let n (o : DOp) : Nat := moverCount o
  let lands (a n : Nat) : List Touch := (List.range n).flatMap fun j =>
    [touchOnly (b + j + 631) 3 true (a + 128 * j) 128,
     { touchAt (landingSlot cell b j) 3 true (a + 128 * j) 128 with addr := none, len := 0 }]
  let w' : Walk := match i with
    | .copy _ o => (w.guard b (b + n o + 3) o.guard).touch
        (touchFlits b 2 false (daSram (da o.src)) (n o) ++ touchFlits (b + 4) 2 true (daSram (da o.dst)) (n o))
    | .send _ o => ((w.guard b (b + n o) o.guard).touch (touchFlits b 2 false (daSram (da o.src)) (n o))).onOut
        fun t => { t with sends := (b, n o, da o.dst) :: t.sends }
    | .gather _ o =>
      let k := n o
      let blocks := ceilDiv k 32
      let base := da (o.src + 1)
      let dst := daSram (da o.dst)
      let index := (List.range blocks).map fun j => touchAt (b + 33 * j) 2 false (daSram (da o.src) + 128 * j) 128
      let at_ (x : Nat) : Nat := b + 1 + x + x / 32
      if baseInSram base then
        (w.guard b (b + k + blocks + 2) o.guard).touch (index ++ (List.range k).flatMap fun x =>
          [{ cycle := at_ x, rank := 2, write := false, addr := none, len := 128
             banks := [2 * (at_ x % 16), 2 * (at_ x % 16) + 1] },
           touchAt (at_ x + 3) 2 true (dst + 128 * x) 128])
      else ((w.guard b (b + k + 630) o.guard).touch (index ++ lands dst k)).onOut fun t => { t with
        windows := t1Window base :: t.windows, ends := (b + k + 630) :: t.ends }
    | .readT1 _ o => ((w.guard b (b + n o + 630) o.guard).touch (lands (daSram (da o.dst)) (n o))).onOut fun t => { t with
        windows := t1Window (da o.src) :: t.windows, ends := (b + n o + 630) :: t.ends }
    | .writeT1 _ o => ((w.guard b (b + n o + 630) o.guard).touch (touchFlits b 2 false (daSram (da o.src)) (n o))).onOut
        fun t => { t with windows := t1Window (da o.dst) :: t.windows, ends := (b + n o + 630) :: t.ends }
    | .steer _ o => ((w.guard b (b + n o + 1) o.guard).touch (touchFlits b 2 false (daSram (da o.src)) (n o))).onOut
        fun t => { t with
          steers := w.steer :: t.steers
          feeds := t.feeds ++ (List.range (n o)).map fun j => (b + j + 2, w.steer) }
    | _ => w
  { w' with dar := w'.dar.after i }

/-! ### The vector sub-slot -/

/-- Where a vector result lands: its port of R111 (0 arithmetic, 1 load, 2 mask, 3 scalar), its latency, and its
registers (R114). -/
def vecLands : Instr → Option (Nat × Nat × List Nat)
  | .vadd _ o | .vsub _ o | .vmul _ o | .vfma _ o => some (0, 4, [o.vd.toNat])
  | .vmax _ o | .vmin _ o | .vabs _ o | .vneg _ o => some (0, 2, [o.vd.toNat])
  | .exp2 _ o | .log2 _ o | .rcp _ o | .rsqrt _ o | .sigm _ o | .tanh _ o => some (0, 6, [o.vd.toNat])
  | .rsum _ o | .rmax _ o | .rmin _ o | .ramax _ o => some (0, 8, [o.vd.toNat])
  | .iadd _ o | .isub _ o | .vand _ o | .vor _ o | .vxor _ o | .vshl _ o | .vshr _ o | .vsel _ o | .vmov _ o
  | .vbcast _ o => some (0, 2, [o.vd.toNat])
  | .vperm _ o | .viota _ o => some (0, 3, [o.vd.toNat])
  | .vcmp _ o => some (2, 2, [o.vd.toNat % 8])
  | .mlog _ o | .mvl _ o | .mflg _ o => some (2, 1, [o.vd.toNat % 8])
  | .vcvtBf16 _ o | .vcvtFp16 _ o | .vcvtFp8 _ o | .vcvtFp4 _ o | .vunpk _ o => some (0, 3, [o.vd.toNat])
  | .vqblk _ o => some (0, 6, [o.vd.toNat, o.vd.toNat + 1])
  | .vld _ o => some (1, 4, [o.v.toNat])
  | .slui _ o | .slli _ o | .smov _ o | .sadd _ o => some (3, 1, [o.sd.toNat])
  | _ => none

/-- The cycle in which a vector issue completes, counted from its beat (R127, R128, R141). -/
def vecLatency (i : Instr) : Nat :=
  match vecLands i with
  | some (_, l, _) => l
  | none => 2

/-- A result written in cycle `c` to registers, on a port of R111; the second register of a pair is listed eight
ports higher, since both are one result. -/
def Walk.result (c port : Nat) (rs : List Nat) (w : Walk) : Walk :=
  w.onOut fun o => { o with results := rs.mapIdx (fun i r => (c, port + 8 * i, r)) ++ o.results }

/-- The address of a load, a store or a header, where it is static (R127, R128). -/
def Walk.vecAddr (w : Walk) (base : BitVec 4) (offset : Nat) : Option Nat :=
  (w.sreg base).map fun v => (v + BitVec.ofNat 32 (64 * offset)).toNat

/-- The post-increment of a load or store at beat `b` (R127). -/
def Walk.post (b : Nat) (o : LOp) (w : Walk) : Walk :=
  let add (d : BitVec 32) : Walk := (w.setSreg o.sbase ((w.sreg o.sbase).map (· + d))).result b 3 [o.sbase.toNat]
  match o.post with
  | .none => w
  | .up => add 256
  | .down => add (-256)

/-- An access of the vector engine at an address that may not be static. -/
def touchVec (cycle : Nat) (write : Bool) (a : Option Nat) (n : Nat) : List Touch :=
  match a with
  | some x => [touchAt cycle 1 write x n]
  | none => [{ cycle := cycle, rank := 1, write := write, addr := none, len := n, banks := [] }]

/-- A vector sub-slot at beat `b` (R110, R114, R127, R128, R131). A `VST` of an open stream skips an address where its
address and the stream's are both static and differ; where the data decides one, it is taken to skip none. For check 0x0E a
`VST` under any mask counts as writing its 256 bytes, and a guarded access as made (DESIGN CHOICE, assumption 127). -/
def Walk.vector (b : Nat) (i : Instr) (w : Walk) : Walk :=
  let g := w.vguard
  let w := match i with
    | .vnop _ => w
    | _ => w.guard b (b + vecLatency i) g
  let w := match vecLands i with
    | some (p, l, rs) => w.result (b + l - 1) p rs
    | none => w
  match i with
  | .vcvtFp8 _ o => if o.tracked then w.onOut fun t => { t with
      tracked := (o.tracker.toNat, if o.fmt = 0 then 0x02 else 0x03) :: t.tracked } else w
  | .vcvtFp4 _ o => if o.tracked then w.onOut fun t => { t with tracked := (o.tracker.toNat, 0x01) :: t.tracked } else w
  | .vld _ o =>
    let a := w.vecAddr o.sbase o.offset.toNat
    (w.touch (touchVec b false a 256)).post b o
  | .vst _ o =>
    let a := w.vecAddr o.sbase o.offset.toNat
    let w' := (w.touch (touchVec (b + 2) true a 256)).post b o
    match w.stream with
    | none => w'
    | some h =>
      let skips := match h, a with
        | some (_, x), some y => decide (x ≠ y)
        | _, _ => false
      let bad := decide (o.mask ≠ 0) || skips
      { w' with stream := some (h.map fun x => (x.1, x.2 + 256))
                out := { w'.out with streamBad := w'.out.streamBad || bad } }
  | .vsthOpen _ o =>
    let a := w.vecAddr o.sbase o.offset.toNat
    { w with stream := some (a.map fun x => (x, x + 64))
             out := { w.out with streamBad := w.out.streamBad || w.stream.isSome } }
  | .vsthClose _ o =>
    let a := match w.stream with
      | some h => h.map (·.1)
      | none => w.vecAddr o.sbase o.offset.toNat
    { w.touch (touchVec (b + 2) true a 64) with stream := none }
  | .slui _ o => w.setSreg o.sd (some (o.imm ++ (0 : BitVec 16)))
  | .slli _ o => w.setSreg o.sd ((w.sreg o.sd).map fun v => (v &&& 0xFFFF0000) ||| o.imm.setWidth 32)
  | .sadd _ o => w.setSreg o.sd ((w.sreg (o.sel.extractLsb' 0 4)).map fun v => v + o.imm.signExtend 32)
  | .smov _ o => w.setSreg o.sd none
  | _ => w

/-! ### The control sub-slot and whole programs -/

/-- A control sub-slot at beat `b` (R140). -/
def Walk.control (b : Nat) (i : Instr) (w : Walk) : Walk :=
  let w := { w with vguard := Guard.none }
  match i with
  | .vguard _ g => { w with vguard := g }
  | .string _ t sc => w.onOut fun o => { o with
      strings := (b, t.toNat, if sc = 0 then none else some (w.sreg sc)) :: o.strings }
  | .steersel _ n => { w with steer := n.toNat, out := { w.out with steers := n.toNat :: w.out.steers } }
  | _ => w

/-- The sub-slots of a word at beat `b`. -/
def Walk.word (cell b : Nat) (x : BitVec 128) (w : Walk) : Walk :=
  match decodeSlot (place cell b) x with
  | some [c, m, d, v] => (((w.control b c).matrix cell b m).mover cell b d).vector b v
  | _ => w

/-- What the program of a logical cell schedules. -/
def cellTrace (img : List (BitVec 8)) (cell : Nat) : Trace :=
  let w := (cellPlay img cell).foldl (fun w x => w.word cell x.1 x.2) Walk.start
  { w.out with streamBad := w.out.streamBad || w.stream.isSome }

/-- What every logical cell schedules. -/
def allTraces (img : List (BitVec 8)) : List (Nat × Trace) := (List.range 1536).map fun c => (c, cellTrace img c)

/-! ### What reaches a cell from others -/

/-- The sends of every cell that name one destination: source, beat, flits, mesh destination. -/
def sendsTo (ts : List (Nat × Trace)) (dest : Nat) : List (Nat × Nat × Nat × BitVec 32) :=
  ts.flatMap fun x => (x.2.sends.filter fun s => decide (meshCell s.2.2 = some dest)).map fun s => (x.1, s)

/-- The writes that mesh flits make in a cell, in their reserved slots (R53, R55). Which slots the schedule reserves for
inbound streams of the edge and for steered flits is not given, and none is counted (DESIGN CHOICE, assumption 29). -/
def landTouches (ts : List (Nat × Trace)) (cell : Nat) : List Touch :=
  (sendsTo ts cell).flatMap fun (src, b, n, d) => (List.range n).map fun j =>
    touchAt (flitSlot src cell (b + j + 1)) 3 true (daSram d + 128 * j) 128

/-- A token's cycle of arrival for one hop more than the nominal count (R55, R56). A token of a cell to itself takes no hop,
and reaches its steering unit in the cycle after its `STRING` (R190). -/
def tokenSlot (a b t : Nat) : Nat :=
  if a = b then t + 1 else t + 1 + (nominalHops a b + 1) + (if crosses a b then 2 else 0)

/-- The tokens that the programs send: source, beat, template entry, value where it is static. -/
def allStrings (img : List (BitVec 8)) (ts : List (Nat × Trace)) : List (Nat × Nat × BitVec 64 × Option (BitVec 32)) :=
  ts.flatMap fun x => x.2.strings.filterMap fun (b, t, r) =>
    (imgTemplate img (imgCell img x.1).2 t).map fun w => (x.1, b, w, match r with
      | none => some (w.extractLsb' 0 32)
      | some v => v)

/-- An amount by which a counter rises that neither the program nor the declarations fix: the data, or another chip,
decide it (assumption 127). -/
def openRaise (img : List (BitVec 8)) (place key : Nat) : Nat :=
  Config.openRaises (imgHeader img).id.toNat place key

/-- A steering token as the loader reads it. -/
structure SteerToken where
  /-- kind 0x4: it closes its stream -/
  close : Bool
  /-- tag -/
  tag : BitVec 8
  /-- steering cell -/
  cell : Nat
  /-- cycle of arrival -/
  cycle : Nat
  /-- steering destination, where it is static -/
  value : Option (BitVec 32)
  deriving DecidableEq, Repr

/-- The steering tokens of programs and of the hub (R140, R146, R188). -/
def steerTokens (img : List (BitVec 8)) (ts : List (Nat × Trace)) : List SteerToken :=
  let kinds (k : BitVec 4) : Bool := decide (k = 2) || decide (k = 4)
  ((allStrings img ts).filterMap fun (src, b, w, v) =>
    let k := w.extractLsb' 44 4
    if kinds k then some ⟨decide (k = 4), w.extractLsb' 32 8, templateCell w, tokenSlot src (templateCell w) b, v⟩
    else none) ++
  ((imgHubStrings img).filterMap fun h =>
    if kinds h.kind then some ⟨decide (h.kind = 4), h.tag, h.row * 64 + h.col, h.beat + 24 - h.row,
      if h.sel = 0 then some h.imm else none⟩ else none)

/-- The cycles in which flits of a tag reach the steering unit of a cell, in order (R139, R147). -/
def taggedFeeds (img : List (BitVec 8)) (ts : List (Nat × Trace)) (cell : Nat) (tag : BitVec 8) : List Nat :=
  let ks := ((imgSteer img).filter fun d => decide (d.cell = cell) && decide (d.tag = tag)).map (·.stream)
  ((ts.filter fun x => decide (x.1 = cell)).flatMap fun x =>
    (x.2.feeds.filter fun f => ks.contains f.2).map (·.1)).mergeSort fun x y => decide (x ≤ y)

/-- What the steering units forward: steering cell, cycle in which the pair is complete, value where it is static. The
flits and the tokens of a tag pair in the order in which they arrive, and the pair is complete when the later of the two
has come; a close is complete by itself; an item without a partner is forwarded nowhere (R58; assumption 127). -/
def steerPairs (img : List (BitVec 8)) (ts : List (Nat × Trace)) : List (Nat × Nat × Option (BitVec 32)) :=
  let (closes, tokens) := (steerTokens img ts).partition (·.close)
  (closes.map fun t => (t.cell, t.cycle, t.value)) ++
  ((tokens.map fun t => (t.cell, t.tag)).dedup.flatMap fun (cell, tag) =>
    (((tokens.filter fun t => decide (t.cell = cell) && decide (t.tag = tag)).mergeSort fun x y =>
      decide (x.cycle ≤ y.cycle)).zip (taggedFeeds img ts cell tag)).map fun (t, c) =>
        (cell, max t.cycle c, t.value))

/-- The cycle in which a steered flit lands in a cell whose pair is complete in cycle `c`: forwarded in the next, written in
the cycle after that in the steering cell itself, else after its way over the mesh (R53, R54, R190). -/
def steerSlot (a cell c : Nat) : Nat := if a = cell then c + 2 else flitSlot a cell (c + 1)

/-- The bytes that steered flits write in a cell, where their token's value is static (R188 to R190); their slots are those
that the schedule reserves, which are not given. -/
def steeredTouches (steered : List (Nat × Nat × Option (BitVec 32))) (cell : Nat) : List Touch :=
  steered.filterMap fun (a, c, v) => v.bind fun x =>
    if !x.getLsbD 30 && !x.getLsbD 31 && decide (meshCell x = some cell) then
      some (touchOnly (steerSlot a cell c) 3 true (daSram x) 128)
    else none

/-- The raises of steered landings in a cell: of a pair or close whose value is static, that of its destination; of another,
open (R188 to R191). -/
def steeredSignals (img : List (BitVec 8)) (ts : List (Nat × Trace)) (cell : Nat) : List (Nat × Nat × Nat) :=
  (steerPairs img ts).flatMap fun (a, c, v) =>
    let slot := steerSlot a cell c
    match v with
    | some x => if x.getLsbD 29 ∧ !x.getLsbD 30 ∧ !x.getLsbD 31 ∧ steerNames x cell (x.extractLsb' 25 4) then
        [(slot, (x.extractLsb' 25 4).toNat, 1)] else []
    | none => (List.range 16).map fun k => (slot, k, openRaise img (1536 * c + a) (16 * cell + k))

/-- The raises of inbound streams of the edge in a cell, all in by the end of the window; how many messages a stream
carries, the image does not say (R148, R319). -/
def streamSignals (img : List (BitVec 8)) (cell : Nat) : List (Nat × Nat × Nat) :=
  (imgEdges img).filterMap fun e =>
    if e.kind ≠ 1 ∧ e.cell = cell then some (e.last + 1, e.counter, openRaise img e.index (16 * cell + e.counter)) else none

/-- The raises that reach a cell: of the last flit of each send, of remote barrier tokens of programs and of the hub, of
steered landings and of inbound streams (R53, R56, R60, R146, R148, R191). -/
def landSignals (img : List (BitVec 8)) (ts : List (Nat × Trace)) (cell : Nat) : List (Nat × Nat × Nat) :=
  ((sendsTo ts cell).map fun (src, b, n, d) => (flitSlot src cell (b + n), (d.extractLsb' 25 4).toNat, 1)) ++
  ((allStrings img ts).filterMap fun (src, b, w, v) =>
    if templateCell w = cell ∧ w.extractLsb' 44 4 = 3 then
      let k := (w.extractLsb' 40 4).toNat
      some (tokenSlot src cell b, k, match v with
        | some x => x.toNat
        | none => openRaise img (1536 * b + src) (16 * cell + k)) else none) ++
  ((imgHubStrings img).filterMap fun h =>
    if h.row * 64 + h.col = cell ∧ h.kind = 3 then
      some (h.beat + 24 - h.row, h.target.toNat, if h.sel = 0 then h.imm.toNat
        else openRaise img (1536 * h.beat + cell) h.target.toNat) else none) ++
  steeredSignals img ts cell ++ streamSignals img cell

end Sys2Proof.Machine
end

