-- ==== Sys2Proof/Machine/Loader.lean ====
section
/-!
DEFINITION. The loader's checks of an image alone, 0x01 to 0x12 (R149, R150). Each answers the location of the
first fault that it finds, none where the image passes.
-/
namespace Sys2Proof.Machine

/-- No location (R149). -/
def nowhere : Nat := 0xFFFF

/-- The first of a list's indexes whose entry a test refuses. -/
def firstBad {α : Type} (xs : List α) (bad : Nat → α → Bool) : Option Nat :=
  ((xs.mapIdx fun i x => (i, bad i x)).find? (·.2)).map (·.1)

/-- A fault with no location. -/
def failIf (b : Bool) : Option Nat := if b then some nowhere else none

/-- Every byte of a range is zero. -/
def zeroBytes (b : List (BitVec 8)) (o n : Nat) : Bool := ((b.drop o).take n).all fun x => decide (x = 0)

/-! ### The file (R132 to R134) -/

/-- Check 0x01: the digest of the bytes before the trailer is the trailer's and the command's (R150). -/
def checkDigest (b : List (BitVec 8)) (want : BitVec 256) : Option Nat :=
  let n := b.length - 32
  let d := digestBits (sha256 (b.take n))
  failIf (decide (d ≠ digestBits (b.drop n)) || decide (d ≠ want))

/-- Check 0x02: the header (R133, R150). -/
def checkHeader (b : List (BitVec 8)) : Option Nat :=
  let h := imgHeader b
  failIf (decide (fieldAt b 0 4 ≠ 0x5943584A) || decide (fieldAt b 4 2 ≠ 1) || decide (fieldAt b 6 2 ≠ 256) ||
    decide (h.size ≠ b.length) || decide (2 ^ 30 < h.size) || decide (h.id = 0xFFFFFFFF) ||
    decide (h.sections < 1) || decide (16 < h.sections) || !zeroBytes b 22 2 ||
    decide (h.budget < 1) || decide (2 ^ 31 < h.budget) || decide (byteAt b 30 ≠ 24) || decide (byteAt b 31 ≠ 64) ||
    decide (256 < h.slots) || decide (h.partSize < 1) || decide (72 < h.partSize) || decide (h.partSize ≤ h.stage) ||
    decide ((byteAt b 36).toNat / 2 ≠ 0) || !zeroBytes b 37 219)

/-- The entry size of a kind with a fixed one (R134). -/
def entrySize (kind : Nat) : Option Nat :=
  match kind with
  | 1 => some 16 | 2 => some 4 | 4 => some 32 | 5 => some 8 | 6 => some 512 | 7 => some 16 | 8 => some 8 | 9 => some 48
  | _ => none

/-- The `entries` and `size` of a section are as its kind asks (R134). -/
def sectionSized (b : List (BitVec 8)) (x : Section_) : Bool :=
  match entrySize x.kind with
  | some n => decide (x.size = n * x.entries) && (decide (x.kind ≠ 2) || decide (x.entries = 1536)) &&
      (decide (x.kind ≠ 9) || decide (x.entries ≤ 64))
  | none => if x.kind = 3 then decide (8 ≤ x.size) && decide (x.entries = fieldAt b x.offset 4) &&
      decide (8 + 16 * x.entries ≤ x.size) else decide (x.entries = 0)

/-- Check 0x03: the section table and what lies between the sections (R132, R134). The reserved bytes of a section entry
are examined; those of the entries within sections and of program descriptors are ignored, since R150 names reserved
bytes of the header and reserved bits of sub-slots alone (DESIGN CHOICE, assumption 175). -/
def checkSections (b : List (BitVec 8)) : Option Nat :=
  let xs := imgSections b
  let head := 256 + 16 * xs.length
  let bad (i : Nat) (x : Section_) : Bool :=
    decide (x.kind < 1) || decide (10 < x.kind) || !zeroBytes b (256 + 16 * i + 2) 2 ||
    (xs.take i).any (fun y => decide (y.kind = x.kind)) ||
    decide (x.offset % 64 ≠ 0) || decide (x.offset < head) || decide (b.length - 32 < x.offset + x.size) ||
    (xs.take i).any (fun y => decide (y.offset < x.offset + x.size) && decide (x.offset < y.offset + y.size)) ||
    !sectionSized b x
  let has (k : Nat) : Bool := xs.any fun x => decide (x.kind = k)
  let inside (a : Nat) : Bool := xs.any fun x => decide (x.offset ≤ a) && decide (a < x.offset + x.size)
  (firstBad xs bad).orElse fun _ =>
    failIf (!has 2 || !has 3 || !has 4 || (decide (0 < (imgHeader b).slots) && !has 1) ||
      (((b.drop head).take (b.length - 32 - head)).mapIdx fun i x => (i, x)).any fun y =>
        decide (y.2 ≠ 0) && !inside (head + y.1))

/-- Check 0x04: the slack (R133). -/
def checkSlack (b : List (BitVec 8)) : Option Nat := failIf (decide (byteAt b 28 ≠ 1) || decide (byteAt b 29 ≠ 1))

/-! ### Slot programs (R135 to R142) -/

/-- The number of programs (R135). -/
def imgProgramCount (b : List (BitVec 8)) : Nat := ((imgSection b 3).map (·.entries)).getD 0

/-- A program's descriptor keeps R135, and its words lie within the section. -/
def descriptorOk (b : List (BitVec 8)) (p : Nat) : Bool :=
  match imgSection b 3 with
  | none => false
  | some x =>
    let d := x.offset + 8 + 16 * p
    let o := fieldAt b d 4
    let n := fieldAt b (d + 4) 4
    decide (o % 16 = 0) && decide (1 ≤ n) && decide (n ≤ 4096) && decide (o + 16 * n ≤ x.size)

/-- Check 0x05: word counts and cell-map indexes (R135). -/
def checkProgramSize (b : List (BitVec 8)) : Option Nat :=
  let n := imgProgramCount b
  (((List.range n).find? fun p => !descriptorOk b p)).orElse fun _ =>
    (List.range 1536).find? fun c => decide (n ≤ (imgCell b c).1)

/-- A control sub-slot with the code of `ENDLOOP` (R140). -/
def isEndloop (x : BitVec 128) : Bool := decide (x.extractLsb' 28 4 = 2)

/-- A slot word is encoded as R137 to R140 and R115 ask. An `ENDLOOP` with a zero count or length is left to check
0x07; a `GATHER` from `DA7` names no register for its base. -/
def wordEncoded (x : BitVec 128) : Bool :=
  match decodeSlot (place 0 0) (if isEndloop x then x.extractLsb' 32 96 ++ (0 : BitVec 32) else x) with
  | none => false
  | some is => is.all fun i => match i with
    | .gather _ o => decide (o.src ≠ 7)
    | _ => true

/-- Check 0x06: encodings (R150). -/
def checkEncoding (b : List (BitVec 8)) : Option Nat :=
  (List.range (imgProgramCount b)).find? fun p => (imgProgram b p).any fun x => !wordEncoded x

/-- The loops of a program: word of the `ENDLOOP`, trip count, body length (R140). -/
def loopsOf (ws : List (BitVec 128)) : List (Nat × Nat × Nat) :=
  (ws.mapIdx fun i x => (i, x)).filterMap fun (i, x) =>
    if isEndloop x then some (i, (x.extractLsb' 12 16).toNat, (x.extractLsb' 0 12).toNat) else none

/-- Loops lie within the program, nest properly and at most 4 deep, with counts in range (R142). -/
def loopsOk (ws : List (BitVec 128)) : Bool :=
  let ls := loopsOf ws
  let first (l : Nat × Nat × Nat) : Nat := l.1 + 1 - l.2.2
  ls.all fun l => decide (1 ≤ l.2.1) && decide (1 ≤ l.2.2) && decide (l.2.2 ≤ l.1 + 1) &&
    (ls.all fun k => decide (k.1 ≤ l.1) || decide (first k ≤ first l) || decide (l.1 < first k)) &&
    decide ((ls.filter fun k => decide (l.1 ≤ k.1) && decide (first k ≤ first l)).length ≤ 4)

/-- Check 0x07: loops (R142). -/
def checkLoops (b : List (BitVec 8)) : Option Nat :=
  (List.range (imgProgramCount b)).find? fun p => !loopsOk (imgProgram b p)

/-- The beats of a word in one pass (R142). -/
def wordBeats (x : BitVec 128) : Nat := if x.extractLsb' 28 4 = 3 then (x.extractLsb' 0 16).toNat else 1

/-- The expanded beat count of words `w` to `last`, the loop of the word `x` left out (R142); `fuel` bounds the
recursion. -/
def beatsOf (ws : List (BitVec 128)) (ls : List (Nat × Nat × Nat)) : Nat → Nat → Nat → Option Nat → Nat
  | 0, _, _, _ => 0
  | fuel + 1, w, last, x =>
    if last < w then 0
    else
      match (ls.filter fun l => decide (l.1 ≤ last) && decide (some l.1 ≠ x) &&
        decide (l.1 + 1 = w + l.2.2)).getLast? with
      | some (e, t, _) => t * beatsOf ws ls fuel w e (some e) + beatsOf ws ls fuel (e + 1) last x
      | none => wordBeats (ws.getD w 0) + beatsOf ws ls fuel (w + 1) last x

/-- The expanded beat count of a program (R142). -/
def programBeats (ws : List (BitVec 128)) : Nat := beatsOf ws (loopsOf ws) (2 * ws.length + 2) 0 (ws.length - 1) none

/-- Check 0x08: every program expands to the budget (R142). -/
def checkBeats (b : List (BitVec 8)) : Option Nat :=
  (List.range (imgProgramCount b)).find? fun p => decide (programBeats (imgProgram b p) ≠ (imgHeader b).budget)

/-! ### Banks, vector writes, hops and the end of the step -/

/-- Banks that a client may use in a cycle, reading or writing (R48). -/
def bankLimit (rank : Nat) (write : Bool) : Nat :=
  match rank with
  | 0 => if write then 4 else 8
  | 1 => 4
  | 2 => 2
  | _ => 8

/-- Accesses break the client limits of R48 or meet in a bank (R49). -/
def banksBad (ts : List Touch) : Bool :=
  let xs := ts.flatMap fun t => t.banks.map fun k => (t.cycle, k, t.rank, t.write)
  !decide ((xs.map fun x => (x.1, x.2.1)).Nodup) ||
  xs.any fun x => decide (bankLimit x.2.2.1 x.2.2.2 <
    (xs.filter fun y => decide (y.1 = x.1) && decide (y.2.2 = x.2.2)).length)

/-- The first logical cell that a test of its trace refuses. -/
def firstCell (ts : List (Nat × Trace)) (bad : Nat → Trace → Bool) : Option Nat :=
  (ts.find? fun x => bad x.1 x.2).map (·.1)

/-- Check 0x09: bank limits and disjoint banks (R48, R49). -/
def checkBanks (ts : List (Nat × Trace)) : Option Nat :=
  firstCell ts fun c t => banksBad (t.touches ++ landTouches ts c)

/-- The register file of a result's port: vector, mask or scalar (R111). -/
def portFile (p : Nat) : Nat := if p = 2 then 1 else if p = 3 then 2 else 0

/-- Vector results that break R111. -/
def resultsBad (rs : List (Nat × Nat × Nat)) : Bool :=
  !decide ((rs.map fun r => (r.1, r.2.1)).Nodup) || !decide ((rs.map fun r => (r.1, portFile r.2.1, r.2.2)).Nodup)

/-- Check 0x0A: vector writes and tile streams (R111, R128). -/
def checkVectorWrites (ts : List (Nat × Trace)) : Option Nat :=
  firstCell ts fun _ t => resultsBad t.results || t.streamBad

/-- The cycles in which a flit that is injected in cycle `t` waits at the landing port where its route is nominal: first
cycle and write slot (R53, R55). -/
def earlyWait (src cell t : Nat) : Nat × Nat :=
  (t + 4 + 2 * nominalHops src cell + (if crosses src cell then 4 else 0), flitSlot src cell t)

/-- The waits of the early flits of `SEND`s to a cell. -/
def earlyFlits (ts : List (Nat × Trace)) (cell : Nat) : List (Nat × Nat) :=
  (sendsTo ts cell).flatMap fun (src, b, n, _) => (List.range n).map fun j => earlyWait src cell (b + j + 1)

/-- The waits of the early steered flits to a cell from other cells, injected in the cycle after their pair is complete
(R190). Which of those go to the cell whose destination the data decide is open (assumption 127). -/
def earlySteered (id : BitVec 32) (steered : List (Nat × Nat × Option (BitVec 32))) (cell : Nat) : List (Nat × Nat) :=
  steered.filterMap fun (a, c, v) =>
    let goes := match v with
      | some x => !x.getLsbD 30 && !x.getLsbD 31 && decide (meshCell x = some cell)
      | none => Config.openEarly id.toNat (1536 * c + a) cell
    if goes && decide (a ≠ cell) then some (earlyWait a cell (c + 1)) else none

/-- Check 0x0B: at most 16 early flits wait at any landing port (R53). The slots themselves lie one hop later than
the nominal route by construction (R55, R56). -/
def checkHopSlack (b : List (BitVec 8)) (ts : List (Nat × Trace)) : Option Nat :=
  let steered := steerPairs b ts
  firstCell ts fun c _ =>
    let fs := earlyFlits ts c ++ earlySteered (imgHeader b).id steered c
    fs.any fun f => decide (16 < (fs.filter fun g => decide (g.1 ≤ f.1) && decide (f.1 < g.2)).length)

/-- The cycle in which a steered flit or close lands that is complete at its steering cell in cycle `c` (R58, R190); 0 for
one that lands nowhere or that the token discards. A destination that only the data decides is open (assumption 127). -/
def steeredEnd (id : BitVec 32) (last a c : Nat) (v : Option (BitVec 32)) : Nat :=
  match v with
  | some x => if x.getLsbD 30 || x.getLsbD 31 then 0 else match meshCell x with
    | some d => if d < 1536 then steerSlot a d c else 0
    | none => 0
  | none => if Config.openLate id.toNat (1536 * c + a) then last + 1 else 0

/-- Check 0x0C: every transfer ends within the step (R71): steered ones too, and an inbound stream of the edge with the
write of its last flit, in the cycle after its window (R53). -/
def checkContained (b : List (BitVec 8)) (ts : List (Nat × Trace)) : Option Nat :=
  let last := (imgHeader b).budget - 1
  let table (c : Nat) : Nat := (imgCell b c).2
  let cellBad (c : Nat) (t : Trace) : Bool :=
    t.ends.any (fun e => decide (last < e)) ||
    t.sends.any (fun (bt, n, d) => match meshCell d with
      | some x => decide (last < if x < 1536 then flitSlot c x (bt + n) else bt + n)
      | none => false) ||
    t.strings.any fun (bt, k, _) => match imgTemplate b (table c) k with
      | some w => decide (last < tokenSlot c (templateCell w) bt)
      | none => false
  (((firstCell ts cellBad).orElse fun _ =>
    ((steerPairs b ts).find? fun (a, c, v) => decide (last < steeredEnd (imgHeader b).id last a c v)).map (·.1)).orElse fun _ =>
    firstBad (imgHubStrings b) fun _ h => decide (last < h.beat + 24 - h.row)).orElse fun _ =>
      ((imgEdges b).find? fun e => decide (last < if e.kind = 1 then e.last else e.last + 1)).map (·.index)

/-! ### Barriers (R60, R141, R181) -/

/-- Check 0x0D: every check passes when every issue runs at its beat (R150), and no counter and no claim exceeds 65,535
within the step (R181). -/
def checkBarriers (b : List (BitVec 8)) (ts : List (Nat × Trace)) : Option Nat :=
  firstCell ts fun c t =>
    let signals := t.signals ++ landSignals b ts c
    let raised (k n : Nat) : Nat := ((signals.filter fun s => decide (s.2.1 = k) && decide (s.1 < n)).map (·.2.2)).foldl (· + ·) 0
    let claim (k n : Nat) : Nat := ((t.checks.filter fun x => decide (x.2.1 = k) && decide (x.1 ≤ n)).map (·.2.2)).foldl (· + ·) 0
    t.checks.any (fun x => decide (raised x.2.1 x.1 < claim x.2.1 x.1)) ||
    (List.range 16).any fun k => decide (65535 < ((signals.filter fun s => decide (s.2.1 = k)).map (·.2.2)).foldl (· + ·) 0) ||
      decide (65535 < ((t.checks.filter fun x => decide (x.2.1 = k)).map (·.2.2)).foldl (· + ·) 0)

/-! ### Declarations (R143 to R148) -/

/-- A buffers entry keeps R144. -/
def bufferOk (x : Buffer) : Bool :=
  if x.cls = 4 then
    decide (x.cell = 0xFFFF) && decide (x.addr < 16) && decide (x.len % pageBytes = 0) && decide (x.len ≤ 2 ^ 35) &&
      decide (x.source ∈ [1, 2, 3])
  else
    decide (x.cls ∈ [1, 2, 3]) && decide (x.cell < 1536) && decide (x.addr % 64 = 0) && decide (x.len % 64 = 0) &&
      (if x.cls = 1 then decide (x.source ∈ [1, 2]) else decide (x.source = 0)) &&
      (!x.scales || (decide (x.cls = 2) && decide (x.len = 128))) && (!x.keep || decide (x.cls = 1))

/-- The declarations of a cell cover its SRAM with no overlap (R144). -/
def covers (xs : List Buffer) : Bool :=
  let ys := xs.mergeSort fun a b => decide (a.addr ≤ b.addr)
  decide (ys.foldl (fun (at_ : Option Nat) x => at_.bind fun n => if x.addr = n then some (n + x.len) else none) (some 0)
    = some sramBytes)

/-- The buffers of a cell. -/
def cellBuffers (xs : List Buffer) (c : Nat) : List Buffer :=
  xs.filter fun x => decide (x.cell = c) && decide (x.cls ≠ 4)

/-- An inbound stream writes a byte of a cell (R148). -/
def EdgeDecl.covers (e : EdgeDecl) (c a : Nat) : Bool :=
  decide (e.kind ≠ 1) && decide (e.cell = c) && decide (e.sram ≤ a) && decide (a < e.sram + ceilDiv e.bytes 128 * 128)

/-- A byte of scratch is written before a cycle: by an access of the program, by a landing, or by an inbound stream,
whose last flit is written in the cycle after its window (R53, R144). -/
def writtenBefore (es : List EdgeDecl) (c : Nat) (ts : List Touch) (a cycle : Nat) : Bool :=
  (ts.any fun t => t.write && decide (t.cycle < cycle) &&
    t.addr.any fun x => decide (x ≤ a) && decide (a < x + t.len)) ||
  es.any fun e => e.covers c a && decide (e.last + 1 < cycle)

/-- A cell breaks the rules of its buffers: coverage, writes to resident bytes, scratch read before it is written, or
the number of its scale tables (R144, R145). Which bytes are written where only data decide the address, and how far an
inbound stream has come within its window, is open; an access at an address that only the data decide counts as one that
reads no scratch byte and writes no resident byte (DESIGN CHOICE, assumption 127). -/
def buffersBad (id : BitVec 32) (xs : List Buffer) (ks : List TrackerDecl) (es : List EdgeDecl) (ts : List (Nat × Trace))
    (steered : List (Nat × Nat × Option (BitVec 32))) (c : Nat) (t : Trace) : Bool :=
  let bufs := cellBuffers xs c
  let all := t.touches ++ landTouches ts c ++ steeredTouches steered c
  let resident := bufs.filter fun x => decide (x.cls = 1)
  let scratch := bufs.filter fun x => decide (x.cls = 3)
  let tables := (bufs.filter (·.scales)).length
  let trackers := ks.any fun k => decide (k.cell = c)
  let known := !(all.any fun x => x.write && x.addr.isNone && decide (x.len ≠ 0)) && !(steered.any fun x => x.2.2.isNone)
  let mayBe (a cycle : Nat) : Bool :=
    (!known || es.any fun e => e.covers c a && decide (e.first < cycle)) && Config.openWrites id.toNat c a
  !covers bufs || decide (1 < tables) || (trackers && decide (tables = 0)) ||
  all.any (fun x => x.write && x.addr.any fun a => resident.any fun r =>
    decide (a < r.addr + r.len) && decide (r.addr < a + x.len)) ||
  (all.any fun x => !x.write && x.addr.any fun a => (List.range x.len).any fun i =>
    scratch.any (fun r => decide (r.addr ≤ a + i) && decide (a + i < r.addr + r.len)) &&
      !writtenBefore es c all (a + i) x.cycle && !mayBe (a + i) x.cycle)

/-- Check 0x0E: buffers (R144). -/
def checkBuffers (b : List (BitVec 8)) (ts : List (Nat × Trace)) : Option Nat :=
  let xs := imgBuffers b
  let ks := imgTrackers b
  let es := imgEdges b
  let steered := steerPairs b ts
  (firstBad xs fun i x => !bufferOk x ||
    (decide (x.cls = 4) && (xs.take i).any fun y => decide (y.cls = 4) && decide (y.addr = x.addr))).orElse fun _ =>
      firstCell ts fun c t => buffersBad (imgHeader b).id xs ks es ts steered c t

/-- Check 0x0F: trackers (R115, R145). -/
def checkTrackers (b : List (BitVec 8)) (ts : List (Nat × Trace)) : Option Nat :=
  let xs := imgTrackers b
  (firstBad xs fun i x => decide (1536 ≤ x.cell) || decide (63 < x.tracker) || decide (x.format ∉ [1, 2, 3]) ||
    decide (x.e < -126) || decide (x.hold = 0) ||
    (xs.take i).any fun y => decide (y.cell = x.cell) && decide (y.tracker = x.tracker)).orElse fun _ =>
      firstCell ts fun c t => t.tracked.any fun (k, f) =>
        !xs.any fun x => decide (x.cell = c) && decide (x.tracker = k) && decide (x.format = f)

/-- What a cell's program names exists: templates, steering streams, windows and mesh destinations (R135, R139, R146
to R148). -/
def namesBad (b : List (BitVec 8)) (ds : List SteerDecl) (ws : List Buffer) (es : List EdgeDecl) (c : Nat)
    (t : Trace) : Bool :=
  let table := (imgCell b c).2
  (decide (table ≠ 0xFFFF) && (imgTemplate b table 0).isNone) ||
  t.strings.any (fun (_, k, _) => match imgTemplate b table k with
    | none => true
    | some w => decide (1536 ≤ templateCell w)) ||
  t.steers.any (fun k => !ds.any fun x => decide (x.cell = c) && decide (x.stream = k)) ||
  t.windows.any (fun k => !ws.any fun x => decide (x.addr = k)) ||
  t.sends.any fun (_, _, d) => match meshCell d with
    | none => true
    | some x => decide (1536 ≤ x) && !es.any fun e => decide (e.index + 1536 = x)

/-- Check 0x10: references (R150). -/
def checkReferences (b : List (BitVec 8)) (ts : List (Nat × Trace)) : Option Nat :=
  let h := imgHeader b
  let constants := ((imgSection b 10).map (·.size)).getD 0
  let edges := imgEdges b
  let steers := imgSteer b
  let windows := imgWindows b
  let serving := windows.any fun x => decide (x.addr = 15) && decide (x.source = 1) && decide (pageBytes ≤ x.len)
  ((((firstCell ts fun c t => namesBad b steers windows edges c t).orElse fun _ =>
    firstBad (imgBuffers b) fun _ x => decide (x.cls = 1) && decide (x.source = 1) &&
      decide (constants < x.srcOff + x.len)).orElse fun _ =>
    firstBad (imgHubStrings b) fun _ x => decide (24 ≤ x.row) || decide (64 ≤ x.col)).orElse fun _ =>
    firstBad steers fun i x => decide (1536 ≤ x.cell) || decide (15 < x.stream) || decide (x.window = 0) ||
      (steers.take i).any fun y => decide (y.cell = x.cell) && decide (y.stream = x.stream)).orElse fun _ =>
    ((edges.mapIdx fun i e => (i, e)).find? fun (i, e) =>
      decide (63 < e.index) || decide (e.kind ∉ [1, 2, 3]) || (decide (e.kind ≠ 3) && decide (h.partSize ≤ e.peer)) ||
      decide (1536 ≤ e.cell) || decide (e.last < e.first) || (decide (e.kind ≠ 1) && decide (15 < e.counter)) ||
      (edges.take i).any fun y => decide (y.index = e.index)).map (·.2.index) |>.orElse fun _ =>
    failIf (decide (0 < h.slots) && !serving)

/-- Data frames that one plane carries in a window of `w` beats at OP7 (R323). -/
def planeFrames (w : Nat) : Nat := 125 * w / 6144 - 1

/-- The first stream of a direction that lies in an interval of beats whose streams ask for more than it carries. -/
def overload (es : List EdgeDecl) (need : EdgeDecl → Nat) (room : Nat → Nat) : Option Nat :=
  let inside (a z : Nat) (e : EdgeDecl) : Bool := decide (a ≤ e.first) && decide (e.last ≤ z)
  (es.find? fun e => es.any fun x => es.any fun y =>
    inside x.first y.last e &&
      decide (room (y.last + 1 - x.first) < ((es.filter (inside x.first y.last)).map need).foldl (· + ·) 0)).map (·.index)

/-- Check 0x11: plane capacity and the tier-2 stream rate (R199, R323). -/
def checkCapacity (b : List (BitVec 8)) (dimm2 : Bool) : Option Nat :=
  let of (k : Nat) : List EdgeDecl := (imgEdges b).filter fun e => decide (e.kind = k)
  let frames (k : Nat) : Option Nat := overload (of k) (fun e => ceilDiv e.bytes 4992) fun w => 15 * planeFrames w
  ((frames 1).orElse fun _ => frames 2).orElse fun _ =>
    overload (of 3) (·.bytes) fun w => w * (if dimm2 then 224 else 256)

/-- Check 0x12: regions and batching (R143). -/
def checkBatching (b : List (BitVec 8)) : Option Nat :=
  let h := imgHeader b
  let xs := imgRegions b
  (firstBad xs fun i x => decide (1 < x.region) || decide (x.count < 1) || decide (256 < x.count) ||
    decide (h.slots < x.first + x.count) ||
    (xs.take i).any fun y => decide (y.region = x.region) ||
      (decide (y.first < x.first + x.count) && decide (x.first < y.first + y.count))).orElse fun _ =>
    failIf ((decide (0 < h.slots) && !xs.any fun x => decide (x.region = 0)) ||
      (decide (16 < h.partSize) && !h.hostFormed))

/-- Checks 0x01 to 0x12 in the order of their codes: the first that fails, and its location (R149). -/
def loaderChecks (b : List (BitVec 8)) (want : BitVec 256) (dimm2 : Bool) : Option (Nat × Nat) :=
  let early : List (Nat × Option Nat) := [(1, checkDigest b want), (2, checkHeader b), (3, checkSections b),
    (4, checkSlack b), (5, checkProgramSize b), (6, checkEncoding b), (7, checkLoops b), (8, checkBeats b)]
  let ts := allTraces b
  let late : List (Nat × Option Nat) := [(9, checkBanks ts), (10, checkVectorWrites ts), (11, checkHopSlack b ts),
    (12, checkContained b ts), (13, checkBarriers b ts), (14, checkBuffers b ts), (15, checkTrackers b ts),
    (16, checkReferences b ts), (17, checkCapacity b dimm2), (18, checkBatching b)]
  (early ++ late).findSome? fun x => x.2.map fun l => (x.1, l)

/-! ### Checks against the device (R28, R150) -/

/-- A budget fits a period with a lowest operating point (R28): the core clock of point n is 0.4 + 0.2 n GHz (R437). -/
def budgetFits (budget period floor : Nat) : Bool :=
  decide (512 ≤ period) && decide (10 * budget ≤ (period - 512) * (4 + 2 * floor))

end Sys2Proof.Machine
end

