-- ==== Sys2Proof/Machine/CylCmd.lean ====
section
/-!
DEFINITION. Cylinders: loading, checking and staging (R149 to R153), drain and switch (R154 to R157), and the switch
fill (R156).
-/
namespace Sys2Proof.Machine

/-! ### Checks against the device (R150) -/

/-- Check 0x15: the first region, buffer or edge stream that names a version that is not active, or a buffer or window with
image bytes that stream, or a stream with bytes below those (R254), and the rule of adapter windows (R150, R261). -/
def State.modelsFault (s : State) (img : List (BitVec 8)) : Option Nat :=
  let slots := (imgHeader img).slots
  let inactive (id : Nat) (v : BitVec 8) : Bool :=
    !(s.modelAt id v).any fun m => decide (m.state = .active)
  let adapterBad (x : Buffer) : Bool := (imgRegions img).any fun r =>
    match (s.modelAt r.model r.version).bind (·.geometry) with
    | none => true
    | some g => decide (x.len / slots / pageBytes * pageBytes < ceilDiv g.imageSize pageBytes * pageBytes)
  let bufferBad (x : Buffer) : Bool := decide (x.source = 2) && (decide (x.cls = 1) || decide (x.cls = 4)) &&
    if x.cls = 4 ∧ x.model = 0xFFFFFFFF then adapterBad x
    else inactive x.model x.version || (s.modelAt x.model x.version).any fun m =>
      decide (m.cut < min (x.srcOff + x.len) (manImageSize m.manifest))
  ((firstBad (imgRegions img) fun _ r => inactive r.model r.version).orElse fun _ =>
    firstBad (imgBuffers img) fun _ x => bufferBad x).orElse fun _ =>
      ((imgEdges img).find? fun e => decide (e.kind = 3) &&
        (inactive e.model e.version || (s.modelAt e.model e.version).any fun m => decide (e.srcOff < m.cut))).map (·.index)

/-- Check 0x13: the budget at the period in force and the lowest enabled operating point (R28, R150). -/
def State.budgetFault (s : State) (img : List (BitVec 8)) : Bool :=
  !budgetFits (imgHeader img).budget s.cad.period.value.toNat s.pwr.floor.value.toNat

/-- Tier-1 frames of a cylinder's carried mirrors (R144). -/
def mirrorFrames (img : List (BitVec 8)) : Nat :=
  ceilDiv (((imgBuffers img).filter fun x => decide (x.cls = 2)).map (·.len)).sum pageBytes

/-- Tier-1 frames that check 0x16 counts: of every window, and of the carried mirrors (R144, R150). -/
def framesOf (img : List (BitVec 8)) : Nat := ((imgWindows img).map fun x => x.len / pageBytes).sum + mirrorFrames img

/-- Tier-1 frames allocated for a cylinder. -/
def KnownCyl.allocated (k : KnownCyl) : List Nat := k.windows.flatMap (·.2) ++ k.mirrors

/-- Checks 0x13 to 0x16: the status, code and location of the first that fails. The frames of another verified
cylinder count as free (R150, R153). -/
def State.verifyFault (s : State) (k : KnownCyl) : Option (BitVec 16 × Nat × Nat) :=
  let h := imgHeader k.image
  let other := match s.cylOf .verified with
    | some o => if o.id = k.id then 0 else o.allocated.length
    | none => 0
  if s.budgetFault k.image then some (stCheckFailed, 0x13, nowhere)
  else if h.partSize ≠ s.chips ∨ h.stage ≠ s.fab.stage then some (stCheckFailed, 0x14, nowhere)
  else match s.modelsFault k.image with
    | some i => some (stCheckFailed, 0x15, i)
    | none => if s.freePages 1 + other < framesOf k.image then some (stNoSpace, 0x16, nowhere) else none

/-- A check refuses a cylinder: its code and location are recorded, `CHECK_REFUSED` raised, and the command completes
(R149). -/
def State.refuseCheck (h : BitVec 32) (st : BitVec 16) (code loc : Nat) (s : State) : State :=
  let d := put 32 0 16 code ||| put 32 16 16 loc
  ((s.onCyl fun y => { y with lastCheck := d }).raiseCyl 4).complete h st d

/-! ### Loading (R152) -/

/-- Why a `CYL_LOAD` whose parameters are in range is refused before any check: the cylinders known, the room in tier
1, or an identity that is already known (R152). -/
def State.loadBar (s : State) (l : Live) : Option (BitVec 16 × BitVec 32) :=
  let n := l.param 16 4
  if 8 ≤ s.cyl.known.length ∨ s.freePages 1 < ceilDiv n pageBytes then some (stNoSpace, 0)
  else
    let g := BitVec.ofNat 64 (l.param 8 8)
    match s.readRun (some l.func.toNat) (g + 16) 4 with
    | .ok bs => if (s.cylById (BitVec.ofNat 32 (leNat bs))).isSome then some (stNotAllowed, 0) else none
    | .refused => some (stBadParam, if gaSpace g = 5 then readFailed else 8)
    | .poisoned => none

/-- `CYL_LOAD` (R152): refused, or the image is read, checked and stored. -/
def execCylLoad (handle : BitVec 32) (s : State) : Out :=
  carry 0x60 false handle (fun l s =>
    let g := BitVec.ofNat 64 (l.param 8 8)
    let n := l.param 16 4
    if gaChip g ≠ s.fab.chip ∨ gaSpace g ∉ [2, 3, 5] then s.complete handle stBadParam 8
    else if n < 288 ∨ 2 ^ 30 < n then s.complete handle stBadParam 16
    else match s.loadBar l with
    | some (st, d) => s.complete handle st d
    | none => s.working handle) s

/-- Frames of tier 1 for a cylinder, one after another: the pages' contents, none for a page that reads as zeros
(R144, R152). -/
def State.cylFrames (id : BitVec 32) : Nat → List (Option (List (BitVec 8))) → State → Option (List Nat × State)
  | _, [], s => some ([], s)
  | i, p :: ps, s =>
    match s.placePage 1 true ownCylinder (id.setWidth 28) i false p.isNone (Mem.writes [] 0 (p.getD [])) with
    | (none, _) => none
    | (some (_, f), s) => (State.cylFrames id (i + 1) ps s).map fun r => (f :: r.1, r.2)

/-- The pages of an image. -/
def imagePages (img : List (BitVec 8)) : List (Option (List (BitVec 8))) :=
  (List.range (ceilDiv img.length pageBytes)).map fun i => some ((img.drop (i * pageBytes)).take pageBytes)

/-- A `CYL_LOAD`'s image has been read: it is checked and stored, and becomes `LOADED` (R149, R152). A handle that
names no such command changes nothing (assumption 5). -/
def execCylLoadChecked (handle : BitVec 32) (s : State) : Out :=
  match s.liveOf handle with
  | none => .next s
  | some l =>
    if l.opcode ≠ 0x60 ∨ l.phase ≠ .working then .next s
    else
      let g := BitVec.ofNat 64 (l.param 8 8)
      close (match s.loadBar l, s.readRun (some l.func.toNat) g (l.param 16 4) with
      | some (st, d), _ => s.complete handle st d
      | none, .refused => s.complete handle stBadParam (if gaSpace g = 5 then readFailed else 8)
      | none, .poisoned => (s.noteRead g (l.param 16 4)).refuseCheck handle stDigest 1 nowhere
      | none, .ok img =>
        match loaderChecks img (BitVec.ofNat 256 (l.param 24 32)) s.mem.t2Dimm2 with
        | some (code, loc) => s.refuseCheck handle (if code = 1 then stDigest else stCheckFailed) code loc
        | none =>
          let id := (imgHeader img).id
          if (s.cylById id).isSome then s.complete handle stNotAllowed 0
          else match s.cylFrames id 0 (imagePages img) with
          | none => s.drawn.complete handle stNoSpace 0
          | some (fs, s) => (s.onCyl fun y => { y with known := y.known ++
              [{ KnownCyl.reset with id := id, image := img, frames := fs }] }).complete handle stOk id)

/-! ### Verifying and staging (R153) -/

/-- A known cylinder changed. -/
def State.onKnown (id : BitVec 32) (g : KnownCyl → KnownCyl) (s : State) : State :=
  s.onCyl fun y => { y with known := y.known.map fun k => if k.id = id then g k else k }

/-- A cylinder is `LOADED` again, and its windows and mirrors are freed (R153, R155). -/
def State.unallocate (id : BitVec 32) (s : State) : State :=
  match s.cylById id with
  | none => s
  | some k =>
    let s := k.allocated.foldl (fun s f => s.freeSlotAt 1 f) s
    s.onKnown id fun k => { k with status := .loaded, windows := [], mirrors := [] }

/-- Frames for the allocated windows and for the carried mirrors of a cylinder (R144, R153). -/
def State.allocateCyl (k : KnownCyl) (s : State) : Option State :=
  let zeros (n : Nat) : List (Option (List (BitVec 8))) := List.replicate n none
  let windows := (imgWindows k.image).filter fun x => decide (x.source = 1)
  let r := windows.foldl (fun (r : Option (List (Nat × List Nat) × State)) x => r.bind fun (ws, s) =>
    (s.cylFrames k.id (512 * (x.addr + 1)) (zeros (x.len / pageBytes))).map fun y => (ws ++ [(x.addr, y.1)], y.2))
    (some ([], s))
  r.bind fun (ws, s) => (s.cylFrames k.id (512 * 17) (zeros (mirrorFrames k.image))).map fun y =>
    y.2.onKnown k.id fun k => { k with status := .verified, windows := ws, mirrors := y.1 }

/-- Another verified cylinder gives way: `LOADED` again, and its staging `CYL_VERIFY` cancelled (R153). -/
def State.giveWay (s : State) : State :=
  match s.cylOf .verified with
  | none => s
  | some o =>
    let h := s.cyl.staging.bind (·.handle)
    let s := (s.unallocate o.id).onCyl fun y => { y with staging := none }
    s.completeOpt h stCancelled 0

/-- `CYL_VERIFY` (R153). A cylinder that is `VERIFIED` already, and no longer staging, is checked and staged anew. -/
def execCylVerify (handle : BitVec 32) (s : State) : Out :=
  carry 0x61 false handle (fun l s =>
    let id := BitVec.ofNat 32 (l.param 8 4)
    match s.cylById id with
    | none => s.complete handle stBadParam 8
    | some k =>
      if k.status = .active then s.complete handle stNotAllowed 0
      else if s.switchPending then s.complete handle stBusy 0
      else if s.cyl.staging.any fun g => decide (g.id = id) then s.complete handle stBusy 0
      else
        let own := k.allocated.length
        match s.verifyFault k with
        | some (st, code, loc) =>
          if code = 0x16 ∧ k.status = .verified ∧ framesOf k.image ≤ s.freePages 1 + own then
            (s.onCyl fun y => { y with staging := some { id := id, handle := some handle, restart := [] } }).working handle
          else s.refuseCheck handle st code loc
        | none =>
          if k.status = .verified then
            (s.onCyl fun y => { y with staging := some { id := id, handle := some handle, restart := [] } }).working handle
          else
            match s.giveWay.allocateCyl k with
            | none => s.drawn.refuseCheck handle stNoSpace 0x16 nowhere
            | some s => (s.onCyl fun y => { y with
                staging := some { id := id, handle := some handle, restart := [] } }).working handle) s

/-- A slot-memory bank that holds a program (R153); the words beyond it are 0. -/
def bankOf (ws : List (BitVec 128)) : SMap (BitVec 128) := Sparse.setRun 0 [] 0 ws

/-- Every logical cell's program is written into a bank of the physical cell that hosts it (R68, R153). -/
def State.loadBank (bank : Bool) (img : List (BitVec 8)) (s : State) : State :=
  (List.range 1536).foldl (fun s c =>
    let m := bankOf (imgProgram img (imgCell img c).1)
    s.onCell c fun x => if bank then { x with bankB := m } else { x with bankA := m }) s

/-- A staging ends: every standby bank holds its slice (R153). One that a repair has to restart does not end. -/
def execStagingComplete (cycles : Nat) (s : State) : Out :=
  match s.cyl.staging with
  | none => .next s
  | some g => match s.cylById g.id with
    | none => .next s
    | some k =>
      if g.restart ≠ [] then .next s
      else
        let s := s.loadBank (!s.cyl.bank) k.image
        let s := s.onCyl fun y => { y with staging := none, stageCyc := satOf 32 cycles }
        close ((s.raiseCyl 0).completeOpt g.handle stOk 0)

/-! ### Drain (R154) -/

/-- A `RELEASE` takes effect: the drain ends, a `DRAIN` that has not completed completes, and the `RELEASE` does
(R154). -/
def State.release (handle : BitVec 32) (s : State) : State :=
  let d := s.cyl.drainHandle
  let s := s.onCyl fun y => { y with drain := 0, drainHandle := none, suspend := false }
  (s.completeOpt d stCancelled 0).complete handle stOk 0

/-- `DRAIN` (R154): while the cadence is `UNARMED` it completes at once (R477). -/
def execDrain (handle : BitVec 32) (s : State) : Out :=
  carry 0x62 false handle (fun l s =>
    let mode := l.param 8 1
    if 2 < mode then s.complete handle stBadParam 8
    else if mode = 2 then
      if s.switchPending then s.complete handle stBusy 0
      else if s.unarmed then s.release handle
      else s.atBoundary handle
    else if s.cyl.drain ≠ 0 then s.complete handle stBusy 0
    else if s.unarmed then
      (s.onCyl fun y => { y with drain := 2, suspend := decide (mode = 1) }).complete handle stOk 0
    else (s.onCyl fun y => { y with drain := 1, drainHandle := some handle, suspend := decide (mode = 1) }).working
      handle) s

/-! ### The switch (R155 to R157) -/

/-- The trackers of every cell start as an image declares them (R101, R104). -/
def State.startTrackers (img : List (BitVec 8)) (s : State) : State :=
  let s := s.onGrid fun g => { g with
    cells := Sparse.mapVals Cell.reset (fun c => { c with trackers := [] }) g.cells }
  (imgTrackers img).foldl (fun s d => s.onCell d.cell fun c => { c with
    trackers := Sparse.set Tracker.reset c.trackers d.tracker { Tracker.reset with
      fmt := d.format, e := d.e, hold := d.hold, locked := d.locked } }) s

/-- Entries of another epoch are discarded and counted (R157). -/
def State.discardEpoch (s : State) : State :=
  let g := s.grid
  let n := g.flits.length + g.tokens.length + g.pieces.length + (s.fab.ins.map fun x => x.got.length).sum
  let s := s.onGrid fun g => { g with flits := [], tokens := [], pieces := [] }
  let s := s.onFab fun f => { f with ins := [] }
  let s := s.onSrv fun v => { v with fed := [], gens := [] }
  if n = 0 then s else (s.onCyl fun y => { y with epochDisc := satAdd y.epochDisc n }).raiseCyl 3

/-- The cylinder switch itself: the banks swap, the epoch advances, the incoming cylinder is `ACTIVE` and the outgoing
one `LOADED`, the drain ends, and a switch fill is due (R155 to R157, R287). -/
def State.switchTo (k : KnownCyl) (s : State) : State :=
  let old := s.cylOf .active
  let s := match old with
    | some o => s.unallocate o.id
    | none => s
  let s := s.onKnown k.id fun k => { k with status := .active }
  let s := s.onCyl fun y => { y with
    bank := !y.bank, epoch := y.epoch + 1, drain := 0, drainHandle := none, suspend := false, pend := none
    fillDue := some ((old.map (·.id)).getD 0xFFFFFFFF), fillOut := (old.map (·.image)).getD [] }
  (((s.startTrackers k.image).discardEpoch).raiseCyl 1).unserved

/-- The first of the checks that a switch repeats: 0x13, then 0x15 (R155). -/
def State.switchFault (s : State) (img : List (BitVec 8)) : Option (BitVec 16 × Nat × Nat) :=
  if s.budgetFault img then some (stCheckFailed, 0x13, nowhere)
  else (s.modelsFault img).map fun i => (stRetired, 0x15, i)

/-- A pending switch takes place, or its checks refuse it: the cylinder is then `LOADED` again and the chip stays
drained (R155). The answer says whether it took place. -/
def State.trySwitch (p : PendSwitch) (s : State) : Bool × State :=
  match s.cylById p.id with
  | none => (false, s)
  | some k => match s.switchFault k.image with
    | some (st, code, loc) =>
      let s := (s.unallocate k.id).onCyl fun y => { y with pend := none }
      (false, s.refuseCheck p.handle st code loc)
    | none => (true, s.switchTo k)

/-- `CYL_SWITCH` (R155): while the cadence is `UNARMED` it acts at once, and completes with its fill (R477). -/
def execCylSwitch (handle : BitVec 32) (s : State) : Out :=
  carry 0x63 false handle (fun l s =>
    let id := BitVec.ofNat 32 (l.param 8 4)
    let at_ := l.param 16 8
    let verified := (s.cylById id).any fun k => decide (k.status = .verified)
    let p : PendSwitch := { id := id, handle := handle, atStep := BitVec.ofNat 64 at_ }
    if s.cyl.drain ≠ 2 ∨ !verified then s.complete handle stNotAllowed 0
    else if s.cyl.staging.any fun g => decide (g.id = id) then s.complete handle stBusy 0
    else if at_ ≠ 0 ∧ (s.unarmed ∨ at_ ≤ s.cad.step.toNat) then s.complete handle stBadParam 16
    else if s.switchPending then s.complete handle stBusy 0
    else if s.unarmed then
      let r := (s.working handle).trySwitch p
      if r.1 then r.2.onCyl fun y => { y with fillHandle := some handle, fillActive := true } else r.2
    else (s.working handle).onCyl fun y => { y with pend := some p }) s

/-- `CYL_UNLOAD` (R158). -/
def execCylUnload (handle : BitVec 32) (s : State) : Out :=
  carry 0x64 false handle (fun l s =>
    match s.cylById (BitVec.ofNat 32 (l.param 8 4)) with
    | none => s.complete handle stBadParam 8
    | some k =>
      if k.status ≠ .loaded then s.complete handle stNotAllowed 0
      else
        let s := k.frames.foldl (fun s f => s.freeSlotAt 1 f) s
        (s.onCyl fun y => { y with known := y.known.filter fun x => decide (x.id ≠ k.id) }).complete handle stOk 0) s

/-! ### The switch fill (R156) -/

/-- The bytes of a resident buffer, none where they cannot be read (R144). -/
def State.residentBytes (s : State) (img : List (BitVec 8)) (b : Buffer) : Option (List (BitVec 8)) :=
  if b.source = 1 then some (imgConstants img b.srcOff b.len)
  else
    let m := s.model (BitVec.ofNat 28 b.model) b.version
    let first := b.srcOff / pageBytes
    let pages := (List.range (ceilDiv (b.srcOff % pageBytes + b.len) pageBytes)).map (· + first)
    let parts := pages.map fun p => (m.map fun m => Sparse.get 0 m.pages p).bind fun g =>
      (s.content (gaSlot g).1 (gaSlot g).2).map fun x => Mem.reads x 0 pageBytes
    if parts.any (·.isNone) then none
    else some (((parts.flatMap fun x => x.getD []).drop (b.srcOff % pageBytes)).take b.len)

/-- A resident buffer written to its cell; bytes that cannot be read arrive poisoned. -/
def State.writeResident (img : List (BitVec 8)) (b : Buffer) (s : State) : State :=
  match s.residentBytes img b with
  | some bs => s.onCell b.cell (Cell.sramWrite b.addr bs false)
  | none => s.onCell b.cell (Cell.sramWrite b.addr (List.replicate b.len 0) true)

/-- Bytes of the carried mirrors of the active cylinder (R144). -/
def State.getMirror (s : State) (o n : Nat) : List (BitVec 8) :=
  match s.cylOf .active with
  | none => List.replicate n 0
  | some k => (List.range n).map fun i => match k.mirrors[(o + i) / pageBytes]? with
    | none => 0
    | some f => if (s.dirEntry 1 f).zero then 0 else Mem.read s.mem.t1 (f * pageBytes + (o + i) % pageBytes)

/-- The scale table of a cell, exponents and low counts in the order of the trackers, is written with its mirror (R104). -/
def State.putTable (b : Buffer) (o : Nat) (s : State) : State :=
  let ts := (s.cell b.cell).trackers
  let bs := (List.range b.len).map (Config.scaleTable ((List.range 64).map fun i =>
    ((Sparse.get Tracker.reset ts i).e, (Sparse.get Tracker.reset ts i).low)))
  (s.onCell b.cell (Cell.sramWrite b.addr bs false)).putMirror o bs

/-- A carried buffer and its mirror start at zero, the scale table from the declarations (R144). -/
def State.startCarried (x : Buffer × Nat) (s : State) : State :=
  if x.1.scales then s.putTable x.1 x.2
  else
    let zs : List (BitVec 8) := List.replicate x.1.len 0
    (s.onCell x.1.cell (Cell.sramWrite x.1.addr zs false)).putMirror x.2 zs

/-- A resident buffer that the outgoing cylinder declared alike is not rewritten where it is keep-eligible (R156). -/
def kept (out : List Buffer) (b : Buffer) : Bool :=
  b.keep && out.any fun x => decide (x.cls = 1) && decide (x.cell = b.cell) && decide (x.addr = b.addr) &&
    decide (x.len = b.len) && decide (x.source = b.source) && decide (x.model = b.model) &&
    decide (x.version = b.version) && decide (x.srcOff = b.srcOff)

/-- What a switch fill writes (R156). -/
def State.fillCells (s : State) : State :=
  let img := s.active
  let out := imgBuffers s.cyl.fillOut
  let resident := (imgBuffers img).filter fun x => decide (x.cls = 1) && !kept out x
  let s := resident.foldl (fun s b => s.writeResident img b) s
  (carriedOf img).foldl (fun s x => s.startCarried x) s

/-- A switch fill starts, 64 ticks after its switching boundary (R156). -/
def execSwitchFillStart (s : State) : Out :=
  if s.cyl.fillDue.isSome then finish (s.onCyl fun y => { y with fillActive := true }) else .next s

/-- A switch fill completes (R156); a `CYL_SWITCH` made while the cadence was `UNARMED` completes with it (R477). -/
def execSwitchFillDone (cycles : Nat) (s : State) : Out :=
  if s.cyl.fillActive then
    let s := s.fillCells
    let h := s.cyl.fillHandle
    let s := s.onCyl fun y => { y with fillActive := false, fillDue := none, fillHandle := none, fillCyc := satOf 32 cycles }
    close ((s.raiseCyl 2).completeOpt h stOk 0)
  else .next s

end Sys2Proof.Machine
end

