-- ==== Sys2Proof/Machine/Fabric.lean ====
section
/-!
DEFINITION. The fabric: data frames that arrive and the streams they land (R319, R320), the slots of a port (R321),
verdict frames and leave notices that arrive (R327, R328), link training and lane failures (R331 to R335), and the
commands of the fabric (R337 to R339).
-/
namespace Sys2Proof.Machine

/-! ### Planes -/

/-- The units of a port (R311). -/
def State.unitsOf (s : State) (p : Nat) : Nat :=
  if s.planeOn p then (s.fab.ports.getD p Port.reset).units else 0

/-- The capacity vector: the units of port p in nibble p (R322). -/
def State.capacity (s : State) : BitVec 64 :=
  BitVec.ofNat 64 (((List.range 16).map fun p => s.unitsOf p * 16 ^ p).foldl (· + ·) 0)

/-- The capacity vector of a peer before any has arrived from it: 4 units on every port (R322). -/
def fullCapacity : BitVec 64 := 0x4444444444444444

/-- The units of port p in a capacity vector (R327). -/
def unitsIn (v : BitVec 64) (p : Nat) : Nat := v.toNat / 16 ^ p % 16

/-- The stripe list of two capacity vectors (R322). -/
def stripeList (a b : BitVec 64) : List Nat :=
  (List.range 4).flatMap fun r => (List.range 16).filter fun p => decide (r < min (unitsIn a p) (unitsIn b p))

/-! ### Inbound streams (R319, R320) -/

/-- An inbound stream in the step. -/
def State.inStream (s : State) (i : Nat) : InStream :=
  (s.fab.ins.find? fun o => decide (o.stream = i)).getD { InStream.reset with stream := i }

/-- An inbound stream changed. -/
def State.setIn (o : InStream) (s : State) : State :=
  s.onFab fun f => { f with ins := (f.ins.filter fun x => decide (x.stream ≠ o.stream)) ++ [o] }

/-- The rows that the schedule reserves for each expert of a stream: the worst case of the region that the stream serves;
which region that is, the image does not say (R187; assumption 132). -/
def reservedRows (img : List (BitVec 8)) (stream : Nat) : Nat :=
  let rs := imgRegions img
  let k := Config.streamRegion (imgHeader img).id.toNat stream % rs.length
  16 * ceilDiv ((rs[k]?.map (·.count)).getD 0) 16

/-- The check of an expert segment header: the expert is the one scheduled for segment `index` of the stream, which the
image does not say (R194, R195; assumption 132). -/
def segmentOk (img : List (BitVec 8)) (stream index : Nat) (step : BitVec 64) (msg : List (BitVec 8)) : Bool :=
  let n := fieldAt msg 4 2 * fieldAt msg 6 2
  decide (fieldAt msg 2 1 = Config.scheduledExpert (imgHeader img).id.toNat stream index) &&
    decide (fieldAt msg 4 2 ≤ reservedRows img stream) && decide (fieldAt msg 8 4 = step.toNat % 2 ^ 32) &&
    ((msg.drop 16).take 48).all (fun b => decide (b = 0)) && decide (64 + n ≤ msg.length) &&
    decide (BitVec.ofNat 32 (fieldAt msg 12 4) = if fieldAt msg 4 2 = 0 then 0 else crc32c ((msg.drop 64).take n))

/-- The check of a message that is not empty: a tile under R168, or an expert segment under R195 (R319). -/
def messageOk (img : List (BitVec 8)) (stream index : Nat) (step : BitVec 64) (msg : List (BitVec 8)) : Bool :=
  if fieldAt msg 0 2 = 0x4A54 then
    landingTileOk (msg.take 64) ((msg.drop 64).take (fieldAt msg 20 4))
  else if fieldAt msg 0 2 = 0x4553 then segmentOk img stream index step msg
  else false

/-- The bytes of the expert segment that a message begins with: its header and its rows (R194); none of another message. -/
def segmentBytes (msg : List (BitVec 8)) : Option Nat :=
  if fieldAt msg 0 2 = 0x4553 then some (64 + fieldAt msg 4 2 * fieldAt msg 6 2) else none

/-- The flit that makes `msg` of the bytes landed before, `fin` where it ends its message, completes what the message is
checked as: an expert segment with its last row, or with its header where it has none (R195); any other message, and a
segment that is cut short, with its last flit (R319). -/
def messageDone (before : Nat) (msg : List (BitVec 8)) (fin : Bool) : Bool :=
  match segmentBytes msg with
  | none => fin
  | some n => decide (before < n) && (decide (n ≤ msg.length) || fin)

/-- A flit of an inbound stream is written in a cycle; with the flit that completes a message or a segment it is checked,
and the counter raised in the next cycle (R195, R319). -/
def State.landStreamFlit (e : EdgeDecl) (cycle : Nat) (d : BitVec 1024) (fin : Bool) (s : State) : State :=
  let o := s.inStream e.index
  let bs := bvBytes 128 d
  let msg := o.msgBytes ++ bs
  let s := s.sramStore e.cell cycle (e.sram + 128 * o.flitsLanded) bs false 3
  let done := messageDone o.msgBytes.length msg fin
  let segment := done && (segmentBytes msg).isSome
  let s := s.setIn { o with
    flitsLanded := o.flitsLanded + 1, msgBytes := if fin then [] else msg
    segments := o.segments + (if segment then 1 else 0) }
  if done then
    (s.onCell e.cell (Cell.signalAt (cycle + 1) (some (BitVec.ofNat 4 e.counter)))).tileLanded e.cell cycle
      (messageOk s.active e.index o.segments s.cad.step msg)
      [(e.sram + 128 * (o.flitsLanded + 1) - msg.length, msg.length)]
  else s

/-- A frame of an inbound stream is landed: its empty messages, then its flits, one each cycle (R318, R319). -/
def State.landFrame (e : EdgeDecl) (cycle : Nat) (f : OutFrame) (s : State) : State :=
  let s := (List.range f.empties).foldl (fun s _ =>
    s.onCell e.cell (Cell.signalAt cycle (some (BitVec.ofNat 4 e.counter)))) s
  let s := (f.flits.mapIdx fun k d => (k, d)).foldl (fun s x =>
    s.landStreamFlit e (cycle + x.1) x.2 (f.endMap.getLsbD x.1)) s
  let o := s.inStream e.index
  s.setIn { o with landed := o.landed + 1, lastSeq := if f.last then some f.sequence else o.lastSeq }

/-- The frames of a stream that are next in sequence order are landed, at most `n` of them (R319). -/
def State.landReady (e : EdgeDecl) (cycle : Nat) : Nat → State → State
  | 0, s => s
  | n + 1, s =>
    let o := s.inStream e.index
    match o.got.find? fun f => decide (f.sequence = o.landed) with
    | none => s
    | some f =>
      let s := s.setIn { o with got := o.got.filter fun x => decide (x.sequence ≠ f.sequence) }
      State.landReady e (cycle + f.flits.length) n (s.landFrame e cycle f)

/-- A data frame that the receiver takes under R319 is kept, and what is then in sequence is landed. -/
def State.takeFrame (e : EdgeDecl) (h : FrameHdr) (cycle : Nat) (flits : List (BitVec 1024)) (s : State) : State :=
  let o := s.inStream e.index
  let q := h.sequence.toNat
  if o.ended ∨ q ∈ o.seen then s
  else
    let f : OutFrame := { OutFrame.reset with
      stream := e.index, sequence := q, last := h.last, flits := flits.take (min 39 h.flits.toNat)
      empties := h.empties.toNat, endMap := h.endMap }
    let s := s.setIn { o with
      got := o.got ++ [f], seen := o.seen ++ [q], lastSeq := if h.last then some q else o.lastSeq }
    s.landReady e cycle (o.got.length + 1)

/-- A data frame arrives: of another epoch, discarded and counted (R157); not for the step in progress or an inbound
stream of its sender, discarded (R319); else landed from `cycle` on. -/
def execDataFrame (hdr : FrameHdr) (cycle : Nat) (flits : List (BitVec 1024)) (s : State) : Out :=
  receive hdr (fun s =>
    if hdr.epoch ≠ s.cyl.epoch then
      (s.onCyl fun c => { c with epochDisc := satInc c.epochDisc }).raiseCyl 3
    else match imgEdge s.active hdr.stream.toNat with
      | none => s
      | some e =>
        if e.kind = 2 ∧ s.stageChip e.peer = some hdr.source ∧ s.step.playing ∧
            hdr.step = s.cad.step.setWidth 32 ∧ hdr.replay = BitVec.ofNat 16 s.step.replay then
          ((s.at_ (s.cycleTick cycle)).settleAll cycle).takeFrame e hdr cycle flits
        else s) s

/-- Frames of a stream known to be missing (R320): the gaps below the highest sequence number seen, and the last frame of the
stream where it has not come (assumption 58). -/
def InStream.missing (o : InStream) : Nat :=
  let gaps := o.seen.foldl (fun m q => max m (q + 1)) 0 - o.seen.length
  if o.lastSeq.isSome then max 1 gaps else gaps + 1

/-- Bytes of a version's image from a tier-2 stream's offset on (R253, R254). -/
def State.streamBytes (s : State) (e : EdgeDecl) : Option (List (BitVec 8)) :=
  match s.modelAt e.model e.version with
  | none => none
  | some v =>
    let first := e.srcOff / pageBytes
    let pages := (List.range (ceilDiv (e.srcOff % pageBytes + e.bytes) pageBytes)).map fun i =>
      let g := Sparse.get 0 v.pages (first + i)
      (s.content (gaSlot g).1 (gaSlot g).2, i)
    if pages.any fun x => x.1.isNone then none
    else
      let take (x : Option Mem × Nat) : List (BitVec 8) :=
        let lo := if x.2 = 0 then e.srcOff % pageBytes else 0
        let hi := min pageBytes (e.srcOff % pageBytes + e.bytes - x.2 * pageBytes)
        Mem.reads (x.1.getD []) lo (hi - lo)
      some (pages.flatMap take)

/-- The tiles of a tier-2 stream, each on its footprint, from offset `o` of it on: the counter is raised when the last flit
of each is written, and one that fails R168 is a failure found at landing; `at_` gives the cycle in which a flit is written;
at most `n` tiles. -/
def State.landTiles (e : EdgeDecl) (at_ : Nat → Nat) : Nat → Nat → List (BitVec 8) → State → State
  | 0, _, _, s => s
  | n + 1, o, bs, s =>
    if bs = [] then s
    else
      let need := fieldAt bs 20 4
      let ok := landingTileOk (bs.take 64) ((bs.drop 64).take need)
      let foot := (64 + need + 127) / 128 * 128
      let cycle := at_ ((o + min foot bs.length - 1) / 128)
      let s := s.onCell e.cell (Cell.signalAt (cycle + 1) (some (BitVec.ofNat 4 e.counter)))
      let s := s.tileLanded e.cell cycle ok [(e.sram + o, min (64 + need) bs.length)]
      if need ≤ 1048576 then State.landTiles e at_ n (o + foot) (bs.drop foot) s else s

/-- A tier-2 stream delivers its bytes into the cell from the stream's `sram` address on, one flit a cycle through the
landing port, the last in the cycle after the last beat of its window; poisoned where a page cannot be read (R53, R148, R199,
R254). In which cycles of the window they arrive is open (assumption 131). -/
def State.landTier2 (e : EdgeDecl) (s : State) : State :=
  let flits := ceilDiv e.bytes 128
  let at_ (k : Nat) : Nat := e.last + 2 + k - flits
  let s := s.settleAll e.last
  let put (bs : List (BitVec 8)) (bad : Bool) (s : State) : State :=
    (List.range flits).foldl (fun s k =>
      let d := (bs.drop (128 * k)).take 128
      let a := e.sram + 128 * k
      if a + d.length ≤ sramBytes then s.sramStore e.cell (at_ k) a d bad 3 else s) s
  match s.streamBytes e with
  | none => (put (List.replicate e.bytes 0) true s).tileLanded e.cell (e.last + 1) false [(e.sram, e.bytes)]
  | some bs => (put bs false s).landTiles e at_ (bs.length / 128 + 1) 0 bs

/-- The window of an inbound stream ends at its `last_beat`: a fabric stream that lacks a frame voids the step with
cause bit 5 (R320); the bytes of a tier-2 stream are in the cell (R254). -/
def State.streamEnd (e : EdgeDecl) (s : State) : State :=
  let o := s.inStream e.index
  if o.ended then s
  else if e.kind = 2 then
    let s := s.setIn { o with ended := true }
    if o.lastSeq.any fun q => decide (q + 1 = o.landed) then s
    else (s.onFab fun f => { f with slotLost := satAdd f.slotLost o.missing }).voidWith 5
  else if e.kind = 3 then (s.setIn { o with ended := true }).landTier2 e
  else s

/-- `STREAM_WINDOW_END` (R320). -/
def execStreamWindowEnd (stream : Nat) (s : State) : Out :=
  match imgEdge s.active stream with
  | none => .next s
  | some e => if s.step.playing then finish (s.streamEnd e) else .next s

/-! ### Slots (R321, R325, R326) -/

/-- The next management frame of a port: the highest priority, then the order of queueing (R325). A port in `IDENT` carries
ident and echo frames alone (R332), a disabled plane too (R339). -/
def State.nextMsg (s : State) (p : Nat) : Option OutMsg :=
  let fits (m : OutMsg) : Bool := (m.port.all fun q => decide (q = p)) &&
    (msgTraining m.body || (s.portUp p && s.planeCarries p))
  ([1, 2, 3, 4, 5, 6].flatMap fun k => s.fab.mgmtQ.filter fun m => decide (m.prio = k) && fits m).head?

/-- The next data frame of a port: by the stream's `last_beat`, then its index, then the sequence (R321). -/
def State.nextData (s : State) (p : Nat) : Option OutFrame :=
  let less (a b : OutFrame) : Bool :=
    decide (a.lastBeat < b.lastBeat) || (decide (a.lastBeat = b.lastBeat) &&
      (decide (a.stream < b.stream) || (decide (a.stream = b.stream) && decide (a.sequence ≤ b.sequence))))
  ((s.fab.dataQ.filter fun f => decide (f.port = p)).mergeSort less).head?

/-- Beats of the step in progress are played: between beat 0 and the last beat (R326). -/
def State.inBeats (s : State) : Bool := s.step.playing && !s.step.lastBeat && decide (s.cycleTick 0 ≤ s.now)

/-- The data frame that a slot of a port carries: none in a management slot, nor outside the beats (R311, R321, R326). -/
def State.slotData (port slot : Nat) (s : State) : Option OutFrame :=
  if slot % 16 ≠ 15 ∧ s.inBeats ∧ s.portUp port then s.nextData port else none

/-- A slot of a port that is `UP` or in `IDENT` begins (R311, R321, R332): it carries a data frame, else a management frame,
else nothing. -/
def execSlotTransmit (port : Nat) (tick : Nat) (s : State) : Out :=
  let s := s.at_ tick
  let x := s.fab.ports.getD port Port.reset
  if x.state ≠ .up ∧ x.state ≠ .ident then finish s
  else
    let slot := x.slots.toNat
    let s := s.onPort port fun x => { x with slots := x.slots + 1 }
    match s.slotData port slot with
    | some f => finish (s.departData slot f)
    | none => match s.nextMsg port with
      | some m => finish (s.departMsg port slot m)
      | none => finish s

/-! ### Verdict frames and leave notices that arrive (R327, R328, R348) -/

/-- The peers of this chip's partition. -/
def State.peers (s : State) : List (BitVec 12) := s.fab.memberChips.filter fun c => decide (c ≠ s.fab.chip)

/-- A verdict frame arrives (R14, R322, R326, R327, R348): its capacity vector is kept, whichever its step, and of its step in
progress the first copy; one that names a later step than the chip's own shows that the chip has diverged. -/
def execVerdictFrame (hdr : FrameHdr) (body : VerdictBody) (s : State) : Out :=
  receive hdr (fun s =>
    if hdr.source ∉ s.peers ∨ s.unarmed ∨ hdr.source ∈ s.hlt.lost ∨
        (s.hlt.notices.any fun n => decide (n.1 = hdr.source)) then s
    else
    let s := s.onFab fun f => { f with vectors := Sparse.set fullCapacity f.vectors hdr.source.toNat body.capacity }
    if s.cad.step.toNat < body.step.toNat ∧ s.step.running then
      if s.hlt.withdrawn then s else (s.raiseHlt 3).withdraw
    else if body.step ≠ s.cad.step ∨ hdr.replay ≠ BitVec.ofNat 16 s.step.replay ∨
        (s.step.verdicts.any fun r => decide (r.chip = hdr.source)) then s
    else s.onStep fun g => { g with verdicts := g.verdicts ++ [{ chip := hdr.source, replay := hdr.replay, body := body }] }) s

/-- A leave notice arrives (R328): the sender counts as lost for every step after `last_step`, and the moves with it
are resolved (R210). -/
def execLeaveNotice (hdr : FrameHdr) (_cause : BitVec 8) (lastStep : BitVec 64) (s : State) : Out :=
  receiveWork hdr (fun s =>
    let s := s.raiseFab 7
    let s := if hdr.source ∈ s.peers ∧ !s.unarmed ∧ !(s.hlt.notices.any fun n => decide (n.1 = hdr.source)) then
      s.onHlt fun h => { h with notices := h.notices ++ [(hdr.source, lastStep)] } else s
    s.resolvePeer hdr.source) s

/-! ### Ports (R331 to R335) -/

/-- A port that was `UP` goes `DOWN`: the frames queued on it are lost, and it carries no scheduled frame for the
rest of the step (R334, R335). -/
def State.portLost (p : Nat) (s : State) : State :=
  if s.portUp p then
    let s := s.raiseFab 0
    let dropped := (s.fab.mgmtQ.filter fun m => decide (m.port = some p)).length
    s.onFab fun f => { f with
      dataQ := f.dataQ.filter fun x => decide (x.port ≠ p)
      mgmtQ := f.mgmtQ.filter fun m => decide (m.port ≠ some p)
      mgmtDrop := satAdd f.mgmtDrop dropped
      stripes := f.stripes.map fun x => (x.1, x.2.map fun q => if q = p then 16 + p else q) }
  else s

/-- A port enters `DOWN` with the fields of an attempt cleared. -/
def Port.down (x : Port) : Port :=
  { x with state := .down, width := 0, lanes := 0, identDone := false, echoes := [], retryAt := none, slots := 0 }

/-- A port begins to train at full width (R331). -/
def Port.train (x : Port) : Port := { x.down with state := .training, failed := 0 }

/-- The widest group of lanes that are all good, in the order of R334. -/
def laneGroup (good : BitVec 8) : Option (BitVec 8) :=
  ([0x0F, 0xF0, 0x03, 0x0C, 0x30, 0xC0] : List (BitVec 8)).find? fun g => decide (g &&& good = g)

/-- The `RETRAIN`s whose ports are all `UP`, `FAILED` or `MISWIRED` complete (R337). -/
def State.retrainDone (s : State) : State :=
  let port (p : Nat) : Port := s.fab.ports.getD p Port.reset
  let named (m : BitVec 16) : List Nat := (List.range 16).filter fun p => m.getLsbD p
  let ended (m : BitVec 16) : Bool := (named m).all fun p =>
    decide ((port p).state = .up) || decide ((port p).state = .failed) || decide ((port p).state = .miswired)
  let full (m : BitVec 16) : Bool := (named m).all fun p => decide ((port p).state = .up) && decide ((port p).width = 8)
  let done := s.fab.retrain.filter fun x => ended x.2
  let s := s.onFab fun f => { f with retrain := f.retrain.filter fun x => !ended x.2 }
  done.foldl (fun s x => s.complete x.1 (if full x.2 then stOk else stDegraded) 0) s

/-- A port reaches `UP` at a width (R333). -/
def State.portRises (p : Nat) (width : Nat) (lanes : BitVec 8) (s : State) : State :=
  (s.onPort p fun x => { x with
    state := .up, width := width, lanes := lanes, attempts := 0, retryAt := none, slots := 0 }).raiseFab 1

/-- A port enters `FAILED` (R333, R334). -/
def State.portFails (p : Nat) (s : State) : State :=
  (s.onPort p fun x => { x.down with state := .failed }).raiseFab 3

/-- A port completes its state and advances (R331, R332, R334): `good` are the lanes that trained. -/
def execPortStateDone (port : Nat) (good : BitVec 8) (s : State) : Out :=
  let x := s.fab.ports.getD port Port.reset
  match x.state with
  | .training => finish (if good = 0xFF then s.onPort port fun x => { x with state := .aligning } else s)
  | .aligning =>
    if good ≠ 0xFF then finish s
    else
      let s := s.onPort port fun x => { x with state := .ident, identDone := false, echoes := [] }
      finish (s.sendMsg 1 0 false (some port) (.ident (s.fab.chip.setWidth 16) (BitVec.ofNat 8 port) 8))
  | .ident =>
    if x.identDone ∧ x.echoes.length = 16 then finish (s.portRises port 8 0xFF).retrainDone else finish s
  | .retraining =>
    let s := s.onPort port fun x => { x with failed := x.failed ||| ~~~ good }
    (match laneGroup (good &&& ~~~ x.failed) with
    | some g => finish (((s.portRises port (if popCount g = 4 then 4 else 2) g).raiseFab 2).retrainDone)
    | none => finish (s.portFails port).retrainDone)
  | _ => finish s

/-- A state misses its limit: the port returns to `DOWN` and tries again 1 s later, or enters `FAILED` after the third
consecutive failure (R333). The lanes that did not train in `RETRAINING`, all but those named, are failed (R334). -/
def execPortStateTimeout (port : Nat) (miss : TrainMiss) (s : State) : Out :=
  let s := s.at_ miss.tick
  let x := s.fab.ports.getD port Port.reset
  if x.state = .training ∨ x.state = .aligning ∨ x.state = .ident ∨ x.state = .retraining then
    let s := s.onPort port fun x => { x with
      attempts := satInc x.attempts, failed := if x.state = .retraining then x.failed ||| ~~~ miss.good else x.failed }
    if 2 ≤ x.attempts.toNat then finish (s.portFails port).retrainDone
    else finish (s.onPort port fun x => { x.down with retryAt := some (s.uptime + 1000000000) })
  else finish s

/-- A port that waits tries again, one second after its failure: at full width, or narrower where lanes have failed
(R333, R334). -/
def execPortRetryTimer (port : Nat) (tick : Nat) (s : State) : Out :=
  let s := s.at_ tick
  let x := s.fab.ports.getD port Port.reset
  if x.state = .down ∧ (x.retryAt.any fun t => decide (t ≤ s.uptime)) then
    finish (s.onPort port fun x => if x.failed = 0 then x.train else { x.down with state := .retraining })
  else finish s

/-- The port of a frame is in `IDENT` (R332). -/
def State.identifies (h : FrameHdr) (s : State) : Bool :=
  s.clocked 6 && decide ((s.fab.ports.getD h.inPort Port.reset).state = .ident)

/-- The answer of the switch names a plane and its port (R332): a plane other than the port's number is a miswire; else the
16 echo frames are sent. A port that has been answered takes no further answer. -/
def State.identified (port : Nat) (plane : BitVec 8) (switchPort : BitVec 16) (s : State) : State :=
  if (s.fab.ports.getD port Port.reset).identDone then s
  else
    let s := s.onPort port fun x => { x with plane := plane, switchPort := switchPort }
    if plane.toNat ≠ port then ((s.onPort port fun x => { x.down with state := .miswired }).raiseFab 4).retrainDone
    else
      let s := s.onPort port fun x => { x with identDone := true }
      (List.range 16).foldl (fun s _ => s.sendMsg 1 0 false (some port) (.echo 0)) s

/-- The switch's ident answer arrives (R332). -/
def execIdentFrame (hdr : FrameHdr) (plane : BitVec 8) (switchPort : BitVec 16) (s : State) : Out :=
  receiveIf (State.identifies hdr) hdr (State.identified hdr.inPort plane switchPort) s

/-- An echo has returned (R332): after the sixteenth the link delay is half the smallest round trip less its
turnaround, rounded to the nearest tick; the rule does not say which tick is the nearest to an odd half
(assumption 4). -/
def State.echoed (port : Nat) (trip : Int) (s : State) : State :=
  let x := s.fab.ports.getD port Port.reset
  if !x.identDone ∨ 16 ≤ x.echoes.length then s
  else
    let es := x.echoes ++ [trip]
    let s := s.onPort port fun x => { x with echoes := es }
    if es.length ≠ 16 then s
    else
      let m := es.foldl min trip
      let up : BitVec 1 := if m % 2 = 0 then 0 else s.free 1
      let s := if m % 2 = 0 then s else s.drawn
      s.onPort port fun x => { x with delay := BitVec.ofInt 32 (m / 2 + (up.toNat : Int)) }

/-- An echo frame returns with the tick of its departure and its turnaround in the switch (R332). -/
def execEchoFrame (hdr : FrameHdr) (departure arrival turnaround : Nat) (s : State) : Out :=
  receiveIf (State.identifies hdr) hdr (State.echoed hdr.inPort ((arrival : Int) - departure - turnaround)) s

/-- A lane of a port fails (R334). Where the port is `UP` and the lane active, the port goes `DOWN` at once and retrains
narrower on its good lanes, or enters `FAILED` when no group is good; a lane that is not active, or that fails while the port
retrains, is reported as failed. The codewords found uncorrectable count on the port (R340). -/
def execLaneFailure (port : Nat) (fault : LaneFault) (s : State) : Out :=
  let s := s.onPort port (Port.heard 0 fault.uncorrectable)
  let x := s.fab.ports.getD port Port.reset
  if x.state = .up ∧ x.lanes.getLsbD fault.lane.val then
    let s := s.portLost port
    let failed := x.failed ||| bit 8 fault.lane.val
    let s := s.onPort port fun x => { x.down with state := .retraining, failed := failed }
    if (laneGroup (~~~ failed)).isSome then finish s else finish (s.portFails port).retrainDone
  else if x.state = .up ∨ x.state = .retraining then
    finish (s.onPort port fun x => { x with failed := x.failed ||| bit 8 fault.lane.val })
  else finish s

/-! ### Commands (R337 to R339) -/

/-- Code of a port state (R331). -/
def PortState.code : PortState → Nat
  | .down => 0
  | .training => 1
  | .aligning => 2
  | .ident => 3
  | .up => 4
  | .retraining => 5
  | .failed => 6
  | .miswired => 7

/-- The record of a port in `LINK_STATUS` (R337). -/
def Port.record (x : Port) : List (BitVec 8) :=
  padTo 32 (leBytes 1 x.state.code ++ leBytes 1 x.width ++ bvBytes 1 x.lanes ++ bvBytes 1 x.failed ++
    bvBytes 4 x.delay ++ bvBytes 4 x.corrRep ++ bvBytes 4 x.uncorrRep ++ bvBytes 2 x.switchPort ++ bvBytes 1 x.plane ++
    leBytes 1 x.attempts.toNat)

/-- `LINK_STATUS` (R337). Its `RETRAIN` needs a committed configuration (R379). -/
def execLinkStatus (handle : BitVec 32) (s : State) : Out :=
  carry 0x90 true handle (fun l s =>
    match l.param 8 1 with
    | 0 =>
      let s := s.hostWrite l.func.toNat (l.param 16 8) (s.fab.ports.flatMap Port.record)
      let s := s.onFab fun f => { f with ports := f.ports.map fun x => { x with corrRep := 0, uncorrRep := 0 } }
      s.complete handle stOk 0
    | 1 =>
      if !s.configured then s.complete handle stConfigInvalid 0
      else
        let mask := BitVec.ofNat 16 (l.param 12 2)
        let s := (List.range 16).foldl (fun s p =>
          if mask.getLsbD p then (s.portLost p).onPort p fun x => { x.train with attempts := 0 } else s) s
        ((s.working handle).onFab fun f => { f with retrain := f.retrain ++ [(handle, mask)] }).retrainDone
    | _ => if s.configured then s.complete handle stBadParam 8 else s.complete handle stConfigInvalid 0) s

/-- `ROUTE_SET` (R338). -/
def execRouteSet (handle : BitVec 32) (s : State) : Out :=
  carry 0x91 false handle (fun l s =>
    let n := l.param 8 1
    let groups := (List.range n).map fun i => l.param (16 + 2 * i) 2
    if !s.unarmed then s.complete handle stNotAllowed 0
    else if 5 < n then s.complete handle stBadParam 8
    else match (List.range 10).find? fun j => if j < 2 * n then decide (j % 2 = 1) && decide (4096 ≤ groups.getD (j / 2) 0)
        else decide (l.param (16 + j) 1 ≠ 0) with
      | some j => s.complete handle stBadParam (BitVec.ofNat 32 (16 + j))
      | none => (s.onFab fun f => { f with groups := groups.map fun g => BitVec.ofNat 12 g }).complete handle stOk 0) s

/-- `PLANE_MASK` (R339): in force at once while the cadence is `UNARMED`, else from the next boundary. -/
def execPlaneMask (handle : BitVec 32) (s : State) : Out :=
  carry 0x92 false handle (fun l s =>
    let mask := BitVec.ofNat 16 (l.param 8 2)
    if mask = 0 then s.complete handle stBadParam 8
    else if (s.cylOf .active).isSome ∧ popCount mask < 15 then s.complete handle stNotAllowed 0
    else if s.unarmed then (s.onFab fun f => { f with mask := Voted.all mask }).complete handle stOk 0
    else s.atBoundary handle) s

/-- The `PLANE_MASK`s taken by a boundary: the mask is in force from it (R339). -/
def State.takeMasks (s : State) : State :=
  (s.liveHandles.filter fun h => (s.liveOf h).any fun l =>
    decide (l.opcode = 0x92) && decide (l.phase = .boundary)).foldl (fun s h =>
      match s.liveOf h with
      | none => s
      | some l => (s.working h).onFab fun f => { f with
          mask := Voted.all (BitVec.ofNat 16 (l.param 8 2)), maskPending := f.maskPending ++ [(h, 2, f.mask.value)] }) s

/-- The `PLANE_MASK`s whose stripe lists are in force complete in phase 2 of a committing boundary (R339). -/
def State.masksDone (s : State) : State :=
  let done := s.fab.maskPending.filter fun x => decide (x.2.1 = 0)
  let s := s.onFab fun f => { f with maskPending := f.maskPending.filter fun x => decide (x.2.1 ≠ 0) }
  done.foldl (fun s x => s.due x.1 stOk 0) s

/-- The capacity vector by which a chip of the partition counts for the lists of a boundary: the last that its verdict
frames carried, 4 units on every port before any; for B_0 the chip's own is that of its ports (R322). -/
def State.vectorOf (s : State) (chip : BitVec 12) : BitVec 64 :=
  if chip = s.fab.chip ∧ !s.cad.begun then s.capacity
  else match s.step.verdicts.find? fun r => decide (r.chip = chip) with
    | some r => r.body.capacity
    | none => Sparse.get fullCapacity s.fab.vectors chip.toNat

/-- The stripe lists of every peer, computed at the end of a boundary (R322); a change raises `PLANE_RESTRIPE`.
The lists computed at B_0 are the first since arming and change none. -/
def State.restripe (s : State) : State :=
  let own := s.vectorOf s.fab.chip
  let lists := s.peers.foldl (fun m c => Sparse.set [] m c.toNat (stripeList own (s.vectorOf c))) ([] : SMap (List Nat))
  let was := s.fab.stripes.map fun x => (x.1, x.2.map (· % 16))
  let used := (lists.flatMap (·.2)).foldl (fun (b : BitVec 16) p => b ||| bit 16 p) 0
  let s := s.onFab fun f => { f with
    stripes := lists, planesInUse := used, maskPending := f.maskPending.map fun x => (x.1, x.2.1 - 1, x.2.2) }
  if lists = was ∨ !s.cad.begun then s else s.raiseFab 5

/-- The chip leaves its partition where a pair with a peer of the active cylinder's streams lacks capacity and this
chip has fewer units, or equal units and the higher number (R324). -/
def State.fabricShort (s : State) : State :=
  let own := s.vectorOf s.fab.chip
  let sum (v : BitVec 64) : Nat := ((List.range 16).map (unitsIn v)).foldl (· + ·) 0
  let both (v : BitVec 64) : Nat := ((List.range 16).map fun p => min (unitsIn own p) (unitsIn v p)).foldl (· + ·) 0
  let partners := (imgEdges s.active).filterMap fun e => if e.kind = 1 ∨ e.kind = 2 then s.stageChip e.peer else none
  let short := s.peers.any fun c => decide (c ∈ partners) && decide (both (s.vectorOf c) < 60) &&
    (decide (sum own < sum (s.vectorOf c)) ||
      (decide (sum own = sum (s.vectorOf c)) && decide (c.toNat < s.fab.chip.toNat)))
  if short ∧ !s.hlt.withdrawn ∧ !s.hlt.left then
    ((s.sendLeave 0x03).raiseFab 6).onHlt fun h => { h with left := true }
  else s

end Sys2Proof.Machine
end

