-- ==== Sys2Proof/Machine/Stop.lean ====
section
/-!
DEFINITION. Halts (R351), the vote of the triplicated fields (R404), the records of the calibration store (R447), and
the entry into a full reset (R461 to R463).
-/
namespace Sys2Proof.Machine

/-- The live commands in order of acceptance. -/
def State.liveInOrder (s : State) : List (BitVec 32) :=
  s.liveHandles.mergeSort fun a b => decide (s.orderOf a ≤ s.orderOf b)

/-- The cells stop at once. -/
def State.stopCells (s : State) : State := s.onStep fun g => { g with playing := false }

/-- The chip halts (R351): its cells stop, leave notices go out, every pending command completes with `INTERNAL`
unless the clocks have stopped (`records`), and `FAULT_N` falls. -/
def State.halt (cause leave : BitVec 8) (records : Bool) (s : State) : State :=
  if s.hlt.halted then s
  else
    let s := s.stopCells.sendLeave leave
    let s := if records then s.completeAll s.liveInOrder stInternal (cause.setWidth 32) else s
    let s := s.onHlt fun h => { h with halted := true, haltCause := cause }
    (s.raiseHlt 7).onPins fun p => { p with faultN := false }

/-! ### Triplicated fields (R404) -/

/-- The majority of three copies, and whether one differed; none without a majority. -/
def vote3 {α : Type} [DecidableEq α] (a b c : α) : Option (α × Bool) :=
  if a = b then some (a, decide (c ≠ a))
  else if a = c then some (a, true)
  else if b = c then some (b, true)
  else none

/-- A vote is acted on: a copy that differed is counted, and no majority halts the chip (R404). -/
def State.voted {α : Type} (r : Option (α × Bool)) (set : α → State → State) (count : State → State) (s : State) :
    State :=
  match r with
  | none => s.halt 0x03 0x04 true
  | some (v, true) => count (set v s)
  | some (_, false) => s

/-- A disagreement outside the fence map is counted in `SYS_VOTE_FIX` (R404). -/
def State.sysFixed (s : State) : State := (s.onSys fun g => { g with voteFix := satInc g.voteFix }).raiseSys 0

/-- A disagreement in the fence map is counted in `GRID_VOTE_FIX` (R404). -/
def State.gridFixed (s : State) : State := (s.onGrid fun g => { g with voteFix := satInc g.voteFix }).raiseGrid 5

/-- Every entry of the fence map is voted (R404). -/
def State.voteFence (s : State) : State :=
  (List.range 48).foldl (fun s i =>
    let m := s.grid.fence
    s.voted (vote3 (m.a.getD i 0x3F) (m.b.getD i 0x3F) (m.c.getD i 0x3F))
      (fun v => State.onGrid fun g => { g with fence := ⟨g.fence.a.set i v, g.fence.b.set i v, g.fence.c.set i v⟩ })
      State.gridFixed) s

/-- A field of three copies is voted (R404), unless the clock of its block is off (R402). -/
def State.voteField {w : Nat} (runs : Bool) (get : State → Voted w) (set : Voted w → State → State) (s : State) : State :=
  let v := get s
  if !runs then s else
  s.voted (vote3 v.a v.b v.c) (fun x => set (Voted.all x)) State.sysFixed

/-- Every triplicated field is voted (R404); those of a block without its clock are not (R402). -/
def State.voteAll (s : State) : State :=
  let s := if s.clocked 1 then s.voteFence else s
  let s := s.voteField (s.clocked 0) (fun s => s.cad.window) fun v => State.onCad fun c => { c with window := v }
  let s := s.voteField (s.clocked 0) (fun s => s.cad.period) fun v => State.onCad fun c => { c with period := v }
  let s := s.voteField (s.clocked 6) (fun s => s.fab.mask) fun v => State.onFab fun c => { c with mask := v }
  let s := s.voteField true (fun s => s.pwr.floor) fun v => State.onPwr fun c => { c with floor := v }
  let s := s.voteField true (fun s => s.pwr.ceiling) fun v => State.onPwr fun c => { c with ceiling := v }
  s.voteField true (fun s => s.sys.lock) fun v => State.onSys fun c => { c with lock := v }

/-- One copy of a field takes a value. -/
def Voted.upset {w : Nat} (v : Voted w) (copy : Fin 3) (x : Nat) : Voted w :=
  match copy with
  | 0 => { v with a := BitVec.ofNat w x }
  | 1 => { v with b := BitVec.ofNat w x }
  | 2 => { v with c := BitVec.ofNat w x }

/-- One copy of a triplicated field is found at a value (R404). -/
def State.upset (u : Upset) (s : State) : State :=
  match u.field with
  | .fence e => s.onGrid fun g =>
      let x := BitVec.ofNat 6 u.value
      { g with fence := match u.copy with
        | 0 => { g.fence with a := g.fence.a.set e.val x }
        | 1 => { g.fence with b := g.fence.b.set e.val x }
        | 2 => { g.fence with c := g.fence.c.set e.val x } }
  | .window => s.onCad fun c => { c with window := c.window.upset u.copy u.value }
  | .period => s.onCad fun c => { c with period := c.period.upset u.copy u.value }
  | .planeMask => s.onFab fun c => { c with mask := c.mask.upset u.copy u.value }
  | .opFloor => s.onPwr fun c => { c with floor := c.floor.upset u.copy u.value }
  | .opCeiling => s.onPwr fun c => { c with ceiling := c.ceiling.upset u.copy u.value }
  | .locks => s.onSys fun c => { c with lock := c.lock.upset u.copy u.value }

/-- The scan of every 1 ms: copies found upset are corrected to the majority, or the chip halts (R404). -/
def execVoteScan (upsets : List Upset) (s : State) : Out :=
  finish (upsets.foldl (fun s u => s.upset u) s).voteAll

/-! ### The entry into a full reset (R461 to R463) -/

/-- Moves that a reset interrupts are resolved (R211): a local move without a commit record leaves its source `HOME`
and frees its destination; a remote one ends as though its peer were lost. -/
def State.resolveMoves (s : State) : State :=
  let s := s.mem.moves.foldl (fun s m =>
    (s.sourceBack m.srcTier.toNat m.src m.pair).freeSlotAt m.dstTier.toNat m.dst) s
  s.mem.remotes.foldl (fun s r => s.resolveRemote r) s

/-- An entry of tier 2 whose shadow the reset took (R212). -/
def unshadowed (d : SMap DirEntry) : SMap DirEntry :=
  d.map fun x => (x.1, if x.2.state = .home then { x.2 with peer := 0 } else x.2)

/-- The entries of a tier whose contents the reset loses: every page homed there becomes `LOST`, and a shadow is freed
(R212). -/
def lostFrames (d : SMap DirEntry) : SMap DirEntry :=
  d.filterMap fun x =>
    if x.2.state = .shadow then none else some (x.1, { x.2 with state := .lost, peer := 0, peerChip := 0 })

/-- The number of pages of tiers 1 and 2 that no tier holds (R205). -/
def Memory.lostCount (m : Memory) : Nat :=
  let lost (d : SMap DirEntry) : Nat := (d.filter fun p => decide (p.2.state = .lost)).length
  lost m.dir1 + lost m.dir2

/-- The directory of tiers 1 and 2 after a reset (R212). Tier 1 is lost, and tier 2 too unless it is kept; of a loss of power
nothing remembers what they held. Each change is journaled, in a region that starts empty where tier 2 is not kept (R211). -/
def Memory.afterReset (power keep : Bool) (m : Memory) : Memory :=
  if power then { m with dir1 := [], dir2 := [], journal2 := [] }
  else (({ m with journal2 := if keep then m.journal2 else [] }).replaceDir 1 (lostFrames m.dir1)).replaceDir 2
    (if keep then unshadowed m.dir2 else lostFrames m.dir2)

/-- The contents of tier 2 can be kept through a reset that begins now (R463, R479): boot is complete, or its channels are
still in self-refresh. Whether one has left it already in the course of stage 0x06 nothing gives: a free value (DESIGN
CHOICE, assumption 185); from stage 0x07 on all have. -/
def State.tier2Whole (s : State) : Bool :=
  if s.cfg.inPulse ∨ s.cfg.stage.toNat ≤ 5 then s.cfg.reqRetention
  else if s.cfg.stage = 6 then s.cfg.reqRetention && decide ((s.free 1 : BitVec 1) = 0)
  else decide (s.cfg.stage = 8)

/-- The address of a page after a reset: that of its tier-2 home where its frame is a shadow (R212). -/
def homeGa (d1 : SMap DirEntry) (g : BitVec 64) : BitVec 64 :=
  if gaSpace g = 1 then
    let e := Sparse.get DirEntry.reset d1 (gaSlot g).2
    if e.state = .shadow then e.peer else g
  else g

/-- A model slot as the directory region of tier 2 keeps it (R212, R264). -/
def keptModel (d1 : SMap DirEntry) (m : ModelVer) : ModelVer :=
  { m with pages := Sparse.mapVals 0 (homeGa d1) m.pages, restored := Sparse.mapVals 0 (homeGa d1) m.restored }

/-- A full reset begins: the internal pulse runs, and only what R462 lists is kept. `retain` is the retention that
was requested: every DDR5 channel is then held in self-refresh, else the DIMMs are held in reset (R458, R463). The test access
port has a reset of its own, `TRST_N`, so the instruction loaded stays (R489, assumption 187). -/
def State.enterReset (cause : BitVec 4) (retain : Bool) (s : State) : State :=
  let keep := retain && s.tier2Whole
  let booting := s.cfg.inPulse || decide (s.cfg.stage.toNat ≤ 6)
  let before := s.mem
  let s := s.resolveMoves
  let z := State.reset
  let m := s.mem
  let after := m.afterReset (decide (cause = 1)) keep
  { z with
    mem := { z.mem with
      t2 := if keep then m.t2 else []
      dir1 := after.dir1, dir2 := after.dir2
      newLost := if cause = 1 then 0 else m.newLost + (after.lostCount - before.lostCount)
      journal2 := after.journal2
      t3 := m.t3, dir3 := m.dir3, journal3 := m.journal3, journalSeq := m.journalSeq, journalHead := m.journalHead
      hardRepairs := m.hardRepairs }
    wgt := { z.wgt with saved := if keep then (if booting then s.wgt.saved else s.wgt.models.map (keptModel m.dir1)) else [] }
    store := { s.store with writing := [] }
    cfg := { z.cfg with
      cause := cause, retainReq := retain, reqRetention := keep, retain := s.cfg.retain
      tripLatched := !s.pins.thermtripN, strap := s.cfg.strap, inPulse := true, inReset := true
      pwrStop := s.cfg.pwrStop && decide (2 < cause)
      channelsBefore := if booting then s.cfg.channelsBefore else m.channels }
    fab := { z.fab with sent := s.fab.sent, sentData := s.fab.sentData, wire := s.fab.wire }
    pins := { s.pins with
      faultN := false, linkUp := false, flPerstN := false, sbIn := none, sbOut := none, sbDue := none, sbAddr := none
      dimmReset := !keep
      selfRefresh := if !keep then 0 else if booting then s.pins.selfRefresh else m.channels }
    host := { s.host with answer := none, answerBytes := [], aborted := false }
    freeCount := s.freeCount + 1
    pending := s.pending }

/-- A chip that resets leaves its partition while the cadence is armed (R328, R385): its notices leave before the reset. -/
def State.leaveToReset (s : State) : State := if s.unarmed then s else (s.sendLeave 0x04).lastNotices

/-- A reset that a register or the sideband requests (R461); its notices leave first, as those of `DEVICE_RESET` do. -/
def State.requestReset (cause : BitVec 4) (retain : Bool) (s : State) : State := s.leaveToReset.enterReset cause retain

end Sys2Proof.Machine
end

