-- ==== Sys2Proof/Machine/PowerOps.lean ====
section
/-!
DEFINITION. Operating points: the target and the standby PLL (R439), the voltages in force (R449), the sequencer of
phase 6 (R440), the end of a calibration (R451 to R454), and the writes of the power registers (R438, R457).
-/
namespace Sys2Proof.Machine

/-- The target operating point (R439). -/
def State.target (s : State) : BitVec 3 :=
  let p := s.pwr
  BitVec.ofNat 3 (max p.floor.value.toNat (min p.opReq.toNat (min p.ceiling.value.toNat p.cap.toNat)))

/-- The standby core PLL is set to the clock that R439 gives; a PLL that is set anew is not yet locked, and its bit of
`PWR_CLK_STATUS` reads 0 until it is (R435, R457). -/
def State.tunePll (s : State) : State :=
  let p := s.pwr
  let want : Option (BitVec 3) :=
    if s.target ≠ p.inForce then some s.target
    else if p.floor.value < p.inForce then some (p.inForce - 1) else p.standbyOp
  let lock : BitVec 9 := bit 9 (if p.activeB then 4 else 5)
  if want = p.standbyOp then s
  else s.onPwr fun p => { p with standbyOp := want, standbyLocked := false, clk := p.clk &&& ~~~ lock }

/-- The change to the target is ready: the standby core PLL is locked at its clock (R439). -/
def State.opReady (s : State) : Bool := decide (s.pwr.standbyOp = some s.target) && s.pwr.standbyLocked

/-- The table voltage of a point, in mV (R437). -/
def tableVoltage (op : BitVec 3) : Nat := [500, 520, 540, 570, 600, 640, 680, 720].getD op.toNat 720

/-- The calibration floor of a point, in mV (R437). -/
def floorVoltage (op : BitVec 3) : Nat := [500, 500, 500, 500, 520, 560, 600, 640].getD op.toNat 640

/-- Number of the calibration entry of a point and a die (R448). -/
def entryIndex (op : BitVec 3) (east : Bool) : Nat := 2 * op.toNat + (if east then 1 else 0)

/-- The entry in force for a point and a die. -/
def State.entryOf (s : State) (op : BitVec 3) (east : Bool) : CalEntry :=
  s.pwr.entries.getD (entryIndex op east) CalEntry.reset

/-- The progress of the calibration on a die. -/
def CalRun.die (c : CalRun) (east : Bool) : CalDie := if east then c.east else c.west

/-- The core voltage of a die at a point (R449), overridden by a calibration for the dies it names (R451). -/
def State.voltage (s : State) (op : BitVec 3) (east : Bool) : Nat :=
  let e := s.entryOf op east
  let v := if e.valid then e.voltage.toNat else tableVoltage op
  let g := if s.pwr.guards.getLsbD (entryIndex op east) then 1 else 0
  let ruled := min (tableVoltage op) (v + 10 * g)
  match s.pwr.cal with
  | none => ruled
  | some c => if (c.die east).named && decide (c.op = op) then (c.die east).level else ruled

/-- The voltages of a point are commanded on both rails (R432, R449). -/
def State.commandVolts (op : BitVec 3) (s : State) : State :=
  s.onPwr fun p => { p with voltW := s.voltage op false, voltE := s.voltage op true }

/-! ### Calibration (R451 to R454) -/

/-- A write of `PWR_OP_REQ` allows attempts again after the third failure in a row, at once (R440). -/
def Power.freshAttempts (p : Power) : Power :=
  { p with vrFails := 0, vrRetryAt := if 3 ≤ p.vrFails then 0 else p.vrRetryAt }

/-- A write of `PWR_OP_REQ` that waited for a calibration takes effect, and failed transitions are tried again (R440,
R453). -/
def Power.heldReq (p : Power) : Power :=
  match p.opReqWait with
  | none => p
  | some op => { p.freshAttempts with opReq := op, opReqWait := none }

/-- A calibration is cancelled with a reason (R453, R454): no entry is written, not even one whose write is waiting, and a
write of `PWR_OP_REQ` that waited takes effect. -/
def State.cancelCal (reason : BitVec 32) (s : State) : State :=
  match s.pwr.cal with
  | none => s
  | some c =>
    let s := s.onPwr fun p => { p.heldReq with cal := none, calState := 3 }
    let s := s.onStore fun t => { t with writing := t.writing.filter fun x => decide (x.1 ≠ .calSet) }
    ((s.raisePwr 9).complete c.handle stCancelled reason).tunePll

/-- The new entry of a die that has ended (R451). -/
def CalRun.newEntry (c : CalRun) (east : Bool) : CalEntry :=
  let d := c.die east
  let v := match d.lowest with
    | some n => min (tableVoltage c.op) (n + 10)
    | none => tableVoltage c.op
  { valid := true, voltage := BitVec.ofNat 16 v, clean := BitVec.ofNat 16 (d.lowest.getD 0)
    load := if d.lowest.isSome then d.load else d.loadNow, junction := intBits 16 d.junction }

/-- The bytes of an entry (R448). -/
def CalEntry.bytes (e : CalEntry) (i : Nat) : List (BitVec 8) :=
  if e.valid then
    leBytes 1 1 ++ leBytes 1 (i / 2) ++ leBytes 1 (i % 2) ++ [0] ++ bvBytes 2 e.voltage ++ bvBytes 2 e.clean ++
      bvBytes 4 e.load ++ bvBytes 2 e.junction ++ [0, 0]
  else List.replicate 16 0

/-- The calibration set as it is stored, without the generation and CRC of R447 (R448). -/
def State.calSet (s : State) : List (BitVec 8) :=
  padTo 64 ([0x4A, 0x58, 0x43, 0x41, 0x4C, 0x53, 0x45, 0x54] ++ bvBytes 4 s.cfg.fwVersion) ++
    (s.pwr.entries.mapIdx fun i e => e.bytes i).flatten

/-- An entry read from the calibration set (R448). -/
def readEntry (bs : List (BitVec 8)) (i : Nat) : CalEntry :=
  let e := (bs.drop (64 + 16 * i)).take 16
  if byteAt e 0 = 1 then
    { valid := true, voltage := BitVec.ofNat 16 (fieldAt e 4 2), clean := BitVec.ofNat 16 (fieldAt e 6 2)
      load := BitVec.ofNat 32 (fieldAt e 8 4), junction := BitVec.ofNat 16 (fieldAt e 12 2) }
  else CalEntry.reset

/-- The `detail` of a calibration that ends: the new voltages (R454). -/
def CalRun.detail (c : CalRun) : BitVec 32 :=
  let v (east : Bool) : Nat := if (c.die east).named then (c.newEntry east).voltage.toNat else 0
  BitVec.ofNat 32 (v false + 65536 * v true)

/-- The entries of a calibration that has ended are in force, and their guards are clear (R453). -/
def State.applyEntries (c : CalRun) (s : State) : State :=
  let one (east : Bool) (p : Power) : Power :=
    if (c.die east).named then
      let i := entryIndex c.op east
      { p with entries := p.entries.set i (c.newEntry east), guards := p.guards &&& ~~~ (bit 16 i) }
    else p
  s.onPwr fun p => one true (one false p)

/-- A calibration ends: the write of `PWR_OP_REQ` that waited takes effect (R453). -/
def State.endCal (s : State) : State :=
  (s.onPwr fun p => { p.heldReq with cal := none, calState := 2 }).tunePll

/-! ### The sequencer (R440) -/

/-- The lock bit of the active core PLL in `PWR_CLK_STATUS` (R457). -/
def Power.activeLocked (p : Power) : Bool := p.clk.getLsbD (if p.activeB then 5 else 4)

/-- The clock switches to the standby core PLL, and a point is in force (R440); the PLL that was active stands by, locked
unless it has slipped (R436). A calibration at another point is cancelled (R453). -/
def State.switchPll (op : BitVec 3) (s : State) : State :=
  let s := s.onPwr fun p => { p with
    inForce := op, activeB := !p.activeB, standbyOp := some p.inForce, standbyLocked := p.activeLocked, transition := none }
  ((s.raisePwr 0).cancelCal 1).tunePll

/-- A transition misses its voltage within 10 µs: counted against the rails that did not report it, and retried 1 ms
later (R440). -/
def State.vrFault (west east : Bool) (s : State) : State :=
  let s := s.onPwr fun p => { p with
    transition := none, vrFails := p.vrFails + 1, vrRetryAt := s.uptime + 1000000
    vrErrW := if west then p.vrErrW else satInc p.vrErrW, vrErrE := if east then p.vrErrE else satInc p.vrErrE }
  (s.raisePwr 4).commandVolts s.pwr.inForce

/-- The transition in progress, if any: it ends in the point once the standby PLL is locked at its clock (R435), is given
up, or goes on (R440). -/
def State.sequenceTransition (west east : Bool) (s : State) : State :=
  match s.pwr.transition with
  | none => s
  | some (k, t) =>
    if s.target ≠ k then (s.onPwr fun p => { p with transition := none }).commandVolts s.pwr.inForce
    else if west && east then
      (if s.opReady then (s.onPwr fun p => { p with vrFails := 0 }).switchPll k else s)
    else if t + 10000 ≤ s.uptime then s.vrFault west east
    else s

/-- Phase 6 of a boundary (R440): `west` and `east` say that the regulator of the rail reports the voltage of the
transition reached. -/
def State.sequence (west east : Bool) (s : State) : State :=
  let s := s.sequenceTransition west east
  let p := s.pwr
  let t := s.target
  if p.transition.isSome ∨ !s.opReady then s
  else if t < p.inForce then (s.switchPll t).commandVolts t
  else if p.inForce < t ∧ p.vrFails < 3 ∧ p.vrRetryAt ≤ s.uptime then
    (s.onPwr fun p => { p with transition := some (t, s.uptime) }).commandVolts t
  else s

/-! ### Register writes (R438, R439, R453, R457) -/

/-- A write of `PWR_OP_REQ`: it waits while a calibration runs (R439, R453). -/
def State.writeOpReq (v : BitVec 32) (s : State) : State :=
  let op : BitVec 3 := v.extractLsb' 0 3
  if s.pwr.cal.isSome then s.onPwr fun p => { p with opReqWait := some op }
  else (s.onPwr fun p => { p.freshAttempts with opReq := op }).tunePll

/-- A cylinder that is `ACTIVE` or `VERIFIED` fails R28 at a floor and the period in force (R438). -/
def State.floorFails (s : State) (floor : Nat) : Bool :=
  s.cyl.known.any fun k => (decide (k.status = .active) || decide (k.status = .verified)) &&
    !budgetFits (imgHeader k.image).budget s.inForce floor

/-- The thermal cap never lies below the floor (R444). -/
def Power.capped (p : Power) : Power := { p with cap := if p.cap < p.floor.value then p.floor.value else p.cap }

/-- A write of `PWR_OP_LIMITS`, ignored where R438 says so. -/
def State.writeOpLimits (v : BitVec 32) (s : State) : State :=
  let floor : BitVec 3 := v.extractLsb' 0 3
  let ceiling : BitVec 3 := v.extractLsb' 8 3
  if ceiling < floor ∨ (floor < s.pwr.floor.value ∧ s.floorFails floor.toNat) then s.raisePwr 11
  else (s.onPwr fun p => Power.capped { p with floor := Voted.all floor, ceiling := Voted.all ceiling }).tunePll

/-- A write of `PWR_THERM_CFG` (R457). -/
def State.writeTherm (v : BitVec 32) (s : State) : State :=
  let d : BitVec 8 := v.extractLsb' 0 8
  let u : BitVec 8 := v.extractLsb' 8 8
  let d' := if 85 ≤ d.toNat ∧ d.toNat ≤ 104 then d else s.pwr.thermDown
  s.onPwr fun p => { p with
    thermDown := d', thermUp := if 70 ≤ u.toNat ∧ u.toNat + 2 ≤ d'.toNat then u else p.thermUp }

end Sys2Proof.Machine
end

