-- ==== Sys2Proof/Machine/Remote.lean ====
section
/-!
DEFINITION. The answers to the writes of the serving chip into the history of stage 0 (R275).
-/
namespace Sys2Proof.Machine

/-- A write of an addition into the history of stage 0 has ended: the addition is acknowledged once every write of it is, and
one that was refused or lost never is (R275). -/
def State.historyEnd (n : Nat) (h : BitVec 32) (done : Bool) (s : State) : State :=
  let left := s.fab.requests.any fun r => decide (r.owner = .history n h)
  s.onCtx n fun c => { c with additions := c.additions.map fun a =>
    if a.handle = h then
      let refused := a.refused || !done
      { a with refused := refused, acked := !left && !refused }
    else a }

end Sys2Proof.Machine
end

