-- ==== Sys2Proof/Machine/RegOps.lean ====
section
/-!
DEFINITION. What the registers with behaviour of their own do: claims, completions, doorbells and pending words of the
interrupt controller (R408 to R417), the start and stop of a utility DMA channel (R420 to R424), and the registers of
a queue (R362 to R369).
-/
namespace Sys2Proof.Machine

/-! ### The interrupt controller -/

/-- The sense of a source is a level (R408). -/
def SrcCfg.isLevel (c : SrcCfg) : Bool := decide (c.sense.toNat < 2)

/-- A target changed. -/
def Ic.onTarget (t : Nat) (g : Target → Target) (ic : Ic) : Ic := { ic with targets := listModify ic.targets t g }

/-- A read of `IC_CLAIM_t` by its target: the number returned, and the claim (R411). -/
def State.claim (t : Nat) (s : State) : BitVec 32 × State :=
  let ic := s.ic
  let n := ic.best t
  let notice := (ic.targets.getD t Target.reset).notice.toNat
  let clear (ic : Ic) : Ic := ic.onTarget t fun g => { g with notice := 0 }
  if n ≠ 0 then
    (BitVec.ofNat 32 n, s.icChange fun ic => clear (ic.setSrc n
      (let c := ic.src n
       { c with inService := some t, pending := if c.isLevel then c.pending else false })))
  else
    let s := s.icChange clear
    let c := ic.src notice
    if notice = 0 then (0, s)
    else if c.inService.isSome && decide (c.inService ≠ some t) then (1023, s)
    else if !c.pending || !ic.enabled notice || c.storm then (1022, s)
    else (0, s)

/-- Firmware has taken the message of the inbound mailbox, so that its source falls, and may have filled the outbound one
(R487). When it does so, and with what, is the firmware's: the model lets it be when its target ends the service of source
45, and the outbound message is a free value (DESIGN CHOICE, assumption 186). -/
def State.mailTaken (s : State) : State :=
  let n := (s.free 5 : BitVec 5).toNat + 1
  let bytes := (List.range n).map fun i => Config.freeValue 8 (s.freeCount + 1 + i)
  let fills := decide ((Config.freeValue 1 (s.freeCount + 33) : BitVec 1) = 1)
  let s := (s.onFreeCount (· + 34)).onPins fun p => { p with
    sbIn := none, sbOut := if fills then some bytes else p.sbOut }
  s.signal 45 false

/-- Target `t` ends the service of a source (R412, R416); one that it does not hold is a bad completion. -/
def State.endService (t n : Nat) (s : State) : State :=
  let s := if n = 45 ∧ (s.ic.src 45).inService = some t then s.mailTaken else s
  let c := s.ic.src n
  if n ≠ 0 ∧ c.inService = some t then
    let p := c.pendingAt c.signal c.signal
    let s := s.icChange fun ic => ic.setSrc n { c with inService := none, pending := p }
    if c.isLevel && p then s.asserted n else s
  else (s.onIc fun ic => { ic with badComplete := satInc ic.badComplete }).raiseIc 1

/-- A doorbell source is written with 1: it becomes pending (R408). -/
def State.doorbell (n : Nat) (s : State) : State :=
  let c := s.ic.src n
  if c.pending then s
  else (s.icChange fun ic => ic.setSrc n { c with pending := true }).asserted n

/-- The value of a pending word (R413, R414). -/
def Ic.pendWord (ic : Ic) (w : Nat) : BitVec 32 :=
  (ic.listed.filter fun n => decide (n / 32 = w) && (ic.src n).pending && !(ic.src n).storm).foldl
    (fun (v : BitVec 32) n => v ||| bit 32 (n % 32)) 0

/-- A read of a pending word clears its scan sources; a level source that is active is pending again (R413). -/
def State.pendRead (w : Nat) (s : State) : State :=
  let ns := s.ic.listed.filter fun n =>
    let c := s.ic.src n
    decide (n / 32 = w) && c.scan && c.pending && !c.storm
  ns.foldl (fun s n =>
    let c := s.ic.src n
    let s := s.icChange fun ic => ic.setSrc n { c with pending := false }
    if c.pendingAt c.signal c.signal && c.isLevel then
      (s.icChange fun ic => ic.setSrc n { c with pending := true }).asserted n
    else s) s

/-- A write of `IC_SRC_CFG_n` (R408, R409, R414, R419). Writing 0 to `storm` unmasks; what writing 1 does the specification
leaves open, and the model ignores it (DESIGN CHOICE, assumption 158). -/
def State.writeSrcCfg (n : Nat) (v : BitVec 32) (s : State) : State :=
  let c := s.ic.src n
  let sense : BitVec 3 := v.extractLsb' 0 3
  let takes := if 960 ≤ n then decide (sense = 5) else decide (sense.toNat ≤ 4)
  let c := { c with
    sense := if takes then sense else c.sense, scan := v.getLsbD 3, targets := v.extractLsb' 4 6
    storm := c.storm && v.getLsbD 10 }
  let p := srcAssigned n && (if c.isLevel then c.pendingAt c.signal c.signal else c.pending)
  let s := s.icChange fun ic => ic.setSrc n { c with pending := p }
  if p && !c.pending then s.asserted n else s

/-- The bits of `IC_ENABLE_w` and `IC_PEND_w` that name a source (R419). -/
def srcBits (w : Nat) : BitVec 32 := if w = 0 then 0xFFFFFFFE else if w = 31 then 0x0FFFFFFF else 0xFFFFFFFF

/-- A vector is unmasked: one that is pending sends its message (R417). -/
def State.unmaskVector (g : Nat) (s : State) : State :=
  let v := s.ic.vec g
  let s := s.onIc (Ic.setVec g { v with masked := false })
  if v.pendingBit && !s.ic.msixMask.getLsbD (vectorFunc g) then s.sendVector g else s

/-- A configuration write puts MSI-X Enable and Function Mask of a function in force (R415); its pending vectors that
are then no longer masked send their messages (R417). -/
def State.msixControl (f : BitVec 4) (c : MsixControl) (s : State) : State :=
  let put (b : Bool) (v : BitVec 16) : BitVec 16 := if b then v ||| bit 16 f.toNat else v &&& ~~~ bit 16 f.toNat
  let s := s.onIc fun ic => { ic with msixEnable := put c.enable ic.msixEnable, msixMask := put c.mask ic.msixMask }
  if c.enable && !c.mask then
    ((s.ic.vectors.map (·.1)).filter fun g => decide (vectorFunc g = f.toNat)).foldl (fun s g =>
      if (s.ic.vec g).pendingBit && !(s.ic.vec g).masked then s.sendVector g else s) s
  else s

/-- A write of a doubleword of a function's MSI-X table (R415), whose first vector is `base`: the message address and
data, and the mask of the vector. -/
def State.writeMsix (base o : Nat) (v : BitVec 32) (s : State) : State :=
  let g := base + o / 16
  let e := s.ic.vec g
  match o % 16 / 4 with
  | 0 => s.onIc (Ic.setVec g { e with addr := (e.addr.extractLsb' 32 32) ++ v })
  | 1 => s.onIc (Ic.setVec g { e with addr := v ++ (e.addr.extractLsb' 0 32) })
  | 2 => s.onIc (Ic.setVec g { e with data := v })
  | _ =>
    if v.getLsbD 0 then s.onIc (Ic.setVec g { e with masked := true })
    else if e.masked then s.unmaskVector g else s

/-! ### Utility DMA (R420 to R424) -/

/-- A channel. -/
def State.dmaCh (s : State) (c : Nat) : DmaCh := s.dma.chans.getD c DmaCh.reset

/-- A channel changed. -/
def State.onCh (c : Nat) (g : DmaCh → DmaCh) (s : State) : State :=
  s.onDma fun d => { d with chans := listModify d.chans c g }

/-- The channel belongs to the host (R420). -/
def State.hostCh (s : State) (c : Nat) : Bool := s.dma.owner.getLsbD c

/-- Bytes of the channel's transfer. -/
def DmaCh.total (x : DmaCh) : Nat := x.count.toNat

/-- The channel leaves the busy state, or its transfer of no bytes is done: its event, its interrupt, and its `go` and
`abort` bits (R423, R424, R426). -/
def State.dmaLeave (c : Nat) (st : BitVec 3) (code : BitVec 4) (s : State) : State :=
  let s := s.onCh c fun x => { x with
    state := st, code := code, go := false, abort := false, buffer := [], waiting := [], acked := [], stop := none, asked := none }
  let s := s.onDma fun d => { d with events := d.events ||| bit 16 c }
  if (s.dmaCh c).irq then s.pulse (c + 1) else s

/-- The channel issues no further access; it leaves the busy state once the responses of its writes have returned
(R424). -/
def State.dmaStop (c : Nat) (st : BitVec 3) (code : BitVec 4) (addr : Option (BitVec 64)) (s : State) : State :=
  let s := match addr with
    | none => s
    | some a => s.onCh c fun x => { x with err := a }
  if (s.dmaCh c).waiting = [] then s.dmaLeave c st code
  else s.onCh c fun x => { x with stop := some (st, code, addr.getD x.err) }

/-- The bytes acknowledged without a gap from `n` on (R423). -/
def ackedTo : Nat → List (Nat × Nat) → Nat → Nat
  | 0, _, n => n
  | k + 1, l, n => match l.find? fun x => decide (x.1 = n) with
    | none => n
    | some x => ackedTo k l (n + x.2)

/-- The response to a write of the channel returns (R423): `DMA_DONE` advances, and the channel is done when it
equals the count. -/
def State.dmaAck (c : Nat) (w : Nat × Nat) (s : State) : State :=
  let s := s.onCh c fun x =>
    let acked := x.acked ++ [w]
    { x with waiting := x.waiting.erase w, acked := acked
             done := BitVec.ofNat 32 (ackedTo acked.length acked x.done.toNat) }
  let x := s.dmaCh c
  match x.stop with
  | some (st, code, _) => if x.waiting = [] then s.dmaLeave c st code else s
  | none => if x.done = x.count then s.dmaLeave c 2 0 else s

/-- Bytes of the next block of the source: up to 4,096, within a 4 KiB block of the source (R422). -/
def DmaCh.block (x : DmaCh) : Nat :=
  let a := (gaOffset x.src + x.reading) % 4096
  min (x.total - x.reading) (4096 - a)

/-- The next block of a source on another chip is requested; spaces 0 and 5 of another chip are refused (R201, R422). The
request names the words of the block, since its length is a multiple of 4 (R329; DEDUCED, assumption 190). -/
def State.dmaRequest (c : Nat) (s : State) : State :=
  let x := s.dmaCh c
  let g := x.src + BitVec.ofNat 64 x.reading
  let head := gaOffset g % 4
  if gaSpace x.src = 0 ∨ gaSpace x.src = 5 then s.dmaStop c 3 1 (some g)
  else (s.onCh c fun x => { x with asked := some s.fab.nextReq }).remoteSend (gaChip x.src) false (g - BitVec.ofNat 64 head)
    ((head + x.block + 3) / 4 * 4) [] (.dmaRead c)

/-- The channel has a block to read (R422), which is not being read from another chip already. -/
def State.dmaReads (s : State) (c : Nat) : Bool :=
  let x := s.dmaCh c
  decide (x.state = 1) && x.stop.isNone && x.asked.isNone && decide (x.block ≠ 0)

/-- The channel whose block is served next (R422): the first after the one served last that has a block to read. -/
def State.dmaNext (s : State) : Option Nat :=
  ((List.range 16).map fun i => (s.dma.turn + 1 + i) % 16).find? fun c => s.dmaReads c

/-- While the channel in turn has its source on another chip, its block is requested and the turn passes on (R422). A block
of this chip is read by `DMA_READ_COMPLETE`. -/
def State.dmaServe (s : State) : State :=
  (List.range 16).foldl (fun s _ => match s.dmaNext with
    | some c => if gaChip (s.dmaCh c).src = s.fab.chip then s else (s.onDma fun d => { d with turn := c }).dmaRequest c
    | none => s) s

/-- The check that a channel fails at its start, in order (R421). -/
def DmaCh.startCode (x : DmaCh) : Option (BitVec 4) :=
  let n := x.total
  let unit := if x.swap = 0 then 1 else if x.swap = 1 then 2 else 4
  let a := x.src.toNat
  let b := x.dst.toNat
  if a % unit ≠ 0 ∨ b % unit ≠ 0 ∨ n % unit ≠ 0 then some 5
  else if (gaSpace x.src = 4 ∧ (a % 4 ≠ 0 ∨ n % 4 ≠ 0)) ∨ (gaSpace x.dst = 4 ∧ (b % 4 ≠ 0 ∨ n % 4 ≠ 0)) ∨
      (gaSpace x.dst = 3 ∧ (b % 4096 ≠ 0 ∨ n % 4096 ≠ 0)) then some 5
  else if gaChip x.src = gaChip x.dst ∧ gaSpace x.src = gaSpace x.dst ∧
      gaOffset x.src < gaOffset x.dst + n ∧ gaOffset x.dst < gaOffset x.src + n then some 4
  else none

/-- A write of 1 to `DMA_CTRL.go` of a channel that is not busy (R421). -/
def State.dmaStart (c : Nat) (s : State) : State :=
  let s := s.onCh c fun x => { x with
    done := 0, code := 0, reading := 0, buffer := [], waiting := [], acked := [], stop := none, asked := none }
  let x := s.dmaCh c
  if x.total = 0 then s.dmaLeave c 2 0
  else match x.startCode with
    | some code => s.onCh c fun x => { x with state := 3, code := code, go := false }
    | none => (s.onCh c fun x => { x with state := 1, go := true }).dmaServe

/-- A write of 1 to `abort` (R424, R426): the bit is set, and a busy channel that is not stopping already is stopped. On
a channel that is not busy nothing else happens, and a later `go` starts it (DESIGN CHOICE, assumption 184). -/
def State.dmaAbort (c : Nat) (s : State) : State :=
  let s := s.onCh c fun x => { x with abort := true }
  if (s.dmaCh c).state = 1 ∧ (s.dmaCh c).stop.isNone then (s.dmaStop c 4 0 none).dmaServe else s

/-- A write of `DMA_CTRL` (R421, R424, R426). -/
def State.writeDmaCtrl (c : Nat) (v : BitVec 32) (s : State) : State :=
  let busy := decide ((s.dmaCh c).state = 1)
  let s := s.onCh c fun x => { x with swap := if busy then x.swap else v.extractLsb' 2 2, irq := v.getLsbD 4 }
  let s := if v.getLsbD 0 && !busy then s.dmaStart c else s
  if v.getLsbD 1 then s.dmaAbort c else s

/-! ### Queues (R362 to R369) -/

/-- A queue is put in service, its setup checked (R364). A queue that still drains is not put in service a second time:
`fault` is set (DEDUCED, assumption 84). -/
def State.enableQueue (f q : Nat) (s : State) : State :=
  let u := (s.func f).queue q
  let ok := decide (4 ≤ u.cmdOrder.toNat) && decide (u.cmdOrder.toNat ≤ 16) && decide (4 ≤ u.rspOrder.toNat) &&
    decide (u.rspOrder.toNat ≤ 16) && decide (u.cmdBase.toNat % 4096 = 0) && decide (u.rspBase.toNat % 4096 = 0) &&
    decide ((s.func f).state = .on) && !u.enabled
  s.onQueue f q fun u =>
    if ok then { u with
      enable := true, enabled := true, draining := false, fault := false, orderedWait := false, noRoom := false
      cmdTail := 0, rspHead := 0, cmdHead := 0, rspTail := 0, bells := [] }
    else { u with enable := false, fault := true }

/-- The host clears `enable` (R364): the queue drains while commands are pending. -/
def State.disableQueue (f q : Nat) (s : State) : State :=
  s.onQueue f q fun u => ({ u with enable := false, draining := u.enabled }).leave

/-- A write of `Q_CTRL` (R363, R364). -/
def State.writeQueueCtrl (f q : Nat) (v : BitVec 32) (s : State) : State :=
  let u := (s.func f).queue q
  let s := if u.enabled then s else s.onQueue f q fun u => { u with
    cmdOrder := v.extractLsb' 8 5, rspOrder := v.extractLsb' 16 5 }
  if v.getLsbD 0 && !u.enable then s.enableQueue f q
  else if !v.getLsbD 0 && u.enable then s.disableQueue f q
  else s

/-- Vectors of a function (R415). -/
def vectorsOf (f : Nat) : Nat := if f = 0 then 1024 else 64

/-- A write of `Q_VECTOR` (R363, R415). -/
def State.writeQueueVector (f q : Nat) (v : BitVec 32) (s : State) : State :=
  let n : BitVec 11 := v.extractLsb' 0 11
  s.onQueue f q fun u => { u with
    noVector := v.getLsbD 31, vector := if n.toNat < vectorsOf f then n else u.vector }

/-- A write of `Q_CMD_TAIL` (R365, R369). -/
def State.writeTail (f q : Nat) (v : BitVec 32) (s : State) : State :=
  let u := (s.func f).queue q
  let s := s.onQueue f q fun u => { u with
    cmdTail := v, bells := if v = u.cmdTail then u.bells else u.bells ++ [(v, s.uptime)] }
  if u.enabled ∧ 2 ^ u.cmdOrder.toNat < (v - u.cmdHead).toNat then s.ringFault f q else s

/-- A write of `Q_RSP_HEAD` (R366, R369). -/
def State.writeHead (f q : Nat) (v : BitVec 32) (s : State) : State :=
  let u := (s.func f).queue q
  if u.enabled ∧ (2 ^ u.rspOrder.toNat < (u.rspTail - v).toNat ∨ (u.rspTail - u.rspHead).toNat < (u.rspTail - v).toNat) then
    s.ringFault f q
  else s.onQueue f q fun u => { u with rspHead := v }

/-- A write of `TOK_CONSUMED_n` (R292, R368): the count that it stands for, or a ring fault. -/
def State.writeToken (f n : Nat) (v : BitVec 32) (s : State) : State :=
  let c := s.ctx n
  let back := (BitVec.ofNat 32 c.producedRecs - v).toNat
  if c.state = .free ∨ c.func.toNat ≠ f ∨ 2 ^ c.ringOrder < back ∨ c.producedRecs < back then s.raiseCmd 0
  else (s.onFunc f fun x => { x with tokCons := Sparse.set 0 x.tokCons n v }).onCtx n fun c => { c with
    consumed := c.producedRecs - back }

end Sys2Proof.Machine
end

