-- ==== Sys2Proof/Machine/MemCmd.lean ====
section
/-!
DEFINITION. The meanings of the memory commands and events: allocation and moves by a function (R229 to R233), the
messages of a move between chips (R209, R330), and the completions of copies, write-backs and passes (R207, R214,
R215).
-/
namespace Sys2Proof.Machine

/-! ### Lists in host memory -/

/-- `n` addresses of a list of function `f` in host memory; none where the read fails (R378). -/
def State.hostList (s : State) (f a n : Nat) : Option (List (BitVec 64)) :=
  (s.hostRead f a (8 * n)).map fun bs => (List.range n).map fun i => BitVec.ofNat 64 (fieldAt bs (8 * i) 8)

/-- A command reads its list of addresses; where the read fails it completes so (R378). -/
def withList (h : BitVec 32) (f a n : Nat) (s : State) (body : List (BitVec 64) → State) : State :=
  match s.hostList f a n with
  | none => s.complete h stBadParam readFailed
  | some gs => body gs

/-! ### Function pages -/

/-- Pages allocated one after another to a function (R229); none where one finds no room. -/
def State.allocPages (f : BitVec 4) (tier : Nat) (flags : BitVec 8) :
    Nat → State → Option (List (BitVec 64) × Nat × State)
  | 0, s => some ([], 0, s)
  | n + 1, s =>
    let raw := flags.getLsbD 1 || flags.getLsbD 2
    match s.placePage tier (flags.getLsbD 0) ownFunction (f.setWidth 28) (s.free 32 : BitVec 32).toNat raw true [] with
    | (none, _) => none
    | (some (t, sl), s) =>
      let s := if flags.getLsbD 2 && decide (t = 2) then s.onDir t sl fun e => { e with hostVisible := true } else s
      match State.allocPages f tier flags n s with
      | none => none
      | some (gs, low, s) => some (s.slotGa t sl :: gs, low + (if t = tier then 0 else 1), s)

/-- `ALLOC` (R229). -/
def execAlloc (handle : BitVec 32) (s : State) : Out :=
  carry 0x20 false handle (fun l s =>
    let tier := l.param 8 1
    let flags := byteAt l.params 9
    let n := l.param 12 4
    if tier < 1 ∨ 3 < tier then s.complete handle stBadParam 8
    else if 8 ≤ flags.toNat ∨ (flags.getLsbD 2 ∧ tier ≠ 2) then s.complete handle stBadParam 9
    else if n < 1 ∨ 65536 < n then s.complete handle stBadParam 12
    else match s.allocPages l.func tier flags n with
    | none => s.drawn.complete handle stNoSpace 0
    | some (gs, low, s) =>
      let s := s.hostWrite l.func.toNat (l.param 16 8) (gs.flatMap (bvBytes 8))
      s.complete handle (if low = 0 then stOk else stDegraded) (BitVec.ofNat 32 low)) s

/-- A page that a function owns, named by its address (R230, R231). -/
def State.ownPage (s : State) (f : BitVec 4) (g : BitVec 64) : Bool :=
  let e := s.dirEntry (gaSlot g).1 (gaSlot g).2
  decide (gaChip g = s.fab.chip) && decide (gaSpace g ∈ [1, 2, 3]) && decide (e.state ≠ .free) &&
    decide (e.ownerKind = ownFunction) && decide (e.ownerId = f.setWidth 28)

/-- The state of the slot that a page is moved from: that of its shadow where it has one. -/
def State.moved (s : State) (g : BitVec 64) : PageState :=
  let x := s.liveSlot (gaSlot g).1 (gaSlot g).2
  (s.dirEntry x.1 x.2).state

/-- Why a list of pages may not be freed or moved (R208, R222, R230, R231). -/
def State.pageBar (s : State) (f : BitVec 4) (gs : List (BitVec 64)) : Option (BitVec 16) :=
  let e (g : BitVec 64) : DirEntry := s.dirEntry (gaSlot g).1 (gaSlot g).2
  if gs.any fun g => !s.ownPage f g then some stBadHandle
  else if gs.any fun g => s.isPinned (gaSlot g).1 (gaSlot g).2 then some stNotAllowed
  else if gs.any fun g => (e g).state.inMove || (s.moved g).inMove then some stBusy
  else none

/-- `FREE` (R230). -/
def execFree (handle : BitVec 32) (s : State) : Out :=
  carry 0x21 false handle (fun l s =>
    let free (gs : List (BitVec 64)) : State := match s.pageBar l.func gs with
      | some st => s.complete handle st 0
      | none => (gs.foldl (fun s g => s.freePage g) s).complete handle stOk 0
    if 1 < l.param 8 1 then s.complete handle stBadParam 8
    else if l.param 8 1 = 1 then free [BitVec.ofNat 64 (l.param 16 8)]
    else withList handle l.func.toNat (l.param 16 8) (l.param 12 4) s free) s

/-- `MOVE` (R231). -/
def execMove (handle : BitVec 32) (s : State) : Out :=
  carry 0x22 false handle (fun l s =>
    let tier := l.param 8 1
    let chip := BitVec.ofNat 12 (l.param 10 2)
    let n := l.param 12 4
    if tier < 1 ∨ 3 < tier then s.complete handle stBadParam 8
    else if 1 < l.param 9 1 then s.complete handle stBadParam 9
    else if 4096 ≤ l.param 10 2 then s.complete handle stBadParam 11
    else if n < 1 ∨ 65536 < n then s.complete handle stBadParam 12
    else withList handle l.func.toNat (l.param 16 8) n s fun gs =>
      match s.pageBar l.func gs with
      | some st => s.complete handle st 0
      | none => (s.working handle).startJob { PageJob.reset with
          purpose := .move, handle := some handle, list := BitVec.ofNat 64 (l.param 24 8)
          tier := BitVec.ofNat 4 tier, strict := decide (l.param 9 1 = 1)
          chip := if chip = s.fab.chip then none else some chip } gs) s

/-- The code of a page's state (R204). -/
def PageState.code : PageState → Nat
  | .free => 0 | .home => 1 | .moving => 2 | .inbound => 3 | .pending => 4 | .sending => 5 | .shadow => 6
  | .lost => 7 | .reserved => 8

/-- A directory entry as `PAGE_QUERY` returns it (R203). -/
def State.entryBytes (s : State) (tier slot : Nat) : List (BitVec 8) :=
  let e := s.dirEntry tier slot
  let fl : BitVec 8 := flag 8 0 (s.isPinned tier slot) ||| flag 8 1 e.zero ||| flag 8 2 e.dirty |||
    flag 8 3 e.poisoned ||| flag 8 4 e.raw
  bvBytes 4 (e.ownerKind ++ e.ownerId) ++ bvBytes 4 e.index ++ leBytes 1 e.state.code ++ [fl] ++
    bvBytes 2 e.peerChip ++ bvBytes 4 e.stored ++ bvBytes 8 e.peer ++ bvBytes 4 e.granule ++ bvBytes 4 e.moveSeq

/-- `PAGE_QUERY` (R232). -/
def execPageQuery (handle : BitVec 32) (s : State) : Out :=
  carry 0x23 false handle (fun l s =>
    let g := BitVec.ofNat 64 (l.param 8 8)
    let (tier, slot) := gaSlot g
    if gaChip g ≠ s.fab.chip ∨ tier ∉ [1, 2, 3] ∨ !s.offsetOk g then s.complete handle stBadParam 8
    else if !s.ownPage l.func g then s.complete handle stBadHandle 0
    else (s.hostWrite l.func.toNat (l.param 16 8) (s.entryBytes tier slot)).complete handle stOk 0) s

/-! ### The write-back mode (R213 to R215, R233) -/

/-- The write-back mode is left: the pass that converts every shadow begins (R215); commands in `hs` complete
after it. -/
def State.leaveWriteBack (hs : List (BitVec 32)) (s : State) : State :=
  s.onMem fun m => { m with writeBack := false, converting := true, convHandle := m.convHandle ++ hs }

/-- A shadow is in a move (R208, R214). -/
def State.shadowMoves (s : State) : Bool :=
  s.mem.moves.any (fun m => m.shadow || m.pair.isSome) || s.mem.remotes.any fun r => r.sent && r.pair.isSome

/-- `MEM_MODE` (R213, R233); the transition to `NORMAL` names every shadow, and one in a move refuses it (R208). -/
def execMemMode (handle : BitVec 32) (s : State) : Out :=
  carry 0x24 false handle (fun l s =>
    let mode := l.param 8 1
    if 2 < mode then s.complete handle stBadParam 8
    else if s.srv.slots ≠ [] then s.complete handle stNotAllowed 0
    else if s.mem.converting then s.complete handle stBusy 0
    else match mode with
    | 0 =>
      if s.shadowMoves then s.complete handle stBusy 0
      else if s.mem.writeBack then (s.working handle).leaveWriteBack [handle] else s.complete handle stOk 0
    | 1 => (s.onMem fun m => { m with writeBack := true }).complete handle stOk 0
    | _ =>
      let ds := s.dirtyShadows
      if ds = [] then s.complete handle stOk 0
      else
        let s := (s.working handle).writeBackAll
        s.onMem fun m => { m with flushHandle := m.flushHandle ++ [handle]
                                  flushSet := m.flushSet ++ ds.filter fun f => decide (f ∉ m.flushSet) }) s

/-- The `FLUSH`es complete once every write-back they started has committed (R233). -/
def State.checkFlush (s : State) : State :=
  if s.mem.flushSet = [] then
    (s.onMem fun m => { m with flushHandle := [] }).completeAll s.mem.flushHandle stOk 0
  else s

/-- A dirty shadow's write-back commits: its home takes the shadow's bytes, and the shadow is dirty again only if
a write landed meanwhile (R214). -/
def execWriteBackComplete (frame : Nat) (tick : Nat) (s : State) : Out :=
  let s := s.at_ tick
  match s.mem.wbRun.find? fun w => decide (w.1 = frame) with
  | none => .next s
  | some w =>
    let s := s.onMem fun m => { m with wbRun := m.wbRun.erase w, flushSet := m.flushSet.filter fun f => decide (f ≠ frame) }
    let home := gaSlot (s.dirEntry 1 frame).peer
    let s := if (s.dirEntry 1 frame).state = .shadow then
        match s.content 1 frame with
        | some m => (s.restore home.1 home.2 m).onDir 1 frame fun e => { e with dirty := w.2 }
        | none => s
      else s
    close s.checkFlush

/-- One shadow converted by one journal record: it becomes the home, and its tier-2 slot is freed (R215). -/
def State.convertOne (frame : Nat) (s : State) : State :=
  let e := s.dirEntry 1 frame
  s.commitDir 1 frame { e with state := .home, peer := 0, dirty := false } (gaSlot e.peer)

/-- A shadow that is in a move when the pass ends is the home of its page from then on, and its tier-2 slot is freed
(R215). -/
def State.convertMoving (frame home : Nat) (s : State) : State :=
  let mine (t : BitVec 4) (sl : Nat) : Bool := decide (t = 1) && decide (sl = frame)
  let s := s.commitDir 1 frame { s.dirEntry 1 frame with dirty := false } (2, home)
  s.onMem fun m => { m with
    moves := m.moves.map fun v => if mine v.srcTier v.src then { v with pair := none } else v
    remotes := m.remotes.map fun r => if r.outgoing && mine r.tier r.slot then { r with pair := none } else r }

/-- The shadows in a move, each with its tier-2 home. -/
def State.movingShadows (s : State) : List (Nat × Nat) :=
  (s.mem.moves.filterMap fun v => v.pair.map fun h => (v.src, h)) ++
    s.mem.remotes.filterMap fun r => if r.sent then r.pair.map fun h => (r.slot, h) else none

/-- Some page has a shadow, which may be in a move (R214). -/
def State.anyShadow (s : State) : Bool :=
  (s.mem.dir1.any fun p => decide (p.2.state = .shadow)) || decide (s.movingShadows ≠ [])

/-- The conversion pass completes, and with it the commands that wait for it: `MEM_MODE`, and the `ARM` that left the
mode, whose detail is that of R37 (R215). -/
def execConversionPassDone (s : State) : Out :=
  if s.mem.converting then
    let shadows := (s.mem.dir1.filter fun p => decide (p.2.state = .shadow)).map (·.1)
    let s := s.movingShadows.foldl (fun s x => s.convertMoving x.1 x.2) s
    let s := shadows.foldl (fun s f => s.convertOne f) s
    let hs := s.mem.convHandle
    let s := s.onMem fun m => { m with converting := false, convHandle := [], wbRun := [], flushSet := [] }
    let detail (h : BitVec 32) : BitVec 32 :=
      if (s.liveOf h).any fun (l : Live) => decide (l.opcode = 0x12) then BitVec.ofNat 32 s.cad.b0 else 0
    close (hs.foldl (fun s h => s.complete h stOk (detail h)) s.checkFlush)
  else .next s

/-! ### Local moves -/

/-- A local page copy and its read-back finish (R207). -/
def execLocalMoveComplete (move : BitVec 32) (tick : Nat) (mismatch uncorrectable : Bool) (s : State) : Out :=
  let s := s.at_ tick
  match s.mem.moves.find? fun m => decide (m.seq = move) with
  | none => .next s
  | some mv =>
    let s := if uncorrectable then s.uncorrectable mv.srcTier.toNat mv.src else s
    close (s.endLocal mv mismatch uncorrectable)

/-! ### Moves between chips (R209) -/

/-- A `KV_IMPORT` in mode 1 that waits for pages of a context of a chip (R301). An offer carries the context's number, not
its incarnation or the export's layout (R330): whether those fit is free (assumption 25). -/
def State.importFor (s : State) (chip : BitVec 12) (number : Nat) : Option Nat :=
  s.openCtxs.find? fun n => (s.ctx n).importFail.isNone && (s.ctx n).importFrom.any fun x =>
    decide (x.1 = chip) && decide (x.2.1.toNat % 1024 = number) && Config.importFits chip x.2.1 x.2.2

/-- Stored bytes that no page exceeds: a packed page of chunks that are all stored as they are (R217 to
R219). -/
def worstStored : Nat := 128 + 32 * (chunkBytes + 128)

/-- A slot reserved for a page of another chip (R209 step 1): of a context in tier 1, else in a tier that the
offer does not name, a free choice (assumption 23). -/
def State.reserve (kind : BitVec 4) (s : State) : Option (Nat × Nat × Nat) :=
  let first := if kind = ownContext then 1 else 1 + (s.free 2 : BitVec 2).toNat % 3
  let tiers := if kind = ownContext then [1] else [first, first % 3 + 1, (first + 1) % 3 + 1]
  tiers.findSome? fun t => (s.findSlot t worstStored).map fun x => (t, x.1, x.2)

/-- `OFFER` arrives: a slot is reserved and accepted, or the offer refused (R209 step 1, R301). One that repeats a
move in progress changes nothing. -/
def execMoveOffer (hdr : FrameHdr) (body : MoveBody) (s : State) : Out :=
  receiveWork hdr (fun s =>
    let kind := body.owner.extractLsb' 28 4
    let id := body.owner.extractLsb' 0 28
    let imp := s.importFor hdr.source id.toNat
    if (s.remote body.move hdr.source false).isSome then s
    else if kind = ownContext ∧ imp.isNone then s.sendMove hdr.source (moveMsg body.move 3 0)
    else match s.reserve kind with
    | none =>
      let s := match imp with
        | some n => s.importFails n stNoSpace
        | none => s
      s.drawn.sendMove hdr.source (moveMsg body.move 3 0)
    | some (t, sl, g) =>
      let id := if kind = ownContext then BitVec.ofNat 28 (imp.getD 0) else id
      let e := { placedEntry kind id body.index.toNat .inbound g (true, []) false body.move with
        peerChip := hdr.source, peer := hdr.source ++ (s.free 52 : BitVec 52), stored := BitVec.ofNat 32 (if t = 1 then pageBytes else worstStored) }
      let s := s.drawn.setDir t sl e none
      (s.onMem fun m => { m with remotes := m.remotes ++ [{ RemoteMove.reset with
        seq := body.move, outgoing := false, peer := hdr.source, tier := BitVec.ofNat 4 t, slot := sl
        phase := .receiving, crc := body.crc, since := s.uptime }] }).sendMove hdr.source (moveMsg body.move 2 0)) s

/-- The page that was offered is still at home in its slot: it was neither freed nor moved since its `OFFER`. -/
def State.stillThere (s : State) (r : RemoteMove) : Bool :=
  let e := s.dirEntry r.tier.toNat r.slot
  decide (e.state = r.entry.state) && decide (e.ownerKind = r.entry.ownerKind) && decide (e.ownerId = r.entry.ownerId) &&
    decide (e.index = r.entry.index) && decide (e.moveSeq = r.entry.moveSeq)

/-- `ACCEPT` arrives: the source is `SENDING`, and its chunks follow (R209 step 2). -/
def execMoveAccept (hdr : FrameHdr) (body : MoveBody) (s : State) : Out :=
  receiveWork hdr (fun s =>
    match s.remote body.move hdr.source true with
    | none => s
    | some r =>
      if r.phase ≠ .offered then s
      else
        let (t, sl) := (r.tier.toNat, r.slot)
        if !s.stillThere r then s.abortMove r
        else match s.content t sl with
        | none => (s.readFails t sl).abortMove r
        | some m =>
          let s := s.onDir t sl fun e => { e with
            state := .sending, peerChip := r.peer, peer := r.peer ++ (s.free 52 : BitVec 52) }
          let s := s.drawn.setRemote r (some { r with phase := .sending, sent := true, since := s.uptime })
          (moveDataMsgs r.seq m).foldl (fun s b => s.sendMove r.peer b) s) s

/-- `REFUSE` arrives: no room, and the move ends with the page at home; or a verification failure, and the source
aborts (R209, R330). -/
def execMoveRefuse (hdr : FrameHdr) (body : MoveBody) (s : State) : Out :=
  receiveWork hdr (fun s =>
    match s.remote body.move hdr.source true with
    | none => s
    | some r =>
      match r.phase with
      | .offered => (s.setRemote r none).pageEnd r.job r.name r.name .noSpace
      | .sending => s.abortMove r
      | _ => s) s

/-- A run of bytes, from `a` up to `b`, joined to the runs that have arrived. -/
def addSpan (a b : Nat) : List (Nat × Nat) → List (Nat × Nat)
  | [] => [(a, b)]
  | (x, y) :: r =>
    if b < x then (a, b) :: (x, y) :: r
    else if y < a then (x, y) :: addSpan a b r
    else addSpan (min a x) (max b y) r

/-- The whole page has arrived: verified, `PENDING` and `READY`, or reported as a failure (R209 step 3). -/
def State.arrived (r : RemoteMove) (s : State) : State :=
  let (t, sl) := (r.tier.toNat, r.slot)
  if pageCrc r.bytes ≠ r.crc then s.sendMove r.peer (moveMsg r.seq 3 0)
  else
    let f := storedForm t false r.bytes
    let e := s.dirEntry t sl
    let s := s.setDir t sl { e with
      state := .pending, raw := f.1, stored := BitVec.ofNat 32 (storedSize f) } none
    let s := s.fill t sl e.granule.toNat f r.bytes
    (s.setRemote r (some { r with phase := .readySent, bytes := [], since := s.uptime })).sendMove r.peer (moveMsg r.seq 5 0)

/-- A move data message arrives and is written to the destination (R209 step 2, R330). -/
def execMoveData (hdr : FrameHdr) (body : MoveBody) (s : State) : Out :=
  receiveWork hdr (fun s =>
    match s.remote body.move hdr.source false with
    | none => s
    | some r =>
      let a := chunkBytes * body.chunk.toNat + body.offset.toNat
      let n := body.data.length
      if r.phase ≠ .receiving ∨ 32 ≤ body.chunk.toNat ∨ n < 1 ∨ 4928 < n ∨ chunkBytes < body.offset.toNat + n then s
      else
        let r' := { r with bytes := Mem.writes r.bytes a body.data, chunks := addSpan a (a + n) r.chunks }
        let s := s.setRemote r (some r')
        if r'.chunks = [(0, pageBytes)] then s.arrived r' else s) s

/-- `READY` arrives: the source frees its slot, which is the commit, and sends `COMMIT`; after an `ABORT` it is
discarded (R209 step 4). The new address of the page is known to its chip only (assumption 24). -/
def execMoveReady (hdr : FrameHdr) (body : MoveBody) (s : State) : Out :=
  receiveWork hdr (fun s =>
    match s.remote body.move hdr.source true with
    | none => s
    | some r =>
      if r.phase ≠ .sending then s
      else
        let (t, sl) := (r.tier.toNat, r.slot)
        let new := r.peer ++ (s.free 52 : BitVec 52)
        let s := s.drawn.setDir t sl DirEntry.reset (some (r.tier, sl))
        let s := match r.pair with
          | some h => s.freeSlotAt 2 h
          | none => s
        let s := if t = 3 then s.deallocate sl else s
        let s := (s.setRemote r (some { r with phase := .committed, since := s.uptime })).pageEnd r.job r.name new .moved
        s.sendMove r.peer (moveMsg r.seq 6 0)) s

/-- An import from another chip may end with a page that commits: nothing says which page is the last, nor the
lengths of the context, so both are free (assumption 25). -/
def State.endImport (n : Nat) (s : State) : State :=
  let c := s.ctx n
  if s.arriving n || c.importFail.isSome || (s.free 1 : BitVec 1) = 0 then s.drawn
  else
    let s1 := s.drawn
    let h := (s1.free 16 : BitVec 16).toNat
    let s2 := s1.drawn
    let s := s2.onCtx n fun c => { c with
      state := .idle, hist := h, len := min h (s2.free 16 : BitVec 16).toNat, importFrom := none, moveHandle := none }
    (s.drawn.holdHist n).completeOpt c.moveHandle stOk 0

/-- `COMMIT` arrives: the destination is `HOME`, and acknowledges; a repeated one is acknowledged again (R209
step 5). -/
def execMoveCommit (hdr : FrameHdr) (body : MoveBody) (s : State) : Out :=
  receiveWork hdr (fun s =>
    let s := s.sendMove hdr.source (moveMsg body.move 8 6)
    match s.remote body.move hdr.source false with
    | none => s
    | some r =>
      let (t, sl) := (r.tier.toNat, r.slot)
      if r.phase ≠ .readySent then s
      else
        let s := (s.setRemote r none).homePage t sl
        let e := s.dirEntry t sl
        let n := e.ownerId.toNat
        if e.ownerKind = ownContext ∧ (s.ctx n).importFrom.isSome then s.endImport n else s) s

/-- `ABORT` arrives: the destination frees its slot and acknowledges every copy (R209). An import that the page belongs to
fails (R301, R302). -/
def execMoveAbort (hdr : FrameHdr) (body : MoveBody) (s : State) : Out :=
  receiveWork hdr (fun s =>
    let s := s.sendMove hdr.source (moveMsg body.move 8 7)
    match s.remote body.move hdr.source false with
    | none => s
    | some r => ((s.setRemote r none).pageImportFails r.tier.toNat r.slot stCheckFailed).dropInbound r) s

/-- An acknowledgement arrives: of `COMMIT`, and the move is over; of `ABORT`, and the page is at home again
(R209). -/
def execMoveAck (hdr : FrameHdr) (body : MoveBody) (s : State) : Out :=
  receiveWork hdr (fun s =>
    match s.remote body.move hdr.source true with
    | none => s
    | some r =>
      if r.phase = .committed ∧ body.acked = 6 then s.setRemote r none
      else if r.phase = .aborting ∧ body.acked = 7 then
        let s := s.setRemote r none
        (if r.sent then s.sourceBack r.tier.toNat r.slot r.pair else s).pageEnd r.job r.name r.name .failed
      else s) s

/-- An outgoing move in a phase whose wait has lasted `wait` ticks. -/
def State.waitingMove (s : State) (move : BitVec 32) (wait : Nat) (ok : RemotePhase → Bool) : Option RemoteMove :=
  s.mem.remotes.find? fun r => decide (r.seq = move) && r.outgoing && ok r.phase && decide (r.since + wait ≤ s.uptime)

/-- No `READY` within 1 s: the source aborts (R209). -/
def execMoveReadyTimeout (move : BitVec 32) (tick : Nat) (s : State) : Out :=
  let s := s.at_ tick
  match s.waitingMove move 1000000000 fun p => decide (p = .sending) || decide (p = .offered) with
  | none => .next s
  | some r => close (s.abortMove r)

/-- An unacknowledged `COMMIT` is sent again every 1 ms (R209). -/
def execMoveCommitResend (move : BitVec 32) (tick : Nat) (s : State) : Out :=
  let s := s.at_ tick
  match s.waitingMove move 1000000 fun p => decide (p = .committed) with
  | none => .next s
  | some r => close ((s.setRemote r (some { r with since := s.uptime })).sendMove r.peer (moveMsg r.seq 6 0))

/-- An unacknowledged `ABORT` is sent again every 1 ms (R209). -/
def execMoveAbortResend (move : BitVec 32) (tick : Nat) (s : State) : Out :=
  let s := s.at_ tick
  match s.waitingMove move 1000000 fun p => decide (p = .aborting) with
  | none => .next s
  | some r => close ((s.setRemote r (some { r with since := s.uptime })).sendMove r.peer (moveMsg r.seq 7 0))

/-! ### Devices -/

/-- The rows that the repair record of the store names, a write under way included (R224, R447). -/
def State.repairRecord (s : State) : List Nat :=
  let bs := match s.store.writing.reverse.find? fun w => decide (w.1 = .hbmRepair) with
    | some w => w.2.1
    | none => (storeGet s.store.repair0 s.store.repair1).getD []
  (List.range (bs.length / 8)).map fun i => fieldAt bs (8 * i) 8

/-- A stack's or a channel's patrol scrub runs (R224, R225): corrections are counted, and a tier-1 row with more
than 16 of them gets a soft post-package repair. -/
def execMemoryPatrolScrub (tier : BitVec 4) (unit : Nat) (corrected : Nat) (row : Option Nat) (tick : Nat)
    (s : State) : Out :=
  let s := s.at_ tick
  if tier = 1 ∧ s.mem.hbmStacks.getLsbD unit then
    let s := s.onMem fun m => { m with eccT1 := satAdd m.eccT1 corrected }
    match row with
    | none => finish s
    | some r =>
      let s := s.onMem fun m => { m with rowCorr := Sparse.set 0 m.rowCorr r corrected }
      if 16 < corrected ∧ r ∉ s.mem.softRepairs then
        let s := (s.onMem fun m => { m with softRepairs := m.softRepairs ++ [r] }).raiseMem 6
        let old := s.repairRecord
        finish (s.storeStart .hbmRepair ((if r ∈ old then old else old ++ [r]).flatMap (leBytes 8)) none)
      else finish s
  else if tier = 2 ∧ s.mem.channels.getLsbD unit then
    finish (s.onMem fun m => { m with eccT2 := satAdd m.eccT2 corrected })
  else .next s

/-- A host access through a function's BAR4: it reaches the function's host-visible pages, or receives Completer
Abort (R229). In reset and after a failed boot none is answered (R467). -/
def execBar4Access (func : BitVec 4) (off : Nat) (op : Bar4Op) (s : State) : Out :=
  let n := match op with | .read k => k | .write d => d.length
  let g := mkGa s.fab.chip 2 (s.cfgField 32 8 + off)
  let pieces := gaPieces g n
  let ok (p : BitVec 64 × Nat) : Bool :=
    let e := s.dirEntry 2 (gaSlot p.1).2
    e.hostVisible && decide (e.ownerKind = ownFunction) && decide (e.ownerId = func.setWidth 28)
  let abort (s : State) : State := s.onHost fun h => { h with aborted := true, answerBytes := [] }
  if !s.pins.linkUp then .next s
  else if s.inReset ∨ 2 ^ 37 < off + n ∨ !pieces.all ok then finish (abort s)
  else match op with
  | .read n => let t := s.readRun (some func.toNat) g n
    let s := s.noteRead g n
    match t with
    | .ok bs => finish (s.onHost fun h => { h with aborted := false, answerBytes := bs })
    | .poisoned => finish (s.onHost fun h => { h with aborted := false, answerBytes := [] })
    | .refused => finish (abort s)
  | .write d =>
    let r := pieces.foldl (fun (r : Option State × List (BitVec 8)) p =>
      (r.1.bind fun s => s.writeGa (some func.toNat) p.1 (r.2.take p.2), r.2.drop p.2)) (some s, d)
    match r.1 with
    | some s => finish (s.onHost fun h => { h with aborted := false })
    | none => finish (abort s)

end Sys2Proof.Machine
end

