-- ==== Sys2Proof/Machine/SrvCmd.lean ====
section
/-!
DEFINITION. The meanings of the serving commands and of the events of parked contexts (R269 to R272, R286, R295 to
R304).
-/
namespace Sys2Proof.Machine

/-! ### Which contexts a command may name -/

/-- The first byte, in the packet, of a context identifier at byte `o` that holds a set reserved bit (R269). -/
def identFault (o : Nat) (i : BitVec 32) : Option Nat :=
  if i.extractLsb' 10 6 ≠ 0 then some (o + 1) else if i.extractLsb' 24 8 ≠ 0 then some (o + 3) else none

/-- The states in which a context accepts a command, by its opcode (R271). -/
def CtxState.accepts (st : CtxState) (op : BitVec 8) : Bool :=
  match st with
  | .idle => decide (op.toNat ∈ [0x71, 0x73, 0x74, 0x75, 0x77, 0x78, 0x79, 0x7B])
  | .waiting | .running => decide (op.toNat ∈ [0x72, 0x73, 0x74, 0x77, 0x7B])
  | .parked | .expired => decide (op.toNat ∈ [0x74, 0x76])
  | .lost => decide (op.toNat = 0x74)
  | .free | .moving => false

/-- A command of the five that go to the serving chip only (R273). -/
def servingOnly (op : BitVec 8) : Bool := decide (op.toNat ∈ [0x71, 0x72, 0x73, 0x77, 0x7B])

/-- Why a command that names a context is refused (R269, R271, R273). A context whose pages are in a move other
than to tier 3 is busy; a `CTX_RESUME` waits for that one (R298). -/
def State.ctxBar (s : State) (l : Live) : Option (BitVec 16 × BitVec 32) :=
  let i := BitVec.ofNat 32 (l.param 8 4)
  let n := i.toNat % 1024
  let c := s.ctx n
  match identFault 8 i with
  | some o => some (stBadParam, BitVec.ofNat 32 o)
  | none =>
    if c.state = .free ∨ s.ctxIdent n ≠ i ∨ c.func ≠ l.func then some (stBadHandle, 0)
    else if servingOnly l.opcode ∧ !s.isServing then some (stNotAllowed, 0)
    else if c.state = .moving then some (stBusy, 0)
    else if !c.state.accepts l.opcode then some (stNotAllowed, 0)
    else if l.opcode = 0x74 ∧ s.ctxBusy n then some (stBusy, 0)
    else none

/-- A serving command that names a context: the reserved bits of its identifier and then the ranges of its parameters are
examined first, then the context; `bad` gives the offset of the first parameter out of range (R269; assumption 34). -/
def ctxCommand (op : BitVec 8) (handle : BitVec 32) (bad : Live → Option Nat) (body : Live → Nat → State → State)
    (s : State) : Out :=
  carry op false handle (fun l s =>
    match (identFault 8 (BitVec.ofNat 32 (l.param 8 4))).orElse fun _ => bad l with
    | some o => s.complete handle stBadParam (BitVec.ofNat 32 o)
    | none => match s.ctxBar l with
      | some (st, d) => s.complete handle st d
      | none => body l (l.param 8 4 % 1024) s) s

/-! ### Opening and binding -/

/-- The contexts that a function has opened (R394). -/
def State.ctxsOf (s : State) (f : BitVec 4) : List Nat := s.openCtxs.filter fun n => decide ((s.ctx n).func = f)

/-- The number of MSI-X vectors of a function (R415). -/
def vectorCount (f : BitVec 4) : Nat := if f = 0 then 1024 else 64

/-- The first parameter of `CTX_OPEN` out of range (R303, R292). -/
def openFault (l : Live) : Option Nat :=
  let n := l.param 8 2
  let ring := l.param 24 8
  let v := l.param 22 2
  if 1024 ≤ n ∧ n ≠ 0xFFFF then some 8
  else if 1 < l.param 10 1 then some 10
  else if ring ≠ 0 ∧ (l.param 21 1 < 4 ∨ 16 < l.param 21 1) then some 21
  else if ring ≠ 0 ∧ v ≠ 0xFFFF ∧ vectorCount l.func ≤ v then some 22
  else if ring % 64 ≠ 0 then some 24
  else if l.param 40 4 < 1 ∨ 4096 < l.param 40 4 then some 40
  else if l.param 44 2 = 0 then some 44
  else none

/-- What a binding of a command came to at its acceptance (R238). -/
def Live.boundAt (l : Live) (k : Nat) : BitVec 16 × BitVec 8 := l.resolved.getD k (stBadParam, 0)

/-- A base or fallback binding of a command; a `model_id` above 28 bits names no model (R238). -/
def State.bindBase (s : State) (l : Live) (id v : Nat) : Except (BitVec 16) Binding :=
  if 2 ^ 28 ≤ id then .error stBadParam else s.resolve (BitVec.ofNat 28 id) (BitVec.ofNat 8 v) false (l.boundAt 0)

/-- The offset that a binding's `BAD_PARAM` gives, of its `model_id` or its version (R377). -/
def State.bindAt (s : State) (id v : Nat) (adapter : Bool) (idAt verAt : Nat) : Nat :=
  if 2 ^ 28 ≤ id ∨ v = 0 ∨ (s.model (BitVec.ofNat 28 id) (BitVec.ofNat 8 v)).isSome then idAt
  else s.absentAt (BitVec.ofNat 28 id) (some adapter) idAt verAt

/-- An adapter binding under a base (R238, R263). -/
def State.bindAdapter (s : State) (l : Live) (base : Binding) (id v : Nat) : Except (BitVec 16) Binding :=
  if 2 ^ 28 ≤ id then .error stBadParam
  else match s.resolve (BitVec.ofNat 28 id) (BitVec.ofNat 8 v) true (l.boundAt 1) with
    | .error e => .error e
    | .ok b =>
      let fits := (s.model b.model b.version).any fun m => decide (manBase m.manifest = base)
      if fits then .ok b else .error stBadParam

/-- `CTX_OPEN` (R269, R270, R303, R304, R394). The context is opened from `Context.reset`, so its records restart at sequence
index 0, after a re-formation too (R293, R356). -/
def execCtxOpen (handle : BitVec 32) (s : State) : Out :=
  carry 0x70 false handle (fun l s =>
    let fail (st : BitVec 16) (d : Nat) : State := s.complete handle st (BitVec.ofNat 32 d)
    match openFault l with
    | some o => fail stBadParam o
    | none =>
      let want := l.param 8 2
      let free := (List.range 1024).find? fun n => decide ((s.ctx n).state = .free)
      let num := if want = 0xFFFF then free else some want
      let lim := (s.func l.func.toNat).limCtx
      match num with
      | none => fail stNoSpace 0
      | some n =>
        if (s.ctx n).state ≠ .free then fail stNotAllowed 0
        else if lim ≠ 0 ∧ lim ≤ (s.ctxsOf l.func).length then fail stNoSpace 0
        else match s.bindBase l (l.param 12 4) (l.param 11 1) with
        | .error e => fail e (if e = stBadParam then s.bindAt (l.param 12 4) (l.param 11 1) false 12 11 else 0)
        | .ok b =>
          let ad : Except (BitVec 16) (Option Binding) :=
            if l.param 10 1 = 1 then (s.bindAdapter l b (l.param 16 4) (l.param 20 1)).map some else .ok none
          match ad with
          | .error e => fail e (if e = stBadParam then s.bindAt (l.param 16 4) (l.param 20 1) true 16 20 else 0)
          | .ok a =>
            let inc := (s.ctx n).incarnation
            let inc' : BitVec 8 := if inc = 0xFF then 1 else inc + 1
            let s := s.onCtx n fun _ => { Context.reset with
              incarnation := inc', state := .idle, func := l.func, base := b, adapter := a
              ring := BitVec.ofNat 64 (l.param 24 8), ringOrder := l.param 21 1
              vector := if l.param 24 8 = 0 then 0xFFFF else BitVec.ofNat 16 (l.param 22 2)
              kvPages := l.param 40 4, pagePositions := l.param 44 2
              deadline := BitVec.ofNat 64 (l.param 32 8) }
            (s.holdHist n).complete handle stOk (s.ctxIdent n)) s

/-- `FALLBACK_BIND` (R271, R303): a `model_id` of 0 unbinds, and its other fields are then not examined. -/
def execFallbackBind (handle : BitVec 32) (s : State) : Out :=
  ctxCommand 0x77 handle
    (fun l =>
      if l.param 12 4 = 0 then none
      else if l.param 18 2 < 1 ∨ 1024 < l.param 18 2 then some 18
      else if l.param 20 2 = 0 then some 20 else none)
    (fun l n s =>
      if s.regionOf n = 1 then s.complete handle stNotAllowed 0
      else if l.param 12 4 = 0 then (s.onCtx n fun c => { c with fallback := none }).complete handle stOk 0
      else match s.bindBase l (l.param 12 4) (l.param 16 1) with
      | .error e => s.complete handle e
          (if e = stBadParam then BitVec.ofNat 32 (s.bindAt (l.param 12 4) (l.param 16 1) false 12 16) else 0)
      | .ok b => (s.onCtx n fun c => { c with
          fallback := some b, fbChunk := l.param 18 2, fbPositions := l.param 20 2 }).complete handle stOk 0) s

/-- `DEADLINE_SET` (R303). -/
def execDeadlineSet (handle : BitVec 32) (s : State) : Out :=
  ctxCommand 0x7B handle (fun _ => none) (fun l n s =>
    (s.onCtx n fun c => { c with deadline := BitVec.ofNat 64 (l.param 16 8) }).complete handle stOk 0) s

/-! ### Generations -/

/-- Positions of the history and of the additions that have not entered it. -/
def Context.foreseen (c : Context) : Nat := c.hist + (c.additions.map (·.tokens.length)).foldl (· + ·) 0

/-- An accepted addition waits for the boundary that takes it; in a larger partition its tokens are written to
stage 0 (R275, R277). -/
def State.addInput (n : Nat) (a : Addition) (s : State) : State :=
  let far := decide (s.chips ≠ 1) && decide (a.tokens ≠ [])
  let pos := (s.ctx n).foreseen
  let s := s.onCtx n fun c => { c with additions := c.additions ++ [{ a with acked := !far }] }
  if far then s.remoteHistory n a.handle pos a.tokens else s

/-- The token identifiers of a command of function `f`, read from host memory (R303, R378). -/
def State.tokenList (s : State) (f a n : Nat) : Option (List (BitVec 32)) :=
  if n = 0 then some []
  else (s.hostRead f a (4 * n)).map fun bs => (List.range n).map fun i => BitVec.ofNat 32 (fieldAt bs (4 * i) 4)

/-- `PROMPT_SUBMIT` (R270, R277, R278, R283, R303, R304). -/
def execPromptSubmit (handle : BitVec 32) (s : State) : Out :=
  ctxCommand 0x71 handle
    (fun l =>
      if l.param 12 2 < 1 ∨ 1024 < l.param 12 2 then some 12
      else if 1 < l.param 14 1 then some 14
      else if 65535 < l.param 16 4 then some 16
      else if 65535 < l.param 20 4 then some 20 else none)
    (fun l n s =>
      let c := s.ctx n
      let count := l.param 16 4
      let max := l.param 20 4
      let h := c.foreseen + count
      let bad (o : Nat) : State := s.complete handle stBadParam (BitVec.ofNat 32 o)
      if 65535 < h then bad 16
      else if count = 0 ∧ c.foreseen = 0 then bad 16
      else if c.kvPages < ceilDiv (min 65535 (h + max)) c.pagePositions then bad 20
      else if max ≠ 0 ∧ c.ring = 0 then bad 20
      else if !s.served c then s.complete handle stNotAllowed 0
      else match s.tokenList l.func.toNat (l.param 24 8) count with
      | none => s.complete handle stBadParam readFailed
      | some ts =>
        let s := s.onCtx n fun c => { c with
          state := .waiting, waitSince := s.srv.waitClock
          deadline := if l.param 32 8 = 0 then c.deadline else BitVec.ofNat 64 (l.param 32 8)
          gen := some { Gen.reset with handle := handle, maxTokens := max, chunk := l.param 12 2, open_ := true } }
        let s := s.onSrv fun v => { v with waitClock := v.waitClock + 1 }
        (s.atBoundary handle).addInput n
          { handle := handle, append := false, closes := decide (l.param 14 1 = 0), tokens := ts
            acked := true, announced := false, refused := false }) s

/-- `APPEND` (R277, R304). An `APPEND` that follows the command that closes the input, though before the instant at
which the input closes, finds it closed. -/
def execAppend (handle : BitVec 32) (s : State) : Out :=
  ctxCommand 0x72 handle
    (fun l => if 1 < l.param 14 1 then some 14 else if 65535 < l.param 16 4 then some 16 else none)
    (fun l n s =>
      let c := s.ctx n
      let count := l.param 16 4
      let h := c.foreseen + count
      let shut := !(c.gen.any (·.open_)) || c.additions.any (·.closes)
      if shut then s.complete handle stNotAllowed 0
      else if 65535 < h ∨ c.kvPages < ceilDiv (min 65535 (h + c.remaining)) c.pagePositions then
        s.complete handle stBadParam 16
      else match s.tokenList l.func.toNat (l.param 24 8) count with
      | none => s.complete handle stBadParam readFailed
      | some ts => (s.atBoundary handle).addInput n
          { handle := handle, append := true, closes := decide (l.param 14 1 = 1), tokens := ts
            acked := true, announced := false, refused := false }) s

/-- While the cadence is unarmed, a waiting context's generation is cancelled at once (R295). -/
def State.cancelNow (n : Nat) (s : State) : State :=
  (((s.marker n 0xFFFFFFFF).endGen n stCancelled 4).writeDues).onCtx n fun c => { c with state := .idle }

/-- `CANCEL` (R19, R295). -/
def execCancel (handle : BitVec 32) (s : State) : Out :=
  ctxCommand 0x73 handle (fun _ => none) (fun _ n s =>
    if (s.ctx n).state = .idle then s.complete handle stFinished 0
    else if s.unarmed ∧ (s.ctx n).state = .waiting then (s.cancelNow n).complete handle stOk 0
    else (s.atBoundary handle).onCtx n fun c => { c with cancels := c.cancels ++ [handle] }) s

/-- `CTX_CLOSE` (R295): of a context in a generation it resolves as a cancel; on a chip other than the serving chip
it waits for the boundary; so does one of a context whose records wait for room in its ring (assumption 199); else the context
is freed at once. -/
def execCtxClose (handle : BitVec 32) (s : State) : Out :=
  ctxCommand 0x74 handle (fun _ => none) (fun _ n s =>
    let c := s.ctx n
    let busy := c.gen.isSome || decide (c.state = .running) || decide (c.heldRecs ≠ [])
    let wait (s : State) : State := (s.atBoundary handle).onCtx n fun c => { c with closeHandle := some handle }
    if c.closeHandle.isSome then s.complete handle stBusy 0
    else if s.unarmed then
      let s := if c.gen.isSome then s.cancelNow n else s
      if (s.ctx n).heldRecs = [] then (s.freeCtx n).complete handle stOk 0 else wait s
    else if busy ∨ !s.isServing then wait s
    else (s.freeCtx n).complete handle stOk 0) s

/-! ### Parking (R296 to R299) -/

/-- `CTX_PARK` (R296): every page of the three lists moves to tier 2. -/
def execCtxPark (handle : BitVec 32) (s : State) : Out :=
  ctxCommand 0x75 handle
    (fun l => if l.param 16 8 = 0 ∨ 2 ^ 56 ≤ l.param 16 8 then some 16 else none)
    (fun l n s =>
      let s := s.onCtx n fun c => { c with
        state := .moving, moveHandle := some handle, ttl2At := some (l.param 16 8), ttl3At := none
        ttl3 := BitVec.ofNat 64 (l.param 24 8) }
      (s.working handle).startJob { PageJob.reset with purpose := .park n, tier := 2 } (s.ctx n).pageList) s

/-- `CTX_RESUME` (R298). -/
def execCtxResume (handle : BitVec 32) (s : State) : Out :=
  ctxCommand 0x76 handle (fun _ => none) (fun _ n s =>
    let c := s.ctx n
    if c.state = .expired then
      ((s.onCtx n fun c => { c with state := .idle, hist := 0, len := 0, lenFb := 0, fbVersion := none }).holdHist n).complete
        handle stTtlExpired 0
    else
      let left (t : Option Nat) : Nat := (t.map fun x => max 1 (x - s.now)).getD 0
      let s := s.onCtx n fun c => { c with
        state := .moving, moveHandle := some handle, ttlLeft := some (left c.ttl2At, left c.ttl3At)
        ttl2At := none, ttl3At := none }
      let s := s.working handle
      if c.toTier3 then s else s.beginResume n) s

/-- A parked context expires: its pages are freed (R297). -/
def State.expire (n : Nat) (s : State) : State :=
  let s := (s.dropPages n).onCtx n fun c => { c with state := .expired, ttl2At := none, ttl3At := none }
  (s.onSrv fun v => { v with expired := satInc v.expired }).raiseSrv 4

/-- A due tier-2 timer is acted on: the pages are freed, or move to tier 3 (R297). -/
def State.ttl2Due (n : Nat) (s : State) : State :=
  let c := s.ctx n
  let due := c.ttl2At.any fun t => decide (t ≤ s.now)
  if c.state ≠ .parked ∨ !due then s
  else if c.ttl3 = 0 then s.expire n
  else
    let s := s.onCtx n fun c => { c with ttl2At := none, toTier3 := true }
    s.startJob { PageJob.reset with purpose := .toTier3 n, tier := 3, strict := true }
      (c.pageList.filter fun g => decide (gaSpace g = 2))

/-- A due tier-3 timer is acted on (R297). -/
def State.ttl3Due (n : Nat) (s : State) : State :=
  let c := s.ctx n
  let due := c.ttl3At.any fun t => decide (t ≤ s.now)
  if c.state = .parked ∧ due then s.expire n else s

/-- The tick of an absolute expiry is reached; phase 10 of the next boundary acts on it (R24). -/
def State.reach (t : Option Nat) (s : State) : State := s.at_ (t.getD s.now)

/-- The tier-2 timer of a context expires: `State.ttl2Due` acts on it in phase 10 of the first boundary at or after the expiry
(R24, R297). -/
def execTtl2Expiry (ctx : Nat) (s : State) : Out := close (s.reach (s.ctx ctx).ttl2At)

/-- The tier-3 timer of a context expires: `State.ttl3Due` acts on it in phase 10 of the first boundary at or after the expiry
(R24, R297). -/
def execTtl3Expiry (ctx : Nat) (s : State) : Out := close (s.reach (s.ctx ctx).ttl3At)

/-! ### KV images (R300 to R302) -/

/-- Where the stored pages of an image of `n` entries begin (R300). -/
def kvDataAt (n : Nat) : Nat := ceilDiv (64 + 8 * n) 4096 * 4096

/-- The pages of a context that its image carries: address, whether it is the history page, whether it is a zero
page, and its content; none where a page cannot be read. -/
def State.kvCarried (s : State) (n : Nat) : Option (List (Bool × Bool × Mem)) :=
  let c := s.ctx n
  let one (hist : Bool) (g : BitVec 64) : Option (Bool × Bool × Mem) :=
    (s.content (gaSlot g).1 (gaSlot g).2).map fun m => (hist, (s.dirEntry (gaSlot g).1 (gaSlot g).2).zero, m)
  (c.kvList.mapM (one false)).bind fun a => (c.histCarried.toList.mapM (one true)).map fun b => a ++ b

/-- The header of an image (R300). -/
def kvHeader (c : Context) (layout : BitVec 32) : List (BitVec 8) :=
  let ad := c.adapter.getD ⟨0, 0⟩
  let h := leBytes 4 0x564B584A ++ leBytes 2 1 ++ leBytes 2 0 ++ leBytes 4 c.base.model.toNat ++
    [c.base.version, ad.version] ++ leBytes 2 0 ++ leBytes 4 ad.model.toNat ++ leBytes 4 c.len ++
    leBytes 4 (if c.histCarried.isSome then c.hist else 0) ++ bvBytes 4 layout ++ leBytes 4 c.kvList.length ++
    List.replicate 24 0
  h ++ bvBytes 4 (crc32c h)

/-- The runs of bytes of an image: offset and bytes (R300). -/
def kvRuns (c : Context) (layout : BitVec 32) (ps : List (Bool × Bool × Mem)) : List (Nat × List (BitVec 8)) :=
  let table := ps.flatMap fun p => bvBytes 4 (pageCrc p.2.2) ++
    leBytes 4 ((if p.1 then 1 else 0) + (if p.2.1 then 2 else 0))
  let stored := ps.filter fun p => !p.2.1
  (0, kvHeader c layout) :: (64, table) ::
    stored.mapIdx fun i p => (kvDataAt ps.length + pageBytes * i, Mem.reads p.2.2 0 pageBytes)

/-- Bytes written at a global address by a function, over as many pages as they cover; none where refused. -/
def State.writeRun (who : Option Nat) (g : BitVec 64) (bs : List (BitVec 8)) (s : State) : Option State :=
  if gaSpace g = 5 then s.writeGa who g bs
  else ((gaPieces g bs.length).foldl (fun (r : Option State × List (BitVec 8)) p =>
    (r.1.bind fun s => s.writeGa who p.1 (r.2.take p.2), r.2.drop p.2)) (some s, bs)).1

/-- The image of an export is written; none where its place refuses it. -/
def State.putImage (who : Nat) (g : BitVec 64) (runs : List (Nat × List (BitVec 8))) (s : State) : Option State :=
  runs.foldl (fun r x => r.bind fun s => s.writeRun (some who) (g + BitVec.ofNat 64 x.1) x.2) (some s)

/-- The first parameter of `KV_EXPORT` or `KV_IMPORT` out of range: `spaces` are those an image may lie in, and
`remote` the mode that names a chip and a context on it (R269, R301 to R303). -/
def State.kvFault (s : State) (l : Live) (remote : Nat) (spaces : List Nat) : Option Nat :=
  let g := BitVec.ofNat 64 (l.param 24 8)
  if 1 < l.param 12 1 then some 12
  else if 4096 ≤ l.param 14 2 then some 15
  else if l.param 12 1 = remote then
    if BitVec.ofNat 12 (l.param 14 2) = s.fab.chip then some 14 else identFault 16 (BitVec.ofNat 32 (l.param 16 4))
  else if gaChip g ≠ s.fab.chip ∨ gaSpace g ∉ spaces ∨ !s.offsetOk g then some 24
  else none

/-- `KV_EXPORT` (R301): the pages move to another chip, or an image of them begins to be written. -/
def execKvExport (handle : BitVec 32) (s : State) : Out :=
  ctxCommand 0x78 handle (fun l => s.kvFault l 0 [2, 5]) (fun l n s =>
    let c := s.ctx n
    let s := (s.working handle).onCtx n fun c => { c with
      state := .moving, moveHandle := some handle
      imageAddr := if l.param 12 1 = 1 then
        some (BitVec.ofNat 64 (l.param 24 8), BitVec.ofNat 32 (l.param 20 4)) else none }
    if l.param 12 1 = 1 then s
    else s.startJob { PageJob.reset with
      purpose := .export_ n, tier := 1, chip := some (BitVec.ofNat 12 (l.param 14 2)) } (c.kvList ++ c.histCarried.toList)) s

/-- `KV_IMPORT` (R302): of a context with an empty history. -/
def execKvImport (handle : BitVec 32) (s : State) : Out :=
  ctxCommand 0x79 handle (fun l => s.kvFault l 1 [2, 3, 5]) (fun l n s =>
    if (s.ctx n).foreseen ≠ 0 then s.complete handle stNotAllowed 0
    else
      let layout := BitVec.ofNat 32 (l.param 20 4)
      ((s.working handle).dropHist n).onCtx n fun c => { c with
        state := .moving, moveHandle := some handle
        importFrom := if l.param 12 1 = 1 then
          some (BitVec.ofNat 12 (l.param 14 2), BitVec.ofNat 32 (l.param 16 4), layout) else none
        imageAddr := if l.param 12 1 = 1 then none else some (BitVec.ofNat 64 (l.param 24 8), layout) }) s

/-- An image's header is sound (R302 check 1). -/
def kvHeaderOk (h : List (BitVec 8)) : Bool :=
  decide (fieldAt h 0 4 = 0x564B584A) && decide (fieldAt h 4 2 = 1) && decide (fieldAt h 6 2 = 0) &&
    decide (fieldAt h 14 2 = 0) && ((h.drop 36).take 24).all (fun b => decide (b = 0)) &&
    decide (BitVec.ofNat 32 (fieldAt h 60 4) = crc32c (h.take 60))

/-- The tiles of a KV page, from byte `o` on: whole tiles with sound headers in FP8, and zeros between them (R302
check 6; assumption 27). -/
def kvTilesOk (bs : List (BitVec 8)) : Nat → Bool
  | 0 => true
  | n + 1 =>
    let piece := bs.take 128
    if piece = [] then true
    else if piece.all fun b => decide (b = 0) then kvTilesOk (bs.drop 128) n
    else
      let len := fieldAt bs 20 4
      let foot := (64 + len + 127) / 128 * 128
      landingTileOk (bs.take 64) ((bs.drop 64).take len) && decide (foot ≤ bs.length) &&
        decide ((byteAt bs 3).toNat ∈ [2, 3]) && kvTilesOk (bs.drop foot) n

/-- The pages of an image that a table describes: whether history, its content, and its CRC; none where the read
fails. -/
def State.kvPagesAt (s : State) (who : Nat) (g : BitVec 64) (flags : List (Nat × Nat)) :
    Except ReadFail (List (Bool × Mem × Nat)) :=
  (flags.foldl (fun (r : Except ReadFail (List (Bool × Mem × Nat)) × Nat) e =>
    match r with
    | (.error x, k) => (.error x, k)
    | (.ok ps, k) =>
      let hist := decide (e.2 % 2 = 1)
      if e.2 / 2 % 2 = 1 then (.ok (ps ++ [(hist, [], e.1)]), k)
      else
        let at_ := g + BitVec.ofNat 64 (kvDataAt flags.length + pageBytes * k)
        match s.readRun (some who) at_ pageBytes with
        | .ok bs => (.ok (ps ++ [(hist, Mem.writes [] 0 bs, e.1)]), k + 1)
        | a => (.error (a.fail at_ pageBytes), k)) (.ok [], 0)).1

/-- An image read and checked in the order of R302: the pages it carries, or the status and detail of the first
failure. The room of check 5 is looked for by placing the pages. -/
def State.importImage (s : State) (who n : Nat) (kvMax : Nat) (g : BitVec 64) (layout : BitVec 32) :
    Except ReadFail State :=
  let c := s.ctx n
  match s.readRun (some who) g 64 with
  | .ok h =>
    let k := fieldAt h 32 4
    let hist := fieldAt h 24 4
    let len := fieldAt h 20 4
    let ad := c.adapter.getD ⟨0, 0⟩
    if !kvHeaderOk h then .error (stCheckFailed, 0, none)
    else if fieldAt h 8 4 ≠ c.base.model.toNat ∨ byteAt h 12 ≠ c.base.version ∨ byteAt h 13 ≠ ad.version ∨
        fieldAt h 16 4 ≠ ad.model.toNat then .error (stBadParam, 24, none)
    else if fieldAt h 28 4 ≠ layout.toNat then .error (stBadParam, 20, none)
    else if kvMax < k ∨ 65535 < hist ∨ (hist ≠ 0 ∧ hist < len) then .error (stBadParam, 24, none)
    else
      let entries := k + (if hist = 0 then 0 else 1)
      match s.readRun (some who) (g + 64) (8 * entries) with
      | .ok t =>
        let flags := (List.range entries).map fun i => (fieldAt t (8 * i) 4, fieldAt t (8 * i + 4) 4)
        if flags.any (fun e => decide (4 ≤ e.2)) ∨
            (flags.filter fun e => decide (e.2 % 2 = 1)).length ≠ entries - k then .error (stCheckFailed, 0, none)
        else match s.kvPagesAt who g flags with
        | .error e => .error e
        | .ok ps =>
          let place (r : Option (State × Nat)) (p : Bool × Mem × Nat) : Option (State × Nat) :=
            r.bind fun x =>
              let idx := if p.1 then ctxIndex 2 0 else ctxIndex 0 x.2
              match x.1.placePage 1 true ownContext (BitVec.ofNat 28 n) idx false (decide (p.2.1 = [])) p.2.1 with
              | (none, _) => none
              | (some (t, sl), s) =>
                let ga := s.slotGa t sl
                some (s.onCtx n fun c => if p.1 then { c with histPage := some ga }
                  else { c with kvList := c.kvList ++ [ga] }, if p.1 then x.2 else x.2 + 1)
          match ps.foldl place (some (s, 0)) with
          | none => .error (stNoSpace, 0, none)
          | some (s, _) =>
            let sound (p : Bool × Mem × Nat) : Bool :=
              let bs := Mem.reads p.2.1 0 pageBytes
              decide ((crc32c bs).toNat = p.2.2) && (p.1 || kvTilesOk bs 16384)
            if ps.all sound then .ok (s.onCtx n fun c => { c with hist := hist, len := len })
            else .error (stCheckFailed, 0, none)
      | a => .error (a.fail (g + 64) (8 * entries))
  | a => .error (a.fail g 64)

/-- The writing of an export's image, or the reading and checking of an import's, completes (R301, R302). -/
def execKvImageTransferDone (handle : BitVec 32) (tick : Nat) (s : State) : Out :=
  let s := s.at_ tick
  match s.openCtxs.find? fun n => decide ((s.ctx n).moveHandle = some handle) && (s.ctx n).imageAddr.isSome, s.liveOf handle with
  | some n, some l =>
    let c := s.ctx n
    let (g, layout) := c.imageAddr.getD (0, 0)
    let idle (s : State) : State :=
      (s.onCtx n fun c => { c with state := .idle, moveHandle := none, imageAddr := none }).holdHist n
    if l.opcode = 0x78 then
      match s.kvCarried n with
      | none => close ((idle s).complete handle stCheckFailed 0)
      | some ps => match s.putImage l.func.toNat g (kvRuns c layout ps) with
        | none => close ((idle s).complete handle stBadParam 24)
        | some s => close ((s.exported n).complete handle stOk 0)
    else
      match s.importImage l.func.toNat n c.kvPages g layout with
      | .error e => close ((idle (s.noteFail e).drawn).complete handle e.1 e.2.1)
      | .ok s => close ((idle s).complete handle stOk 0)
  | _, _ => .next s

/-! ### Host-formed batches (R286, R303, R304) -/

/-- The offset of the first offending byte of a `BATCH_STEP` entry (R304). -/
def batchFault (slots : Nat) (e : List (BitVec 8)) : Option Nat :=
  if slots ≤ fieldAt e 0 2 then some 0
  else if fieldAt e 2 1 < 1 ∨ 3 < fieldAt e 2 1 then some 2
  else if fieldAt e 3 1 ≠ 0 then some 3
  else identFault 4 (BitVec.ofNat 32 (fieldAt e 4 4))

/-- The boundary that begins a step can still take a command accepted now (R17, R304): any while an arming has not reached
B_0, which begins step 0; not so once the serving chip has
decided it, with the COMMIT verdict that it sent (R274). -/
def State.stepAhead (s : State) (step : Nat) : Bool :=
  if s.unarmed then decide (step ≠ 0)
  else if !s.cad.begun then true
  else decide (s.cad.step.toNat + (if s.step.cut.isSome then 1 else 0) < step)

/-- `BATCH_STEP` (R286, R303, R304). -/
def execBatchStep (handle : BitVec 32) (s : State) : Out :=
  carry 0x7A false handle (fun l s =>
    let at_ := l.param 8 8
    let n := l.param 16 2
    let fail (st : BitVec 16) (d : Nat) : State := s.complete handle st (BitVec.ofNat 32 d)
    if n < 1 ∨ 256 < n then fail stBadParam 16
    else if !s.hostFormed then fail stNotAllowed 0
    else if !s.stepAhead at_ then fail stBadParam 8
    else if s.srv.batches.any fun b => !b.applied && decide (b.atStep.toNat = at_) then fail stBusy 0
    else match s.hostRead l.func.toNat (l.param 24 8) (8 * n) with
    | none => s.complete handle stBadParam readFailed
    | some bs =>
      let es := (List.range n).map fun i => (bs.drop (8 * i)).take 8
      let slots := (imgHeader s.active).slots
      match (es.mapIdx fun i e => (batchFault slots e).map fun o => 8 * i + o).findSome? id with
      | some o => fail stBadParam (0x80000000 + o)
      | none => (s.atBoundary handle).onSrv fun v => { v with batches := v.batches ++
          [{ handle := handle, atStep := BitVec.ofNat 64 at_
             entries := es.map fun e => (fieldAt e 0 2, fieldAt e 2 1, BitVec.ofNat 32 (fieldAt e 4 4))
             applied := false, skippedN := 0 }] }) s

end Sys2Proof.Machine
end

