-- ==== Sys2Proof/Machine/WgtCmd.lean ====
section
/-!
DEFINITION. The meanings of the weights commands and events (R236 to R266).
-/
namespace Sys2Proof.Machine

/-! ### Declaring (R241 to R251, R258, R265) -/

/-- The geometry of the base that an adapter extends admits it: none is set yet, or its tensor table and
`image_size` are the same (R262). -/
def geometryOk (g : Option NullImage) (man : List (BitVec 8)) : Bool :=
  match g with
  | none => true
  | some g => decide (g.tensors = manGeometry man) && decide (g.imageSize = manImageSize man)

/-- A version is declared: it takes a slot in `LOADING`, or waits for room (R250, R259). An adapter that is
the first of its base sets the base's geometry (R262). -/
def State.declare (h : BitVec 32) (l : Live) (man : List (BitVec 8)) (adapter replace : Bool) (s : State) : State :=
  let m : ModelVer := { ModelVer.reset with
    id := manModel man, version := manVersion man, adapter := adapter, state := .loading, declarer := l.func
    manifest := man, replace := replace, handle := some h
    activateAfter := (byteAt l.params 21).getLsbD 1
    tier := if byteAt l.params 20 = 3 then 3 else 2
    strict := (byteAt l.params 21).getLsbD 0
    streamFrom := BitVec.ofNat 64 (l.param 56 8)
    deadline := some (l.accepted + manTimeout man)
    shards := List.replicate (manShardCount man) .outstanding }
  let m := if replace && !s.hasRoom m then { m with state := .pendingRoom, deadline := none } else m
  let b := manBase man
  let s := if adapter then s.onModel b.model b.version fun x => match x.geometry with
      | none => { x with geometry := some { NullImage.reset with
          first := ⟨manModel man, manVersion man⟩, tensors := manGeometry man, imageSize := manImageSize man } }
      | some _ => x
    else s
  (s.onWgt fun w => { w with models := w.models ++ [m] }).working h

/-- A declaration: its parameters, its manifest and the state of the model are examined in turn (R244, R248,
R258, R265). -/
def declareBody (h : BitVec 32) (adapter replace : Bool) (l : Live) (s : State) : State :=
  let g := BitVec.ofNat 64 (l.param 8 8)
  let n := l.param 16 4
  let flags := byteAt l.params 21
  if gaChip g ≠ s.fab.chip ∨ gaSpace g ∉ [2, 3, 5] then s.complete h stBadParam 8
  else if byteAt l.params 20 ∉ [0, 2, 3] then s.complete h stBadParam 20
  else if flags.toNat / 4 ≠ 0 ∨ (replace ∧ flags.getLsbD 1) then s.complete h stBadParam 21
  else match s.readRun (some l.func.toNat) g n with
    | .refused => s.complete h stBadParam (if gaSpace g = 5 then readFailed else 8)
    | .poisoned => (s.noteRead g n).complete h stDigest 0
    | .ok man =>
      let id := manModel man
      -- a `model_id` that is out of range names no model: the manifest is refused for it (R244)
      let held := if fieldAt man 12 4 < 2 ^ 28 then s.versions id else []
      if !replace && decide (held ≠ []) then s.complete h stNotAllowed 0
      else if replace && held.any fun m => m.replace then s.complete h stBusy 0
      else if replace && held.any fun m => !m.rights l.func then s.complete h stBadHandle 0
      else if !replace && decide (slotsOf adapter ≤ s.slotsUsed adapter) then s.complete h stNoSpace 0
      else if digestBits (sha256 man) ≠ BitVec.ofNat 256 (l.param 24 32) then s.complete h stDigest 0
      else
        let b := manBase man
        let base := s.model b.model b.version
        let baseHeld := base.any fun m => !m.adapter
        match manifestFault man n adapter baseHeld with
        | some d => s.complete h stBadParam d
        | none =>
          if replace && (decide (held = []) || held.any (fun m => decide (m.adapter ≠ adapter)) ||
              held.any fun m => decide (manVersion man ≤ m.version)) then s.complete h stBadParam 0xFFFFFFFF
          else if adapter && !geometryOk (base.bind (·.geometry)) man then s.complete h stBadParam 0xFFFFFFFF
          else if l.param 56 8 % pageBytes ≠ 0 then s.complete h stBadParam 56
          else s.declare h l man adapter replace

/-- `MODEL_DECLARE` (R251). -/
def execModelDeclare (handle : BitVec 32) (s : State) : Out :=
  carry 0x40 false handle (declareBody handle false false) s

/-- `ADAPTER_LOAD` (R251). -/
def execAdapterLoad (handle : BitVec 32) (s : State) : Out :=
  carry 0x45 false handle (declareBody handle true false) s

/-- `ADAPTER_REPLACE` (R258). -/
def execAdapterReplace (handle : BitVec 32) (s : State) : Out :=
  carry 0x46 false handle (declareBody handle true true) s

/-- `MODEL_REPLACE` (R258). -/
def execModelReplace (handle : BitVec 32) (s : State) : Out :=
  carry 0x47 false handle (declareBody handle false true) s

/-! ### Shards (R249) -/

/-- The model that a command names: identifier and version (R265). -/
def Live.model (l : Live) : BitVec 28 × BitVec 8 := (BitVec.ofNat 28 (l.param 8 4), byteAt l.params 12)

/-- The page list of a `SHARD_FROM_FLASH` as read: refused where its pages are not the function's pages in tier 2 or tier 3
of this chip, named by the address of the page, or do not hold the shard (R249). -/
def State.checkList (s : State) (l : Live) (need : Nat) (bs : List (BitVec 8)) : Except ReadFail (List (BitVec 8)) :=
  let n := l.param 32 4
  let ok (i : Nat) : Bool :=
    let p := BitVec.ofNat 64 (fieldAt bs (8 * i) 8)
    let e := s.dirEntry (gaSlot p).1 (gaSlot p).2
    decide (gaChip p = s.fab.chip) && decide (gaSpace p ∈ [2, 3]) && decide (gaOffset p % pageBytes = 0) &&
    decide (e.ownerKind = ownFunction) && decide (e.ownerId.toNat = l.func.toNat) && decide (e.state ≠ .free)
  if n * pageBytes < need ∨ !((List.range n).all ok) then .error (stBadParam, 24, none) else .ok bs

/-- The page list of a `SHARD_FROM_FLASH` (R249, R265), or the failure of its read; none while it is still to be read from
another chip, of which spaces 0 and 5 are refused (R201). -/
def State.pageListOf (s : State) (l : Live) (need : Nat) : Option (Except ReadFail (List (BitVec 8))) :=
  let g := BitVec.ofNat 64 (l.param 24 8)
  let n := l.param 32 4
  if gaChip g = s.fab.chip then
    some (match s.readRun (some l.func.toNat) g (8 * n) with
      | .ok bs => s.checkList l need bs
      | a => .error (a.fail g (8 * n)))
  else if gaSpace g ∉ [1, 2, 3, 4] ∨ n * pageBytes < need then some (.error (stBadParam, 24, none))
  else if l.work.length < 8 * n then none
  else some (s.checkList l need l.work)

/-- The next words of a page list on another chip are requested, within 4 KiB of its addresses (R201, R329). -/
def State.fetchList (h : BitVec 32) (s : State) : State :=
  match s.liveOf h with
  | none => s
  | some l =>
    let g := BitVec.ofNat 64 (l.param 24 8) + BitVec.ofNat 64 l.work.length
    let head := gaOffset g % 4
    let n := min (8 * l.param 32 4 - l.work.length) (remoteMax - gaOffset g % remoteMax)
    s.remoteSend (gaChip g) false (g - BitVec.ofNat 64 head) ((head + n + 3) / 4 * 4) [] (.pageList h)

/-- No page of a run in space 2 belongs to another owner than the issuing function (R202, R249). -/
def State.mayRead (s : State) (f : Nat) (g : BitVec 64) (n : Nat) : Bool :=
  decide (gaSpace g ≠ 2) || (gaPieces g n).all fun p =>
    (s.dirEntry 2 (gaSlot p.1).2).permits (some f)

/-- A shard command: refused under R249, or its shard enters flight. -/
def shardBody (h : BitVec 32) (flash : Bool) (l : Live) (s : State) : State :=
  let (id, v) := l.model
  let i := l.param 16 4
  if 2 ^ 28 ≤ l.param 8 4 then s.complete h stBadParam 8
  else match s.model id v with
  | none =>
    let st := s.absentStatus id v none
    s.complete h st (if st = stBadParam then BitVec.ofNat 32 (s.absentAt id none 8 12) else 0)
  | some m =>
    if !m.rights l.func then s.complete h stBadHandle 0
    else match m.shards[i]?, (manShards m.manifest)[i]? with
    | some st, some e =>
      if m.state = .retiring ∧ !m.suspect then s.complete h stRetired 0
      else if ¬ (m.state = .loading ∨ m.state = .incomplete ∨ m.suspect) then s.complete h stNotAllowed 0
      else if st = .ingested then s.complete h stFinished 0
      else if st = .inFlight then s.complete h stBusy 0
      else
        let g := BitVec.ofNat 64 (l.param 24 8)
        if !flash && (decide (gaChip g ≠ s.fab.chip) || decide (gaSpace g ∉ [2, 5]) ||
            !s.mayRead l.func.toNat g e.bytes) then s.complete h stBadParam 24
        else
          let list := if flash then s.pageListOf l e.bytes else some (.ok [])
          match list with
          | none => (s.working h).fetchList h
          | some (.error e) => (s.noteFail e).complete h e.1 e.2.1
          | some (.ok bs) =>
            let s := (s.onLive h fun l => { l with work := bs, shardWas := st }).working h
            ((s.setShard id v i .inFlight).onWgt fun w => { w with waiting := w.waiting ++ [h] }).nextShard
    | _, _ => s.complete h stBadParam 16

/-- `SHARD_LOAD` (R249). -/
def execShardLoad (handle : BitVec 32) (s : State) : Out := carry 0x41 false handle (shardBody handle false) s

/-- `SHARD_FROM_FLASH` (R249). -/
def execShardFromFlash (handle : BitVec 32) (s : State) : Out := carry 0x42 false handle (shardBody handle true) s

/-- A part of a page list has come from another chip, or has not (R201, R329): the rest is requested, and with the last part
the command is examined again, since the model may have changed meanwhile. A read that is refused there, or gets no
answer, refuses the command as one of this chip does; a poisoned one fails it (DEDUCED, assumption 195). -/
def State.listEnd (h : BitVec 32) (status : BitVec 8) (data : List (BitVec 8)) (s : State) : State :=
  match s.liveOf h with
  | none => s
  | some l =>
    if status = 2 then s.complete h stCheckFailed 0
    else if status ≠ 0 then s.complete h stBadParam 24
    else
      let head := gaOffset (BitVec.ofNat 64 (l.param 24 8 + l.work.length)) % 4
      let work := (l.work ++ data.drop head).take (8 * l.param 32 4)
      let s := s.onLive h fun l => { l with work := work }
      if 8 * l.param 32 4 ≤ work.length then shardBody h true { l with work := work } s else s.fetchList h

/-- A shard's digest check and ingest finish (R245 to R249). A handle with no shard in flight changes nothing
(assumption 5). -/
def execShardIngestDone (handle : BitVec 32) (tick : Nat) (s : State) : Out :=
  match s.wgt.flight.find? fun x => decide (x.handle = handle), s.liveOf handle with
  | some x, some l =>
    let s := (s.at_ tick).onWgt fun w => { w with flight := w.flight.erase x }
    close ((s.ingest x l).nextShard)
  | _, _ => .next s

/-- A command of a function with rights to a version that delivers one of its shards has been accepted (R240, R250). -/
def State.shardAccepted (s : State) (m : ModelVer) (i : Nat) : Bool :=
  s.cmd.live.any fun p => (decide (p.2.opcode = 0x41) || decide (p.2.opcode = 0x42)) &&
    decide (p.2.model = (m.id, m.version)) && decide (p.2.param 16 4 = i) && m.rights p.2.func

/-- A shard deadline has passed: every shard whose command has not been accepted is missing (R250). The deadline stays, so
that a shard whose accepted command is refused is missing at the next check. Before the deadline nothing happens. -/
def execShardDeadlineExpiry (model : BitVec 28) (version : BitVec 8) (tick : Nat) (s : State) : Out :=
  let s := s.at_ tick
  match s.model model version with
  | none => .next s
  | some m =>
    if m.state = .loading ∧ (m.deadline.any fun d => decide (d ≤ s.now)) then
      let miss := (List.range m.shards.length).filter fun i =>
        decide (m.shards[i]? = some .outstanding) && !s.shardAccepted m i
      let s := miss.foldl (fun s i => s.setShard model version i .missing) s
      let s := s.onWgt fun w => { w with missing := satAdd w.missing miss.length }
      if miss = [] then .next s else close ((s.raiseWgt 1).checkLoaded model version)
    else .next s

/-! ### Activation, rest and retirement -/

/-- `MODEL_ACTIVATE` (R252). -/
def execModelActivate (handle : BitVec 32) (s : State) : Out :=
  carry 0x43 false handle (fun l s =>
    let (id, v) := l.model
    if 2 ^ 28 ≤ l.param 8 4 then s.complete handle stBadParam 8
    else match s.model id v with
    | none => s.complete handle stBadParam (BitVec.ofNat 32 (s.absentAt id none 8 12))
    | some m =>
      if !m.rights l.func then s.complete handle stBadHandle 0
      else if l.param 16 8 % pageBytes ≠ 0 then s.complete handle stBadParam 16
      else if m.state ≠ .resting ∨ m.waitRoom then s.complete handle stNotAllowed 0
      else
        let s := s.onModel id v fun m => { m with
          activateHandle := some handle, streamFrom := BitVec.ofNat 64 (l.param 16 8) }
        (s.working handle).beginActivate id v) s

/-- The shard commands of a version are cancelled and their staged tiles discarded (R260). -/
def State.cancelShards (id : BitVec 28) (v : BitVec 8) (s : State) : State :=
  let mine (h : BitVec 32) : Bool := (s.liveOf h).any fun l => decide (l.model = (id, v))
  let hs := (s.wgt.flight.filter fun x => decide (x.id = id) && decide (x.version = v)).map (·.handle) ++
    s.wgt.waiting.filter mine
  let s := s.onWgt fun w => { w with
    flight := w.flight.filter fun x => !(decide (x.id = id) && decide (x.version = v))
    waiting := w.waiting.filter fun h => !mine h }
  (s.completeAll hs stCancelled 0).nextShard

/-- `MODEL_RETIRE` in mode `RETIRE` (R259, R260). -/
def State.retire (handle : BitVec 32) (m : ModelVer) (s : State) : State :=
  if m.state = .pendingRoom then
    let s := s.onWgt fun w => { w with models := w.models.filter fun x =>
      !(decide (x.id = m.id) && decide (x.version = m.version)) }
    (s.completeOpt m.handle stCancelled 0).complete handle stOk 0
  else if m.retireHandle ≠ none then s.complete handle stBusy 0
  else
    let s := s.onModel m.id m.version fun m => { m with
      state := .retiring, retireHandle := some handle, deadline := none, waitRoom := false }
    let s := s.working handle
    if m.state = .placing then
      (s.mem.jobs.filter fun j => decide (j.purpose = .activate m.id.toNat m.version.toNat) ||
        decide (j.purpose = .rest m.id.toNat m.version.toNat)).foldl (fun s j => s.stopJob j.id) s
    else
      let s := if m.state = .loading ∨ m.state = .incomplete then
          (s.cancelShards m.id m.version).onModel m.id m.version fun m => { m with staged := [] }
        else s
      let s := s.onModel m.id m.version fun m => { m with handle := none, replace := false }
      s.completeOpt m.handle stCancelled 0

/-- `MODEL_RETIRE` (R253, R260). -/
def execModelRetire (handle : BitVec 32) (s : State) : Out :=
  carry 0x44 false handle (fun l s =>
    let (id, v) := l.model
    if 2 ^ 28 ≤ l.param 8 4 then s.complete handle stBadParam 8
    else match s.model id v with
    | none => s.complete handle stBadParam (BitVec.ofNat 32 (s.absentAt id none 8 12))
    | some m =>
      if !m.rights l.func then s.complete handle stBadHandle 0
      else if 1 < (byteAt l.params 13).toNat then s.complete handle stBadParam 13
      else if byteAt l.params 13 = 1 then s.retire handle m
      else if m.state ≠ .active ∨ s.refs id v ≠ 0 then s.complete handle stNotAllowed 0
      else ((s.onModel id v fun m => { m with activateHandle := some handle }).working handle).beginRest id v) s

/-! ### Scrubbing -/

/-- A version's next scrub tick is reached: its pass starts in phase 10 of the next boundary, and none while the cadence is
unarmed (R24, R255). -/
def execScrubDue (model : BitVec 28) (version : BitVec 8) (s : State) : Out :=
  match s.model model version with
  | none => .next s
  | some m => if m.scrubs ∧ m.nextScrub ≠ 0 then finish (s.at_ m.nextScrub) else .next s

/-- A scrub reads a page and compares its digest; a page in a move is skipped and read again at the end of the
pass (R256, R257). -/
def execScrubPageRead (model : BitVec 28) (version : BitVec 8) (page : Nat) (s : State) : Out :=
  match s.model model version with
  | none => .next s
  | some m =>
    if page ∈ m.scrubLeft then
      let s := s.onModel model version fun m => { m with scrubLeft := m.scrubLeft.erase page }
      let (t, sl) := gaSlot (Sparse.get 0 m.pages page)
      let home := s.liveSlot t sl
      let s := if (s.dirEntry t sl).state.inMove || (s.dirEntry home.1 home.2).state.inMove then
          let s := s.onModel model version fun m => { m with scrubSkipped := m.scrubSkipped ++ [page] }
          s.onWgt fun w => { w with skipped := satInc w.skipped }
        else match s.content home.1 home.2 with
          | none => s.scrubMismatch m page
          | some c =>
            if digestBits (sha256 (Mem.reads c 0 pageBytes)) = Sparse.get 0 m.digests page then s
            else s.scrubMismatch m page
      finish (s.onModel model version fun m =>
        if m.scrubLeft = [] then { m with scrubLeft := m.scrubSkipped, scrubSkipped := [] } else m)
    else .next s

/-- `SCRUB_SET` (R265). -/
def execScrubSet (handle : BitVec 32) (s : State) : Out :=
  carry 0x48 false handle (fun l s =>
    let (id, v) := l.model
    let n := l.param 16 8
    let interval : BitVec 64 := if n = 0 then 600000000000 else BitVec.ofNat 64 n
    let named := s.wgt.models.filter fun m => (decide (l.param 8 4 = 0) || decide (m.id = id)) &&
      (decide (v = 0) || decide (m.version = v))
    if 2 ^ 28 ≤ l.param 8 4 then s.complete handle stBadParam 8
    else if v ≠ 0 ∧ named = [] then s.complete handle stBadParam (BitVec.ofNat 32 (s.absentAt id none 8 12))
    else if 1 < (byteAt l.params 13).toNat then s.complete handle stBadParam 13
    else if n ≠ 0 ∧ (n < 60000000000 ∨ 86400000000000 < n) then s.complete handle stBadParam 16
    else if l.param 8 4 ≠ 0 ∧ named.any (fun m => !m.rights l.func) then s.complete handle stBadHandle 0
    else
      let start := (byteAt l.params 13).getLsbD 0
      let s := if l.param 8 4 = 0 then s.onWgt fun w => { w with scrubDef := interval }
        else named.foldl (fun s m => s.onModel m.id m.version fun m => { m with interval := some interval }) s
      let s := if start then named.foldl (fun s m => s.onModel m.id m.version fun m =>
          if m.scrubs then { m with nextScrub := s.uptime } else m) s else s
      s.complete handle stOk 0) s

/-- The stored bytes of a version across the tiers (R266); no tier holds a page in `LOST` (R205). -/
def State.storedOf (s : State) (m : ModelVer) : Nat :=
  m.pageList.foldl (fun n p =>
    let e := s.dirEntry (gaSlot p.2).1 (gaSlot p.2).2
    if e.state = .lost then n else n + e.stored.toNat) 0

/-- The code of a state (R237). -/
def ModelState.code : ModelState → Nat
  | .pendingRoom => 1 | .loading => 2 | .incomplete => 3 | .resting => 4 | .placing => 5 | .active => 6
  | .retiring => 7

/-- The status record of a version (R266). -/
def State.modelRecord (s : State) (m : ModelVer) : List (BitVec 8) :=
  let fl : BitVec 8 := flag 8 0 (decide (s.current m.id m.adapter = some m.version)) ||| flag 8 1 m.suspect |||
    flag 8 2 (m.geometry.isSome && !m.adapter)
  let bad := (List.range 1024).foldl (fun (b : BitVec 1024) i =>
    let st := m.shards[i]?
    if st = some ShardState.failed ∨ st = some ShardState.missing then b ||| bit 1024 i else b) 0
  leBytes 4 m.id.toNat ++ [m.version, if m.adapter then 2 else 1, BitVec.ofNat 8 m.state.code, fl] ++
  leBytes 4 (s.boundCtxs m.id m.version) ++ leBytes 2 (s.namingCyls m.id m.version) ++
  leBytes 2 (m.count .ingested) ++ leBytes 8 (manImageSize m.manifest) ++ leBytes 8 (s.storedOf m) ++
  bvBytes 8 m.streamFrom ++ leBytes 8 (if m.scrubs then m.nextScrub else 0) ++ List.replicate 80 0 ++ bvBytes 128 bad

/-- `MODEL_STATUS` (R266). -/
def execModelStatus (handle : BitVec 32) (s : State) : Out :=
  carry 0x49 false handle (fun l s =>
    let (id, v) := l.model
    if 2 ^ 28 ≤ l.param 8 4 then s.complete handle stBadParam 8
    else match s.model id v with
    | none => s.complete handle stBadParam (BitVec.ofNat 32 (s.absentAt id none 8 12))
    | some m => (s.hostWrite l.func.toNat (l.param 16 8) (s.modelRecord m)).complete handle stOk 0) s

end Sys2Proof.Machine
end

