-- ==== Sys2Proof/Machine/FuncCmd.lean ====
section
/-!
DEFINITION. Functions: starting and stopping them, what a stop ends (R389 to R394), and the events of the host link
(R353, R359, R470, R483).
-/
namespace Sys2Proof.Machine

/-! ### What a stop ends (R391) -/

/-- A function changed everywhere. -/
def State.onFuncs (g : Func → Func) (s : State) : State := s.onCmd fun c => { c with funcs := c.funcs.map g }

/-- The actions over pages that serve a command or a context are cancelled: their pages in progress end, and no
further page starts (R391). -/
def State.cancelJobs (mine : PageJob → Bool) (s : State) : State :=
  (s.mem.jobs.filter mine).foldl (fun s j => (s.onJob j.id fun j => { j with cancelled := true }).stopJob j.id) s

/-- A version whose declaring command a stop ends becomes `RETIRING`, and its shards in flight are discarded (R391). -/
def State.abandonVersion (m : ModelVer) (s : State) : State :=
  let s := s.onModel m.id m.version fun m => { m with
    state := .retiring, handle := none, replace := false, deadline := none, waitRoom := false, staged := [] }
  let s := s.cancelJobs fun j => decide (j.purpose = .activate m.id.toNat m.version.toNat)
  s.cancelShards m.id m.version

/-- A shard command that a stop ends: its shard is discarded, and may be delivered again (R391); one whose page list is still
being fetched has none in flight. -/
def State.abandonShard (h : BitVec 32) (l : Live) (s : State) : State :=
  let (id, v) := l.model
  let entered := decide (h ∈ s.wgt.waiting) || s.wgt.flight.any fun x => decide (x.handle = h)
  let s := s.onWgt fun w => { w with
    flight := w.flight.filter fun x => decide (x.handle ≠ h), waiting := w.waiting.filter fun x => decide (x ≠ h) }
  (if entered then s.setShard id v (l.param 16 4) l.shardWas else s).nextShard

/-- The cylinder commands that a stop ends (R391): a staging, a drain or a pending switch is given up. -/
def State.abandonCyl (h : BitVec 32) (s : State) : State :=
  let s := match s.cyl.staging with
    | some g => if g.handle = some h then (s.unallocate g.id).onCyl fun y => { y with staging := none } else s
    | none => s
  let s := if s.cyl.drainHandle = some h then
      s.onCyl fun y => { y with drain := 0, drainHandle := none, suspend := false } else s
  s.onCyl fun y => { y with
    pend := if y.pend.any fun p => decide (p.handle = h) then none else y.pend
    switched := if y.switched = some h then none else y.switched
    fillHandle := if y.fillHandle = some h then none else y.fillHandle }

/-- A pending command forgotten by the blocks that would have completed it. -/
def State.forget (h : BitVec 32) (s : State) : State :=
  let clear (x : Option (BitVec 32)) : Option (BitVec 32) := if x = some h then none else x
  let others (l : List (BitVec 32)) : List (BitVec 32) := l.filter fun x => decide (x ≠ h)
  let s := s.onMem fun m => { m with convHandle := others m.convHandle, flushHandle := others m.flushHandle }
  let s := s.onSrv fun v => { v with batches := v.batches.filter fun b => decide (b.handle ≠ h) }
  let s := s.onFab fun f => { f with
    maskPending := f.maskPending.filter fun x => decide (x.1 ≠ h), retrain := f.retrain.filter fun x => decide (x.1 ≠ h) }
  let s := s.onCfg fun c => { c with commit := clear c.commit }
  let s := s.onCad fun c => { c with armHandle := clear c.armHandle, loadHandle := clear c.loadHandle }
  let s := s.onGrid fun g => { g with
    repairs := g.repairs.map fun r => { r with handle := clear r.handle }
    doneHandles := g.doneHandles.filter fun x => decide (x.1 ≠ h) }
  let s := s.onStore fun t => { t with writing := t.writing.map fun x => (x.1, x.2.1, clear x.2.2) }
  s.onFuncs fun x => { x with
    starters := others x.starters, stopper := clear x.stopper
    heldEnable := x.heldEnable && decide (x.held ≠ some h), held := clear x.held }

/-- The opcodes whose work belongs to a context, and ends with it (R295, R391). -/
def contextBound (op : BitVec 8) : Bool := decide (op.toNat ∈ [0x71, 0x72, 0x73, 0x74, 0x75, 0x76, 0x78, 0x79])

/-- A pending command of a function that stops (R391). A command whose pages are in a move completes when they have
ended; one of a context completes with the context; every other completes `CANCELLED` at once. -/
def State.stopCommand (h : BitVec 32) (s : State) : State :=
  match s.liveOf h with
  | none => s
  | some l =>
    let (id, v) := l.model
    if l.phase = .accepted then s.complete h stCancelled 0
    else if contextBound l.opcode then s
    else match l.opcode.toNat with
    | 0x22 => s.cancelJobs fun j => decide (j.handle = some h)
    | 0x43 => s.cancelJobs fun j => decide (j.purpose = .activate id.toNat v.toNat)
    | 0x44 =>
      if byteAt l.params 13 = 1 then
        (s.onModel id v fun m => { m with retireHandle := none }).complete h stCancelled 0
      else s.cancelJobs fun j => decide (j.purpose = .rest id.toNat v.toNat)
    | 0x41 | 0x42 => (s.abandonShard h l).complete h stCancelled 0
    | 0xA2 => if s.pwr.cal.any fun c => decide (c.handle = h) then s.cancelCal 4
      else (s.complete h stCancelled 4).raisePwr 9
    | _ =>
      let s := match s.wgt.models.find? fun m => decide (m.handle = some h) with
        | some m => s.abandonVersion m
        | none => s
      ((s.abandonCyl h).forget h).complete h stCancelled 0

/-- A context of a function that stops is ended as a `CTX_CLOSE` would, at the boundary that takes the stop; while the
cadence is unarmed at once (R391). -/
def State.stopCtx (n order : Nat) (s : State) : State :=
  let bound (j : PageJob) : Bool := decide (j.purpose ∈ [.park n, .resume n, .export_ n, .toTier3 n])
  let busy := s.mem.jobs.any bound
  let s := s.cancelJobs bound
  let c := s.ctx n
  -- a transfer that is no move of pages ends at once
  let s := if c.state = .moving ∧ !busy then
      (s.onCtx n fun c => { c with state := .idle, moveHandle := none, importFrom := none, importFail := none, imageAddr := none }).completeOpt
        c.moveHandle stCancelled 0
    else s
  let s := s.onCtx n fun c => { c with closing := true, closeOrder := order }
  if s.unarmed then
    let s := if (s.ctx n).gen.isSome then s.cancelNow n else s
    let hs := (s.ctx n).cancels
    (s.onCtx n fun c => { c with cancels := [] }).completeAll hs stOk 0
  else s

/-- Every busy host channel of the utility DMA is aborted (R424). -/
def State.abortHost (s : State) : State :=
  (List.range 16).foldl (fun s c => if s.hostCh c && decide ((s.dmaCh c).state = 1) then s.dmaAbort c else s) s

/-- A function enters `STOPPING` (R391): `stopper` is the command that began it. -/
def State.stopFunc (f : Nat) (stopper : Option (BitVec 32)) (s : State) : State :=
  let order := s.cmd.orderNext
  let s := s.onFunc f fun x => { x with state := .stopping, stopAt := s.uptime, stopper := stopper }
  let s := s.onCmd fun c => { c with orderNext := order + 1 }
  let s := (s.ctxsOf (BitVec.ofNat 4 f)).foldl (fun s n => s.stopCtx n order) s
  let mine := s.liveHandles.filter fun h => (s.liveOf h).any fun l => decide (l.func.toNat = f)
  let s := mine.foldl (fun s h => s.stopCommand h) s
  let s := s.onWgt fun w => { w with models := w.models.map fun m =>
    if m.declarer.toNat = f then { m with declarer := 0 } else m }
  if f = 0 then s.abortHost else s

/-! ### Starting (R390) -/

/-- The limits that a `FUNC_ENABLE` carries (R394). -/
def State.setLimits (f : Nat) (l : Live) (s : State) : State :=
  s.onFunc f fun x => { x with
    limCtx := l.param 12 2, lim1 := l.param 16 4, lim2 := l.param 20 4, lim3 := l.param 24 4 }

/-- A function enters `STARTING` (R390): its registers of BAR2 at their reset values, its open interrupt moderation
ended, any held command released. -/
def State.startFunc (f : Nat) (starters : List (BitVec 32)) (s : State) : State :=
  let s := s.onFunc f fun x => { x with
    state := .starting, queues := List.replicate 8 Queue.reset, tokCons := [], held := none, heldEnable := false
    again := false, stopper := none, starters := starters }
  let s := s.onIc fun ic => (ic.vectors.filter fun p => decide (vectorFunc p.1 = f)).foldl
    (fun ic p => ic.setVec p.1 { p.2 with coalesced := 0, firstAt := 0 }) ic
  if f = 0 then s.onCmd fun c => { c with srHead := 0, srTail := 0 } else s

/-- Function 0 starts again after its function level reset once no other function is stopping (R393). -/
def State.tryPf (s : State) : State :=
  let x := s.func 0
  let others := (s.cmd.funcs.drop 1).all fun y => decide (y.state = .off) || decide (y.state = .wedged)
  if x.state = .off ∧ x.heldEnable ∧ others then s.startFunc 0 [] else s

/-- The held command of a function that has reached `OFF` applies (R390, R393). -/
def State.applyHeldCmd (f : Nat) (s : State) : State :=
  let x := s.func f
  match x.held with
  | some h =>
    if x.heldEnable then
      let s := match s.liveOf h with
        | some l => s.setLimits f l
        | none => s
      s.startFunc f [h]
    else (s.onFunc f fun x => { x with held := none }).complete h stOk 0
  | none => if x.heldEnable ∧ f ≠ 0 then s.startFunc f [] else s

/-- Nothing of a function is left (R391): commands, contexts, pages and, for function 0, transfers of its channels. -/
def State.stopped (s : State) (f : Nat) : Bool :=
  !(s.cmd.live.any fun p => decide (p.2.func.toNat = f)) && decide (s.ctxsOf (BitVec.ofNat 4 f) = []) &&
    [1, 2, 3].all (fun t => decide (s.owned t ownFunction (BitVec.ofNat 28 f) = 0)) &&
    (decide (f ≠ 0) || (List.range 16).all fun c => !(s.hostCh c && decide ((s.dmaCh c).state = 1)))

/-- A function that stops has nothing left and reaches `OFF`; then any held command applies (R390, R391). While
something is left, nothing happens. -/
def execFuncStopComplete (func : BitVec 4) (s : State) : Out :=
  let f := func.toNat
  if (s.func f).state = .stopping ∧ s.stopped f then
    let h := (s.func f).stopper
    -- its queues are out of service (R389)
    let s := (s.onFunc f fun x => { x with
      state := .off, stopper := none
      queues := x.queues.map fun u => { u with enable := false, enabled := false, draining := false } }).raiseCmd 1
    close ((s.completeOpt h stOk 0).applyHeldCmd f).tryPf
  else .next s

/-- A `STARTING` function's set-up completes: it is `ON` (R390), and stops at once where a disable is held, or a function
level reset came (R393). -/
def execFuncSetupDone (func : BitVec 4) (s : State) : Out :=
  let f := func.toNat
  let x := s.func f
  if x.state = .starting then
    let s := (s.onFunc f fun x => { x with state := .on, starters := [] }).raiseCmd 2
    let s := s.completeAll x.starters stOk 0
    if x.held.isNone ∧ !x.again then close s
    else close (((s.onFunc f fun x => { x with held := none, again := false }).stopFunc f x.held).onFunc f fun y =>
      { y with heldEnable := x.again })
  else .next s

/-- A function has been `STOPPING` for 2 s and is `WEDGED` (R392): what can be freed is freed. -/
def execFuncWedgeTimeout (func : BitVec 4) (tick : Nat) (s : State) : Out :=
  let f := func.toNat
  let s := s.at_ tick
  let x := s.func f
  if x.state = .stopping ∧ x.stopAt + 2000000000 ≤ s.uptime then
    let s := s.completeAll (x.stopper.toList ++ x.held.toList) stInternal 0
    let s := s.onFunc f fun x => { x with state := .wedged, stopper := none, held := none, heldEnable := false, again := false }
    let s := (s.ctxsOf func).foldl (fun s n =>
      if (s.slotOf n).isSome ∨ (s.ctx n).state = .moving ∨ s.ctxBusy n then s else s.freeCtx n) (s.raiseHlt 8)
    close s.tryPf
  else .next s

/-! ### Function level reset (R393) -/

/-- The reset of a function clears its MSI-X Enable and Function Mask bits, masks its vectors and drops their pending bits,
as PCIe specifies (R415, assumption 159). -/
def State.msixReset (mine : Nat → Bool) (s : State) : State :=
  let keep (v : BitVec 16) : BitVec 16 := (List.range 16).foldl (fun v f => if mine f then v &&& ~~~ bit 16 f else v) v
  s.onIc fun ic =>
    let ic := { ic with msixEnable := keep ic.msixEnable, msixMask := keep ic.msixMask }
    (ic.vectors.filter fun p => mine (vectorFunc p.1)).foldl
      (fun ic p => ic.setVec p.1 { p.2 with masked := true, pendingBit := false }) ic

/-- A virtual function is reset: a disable with a held enable that no command waits for. Where the function is `STARTING`
both are held until it is `ON`; to a `STOPPING` one it only supplies the held enable; a `WEDGED` one is left as it is (R393). -/
def State.flrVf (f : Nat) (s : State) : State :=
  let u := s.msixReset fun g => decide (g = f)
  match (s.func f).state with
  | .on => (u.stopFunc f none).onFunc f fun x => { x with held := none, heldEnable := true }
  | .starting => u.onFunc f fun x => { x with again := true }
  | .off => u
  | .stopping => if (s.func f).held.isNone then s.onFunc f fun x => { x with heldEnable := true } else s
  | .wedged => s

/-- The physical function is reset: every host channel is aborted (R424), every function stops, and only function 0 starts
again. Where it is `STOPPING` the enable is held and no more is done, where it is `WEDGED` nothing, and a `WEDGED` virtual
function is left as it is (R393). -/
def State.flrPf (s : State) : State :=
  let u := (s.msixReset fun g => decide ((s.func g).state ≠ .wedged)).abortHost
  match (s.func 0).state with
  | .on | .starting =>
    let u := (List.range 16).foldl (fun u f =>
      if (u.func f).state = .on ∨ (u.func f).state = .starting then u.stopFunc f none else u) u
    (u.onFuncs fun x => { x with held := none, heldEnable := false, again := false }).onFunc 0 fun x => { x with
      heldEnable := true }
  | .off => u
  | .stopping => s.abortHost.onFunc 0 fun x => { x with heldEnable := true }
  | .wedged => s

/-- A function level reset arrives (R393). Before stage 0x05 of boot it is answered and nothing else changes (R479). -/
def execFunctionLevelReset (func : BitVec 4) (tick : Nat) (s : State) : Out :=
  if !s.pins.linkUp ∨ s.cfg.inReset then .next s
  else
    let s := (s.at_ tick).raiseCmd 3
    close (if func = 0 then s.flrPf else s.flrVf func.toNat)

/-! ### Function commands (R390, R394) -/

/-- A function command with its target: 1 to 15, else it is refused (R394). -/
def funcCommand (op : BitVec 8) (handle : BitVec 32) (body : Live → Nat → State → State) (s : State) : Out :=
  carry op false handle (fun l s =>
    let f := l.param 8 1
    if f < 1 ∨ 15 < f then s.complete handle stBadParam 8 else body l f s) s

/-- A function command is held, unless another is (R390). -/
def State.hold (f : Nat) (handle : BitVec 32) (enable : Bool) (s : State) : State :=
  let x := s.func f
  if x.held.isSome ∨ x.heldEnable ∨ x.again then s.complete handle stBusy 0
  else (s.working handle).onFunc f fun x => { x with held := some handle, heldEnable := enable }

/-- `FUNC_ENABLE` (R390, R394). -/
def execFuncEnable (handle : BitVec 32) (s : State) : Out :=
  funcCommand 0xC0 handle (fun l f s =>
    match (s.func f).state with
    | .off => ((s.working handle).setLimits f l).startFunc f [handle]
    | .starting => ((s.working handle).setLimits f l).onFunc f fun x => { x with starters := x.starters ++ [handle] }
    | .on => (s.setLimits f l).complete handle stOk 0
    | .stopping => s.hold f handle true
    | .wedged => s.complete handle stNotAllowed 0) s

/-- `FUNC_DISABLE` (R390, R394). -/
def execFuncDisable (handle : BitVec 32) (s : State) : Out :=
  funcCommand 0xC1 handle (fun _ f s =>
    match (s.func f).state with
    | .off => s.complete handle stOk 0
    | .starting | .stopping => s.hold f handle false
    | .on => (s.working handle).stopFunc f (some handle)
    | .wedged => s.complete handle stNotAllowed 0) s

/-- `FUNC_STATUS` (R394): a virtual function may query only itself. -/
def execFuncStatus (handle : BitVec 32) (s : State) : Out :=
  carry 0xC2 true handle (fun l s =>
    let f := l.param 8 1
    if 15 < f ∨ (l.func ≠ 0 ∧ l.func.toNat ≠ f) then s.complete handle stBadParam 8
    else
      let x := s.func f
      let live := (s.cmd.live.filter fun p => decide (p.2.func.toNat = f)).length
      s.complete handle stOk (BitVec.ofNat 32
        (x.state.code + (if x.held.isSome ∨ x.heldEnable ∨ x.again then 16 else 0) + 65536 * min 65535 live))) s

/-! ### The host link (R353, R359, R470, R483) -/

/-- The host link goes down: the chip withdraws, and every function is reset as by a function level reset (R353). That of
function 0 resets them all; where it is `WEDGED`, which no reset leaves, each virtual function is reset by itself. -/
def State.linkDown (s : State) : State :=
  if s.pins.linkUp then
    let s := s.onPins fun p => { p with linkUp := false }
    let s := if s.clocked 7 then (s.onHlt fun h => { h with linkFell := true }).raiseHlt 9 else s
    let s := if s.unarmed then s else s.withdraw
    let s := s.signal 46 false
    if (s.func 0).state = .wedged then ((List.range 16).drop 1).foldl (fun s f => s.flrVf f) s else s.flrPf
  else s

/-- `PCIE_LINK_DOWN` (R353). -/
def execPcieLinkDown (s : State) : Out := close s.linkDown

/-- The host link trains (R458): from stage 0x02 of boot on, while `HOST_PERST_N` is high and no quiesce or thermal trip
holds it down; a return is counted (R359). -/
def State.linkRise (s : State) : State :=
  if s.pins.linkUp ∨ !s.pins.perstN ∨ s.cfg.inPulse ∨ s.cfg.stage.toNat < 2 ∨ !s.pins.powered ∨ !s.pins.resetN ∨
      s.hlt.pwrfail ∨ !s.pins.thermtripN then s
  else
    let s := s.onPins fun p => { p with linkUp := true }
    let s := if s.hlt.linkFell then s.onHlt fun h => { h with linkFell := false, linkDown := satInc h.linkDown } else s
    s.signal 46 true

/-- `PCIE_LINK_UP` (R359). -/
def execPcieLinkUp (s : State) : Out := close s.linkRise

/-- `HOST_PERST_N` falls or rises (R483): low holds the link down; when it rises the link trains again, and
`PCIE_LINK_UP` says when it is up. -/
def execHostPerst (high : Bool) (s : State) : Out :=
  let s := s.onPins fun p => { p with perstN := high }
  close (if high then s else s.linkDown)

/-- A PCIe configuration request is answered: with Request Retry Status until stage 0x05 of boot, and never because of
a function level reset (R393, R470). Its answer says whether it was to be retried; one that is not, and that writes the
MSI-X Message Control of its function, puts that in force (R415, assumption 159). -/
def execPcieConfigRequest (req : ConfigRequest) (s : State) : Out :=
  if s.pins.linkUp then
    let retry := s.cfg.inReset && decide (s.cfg.error = 0)
    let s := s.onHost fun h => { h with aborted := false, answer := none, answerBytes := [flag 8 0 retry] }
    match req.control with
    | some c => finish (if retry then s else s.msixControl req.func c)
    | none => finish s
  else .next s

end Sys2Proof.Machine
end

