-- ==== Sys2Proof/Machine/Regs.lean ====
section
/-!
DEFINITION. The register space (R397 to R401): the value of every register, what a read clears and latches (R400), what
a write does, and when an access is a bus error (R398, R399).
-/
namespace Sys2Proof.Machine

/-! ### The block map (R401) -/

/-- The blocks of the register space. -/
inductive Block where
  | sys | cad | grid | arith | cyl | mem | wgt | srv | cmd | hlt | fab | pwr | rst | ic | dma | mgt | msix
  deriving DecidableEq, Repr

/-- Base and size of each block (R401). -/
def blockMap : List (Nat × Nat × Block) :=
  [(0x0000, 0x1000, .sys), (0x1000, 0x100, .cad), (0x1100, 0x100, .grid), (0x1200, 0x40, .arith), (0x1240, 0x40, .cyl),
   (0x1280, 0x40, .mem), (0x12C0, 0x40, .wgt), (0x1300, 0x40, .srv), (0x1340, 0x40, .cmd), (0x1380, 0x40, .hlt),
   (0x1400, 0x80, .fab), (0x2000, 0x1000, .pwr), (0x3000, 0x1000, .rst), (0x10000, 0x10000, .ic),
   (0x20000, 0x1000, .dma), (0x21000, 0x1000, .mgt), (0x3FF0000, 0x10000, .msix)]

/-- The block at an offset, and the offset within it. -/
def blockAt (off : Nat) : Option (Block × Nat) :=
  (blockMap.find? fun x => decide (x.1 ≤ off) && decide (off < x.1 + x.2.1)).map fun x => (x.2.2, off - x.1)

/-- The clock enable of a block (R401, R406); none for a block that is always on. -/
def Block.clock : Block → Option Nat
  | .cad => some 0
  | .grid => some 1
  | .arith => some 1
  | .cyl => some 2
  | .mem => some 3
  | .wgt => some 4
  | .srv => some 5
  | .fab => some 6
  | .hlt => some 7
  | .cmd => some 8
  | .dma => some 9
  | _ => none

/-- A register value made of fields: (lowest bit, width, value). -/
def fields (l : List (Nat × Nat × Nat)) : BitVec 32 := l.foldl (fun v x => v ||| put 32 x.1 x.2.1 x.2.2) 0

/-- The low and high words of a 64-bit register. -/
def lo32 (v : BitVec 64) : BitVec 32 := v.extractLsb' 0 32
/-- The high word of a 64-bit register. -/
def hi32 (v : BitVec 64) : BitVec 32 := v.extractLsb' 32 32
/-- A 64-bit register with its low word written. -/
def setLo (v : BitVec 64) (x : BitVec 32) : BitVec 64 := hi32 v ++ x
/-- A 64-bit register with its high word written. -/
def setHi (v : BitVec 64) (x : BitVec 32) : BitVec 64 := x ++ lo32 v

/-- One bit of a field list. -/
def bitOf (b : Bool) : Nat := if b then 1 else 0

/-! ### Register values -/

/-- The system control block (R405, R406). -/
def State.readSys (s : State) (o : Nat) : Option (BitVec 32) :=
  match o with
  | 0x00 => some 0x720000B0
  | 0x04 => some (s.sys.clkEn.setWidth 32)
  | 0x08 => some (s.sys.lock.value.setWidth 32)
  | 0x0C => some s.sys.voteFix
  | 0x10 => some (s.sys.errAddr.setWidth 32)
  | 0x14 => some s.sys.errInfo
  | 0x18 => some s.sys.events
  | 0x1C => some s.sys.scratch
  | _ => none

/-- Code of a cadence state (R35). -/
def CadState.code : CadState → Nat
  | .unarmed => 0
  | .acquiring => 1
  | .locked => 2
  | .slewing => 3
  | .holdover => 4
  | .leader => 5
  | .follower => 6

/-- `CAD_LEADER` (R39). -/
def State.cadLeader (s : State) : BitVec 32 :=
  match s.cad.state, s.cad.leader with
  | .leader, _ => s.fab.chip.setWidth 32 ||| bit 32 31
  | .follower, some c => c.setWidth 32 ||| bit 32 31
  | .holdover, some c => c.setWidth 32 ||| bit 32 30
  | _, _ => 0

/-- The cadence block (R39, R40); the words of latched pairs are live here. -/
def State.readCad (s : State) (o : Nat) : Option (BitVec 32) :=
  let c := s.cad
  match o with
  | 0x00 => some (lo32 c.tb)
  | 0x04 => some (hi32 c.tb)
  | 0x08 => some (lo32 c.step)
  | 0x0C => some (hi32 c.step)
  | 0x10 => some (BitVec.ofNat 32 c.next)
  | 0x14 => some (BitVec.ofNat 32 (c.next / 2 ^ 32))
  | 0x18 => some (c.period.value.setWidth 32)
  | 0x1C => some (c.window.value.setWidth 32)
  | 0x20 => some (fields [(0, 1, bitOf c.source), (1, 1, bitOf c.inputEnable), (2, 1, bitOf c.leaderEnable)])
  | 0x24 => some (fields [(0, 4, c.state.code), (8, 5, c.misses), (16, 8, c.holdSteps.toNat), (24, 3, c.returnRun)])
  | 0x28 => some c.offset
  | 0x2C => some c.rejects
  | 0x30 => some c.missCount
  | 0x34 => some c.overruns
  | 0x38 => some c.events
  | 0x3C => some s.cadLeader
  | 0x40 => some (c.pinDelay.setWidth 32)
  | 0x44 => some (lo32 c.armTick)
  | 0x48 => some (hi32 c.armTick)
  | 0x4C => some (lo32 c.tbLoad)
  | 0x50 => some (hi32 c.tbLoad)
  | _ => none

/-- Entries not 0x3F of the fence map (R75). -/
def State.fencedCount (s : State) : Nat := (s.grid.fence.value.filter fun e => decide (e ≠ 0x3F)).length

/-- Four entries of a map in one register (R75). -/
def fourRows (m : List (BitVec 6)) (i : Nat) : BitVec 32 :=
  fields ((List.range 4).map fun k => (8 * k, 6, (m.getD (4 * i + k) 0x3F).toNat))

/-- The physical cell that `GRID_CELL_SEL` selects (R75). -/
def State.selected (s : State) : Nat :=
  s.grid.selRow.toNat * 66 + (if s.grid.selDie then 33 else 0) + s.grid.selCol.toNat

/-- The logical column that a physical column of a row of a die hosts under a fence entry (R63). -/
def hostedColumn (entry : BitVec 6) (p : Nat) : Option Nat :=
  if entry.toNat < 32 then
    (if p < entry.toNat then some p else if p = entry.toNat then none else some (p - 1))
  else if p < 32 then some p else none

/-- The fence entry of the selected cell's row and die. -/
def State.selEntry (s : State) : BitVec 6 :=
  s.grid.fence.value.getD (s.grid.selRow.toNat + (if s.grid.selDie then 24 else 0)) 0x3F

/-- `CELL_STATUS` (R75). -/
def State.cellStatus (s : State) : BitVec 32 :=
  let e := s.selEntry
  let p := s.grid.selCol.toNat
  let fenced := decide (e.toNat = p)
  let host := hostedColumn e p
  let logical := match host with
    | some c => c + (if s.grid.selDie then 32 else 0)
    | none => 0xFF
  fields [(0, 1, bitOf fenced), (1, 1, bitOf (host.isNone && !fenced)), (8, 8, logical)]

/-- Number of the fence entry of a row of a die. -/
def entryOfRow (row : Nat) (die : Bool) : Nat := 24 * (if die then 1 else 0) + row

/-- Number of the fence entry of the row of a die in which a physical cell lies. -/
def entryOfPhys (k : Nat) : Nat := 24 * (k % 66 / 33) + k / 66

/-- The entry that fences a physical column (R63): 0x20 for the jack. -/
def fenceEntryOf (col : Nat) : BitVec 6 := BitVec.ofNat 6 (min col 32)

/-- The number of cells of a row of a die that fall due for an automatic fence (R67). -/
def dueIn (due : List Nat) (e : Nat) : Nat := (due.filter fun k => decide (entryOfPhys k = e)).length

/-- The physical cells charged in the step in progress that the boundary that closes it fences (R65). -/
def State.dueAhead (s : State) : List Nat :=
  s.step.charged.filter fun k => (s.phys k).lastCharge.any fun b => decide (s.step.boundaries + 1 - b < 1024)

/-- A row's entry after one fence or unfence command (R66, R67, R70): `due` automatic fences of the row exhaust it. -/
def Live.entryAfter (l : Live) (due : Nat) (v : BitVec 6) : BitVec 6 :=
  let x := fenceEntryOf (l.param 10 1)
  if l.opcode = 0xA0 then (if v = 0x3F ∧ due ≤ 1 then x else v)
  else if v = x then 0x3F else v

/-- A row's entry after the actions that the next phase 4 will carry out on it as things stand: its automatic fence, then
the commands that wait, in order of acceptance (R66). -/
def State.entryAhead (e : Nat) (s : State) : BitVec 6 :=
  let old := s.grid.fence.value.getD e 0x3F
  let due := s.dueAhead.filter fun k => decide (entryOfPhys k = e)
  let start := match due with
    | [k] => if old = 0x3F then fenceEntryOf (k % 33) else old
    | _ => old
  (s.liveHandles.filterMap s.liveOf).foldl (fun v l =>
    if l.phase = .boundary ∧ (l.opcode = 0xA0 ∨ l.opcode = 0xA1) ∧
        entryOfRow (l.param 8 1) (decide (l.param 9 1 = 1)) = e then
      l.entryAfter due.length v
    else v) start

/-- What `GRID_PEND` reads (R66, R75): the entries written under the override, and without it also the entry that phase 4
will give a row, as things stand. An unfence leaves a row without an entry, so none shows (DEDUCED, assumption 157). -/
def State.pendView (s : State) : List (BitVec 6) :=
  if s.grid.override then s.grid.pend
  else s.grid.pend.mapIdx fun e v =>
    if v ≠ 0x3F then v
    else if s.entryAhead e = s.grid.fence.value.getD e 0x3F then 0x3F else s.entryAhead e

/-- The grid control block (R74, R75). -/
def State.readGrid (s : State) (o : Nat) : Option (BitVec 32) :=
  let g := s.grid
  let c := s.phys s.selected
  if 0x10 ≤ o ∧ o < 0x40 then some (fourRows g.fence.value ((o - 0x10) / 4))
  else if 0x40 ≤ o ∧ o < 0x70 then some (fourRows s.pendView ((o - 0x40) / 4))
  else match o with
    | 0x00 => some 0x00214018
    | 0x04 => some (flag 32 0 g.override)
    | 0x08 => some (flag 32 0 (s.sys.lock.value.getLsbD 2))
    | 0x0C => some (fields [(0, 1, bitOf g.repairActive), (1, 1, bitOf g.rowExhausted), (8, 8, s.fencedCount)])
    | 0x70 => some g.voteFix
    | 0x74 => some g.repairCyc
    | 0x78 => some g.events
    | 0x7C => some g.bridgeErr
    | 0x80 => some (fields [(0, 5, g.selRow.toNat), (5, 1, bitOf g.selDie), (8, 6, g.selCol.toNat)])
    | 0x84 => some s.cellStatus
    | 0x88 => some (c.flags.setWidth 32)
    | 0x8C => some (match c.lastCharge with
      | none => 0xFFFF
      | some b => BitVec.ofNat 32 (min 0xFFFF (s.step.boundaries - b)))
    | 0x90 => some (c.eccSlot ++ c.eccSram)
    | 0x94 => some (c.fltCharges ++ c.fltBarrier ++ c.fltSteering ++ c.fltChecksum)
    | _ => none

/-- The selected tracker of the selected cell; that of a fenced cell or a jack in standby reads 0 (R105). -/
def State.selTracker (s : State) : Tracker :=
  if (hostedColumn s.selEntry s.grid.selCol.toNat).isNone then Tracker.reset
  else Sparse.get Tracker.reset (s.phys s.selected).trackers s.arith.trkSel.toNat

/-- The arithmetic block (R105, R106). -/
def State.readArith (s : State) (o : Nat) : Option (BitVec 32) :=
  let t := s.selTracker
  match o with
  | 0x00 => some (flag 32 0 s.arith.scaleLock)
  | 0x04 => some (flag 32 0 s.arith.lockInForce)
  | 0x08 => some (s.arith.trkSel.setWidth 32)
  | 0x0C => some (fields [(0, 8, (intBits 8 t.e).toNat), (8, 8, t.low), (16, 8, t.hold), (24, 7, t.fmt.toNat),
      (31, 1, bitOf t.locked)])
  | 0x10 => some t.amaxLast
  | 0x14 => some (t.misses.setWidth 32)
  | 0x18 => some s.arith.events
  | _ => none

/-- The cylinder block (R159, R160). -/
def State.readCyl (s : State) (o : Nat) : Option (BitVec 32) :=
  let c := s.cyl
  let id (st : CylStatus) : BitVec 32 := ((s.cylOf st).map (·.id)).getD 0xFFFFFFFF
  match o with
  | 0x00 => some (fields [(0, 2, c.drain.toNat), (2, 4, c.epoch.toNat), (6, 1, bitOf c.bank),
      (7, 1, bitOf c.staging.isSome), (8, 1, bitOf s.switchPending), (9, 1, bitOf c.fillActive), (12, 4, c.known.length)])
  | 0x04 => some (id .active)
  | 0x08 => some (id .verified)
  | 0x0C => some (if (s.cylOf .active).isSome then BitVec.ofNat 32 (imgHeader s.active).budget else 0)
  | 0x10 => some c.stageCyc
  | 0x14 => some c.fillCyc
  | 0x18 => some c.epochDisc
  | 0x1C => some c.lastCheck
  | 0x20 => some c.events
  | _ => none

/-- `MEM_RATIO` (R234): view bytes over stored bytes, 8.8, the fraction cut off; 1.0 with nothing stored. -/
def State.memRatio (s : State) : BitVec 32 :=
  let live := s.mem.dir2.filter fun x => decide (x.2.state ≠ .free) && decide (x.2.stored ≠ 0)
  let stored := (live.map fun x => x.2.stored.toNat).foldl (· + ·) 0
  if stored = 0 then 0x100 else BitVec.ofNat 32 (min 0xFFFF (live.length * pageBytes * 256 / stored))

/-- The memory block (R234, R235). -/
def State.readMem (s : State) (o : Nat) : Option (BitVec 32) :=
  let m := s.mem
  match o with
  | 0x00 => some (fields [(0, 1, bitOf m.writeBack), (1, 1, bitOf m.converting), (2, 1, bitOf m.retained),
      (3, 1, bitOf m.mounted), (4, 4, m.members.toNat), (8, 12, m.channels.toNat), (20, 8, m.hbmStacks.toNat)])
  | 0x04 => some (BitVec.ofNat 32 (s.freePages 1))
  | 0x08 => some (BitVec.ofNat 32 (s.freePages 2))
  | 0x0C => some (BitVec.ofNat 32 (s.freePages 3))
  | 0x10 => some (fields [(0, 16, min 65535 m.moves.length), (16, 16, min 65535 m.remotes.length)])
  | 0x14 => some m.spills
  | 0x18 => some m.eccT1
  | 0x1C => some m.eccT2
  | 0x20 => some (m.lostPages ++ m.ueReads)
  | 0x24 => some s.memRatio
  | 0x28 => some (BitVec.ofNat 32 s.dirtyShadows.length)
  | 0x2C => some m.events
  | _ => none

/-- The weights block (R267, R268). -/
def State.readWgt (s : State) (o : Nat) : Option (BitVec 32) :=
  let w := s.wgt
  let held (a : Bool) : Nat := (w.models.filter fun m => decide (m.adapter = a) && decide (m.state ≠ .pendingRoom)).length
  match o with
  | 0x00 => some (fields [(0, 9, held false), (9, 11, held true), (20, 4, w.flight.length),
      (24, 1, bitOf (w.models.any fun m => decide (m.scrubLeft ≠ []) || decide (m.scrubSkipped ≠ [])))])
  | 0x04 => some (BitVec.ofNat 32 (min (2 ^ 32 - 1) (w.ingestBytes / 1048576)))
  | 0x08 => some (lo32 w.scrubDef)
  | 0x0C => some (hi32 w.scrubDef)
  | 0x10 => some (w.missing ++ w.rejected)
  | 0x14 => some (w.skipped ++ w.mismatch)
  | 0x18 => some (w.flags.setWidth 32)
  | 0x1C => some (BitVec.ofNat 32 (w.models.filter fun m => decide (m.state = .pendingRoom)).length)
  | 0x20 => some w.events
  | _ => none

/-- The serving block (R306, R307). -/
def State.readSrv (s : State) (o : Nat) : Option (BitVec 32) :=
  let v := s.srv
  match o with
  | 0x00 => some (fields [(0, 11, s.openCtxs.length), (11, 9, v.slots.length), (20, 1, bitOf s.hostFormed),
      (21, 1, bitOf s.isServing), (22, 1, bitOf s.isStage0)])
  | 0x04 => some v.joins
  | 0x08 => some v.leaves
  | 0x0C => some (v.preempts ++ v.movesFb)
  | 0x10 => some (v.waitsPages ++ v.waitsRing)
  | 0x14 => some (v.expired ++ v.toTier3)
  | 0x18 => some v.misses
  | 0x1C => some v.events
  | _ => none

/-- The command block (R395, R396). -/
def State.readCmd (s : State) (o : Nat) : Option (BitVec 32) :=
  let states (b : Nat) : BitVec 32 := fields ((List.range 8).map fun i => (4 * i, 4, (s.func (b + i)).state.code))
  match o with
  | 0x00 => some (states 0)
  | 0x04 => some (states 8)
  | 0x08 => some (fields ((List.range 16).map fun f =>
      (f, 1, bitOf ((s.func f).held.isSome || (s.func f).heldEnable || (s.func f).again))))
  | 0x0C => some (BitVec.ofNat 32 s.cmd.live.length)
  | 0x10 => some s.cmd.refused
  | 0x14 => some (s.cmd.acceptMax.setWidth 32)
  | 0x18 => some s.cmd.events
  | _ => none

/-- The health block (R360, R361). -/
def State.readHlt (s : State) (o : Nat) : Option (BitVec 32) :=
  let h := s.hlt
  match o with
  | 0x00 => some (fields [(0, 1, bitOf h.stalled), (1, 1, bitOf h.peerLost), (2, 1, bitOf h.withdrawn),
      (3, 1, bitOf h.halted), (8, 7, h.lost.length)])
  | 0x04 => some h.voids
  | 0x08 => some h.skips
  | 0x0C => some (h.replayMax ++ BitVec.ofNat 16 (min 65535 s.step.replay))
  | 0x10 => some h.lastLost
  | 0x14 => some (h.haltCause.setWidth 32)
  | 0x18 => some h.events
  | _ => none

/-- The fabric block (R340, R341). -/
def State.readFab (s : State) (o : Nat) : Option (BitVec 32) :=
  let f := s.fab
  let p := f.ports.getD f.portSel.toNat Port.reset
  let ups := (List.range 16).map fun i => (i, 1, bitOf (s.portUp i))
  match o with
  | 0x00 => some 0x00000810
  | 0x04 => some (fields ups ||| (f.planesInUse ++ (0 : BitVec 16)))
  | 0x08 => some (f.mask.value.setWidth 32)
  | 0x0C => some (fields [(0, 12, f.chip.toNat), (16, 3, f.groups.length)])
  | 0x10 => some (lo32 s.capacity)
  | 0x14 => some (hi32 s.capacity)
  | 0x18 => some f.slotLost
  | 0x1C => some f.frameErr
  | 0x20 => some f.remoteErr
  | 0x24 => some f.mgmtDrop
  | 0x28 => some (f.portSel.setWidth 32)
  | 0x2C => some (fields [(0, 4, p.state.code), (4, 4, p.width), (8, 8, p.lanes.toNat), (16, 8, p.failed.toNat),
      (24, 2, p.attempts.toNat)])
  | 0x30 => some p.delay
  | 0x34 => some p.corr
  | 0x38 => some p.uncorr
  | 0x3C => some (fields [(0, 8, p.plane.toNat), (8, 16, p.switchPort.toNat)])
  | 0x40 => some f.events
  | _ => none

/-- The power, clocks and calibration block (R456, R457). -/
def State.readPwr (s : State) (o : Nat) : Option (BitVec 32) :=
  let p := s.pwr
  let level (east : Bool) : Nat := match p.cal with
    | some c => if (c.die east).named && !(c.die east).ended then (c.die east).level else 0
    | none => 0
  match o with
  | 0x00 => some 0x00000208
  | 0x04 => some (fields [(0, 3, p.floor.value.toNat), (8, 3, p.ceiling.value.toNat)])
  | 0x08 => some (p.opReq.setWidth 32)
  | 0x0C => some (fields [(0, 3, p.inForce.toNat), (4, 3, s.target.toNat), (8, 1, bitOf s.opReady),
      (9, 1, bitOf p.transition.isSome), (10, 1, bitOf p.activeB), (11, 1, bitOf p.skipping), (12, 3, p.cap.toNat)])
  | 0x10 => some (BitVec.ofNat 16 p.voltE ++ BitVec.ofNat 16 p.voltW)
  | 0x14 => some p.curW
  | 0x18 => some p.curE
  | 0x1C => some p.power
  | 0x20 => some (intBits 16 p.junctionMin ++ intBits 16 p.junctionMax)
  | 0x24 => some (fields [(0, 8, p.thermDown.toNat), (8, 8, p.thermUp.toNat)])
  | 0x28 => some (p.limit.setWidth 32)
  | 0x2C => some p.stretch
  | 0x30 => some (p.tripsE ++ p.tripsW)
  | 0x34 => some (p.clk.setWidth 32)
  | 0x38 => some (fields [(0, 2, p.calState.toNat), (2, 3, p.calOp.toNat), (5, 2, p.calDies.toNat), (8, 12, level false),
      (20, 12, level true)])
  | 0x3C => some (p.guards.setWidth 32)
  | 0x40 => some (p.vrErrE ++ p.vrErrW)
  | 0x44 => some p.events
  | _ => none

/-- The reset and configuration block (R480, R481). -/
def State.readRst (s : State) (o : Nat) : Option (BitVec 32) :=
  let c := s.cfg
  match o with
  | 0x00 => some (fields [(0, 4, c.cause.toNat), (4, 1, bitOf c.retainReq), (5, 1, bitOf c.retainedBit),
      (6, 1, bitOf c.tripLatched)])
  | 0x04 => some (flag 32 1 c.retain)
  | 0x08 => some (c.strap.setWidth 32)
  | 0x0C => some (fields [(0, 8, c.stage.toNat), (8, 8, c.error.toNat), (16, 1, bitOf c.slotB), (17, 1, bitOf c.fallback)])
  | 0x10 => some c.fwVersion
  | 0x14 => some (c.bootTime.setWidth 32)
  | 0x18 => some (fields [(0, 1, bitOf c.block.isSome), (1, 1, bitOf c.commit.isSome), (8, 16, c.written.toNat)])
  | 0x1C => some c.lastRefuse
  | 0x20 => some (if c.block.isSome then BitVec.ofNat 32 (s.cfgField 12 4) else 0)
  | 0x24 => some c.events
  | _ => none

/-- The interrupt controller (R418, R419), but for the claim registers. -/
def State.readIc (s : State) (o : Nat) : Option (BitVec 32) :=
  let ic := s.ic
  let bells (b n : Nat) : BitVec 32 := fields ((List.range n).map fun i => (i, 1, bitOf (ic.src (b + i)).pending))
  let mod (count : BitVec 8) (time : BitVec 16) : BitVec 32 := fields [(0, 8, count.toNat), (8, 16, time.toNat)]
  let tgt (t : Nat) : Target := ic.targets.getD t Target.reset
  if 0x20 ≤ o ∧ o < 0x34 then (let g := tgt ((o - 0x20) / 4); some (mod g.count g.time))
  else if 0x60 ≤ o ∧ o < 0x74 then some (tgt ((o - 0x60) / 4)).complete
  else if 0x80 ≤ o ∧ o < 0x94 then some ((tgt ((o - 0x80) / 4)).notice.setWidth 32)
  else if 0x100 ≤ o ∧ o < 0x180 then some (ic.pendWord ((o - 0x100) / 4) &&& srcBits ((o - 0x100) / 4))
  else if 0x200 ≤ o ∧ o < 0x280 then some (Sparse.get 0 ic.enables ((o - 0x200) / 4))
  else if 0x1004 ≤ o ∧ o ≤ 0x1000 + 4 * 1019 then
    (let c := ic.src ((o - 0x1000) / 4)
     some (fields [(0, 3, c.sense.toNat), (3, 1, bitOf c.scan), (4, 6, c.targets.toNat), (10, 1, bitOf c.storm),
       (16, 11, c.window), (27, 1, bitOf c.inService.isSome), (28, 3, c.inService.getD 0), (31, 1, bitOf c.pending)]))
  else if 0x2004 ≤ o ∧ o ≤ 0x2000 + 4 * 1019 then some (Sparse.get 0 ic.gwMap ((o - 0x2000) / 4))
  else if 0x4000 ≤ o ∧ o < 0x6000 then (let v := ic.vec ((o - 0x4000) / 4); some (mod v.count v.time))
  else match o with
    | 0x00 => some 0x000603BF
    | 0x04 => some ic.events
    | 0x08 => some ic.stormSrc
    | 0x0C => some ic.stormCount
    | 0x10 => some (bells 960 32)
    | 0x14 => some (bells 992 28)
    | 0xA0 => some ic.gwAck
    | 0xA4 => some ic.badComplete
    | _ => none

/-- The utility DMA block (R425, R426). -/
def State.readDma (s : State) (o : Nat) : Option (BitVec 32) :=
  if o < 0x400 then
    let x := s.dmaCh (o / 64)
    match o % 64 with
    | 0x00 => some (lo32 x.src)
    | 0x04 => some (hi32 x.src)
    | 0x08 => some (lo32 x.dst)
    | 0x0C => some (hi32 x.dst)
    | 0x10 => some x.count
    | 0x14 => some (fields [(0, 1, bitOf x.go), (1, 1, bitOf x.abort), (2, 2, x.swap.toNat), (4, 1, bitOf x.irq)])
    | 0x18 => some (fields [(0, 3, x.state.toNat), (4, 4, x.code.toNat)])
    | 0x1C => some x.done
    | 0x20 => some (lo32 x.err)
    | 0x24 => some (hi32 x.err)
    | _ => none
  else match o with
    | 0x400 => some (s.dma.owner.setWidth 32)
    | 0x404 => some (s.dma.events.setWidth 32)
    | 0x408 => some (fields ((List.range 16).map fun c => (c, 1, bitOf (decide ((s.dmaCh c).state = 1)))))
    | _ => none

/-- The management cores block (R430). -/
def State.readMgt (s : State) (o : Nat) : Option (BitVec 32) :=
  let m := s.mgt
  if 0x04 ≤ o ∧ o < 0x18 then some (m.beats.getD ((o - 4) / 4) 0)
  else if 0x24 ≤ o ∧ o < 0x38 then some ((m.gwin.getD ((o - 0x24) / 4) 0).setWidth 32)
  else match o with
    | 0x00 => some 0x00000014
    | 0x18 => some (fields ((List.range 5).map fun c => (4 * c, 4, (m.silent.getD c 0).toNat)))
    | 0x1C => some (fields ((List.range 5).map fun c => (3 * c, 3, (m.coreState.getD c 0).toNat)))
    | 0x20 => some m.fwFloor
    | 0x38 => some m.events
    | 0x3C => some 0
    | _ => none

/-- The MSI-X table and pending-bit array of a function with `n` vectors, the first of them `base` (R415). -/
def State.readMsix (s : State) (base n o : Nat) : Option (BitVec 32) :=
  if o < 16 * n then
    let v := s.ic.vec (base + o / 16)
    match o % 16 / 4 with
    | 0 => some (lo32 v.addr)
    | 1 => some (hi32 v.addr)
    | 2 => some v.data
    | _ => some (flag 32 0 v.masked)
  else if 0x8000 ≤ o ∧ o < 0x8000 + n / 8 then
    some (fields ((List.range 32).map fun i => (i, 1, bitOf (s.ic.vec (base + (o - 0x8000) * 8 + i)).pendingBit)))
  else none

/-- The value of a register of a block; none at a reserved offset. The claim registers read through `claim`. -/
def State.readBlock (s : State) (b : Block) (o : Nat) : Option (BitVec 32) :=
  match b with
  | .sys => s.readSys o
  | .cad => s.readCad o
  | .grid => s.readGrid o
  | .arith => s.readArith o
  | .cyl => s.readCyl o
  | .mem => s.readMem o
  | .wgt => s.readWgt o
  | .srv => s.readSrv o
  | .cmd => s.readCmd o
  | .hlt => s.readHlt o
  | .fab => s.readFab o
  | .pwr => s.readPwr o
  | .rst => s.readRst o
  | .ic => if 0x40 ≤ o ∧ o < 0x54 then some 0 else s.readIc o
  | .dma => s.readDma o
  | .mgt => s.readMgt o
  | .msix => s.readMsix 0 1024 o

/-- BAR0 of a virtual function: its MSI-X table (R397, R415). An offset of it that holds neither the table nor the
pending-bit array reads 0 (DESIGN CHOICE, assumption 159). -/
def State.readVf (s : State) (f o : Nat) : BitVec 32 := (s.readMsix (globalVector f 0) 64 o).getD 0

/-- A register of BAR2 of a function (R362, R363). -/
def State.readBar2 (s : State) (f o : Nat) : Option (BitVec 32) :=
  let x := s.func f
  if 0x1000 ≤ o ∧ o < 0x2000 then some (Sparse.get 0 x.tokCons ((o - 0x1000) / 4))
  else if o < 0x800 then
    let u := x.queue (o / 256)
    match o % 256 with
    | 0x00 => some (lo32 u.cmdBase)
    | 0x04 => some (hi32 u.cmdBase)
    | 0x08 => some (lo32 u.rspBase)
    | 0x0C => some (hi32 u.rspBase)
    | 0x10 => some (fields [(0, 1, bitOf u.enable), (8, 5, u.cmdOrder.toNat), (16, 5, u.rspOrder.toNat)])
    | 0x14 => some (fields [(0, 11, u.vector.toNat), (31, 1, bitOf u.noVector)])
    | 0x18 => some u.cmdTail
    | 0x1C => some u.rspHead
    | 0x20 => some u.cmdHead
    | 0x24 => some u.rspTail
    | 0x28 => some (fields [(0, 1, bitOf u.enabled), (1, 1, bitOf u.draining), (2, 1, bitOf u.fault),
        (3, 1, bitOf u.orderedWait), (4, 1, bitOf u.noRoom), (16, 16, min 65535 u.pending)])
    | _ => none
  else if f = 0 ∧ o = 0x800 then some s.cmd.srHead
  else if f = 0 ∧ o = 0x804 then some s.cmd.srTail
  else none

/-! ### What a read does (R400, R411, R413) -/

/-- A read clears the `RC` register at an offset of a block (R5). -/
def State.clearRead (b : Block) (o : Nat) (s : State) : State :=
  match b, o with
  | .sys, 0x0C => s.onSys fun g => { g with voteFix := 0 }
  | .sys, 0x14 => s.onSys fun g => { g with errInfo := 0 }
  | .sys, 0x18 => s.onSys fun g => { g with events := 0 }
  | .cad, 0x2C => s.onCad fun g => { g with rejects := 0 }
  | .cad, 0x30 => s.onCad fun g => { g with missCount := 0 }
  | .cad, 0x34 => s.onCad fun g => { g with overruns := 0 }
  | .cad, 0x38 => s.onCad fun g => { g with events := 0 }
  | .grid, 0x70 => s.onGrid fun g => { g with voteFix := 0 }
  | .grid, 0x78 => s.onGrid fun g => { g with events := 0 }
  | .grid, 0x7C => s.onGrid fun g => { g with bridgeErr := 0 }
  | .grid, 0x88 => s.onPhys s.selected fun c => { c with flags := 0 }
  | .grid, 0x90 => s.onPhys s.selected fun c => { c with eccSram := 0, eccSlot := 0 }
  | .grid, 0x94 => s.onPhys s.selected fun c => { c with
      fltChecksum := 0, fltSteering := 0, fltBarrier := 0, fltCharges := 0 }
  | .arith, 0x14 =>
    if (hostedColumn s.selEntry s.grid.selCol.toNat).isNone then s
    else s.onPhys s.selected fun c => { c with
      trackers := Sparse.modify Tracker.reset c.trackers s.arith.trkSel.toNat fun t => { t with misses := 0 } }
  | .arith, 0x18 => s.onArith fun g => { g with events := 0 }
  | .cyl, 0x18 => s.onCyl fun g => { g with epochDisc := 0 }
  | .cyl, 0x20 => s.onCyl fun g => { g with events := 0 }
  | .mem, 0x14 => s.onMem fun g => { g with spills := 0 }
  | .mem, 0x18 => s.onMem fun g => { g with eccT1 := 0 }
  | .mem, 0x1C => s.onMem fun g => { g with eccT2 := 0 }
  | .mem, 0x20 => s.onMem fun g => { g with ueReads := 0, lostPages := 0 }
  | .mem, 0x2C => s.onMem fun g => { g with events := 0 }
  | .wgt, 0x10 => s.onWgt fun g => { g with rejected := 0, missing := 0 }
  | .wgt, 0x14 => s.onWgt fun g => { g with mismatch := 0, skipped := 0 }
  | .wgt, 0x18 => s.onWgt fun g => { g with flags := 0 }
  | .wgt, 0x20 => s.onWgt fun g => { g with events := 0 }
  | .srv, 0x04 => s.onSrv fun g => { g with joins := 0 }
  | .srv, 0x08 => s.onSrv fun g => { g with leaves := 0 }
  | .srv, 0x0C => s.onSrv fun g => { g with movesFb := 0, preempts := 0 }
  | .srv, 0x10 => s.onSrv fun g => { g with waitsRing := 0, waitsPages := 0 }
  | .srv, 0x14 => s.onSrv fun g => { g with toTier3 := 0, expired := 0 }
  | .srv, 0x18 => s.onSrv fun g => { g with misses := 0 }
  | .srv, 0x1C => s.onSrv fun g => { g with events := 0 }
  | .cmd, 0x10 => s.onCmd fun g => { g with refused := 0 }
  | .cmd, 0x14 => s.onCmd fun g => { g with acceptMax := 0 }
  | .cmd, 0x18 => s.onCmd fun g => { g with events := 0 }
  | .hlt, 0x04 => s.onHlt fun g => { g with voids := 0 }
  | .hlt, 0x08 => s.onHlt fun g => { g with skips := 0 }
  | .hlt, 0x18 => s.onHlt fun g => { g with events := 0 }
  | .fab, 0x18 => s.onFab fun g => { g with slotLost := 0 }
  | .fab, 0x1C => s.onFab fun g => { g with frameErr := 0 }
  | .fab, 0x20 => s.onFab fun g => { g with remoteErr := 0 }
  | .fab, 0x24 => s.onFab fun g => { g with mgmtDrop := 0 }
  | .fab, 0x34 => s.onPort s.fab.portSel.toNat fun p => { p with corr := 0 }
  | .fab, 0x38 => s.onPort s.fab.portSel.toNat fun p => { p with uncorr := 0 }
  | .fab, 0x40 => s.onFab fun g => { g with events := 0 }
  | .pwr, 0x2C => s.onPwr fun g => { g with stretch := 0 }
  | .pwr, 0x30 => s.onPwr fun g => { g with tripsW := 0, tripsE := 0 }
  | .pwr, 0x40 => s.onPwr fun g => { g with vrErrW := 0, vrErrE := 0 }
  | .pwr, 0x44 => s.onPwr fun g => { g with events := 0 }
  | .rst, 0x24 => s.onCfg fun g => { g with events := 0 }
  | .ic, 0x04 => s.onIc fun g => { g with events := 0 }
  | .ic, 0x0C => s.onIc fun g => { g with stormCount := 0 }
  | .ic, 0xA4 => s.onIc fun g => { g with badComplete := 0 }
  | .ic, o => if 0x100 ≤ o ∧ o < 0x180 then s.pendRead ((o - 0x100) / 4) else s
  | .dma, 0x404 => s.onDma fun g => { g with events := 0 }
  | .mgt, 0x38 => s.onMgt fun g => { g with events := 0 }
  | _, _ => s

/-- The latched pairs of R39 and R267: offset of the low word and the value that the high word has at reset. -/
def latchedPairs : List (Block × Nat × BitVec 32) :=
  [(.cad, 0x00, 0), (.cad, 0x08, 0), (.cad, 0x10, 0), (.wgt, 0x08, 0x8B)]

/-- The base of a block (R401). -/
def Block.base (b : Block) : Nat := ((blockMap.find? fun x => decide (x.2.2 = b)).map (·.1)).getD 0

/-- A requester's latch of a high word is set (R400). -/
def State.setLatch (r : Requester) (off : Nat) (v : BitVec 32) (s : State) : State :=
  s.onSys fun g => { g with
    latches := (r, off, v) :: g.latches.filter fun x => !(decide (x.1 = r) && decide (x.2.1 = off)) }

/-- A requester's latch of a high word (R400). -/
def State.latch (s : State) (r : Requester) (off : Nat) (dflt : BitVec 32) : BitVec 32 :=
  ((s.sys.latches.find? fun x => decide (x.1 = r) && decide (x.2.1 = off)).map (·.2.2)).getD dflt

/-- The target that a requester is (R411). -/
def reqTarget : Requester → Option Nat
  | .core c => some c.val
  | .supervisor => some 4
  | _ => none

/-- The identity of a requester for the ownership of a DMA channel (R420): true the host's side. -/
def State.dmaSide (s : State) : Requester → Option Bool
  | .host => some true
  | .core _ => some false
  | .supervisor => some false
  | .dma c => some (s.hostCh c.val)
  | _ => none

/-! ### Bus errors (R398, R399) -/

/-- The item of R398 under which an access is a bus error; none where it is not. -/
def State.busError (s : State) (a : Access) : Option Nat :=
  let dead := s.inReset
  if !a.whole ∨ a.off % 4 ≠ 0 then some 1
  else if a.vf.isSome then (if dead then some 3 else none)
  else match a.bar2 with
    | some f => if dead then some 3 else if (s.readBar2 f.toNat a.off).isNone then some 2 else none
    | none => match blockAt a.off with
      | none => some 2
      | some (b, o) =>
        let off := match b.clock with
          | some k => !s.sys.clkEn.getLsbD k
          | none => false
        if (s.readBlock b o).isNone then some 2
        else if off || (dead && decide (b ≠ .sys) && decide (b ≠ .rst)) then some 3
        else if b = .ic ∧ 0x40 ≤ o ∧ o < 0x54 then
          (if reqTarget a.req = some ((o - 0x40) / 4) then none else some 4)
        else if b = .ic ∧ 0x60 ≤ o ∧ o < 0x74 then
          (if reqTarget a.req = some ((o - 0x60) / 4) then none else some 4)
        else if b = .dma ∧ o < 0x400 then
          (if s.dmaSide a.req = some (s.hostCh (o / 64)) then none else some 4)
        else none

/-- Code of a requester, its chip, and its channel (R406). -/
def reqInfo : Requester → Nat × Nat × Nat
  | .host => (0, 0, 0)
  | .core c => (1 + c.val, 0, 0)
  | .supervisor => (5, 0, 0)
  | .dma c => (6, 0, c.val)
  | .remote c => (7, c.toNat, 0)
  | .sideband => (8, 0, 0)

/-- A bus error is recorded and raised (R399): the first one until `SYS_BUS_ERR_INFO` is read. -/
def State.recordError (a : Access) (write : Bool) (cause : Nat) (s : State) : State :=
  let s := s.onSys fun g =>
    if g.errInfo.getLsbD 0 then { g with errInfo := g.errInfo ||| bit 32 2 }
    else
      let i := reqInfo a.req
      let i := if a.bar2.isSome then (0, 0, (a.bar2.getD 0).toNat) else i
      { g with
        errAddr := BitVec.ofNat 26 a.off
        errInfo := fields [(0, 1, 1), (1, 1, bitOf write), (4, 4, cause), (8, 4, i.1), (12, 12, i.2.1), (24, 4, i.2.2),
          (28, 1, bitOf a.bar2.isSome)] }
  s.raiseSys 1

/-! ### Reads -/

/-- A read of a register (R398 to R400): its value, none for a bus error, and what the read does. -/
def State.regRead (a : Access) (s : State) : Option (BitVec 32) × State :=
  let s := s.voteAll
  match s.busError a with
  | some k => (none, s.recordError a false k)
  | none => match a.vf, a.bar2 with
    | some f, _ => (some (s.readVf f.toNat a.off), s)
    | none, some f => (s.readBar2 f.toNat a.off, s)
    | none, none => match blockAt a.off with
      | none => (none, s)
      | some (b, o) =>
        if b = .ic ∧ 0x40 ≤ o ∧ o < 0x54 then
          (let r := s.claim ((o - 0x40) / 4)
           (some r.1, r.2))
        else
          let v := s.readBlock b o
          let low := latchedPairs.find? fun x => decide (x.1 = b) && decide (x.2.1 = o)
          let high := latchedPairs.find? fun x => decide (x.1 = b) && decide (x.2.1 + 4 = o)
          match low, high with
          | some _, _ => (v, s.setLatch a.req (a.off + 4) ((s.readBlock b (o + 4)).getD 0))
          | _, some h => (some (s.latch a.req a.off h.2.2), s)
          | none, none => (v, if a.req = .sideband then s else s.clearRead b o)

/-! ### Writes -/

/-- A write of `GRID_PEND` (R75): bytes of reserved values leave their byte unchanged. -/
def State.writePend (i : Nat) (v : BitVec 32) (s : State) : State :=
  if !s.grid.override then s
  else (List.range 4).foldl (fun s k =>
    let e := (v.extractLsb' (8 * k) 6 : BitVec 6)
    if e.toNat ≤ 0x20 ∨ e = 0x3F then s.onGrid fun g => { g with pend := g.pend.set (4 * i + k) e } else s) s

/-- A write of `GRID_CELL_SEL` (R75). -/
def State.writeCellSel (v : BitVec 32) (s : State) : State :=
  let r : BitVec 5 := v.extractLsb' 0 5
  let c : BitVec 6 := v.extractLsb' 8 6
  s.onGrid fun g => { g with
    selRow := if r.toNat ≤ 23 then r else g.selRow
    selDie := v.getLsbD 5
    selCol := if c.toNat ≤ 32 then c else g.selCol }

/-- Bits of `SYS_LOCK` are set (R403). -/
def State.setLocks (b : BitVec 4) (s : State) : State :=
  s.onSys fun g => { g with lock := Voted.all (g.lock.value ||| b) }

/-- A write to the cadence block (R39): its fields take values in range. -/
def State.writeCad (o : Nat) (v : BitVec 32) (s : State) : State :=
  match o with
  | 0x18 => if 2048 ≤ v.toNat ∧ v.toNat ≤ 67108864 then
      s.onCad fun c => { c with period := Voted.all (v.extractLsb' 0 27) } else s
  | 0x1C => if 32 ≤ (v.extractLsb' 0 9).toNat ∧ (v.extractLsb' 0 9).toNat ≤ 256 then
      s.onCad fun c => { c with window := Voted.all (v.extractLsb' 0 9) } else s
  | 0x20 => s.onCad fun c => { c with source := v.getLsbD 0, inputEnable := v.getLsbD 1, leaderEnable := v.getLsbD 2 }
  | 0x40 => s.onCad fun c => { c with pinDelay := v.extractLsb' 0 8 }
  | 0x44 => s.onCad fun c => { c with armTick := setLo c.armTick v }
  | 0x48 => s.onCad fun c => { c with armTick := setHi c.armTick v }
  | 0x4C => s.onCad fun c => { c with tbLoad := setLo c.tbLoad v }
  | 0x50 => s.onCad fun c => { c with tbLoad := setHi c.tbLoad v }
  | _ => s

/-- A write to the interrupt controller (R408 to R419). -/
def State.writeIc (o : Nat) (v : BitVec 32) (s : State) : State :=
  let bits (n : Nat) : List Nat := (List.range n).filter fun i => v.getLsbD i
  if 0x20 ≤ o ∧ o < 0x34 then
    s.icChange (Ic.onTarget ((o - 0x20) / 4) fun g => { g with count := v.extractLsb' 0 8, time := v.extractLsb' 8 16 })
  else if 0x60 ≤ o ∧ o < 0x74 then
    (let t := (o - 0x60) / 4
     (s.onIc (Ic.onTarget t fun g => { g with complete := v })).endService t v.toNat)
  else if 0x200 ≤ o ∧ o < 0x280 then
    (let w := (o - 0x200) / 4
     s.icChange fun ic => { ic with enables := Sparse.set 0 ic.enables w (v &&& srcBits w) })
  else if 0x1004 ≤ o ∧ o ≤ 0x1000 + 4 * 1019 then s.writeSrcCfg ((o - 0x1000) / 4) v
  else if 0x2004 ≤ o ∧ o ≤ 0x2000 + 4 * 1019 then
    s.onIc fun ic => { ic with gwMap := Sparse.set 0 ic.gwMap ((o - 0x2000) / 4) (v &&& 0x800003FF) }
  else if 0x4000 ≤ o ∧ o < 0x6000 then
    s.onIc fun ic => ic.setVec ((o - 0x4000) / 4) { ic.vec ((o - 0x4000) / 4) with
      count := v.extractLsb' 0 8, time := v.extractLsb' 8 16 }
  else match o with
    | 0x10 => (bits 32).foldl (fun s i => s.doorbell (960 + i)) s
    | 0x14 => (bits 28).foldl (fun s i => s.doorbell (992 + i)) s
    | 0xA0 => (s.onIc fun ic => { ic with gwAck := v }).endService 5 v.toNat
    | _ => s

/-- A write to the utility DMA block by the side that may make it (R420, R421, R425). -/
def State.writeDma (r : Requester) (o : Nat) (v : BitVec 32) (s : State) : State :=
  if o < 0x400 then
    let c := o / 64
    let idle (g : DmaCh → DmaCh) : State := if (s.dmaCh c).state = 1 then s else s.onCh c g
    match o % 64 with
    | 0x00 => idle fun x => { x with src := setLo x.src v }
    | 0x04 => idle fun x => { x with src := setHi x.src v }
    | 0x08 => idle fun x => { x with dst := setLo x.dst v }
    | 0x0C => idle fun x => { x with dst := setHi x.dst v }
    | 0x10 => idle fun x => { x with count := v }
    | 0x14 => s.writeDmaCtrl c v
    | _ => s
  else if o = 0x400 ∧ s.dmaSide r = some false then s.onDma fun d => { d with owner := v.extractLsb' 0 16 }
  else s

/-- A write of `MGT_FW_FLOOR` (R429): one that raises it is in the store before it completes. -/
def State.writeFloor (v : BitVec 32) (s : State) : State :=
  if s.sys.lock.value.getLsbD 3 ∨ v.toNat ≤ s.mgt.fwFloor.toNat then s
  else ((s.onMgt fun m => { m with fwFloor := v }).storeWrite .floor (bvBytes 4 v)).raiseMgt 1

/-- A write of a heartbeat register (R428). -/
def State.writeBeat (c : Nat) (v : BitVec 32) (s : State) : State :=
  s.onMgt fun m => { m with
    beats := m.beats.set c v, written := m.written.set c true, silent := m.silent.set c 0 }

/-- A write to the management cores block (R428 to R430). -/
def State.writeMgt (o : Nat) (v : BitVec 32) (s : State) : State :=
  if 0x04 ≤ o ∧ o < 0x18 then s.writeBeat ((o - 4) / 4) v
  else if 0x24 ≤ o ∧ o < 0x38 then
    s.onMgt fun m => { m with gwin := m.gwin.set ((o - 0x24) / 4) (v.extractLsb' 0 16) }
  else if o = 0x20 then s.writeFloor v
  else s

/-- A write of `RST_CTRL` (R461, R481): retention for the next reset, and the reset itself. -/
def State.writeRstCtrl (v : BitVec 32) (s : State) : State :=
  let s := s.onCfg fun c => { c with retain := v.getLsbD 1 }
  if v.getLsbD 0 then s.requestReset 4 (v.getLsbD 1) else s

/-- A write of `GRID_CTRL` (R75, R403). -/
def State.writeGridCtrl (v : BitVec 32) (s : State) : State :=
  if s.sys.lock.value.getLsbD 2 then s else s.onGrid fun g => { g with override := v.getLsbD 0 }

/-- A write to a register of a block. A write to a register that is read only does nothing (R398). -/
def State.writeBlock (r : Requester) (b : Block) (o : Nat) (v : BitVec 32) (s : State) : State :=
  match b, o with
  | .sys, 0x04 => s.onSys fun g => { g with clkEn := g.clkEn ||| v.extractLsb' 0 10 }
  | .sys, 0x08 => s.setLocks (v.extractLsb' 0 4)
  | .sys, 0x1C => s.onSys fun g => { g with scratch := v }
  | .cad, o => s.writeCad o v
  | .grid, 0x04 => s.writeGridCtrl v
  | .grid, 0x08 => if v.getLsbD 0 then s.setLocks 4 else s
  | .grid, 0x80 => s.writeCellSel v
  | .grid, o => if 0x40 ≤ o ∧ o < 0x70 then s.writePend ((o - 0x40) / 4) v else s
  | .arith, 0x00 => s.onArith fun g => { g with scaleLock := v.getLsbD 0 }
  | .arith, 0x08 => s.onArith fun g => { g with trkSel := v.extractLsb' 0 6 }
  | .wgt, 0x08 => s.onWgt fun g => { g with scrubDef := setLo g.scrubDef v }
  | .wgt, 0x0C => s.onWgt fun g => { g with scrubDef := setHi g.scrubDef v }
  | .fab, 0x08 => s.onFab fun g => { g with mask := Voted.all (v.extractLsb' 0 16) }
  | .fab, 0x28 => s.onFab fun g => { g with portSel := v.extractLsb' 0 4 }
  | .pwr, 0x04 => s.writeOpLimits v
  | .pwr, 0x08 => s.writeOpReq v
  | .pwr, 0x24 => s.writeTherm v
  | .pwr, 0x28 => s.onPwr fun g => { g with limit := v.extractLsb' 0 12 }
  | .rst, 0x04 => s.writeRstCtrl v
  | .ic, o => s.writeIc o v
  | .dma, o => s.writeDma r o v
  | .mgt, o => s.writeMgt o v
  | .msix, o => if o < 0x4000 then s.writeMsix 0 o v else s
  | _, _ => s

/-- A write to a register of BAR2 of a function (R362 to R369). -/
def State.writeBar2 (f o : Nat) (v : BitVec 32) (s : State) : State :=
  if 0x1000 ≤ o ∧ o < 0x2000 then s.writeToken f ((o - 0x1000) / 4) v
  else if o < 0x800 then
    let q := o / 256
    let idle (g : Queue → Queue) : State := if ((s.func f).queue q).enabled then s else s.onQueue f q g
    match o % 256 with
    | 0x00 => idle fun u => { u with cmdBase := setLo u.cmdBase (v &&& 0xFFFFF000) }
    | 0x04 => idle fun u => { u with cmdBase := setHi u.cmdBase v }
    | 0x08 => idle fun u => { u with rspBase := setLo u.rspBase (v &&& 0xFFFFF000) }
    | 0x0C => idle fun u => { u with rspBase := setHi u.rspBase v }
    | 0x10 => s.writeQueueCtrl f q v
    | 0x14 => s.writeQueueVector f q v
    | 0x18 => s.writeTail f q v
    | 0x1C => s.writeHead f q v
    | _ => s
  else if f = 0 ∧ o = 0x800 then s.onCmd fun c => { c with srHead := v }
  else s

/-- A write of a register (R398, R399): whether it was taken, and what it does. -/
def State.regWrite (a : Access) (v : BitVec 32) (s : State) : Bool × State :=
  match s.busError a with
  | some k => (false, s.recordError a true k)
  | none => match a.vf, a.bar2 with
    | some f, _ => (true, if a.off < 0x400 then s.writeMsix (globalVector f.toNat 0) a.off v else s)
    | none, some f => (true, s.writeBar2 f.toNat a.off v)
    | none, none => match blockAt a.off with
      | none => (false, s)
      | some (b, o) => (true, s.writeBlock a.req b o v)

end Sys2Proof.Machine
end

