-- ==== Sys2Proof/Machine/SysCmd.lean ====
section
/-!
DEFINITION. The general commands (R376, R384 to R388), the device configuration (R471 to R476), and the commands whose
work other blocks do: fence and unfence (R358), calibration (R454, R455), and the health record (R359).
-/
namespace Sys2Proof.Machine

/-! ### Identity and telemetry (R384, R386) -/

/-- Bytes of tier 1 in service: 64 GiB for each HBM4 stack (R224, R384). -/
def State.tier1Bytes (s : State) : Nat := popCount s.mem.hbmStacks * 2 ^ 36

/-- Bytes of the volume's data region (R228, R384). -/
def State.tier3Bytes (s : State) : Nat := if s.mem.mounted then s.mem.volSlots * pageBytes else 0

/-- The enabled operating points, one bit each (R384, R438). -/
def State.opEnabled (s : State) : Nat :=
  ((List.range 8).filter fun k => decide (s.pwr.floor.value.toNat ≤ k) && decide (k ≤ s.pwr.ceiling.value.toNat)).foldl
    (fun n k => n + 2 ^ k) 0

/-- The ports that are `UP`, one bit each (R384). -/
def State.portsUp (s : State) : Nat := ((List.range 16).filter s.portUp).foldl (fun n p => n + 2 ^ p) 0

/-- The record of `IDENTIFY` (R384). -/
def State.identity (s : State) (f : BitVec 4) : List (BitVec 8) :=
  let flags : BitVec 8 := flag 8 0 s.configured ||| flag 8 1 s.mem.retained ||| flag 8 2 s.mem.mounted
  padTo 128 ([0x43, 0x52, 0x44, 0x4D] ++ leBytes 4 0x7200 ++ [0xB0, f.setWidth 8] ++
    leBytes 1 (s.func f.toNat).state.code ++ [flags] ++
    leBytes 2 (if s.configured then s.fab.chip.toNat else 0xFFFF) ++ [s.cfg.strap, 0] ++ bvBytes 4 s.cfg.fwVersion ++
    leBytes 2 1536 ++ leBytes 2 s.fencedCount ++ leBytes 8 s.tier1Bytes ++ leBytes 8 s.mem.t2Bytes ++
    leBytes 8 s.tier3Bytes ++ leBytes 2 s.portsUp ++ leBytes 1 s.opEnabled ++ [8] ++ leBytes 4 8192 ++
    bvBytes 8 s.pins.serial ++ bvBytes 32 s.cfg.fwDigest)

/-- `IDENTIFY` (R384). -/
def execIdentify (handle : BitVec 32) (s : State) : Out :=
  carry 0x01 true handle (fun l s => (s.hostWrite l.func.toNat (l.param 16 8) (s.identity l.func)).complete handle stOk 0) s

/-- The record of `TELEMETRY` (R386, R450). -/
def State.telemetry (s : State) : List (BitVec 8) :=
  let p := s.pwr
  let load (east : Bool) : Nat := if (s.entryOf p.inForce east).valid then (s.entryOf p.inForce east).load.toNat else 0
  padTo 64 (bvBytes 8 s.cad.tb ++ bvBytes 8 s.cad.step ++ bvBytes 4 p.power ++ bvBytes 4 p.curW ++ bvBytes 4 p.curE ++
    bvBytes 2 (intBits 16 p.junctionMax) ++ bvBytes 2 (intBits 16 p.junctionMin) ++
    leBytes 1 (p.inForce.toNat + if p.transition.isSome then 8 else 0) ++ leBytes 1 p.floor.value.toNat ++ [0, 0] ++
    bvBytes 4 p.stretchTotal ++ leBytes 4 (load false + load true) ++ [flag 8 0 (decide (p.guards ≠ 0))])

/-- `TELEMETRY` (R386). -/
def execTelemetry (handle : BitVec 32) (s : State) : Out :=
  carry 0x03 true handle (fun l s => (s.hostWrite l.func.toNat (l.param 16 8) s.telemetry).complete handle stOk 0) s

/-- A command waits for room, or is a held function command (R376). -/
def State.waitsHeld (s : State) (h : BitVec 32) : Bool :=
  (s.wgt.models.any fun m => decide (m.handle = some h) && (decide (m.state = .pendingRoom) || m.waitRoom)) ||
    s.cmd.funcs.any fun x => decide (x.held = some h)

/-- `HANDLE_QUERY` (R376). -/
def execHandleQuery (handle : BitVec 32) (s : State) : Out :=
  carry 0x04 true handle (fun l s =>
    let h := BitVec.ofNat 32 (l.param 8 4)
    match s.liveOf h with
    | some x =>
      if x.func = l.func then s.complete handle stOk (fields [(0, 8, x.opcode.toNat), (8, 3, x.queue),
        (11, 1, bitOf (s.waitsHeld h))])
      else s.complete handle stBadHandle 0
    | none => s.complete handle stBadHandle 0) s

/-- `DIAG_NOP` (R388). -/
def execDiagNop (handle : BitVec 32) (s : State) : Out :=
  carry 0xF0 true handle (fun l s => s.complete handle stOk (BitVec.ofNat 32 (l.param 8 4))) s

/-- A manufacturing-test command: what it does lies outside the specification, and nothing is assured afterwards
(R388). Before a configuration is committed it completes with `CONFIG_INVALID`, as every command that R379 does not
list. A handle that names no such command changes nothing (assumption 5). -/
def execManufacturingTest (handle : BitVec 32) (s : State) : Out :=
  match s.liveOf handle with
  | some l =>
    if 0xF1 ≤ l.opcode.toNat ∧ l.phase = .accepted then
      if s.configured then .refused (.manufacturingTest l.opcode)
      else finish (s.complete handle stConfigInvalid 0)
    else .next s
  | none => .next s

/-- `DEVICE_RESET` (R385): leave notices, every other pending command cancelled, a calibration with the reason of a device
stop (R454), its own completion, and the reset. -/
def execDeviceReset (handle : BitVec 32) (s : State) : Out :=
  carry 0x02 true handle (fun l s =>
    let kind := l.param 8 1
    if kind < 1 ∨ 2 < kind then s.complete handle stBadParam 8
    else
      let s := s.onCmd fun c => { c with frozen := true }
      let s := s.leaveToReset.cancelCal 4
      let s := s.completeAll (s.liveInOrder.filter fun h => decide (h ≠ handle)) stCancelled 0xFFFFFFFF
      (s.complete handle stOk 0).enterReset 3 (decide (kind = 2))) s

/-! ### The role (R387) -/

/-- `ROLE_SET` (R387). -/
def execRoleSet (handle : BitVec 32) (s : State) : Out :=
  carry 0x14 false handle (fun l s =>
    let size := l.param 12 1
    let stage := l.param 13 1
    let bad (o : Nat) : State := s.complete handle stBadParam (BitVec.ofNat 32 o)
    let active := (s.cylOf .active).map fun k => imgHeader k.image
    if !s.unarmed ∨ (active.any fun h => decide (h.partSize ≠ size) || decide (h.stage ≠ stage)) then
      s.complete handle stNotAllowed 0
    else if l.param 8 4 = 0 then bad 8
    else if size < 1 ∨ 72 < size then bad 12
    else if size ≤ stage then bad 13
    else if 1 < l.param 14 1 then bad 14
    else match s.hostRead l.func.toNat (l.param 16 8) (2 * size) with
    | none => s.complete handle stBadParam readFailed
    | some bs =>
      let ms := (List.range size).map fun i => fieldAt bs (2 * i) 2
      if (ms.any fun m => decide (4096 ≤ m)) ∨ ms[stage]? ≠ some s.fab.chip.toNat ∨ ¬ ms.Nodup then bad 16
      else
        let s := s.onFab fun f => { f with
          partition := BitVec.ofNat 32 (l.param 8 4), size := size, stage := stage
          memberChips := ms.map fun m => BitVec.ofNat 12 m }
        (s.onCad fun c => { c with leaderEnable := decide (l.param 14 1 = 1) }).complete handle stOk 0) s

/-! ### The device configuration (R471 to R476) -/

/-- 64-byte units of a `CFG_WRITE` stored one after another; a read that fails ends it (R473, R378). -/
def State.storeUnits (h : BitVec 32) (src : BitVec 64) (unit : Nat) : Nat → State → State
  | 0, s => s.complete h stOk 0
  | n + 1, s =>
    match s.readRun (some 0) src 64 with
    | .ok bs =>
      let s := s.onCfg fun c => { c with
        staging := c.staging.take (64 * unit) ++ bs ++ c.staging.drop (64 * unit + 64)
        written := c.written ||| bit 16 unit }
      State.storeUnits h (src + 64) (unit + 1) n s
    | .poisoned | .refused => (s.noteRead src 64).complete h stBadParam readFailed

/-- `CFG_WRITE` (R473). -/
def execCfgWrite (handle : BitVec 32) (s : State) : Out :=
  carry 0x10 true handle (fun l s =>
    let o := l.param 8 2
    let n := l.param 10 2
    let g := BitVec.ofNat 64 (l.param 16 8)
    if o % 64 ≠ 0 ∨ 1024 ≤ o then s.complete handle stBadParam 8
    else if n % 64 ≠ 0 ∨ n < 64 ∨ 1024 < o + n then s.complete handle stBadParam 10
    else if gaChip g ≠ s.fab.chip ∨ gaSpace g ∉ [2, 5] then s.complete handle stBadParam 16
    else if s.cfg.commit.isSome then s.complete handle stBusy 0
    else s.storeUnits handle g (o / 64) (n / 64)) s

/-- The reserved bits of the configuration block: the offset of each field, its bytes, and the bits of it that must be
zero (R472). -/
def cfgReserved : List (Nat × Nat × Nat) :=
  [(16, 2, 0xF000), (18, 2, 0x7F00), (20, 1, 0xF0), (21, 3, 0xFFFFFF), (26, 6, 0xFFFFFFFFFFFF), (49, 1, 0xFF),
   (57, 1, 0xFF), (62, 2, 0xFFFF), (64, 2, 0xF000), (67, 1, 0xFE), (68, 4, 0xFFFFFFFF)]

/-- The first field of fixed value that is wrong (R474 check 3). -/
def cfgFormFault (b : List (BitVec 8)) : Option Nat :=
  if b.take 8 ≠ [0x4A, 0x58, 0x43, 0x4F, 0x4E, 0x46, 0x49, 0x47] then some 0
  else if fieldAt b 8 2 ≠ 1 then some 8
  else if fieldAt b 10 2 ≠ 1024 then some 10
  else match cfgReserved.find? fun r => decide (fieldAt b r.1 r.2.1 &&& r.2.2 ≠ 0) with
    | some r => some r.1
    | none => if (b.drop 80).all fun x => decide (x = 0) then none else some 80

/-- The first power or thermal field out of range (R474 check 5, R438, R457). -/
def State.cfgPowerFault (s : State) (b : List (BitVec 8)) : Option Nat :=
  let floor := fieldAt b 52 1
  let ceiling := fieldAt b 53 1
  let req := fieldAt b 54 1
  let down := fieldAt b 55 1
  let up := fieldAt b 56 1
  if req < floor then some 52
  else if ceiling < req ∨ 7 < ceiling then some 53
  else if down < 85 ∨ 104 < down then some 55
  else if up < 70 ∨ down < up + 2 then some 56
  else if fieldAt b 58 2 < 500 ∨ 2300 < fieldAt b 58 2 then some 58
  else if s.floorFails floor then some 52
  else none

/-- The first failure of the checks of a configuration block: its reason and offset (R474). -/
def State.cfgFault (s : State) (b : List (BitVec 8)) (digest : BitVec 256) : Option (Nat × Nat) :=
  let off (reason : Nat) (o : Option Nat) : Option (Nat × Nat) := o.map fun o => (reason, o)
  let first (reason : Nat) (xs : List (Bool × Nat)) : Option (Nat × Nat) :=
    off reason ((xs.find? fun x => x.1).map (·.2))
  let mask := BitVec.ofNat 16 (fieldAt b 60 2)
  let scrub := fieldAt b 72 8
  let vec := fieldAt b 50 2
  let checks : List (Option (Nat × Nat)) :=
    [off 1 (((List.range 16).find? fun i => !s.cfg.written.getLsbD i).map fun i => 64 * i),
     if digestBits (sha256 b) ≠ digest then some (2, 0xFFFF) else none,
     off 3 (cfgFormFault b),
     first 4 [(!(byteAt b 19).getLsbD 7 && decide (byteAt b 18 ≠ s.cfg.strap), 18)],
     off 5 (s.cfgPowerFault b),
     first 6 [(decide (BitVec.ofNat 12 (fieldAt b 64 2) &&& ~~~ s.mem.channels ≠ 0), 64),
       (decide (byteAt b 66 &&& ~~~ s.mem.hbmStacks ≠ 0), 66), ((byteAt b 67).getLsbD 0 && !s.mem.mounted, 67)],
     first 7 [(decide (fieldAt b 32 8 % pageBytes ≠ 0) || decide (2 ^ 44 - 2 ^ 37 < fieldAt b 32 8), 32),
       (decide (fieldAt b 40 8 % 4096 ≠ 0) || decide (fieldAt b 40 8 = 0), 40),
       (decide (fieldAt b 48 1 < 4) || decide (16 < fieldAt b 48 1), 48),
       (decide (1023 < vec) && decide (vec ≠ 0xFFFF), 50)],
     first 8 [(decide (mask = 0) || ((s.cylOf .active).isSome && decide (popCount mask < 15)), 60)],
     first 9 [(decide (scrub ≠ 0) && (decide (scrub < 60000000000) || decide (86400000000000 < scrub)), 72)]]
  checks.findSome? id

/-- The ports after a commit: those that are `DOWN` begin to train; where the chip number changed, every port
(R475, R476). -/
def State.trainPorts (all : Bool) (s : State) : State :=
  (List.range 16).foldl (fun s p =>
    if all then (s.portLost p).onPort p fun x => { x.train with attempts := 0 }
    else s.onPort p fun x => if x.state = .down then x.train else x) s

/-- A configuration block that passes every check is committed (R475, R476). -/
def State.commitBlock (h : BitVec 32) (b : List (BitVec 8)) (s : State) : State :=
  let chip := BitVec.ofNat 12 (fieldAt b 16 2)
  let moved := s.cfg.block.isSome && decide (chip ≠ s.fab.chip)
  let scrub := fieldAt b 72 8
  let s := s.onCfg fun c => { c with block := some b, written := 0xFFFF }
  let s := s.onFab fun f => { f with chip := chip, mask := Voted.all (BitVec.ofNat 16 (fieldAt b 60 2)) }
  let s := s.onCmd fun c => { c with srBase := BitVec.ofNat 64 (fieldAt b 40 8), srHead := 0, srTail := 0 }
  let s := s.onPwr fun p => Power.capped { p.freshAttempts with
    floor := Voted.all (BitVec.ofNat 3 (fieldAt b 52 1)), ceiling := Voted.all (BitVec.ofNat 3 (fieldAt b 53 1))
    opReq := BitVec.ofNat 3 (fieldAt b 54 1), thermDown := byteAt b 55, thermUp := byteAt b 56
    limit := BitVec.ofNat 12 (fieldAt b 58 2) }
  let s := s.onWgt fun w => { w with scrubDef := if scrub = 0 then 600000000000 else BitVec.ofNat 64 scrub }
  let s := s.onSys fun g => { g with lock := Voted.all (g.lock.value ||| BitVec.ofNat 4 (fieldAt b 20 1)) }
  ((s.tunePll.trainPorts moved).complete h stOk 0).raiseCfg 0

/-- The staging copy is checked for a `CFG_COMMIT`, and committed or refused (R474 to R476). -/
def State.checkCommit (h : BitVec 32) (s : State) : State :=
  let s := s.onCfg fun c => { c with commit := none }
  match s.liveOf h with
  | none => s
  | some l =>
    match s.cfgFault s.cfg.staging (BitVec.ofNat 256 (l.param 24 32)) with
    | some (reason, o) =>
      let d := fields [(0, 8, reason), (16, 16, o)]
      ((s.onCfg fun c => { c with lastRefuse := d }).complete h stConfigInvalid d).raiseCfg 1
    | none => s.commitBlock h s.cfg.staging

/-- `CFG_COMMIT` (R474): it waits until boot reaches stage 0x08. -/
def execCfgCommit (handle : BitVec 32) (s : State) : Out :=
  carry 0x11 true handle (fun _ s =>
    if s.cfg.commit.isSome then s.complete handle stBusy 0
    else if !s.unarmed then s.complete handle stNotAllowed 0
    else if s.cfg.stage = 8 then s.checkCommit handle
    else (s.working handle).onCfg fun c => { c with commit := some handle }) s

/-! ### Fences (R358) -/

/-- The range check of a fence command, and its wait for the boundary that takes it (R17, R358). -/
def fenceBody (handle : BitVec 32) (l : Live) (s : State) : State :=
  if 23 < l.param 8 1 then s.complete handle stBadParam 8
  else if 1 < l.param 9 1 then s.complete handle stBadParam 9
  else if 32 < l.param 10 1 then s.complete handle stBadParam 10
  else if 1 < l.param 11 1 then s.complete handle stBadParam 11
  else s.atBoundary handle

/-- `FENCE_CELL` (R358). -/
def execFenceCell (handle : BitVec 32) (s : State) : Out := carry 0xA0 false handle (fenceBody handle) s

/-- `UNFENCE_CELL` (R358). -/
def execUnfenceCell (handle : BitVec 32) (s : State) : Out := carry 0xA1 false handle (fenceBody handle) s

/-! ### Calibration (R454, R455) -/

/-- `CALIBRATE` (R454): it starts at the boundary that takes it (R451). -/
def execCalibrate (handle : BitVec 32) (s : State) : Out :=
  carry 0xA2 false handle (fun l s =>
    let dwell := l.param 12 4
    let dry := decide (l.param 10 1 = 1)
    let p := s.pwr
    let other := s.cmd.live.any fun x => decide (x.2.opcode = 0xA2) && decide (x.2.phase ≠ .accepted)
    if 7 < l.param 8 1 then s.complete handle stBadParam 8
    else if l.param 9 1 < 1 ∨ 3 < l.param 9 1 then s.complete handle stBadParam 9
    else if 1 < l.param 10 1 then s.complete handle stBadParam 10
    else if dwell ≠ 0 ∧ (dwell < 16 ∨ 1048576 < dwell) then s.complete handle stBadParam 12
    else if p.cal.isSome ∨ other then s.complete handle stBusy 0
    else if s.unarmed ∨ l.param 8 1 ≠ p.inForce.toNat ∨ p.transition.isSome ∨ s.target ≠ p.inForce ∨ p.skipping ∨
        (s.sys.lock.value.getLsbD 1 ∧ !dry) then s.complete handle stNotAllowed 0
    else s.atBoundary handle) s

/-- The record of `CAL_STATUS` (R455). -/
def State.calRecord (s : State) : List (BitVec 8) :=
  let p := s.pwr
  let die (east : Bool) : CalDie := (p.cal.map fun c => c.die east).getD CalDie.reset
  let level (east : Bool) : Nat := if (die east).named then (die east).level else 0
  let flags : BitVec 8 := flag 8 0 (decide (p.guards ≠ 0)) ||| flag 8 1 p.storeValid ||| flag 8 2 (s.sys.lock.value.getLsbD 1)
  padTo 64 (leBytes 1 p.calState.toNat ++ leBytes 1 p.calOp.toNat ++ leBytes 1 p.calDies.toNat ++ [flags] ++
    leBytes 2 (level false) ++ leBytes 2 (level true) ++ leBytes 4 (die false).clean ++ leBytes 4 (die true).clean ++
    bvBytes 2 p.guards) ++ (p.entries.mapIdx fun i e => e.bytes i).flatten

/-- `CAL_STATUS` (R455). -/
def execCalStatus (handle : BitVec 32) (s : State) : Out :=
  carry 0xA3 true handle (fun l s => (s.hostWrite l.func.toNat (l.param 16 8) s.calRecord).complete handle stOk 0) s

/-! ### The health record (R359) -/

/-- The record of `HEALTH_READ` (R359). -/
def State.healthRecord (s : State) : List (BitVec 8) :=
  let h := s.hlt
  padTo 64 (bvBytes 8 h.cCommitted ++ bvBytes 4 h.cVoided ++ bvBytes 4 h.cSkipped ++ h.byCause.flatMap (bvBytes 2) ++
    bvBytes 2 h.causeZero ++ bvBytes 2 h.stalls ++ bvBytes 2 h.fences ++ bvBytes 2 h.unfences ++ bvBytes 2 h.declared ++
    bvBytes 2 h.withdrawals ++ bvBytes 4 h.lastLost ++ bvBytes 8 h.lostStep ++ bvBytes 4 h.events ++
    bvBytes 2 h.forced ++ bvBytes 1 h.linkDown)

/-- The counts of the health record restart at 0 (R359); `last_lost`, `lost_step` and the events are no counts. -/
def Health.clear (h : Health) : Health := { h with
  cCommitted := 0, cVoided := 0, cSkipped := 0, byCause := List.replicate 6 0, causeZero := 0, stalls := 0, fences := 0
  unfences := 0, declared := 0, withdrawals := 0, forced := 0, linkDown := 0 }

/-- `HEALTH_READ` (R359). -/
def execHealthRead (handle : BitVec 32) (s : State) : Out :=
  carry 0xA4 true handle (fun l s =>
    if 1 < l.param 8 1 then s.complete handle stBadParam 8
    else
      let s := s.hostWrite l.func.toNat (l.param 16 8) s.healthRecord
      (if l.param 8 1 = 1 then s.onHlt Health.clear else s).complete handle stOk 0) s

end Sys2Proof.Machine
end

