-- ==== Sys2Proof/Machine/Cadence.lean ====
section
/-!
DEFINITION. The cadence: markers and association windows (R26, R27), cadence frames (R34), holdover and leadership
(R32, R33), the state changes after phase 11 of a boundary (R36), and the cadence commands (R37, R38).
-/
namespace Sys2Proof.Machine

/-! ### The period, the window, and the next boundary (R25 to R27) -/

/-- The capture window in force, in ticks. -/
def State.capture (s : State) : Int := (s.cad.window.value.toNat : Int)

/-- The open window is that of a boundary that has run, so it closes at `winEnd` (R26). -/
def Cadence.closable (c : Cadence) : Bool := c.winOpen && c.begun && decide (c.winBase = c.bk)

/-- The states in which a correction moves the grid (R27, R32, R33). -/
def CadState.corrects (x : CadState) : Bool :=
  decide (x = .locked) || decide (x = .slewing) || decide (x = .follower)

/-- The states in which leader frames are captured, and which the selected source ends (R30, R32). -/
def CadState.leaderless (x : CadState) : Bool :=
  decide (x = .holdover) || decide (x = .leader) || decide (x = .follower)

/-- The marker that counts for the window (R30, R33): a leader frame in `FOLLOWER`; in `HOLDOVER` one of the selected
source or, where there is none, a leader frame; else one of the selected source. -/
def Cadence.counted (c : Cadence) : Option Int := match c.state with
  | .follower => c.leaderMarker
  | .holdover => c.marker.or c.leaderMarker
  | _ => c.marker

/-- The correction that a marker's distance earns (R27). -/
def corrected (w : Int) (d : Option Int) : Int := match d with
  | none => 0
  | some d => max (-w) (min w d)

/-- The distance lies beyond the capture window, so rule 2 of R27 applies. -/
def beyond (w : Int) (d : Option Int) : Bool := d.any fun d => decide (w < d.natAbs)

/-- The open window closes (R26, R27): the correction places the next boundary, the counts of R32 and R33 follow, and
the window of the next boundary opens. A window counts as missed where the marker that counts for it is lacking; one with
no marker of the selected source ends the run of those. `slewed` is the rule that the distance of the last marker of the
selected source calls for, whether it moved the grid or not (assumption 141). -/
def State.closeWindow (s : State) : State :=
  let c := s.cad
  let p := s.inForce
  let d := c.counted
  let moves := c.state.corrects
  let next := ((c.bk + p : Int) + (if moves then corrected s.capture d else 0)).toNat
  let seen := c.marker.isSome
  let elects := decide (c.state = .follower) || (decide (c.state = .holdover) && c.leader.isSome)
  let s := s.onCad fun c => { c with
    next := next, winBase := next, winEnd := next + p / 2, marker := none, leaderMarker := none
    offset := match d with
      | some d => intBits 32 d
      | none => 0x80000000
    slewed := if seen then beyond s.capture c.marker else c.slewed
    misses := if d.isSome then 0 else min 16 (c.misses + 1)
    missCount := if d.isSome then c.missCount else satInc c.missCount
    closedWindows := ⟨c.winEnd, c.step, seen, c.leaderMarker.isSome⟩ :: c.closedWindows
    returnRun := if seen then c.returnRun else 0
    electWindows := if !elects then c.electWindows else if c.leaderMarker.isSome then 0 else c.electWindows + 1 }
  if moves && beyond s.capture d then s.raiseCad 7 else s

/-- A window that the tick has passed closes (R26). -/
def State.passWindow (t : Int) (s : State) : State :=
  if s.cad.closable ∧ (s.cad.winEnd : Int) < t then s.closeWindow else s

/-- `ASSOCIATION_WINDOW_CLOSE` (R26). -/
def execAssociationWindowClose (s : State) : Out :=
  if s.cad.closable then finish (s.at_ s.cad.winEnd).closeWindow else .next s

/-- `ARM` fixes B_0 at an instant, and the window of boundary 0 opens (R26, R37). -/
def State.fixB0 (opened b0 : Nat) (s : State) : State :=
  let p := s.period
  s.onCad fun c => { c with
    b0Fixed := true, b0 := b0, next := b0, winOpen := true, opened := opened, winBase := b0, winEnd := b0 + p / 2
    marker := none, leaderMarker := none }

/-- 16 periods after the arm tick no marker was accepted (R37): the cadence enters `HOLDOVER`, and B_0 is fixed. -/
def execArmTimeout (s : State) : Out :=
  let c := s.cad
  if c.state = .acquiring ∧ !c.b0Fixed then
    let t := c.armTick.toNat + 16 * s.period
    let s := (s.at_ t).onCad fun c => { c with state := .holdover, holdSteps := 0, returnRun := 0 }
    finish ((s.raiseCad 1).fixB0 t t)
  else .next s

/-! ### Markers (R26, R31) -/

/-- A marker of the selected source is rejected; the 64th within a second disables the input (R31). -/
def State.rejectMarker (t : Nat) (s : State) : State :=
  let s := s.onCad fun c => { c with rejects := satInc c.rejects, rejectTicks := (s.elapsed t :: c.rejectTicks).take 64 }
  let ts := s.cad.rejectTicks
  if ts.length = 64 ∧ s.elapsed t ≤ ts.getLastD 0 + 1000000000 then
    (s.onCad fun c => { c with
      inputEnable := false, forceHoldover := c.forceHoldover || decide (c.state ≠ .unarmed) }).raiseCad 0
  else s

/-- The timebase is loaded at a marker, so that it reads the value at the marker's tick (R23, R37). The `detail` is the
low word of the marker's tick as the loaded timebase counts it (assumption 142). -/
def State.loadTimebase (h : BitVec 32) (mark : Int) (s : State) : State :=
  let shift : Int := (s.cad.tbLoad.toNat : Int) - mark
  let s := s.onCad fun c => { c with
    tb := BitVec.ofInt 64 ((c.tb.toNat : Int) + shift), tbShift := c.tbShift + shift, loadHandle := none }
  s.complete h stOk (lo32 s.cad.tbLoad)

/-- A marker of the selected source is accepted before any window is open (R26, R37). -/
def State.markBefore (mark : Int) (s : State) : State :=
  match s.cad.loadHandle with
  | some h => s.loadTimebase h mark
  | none =>
    if s.cad.state = .acquiring ∧ (s.cad.armTick.toNat : Int) ≤ mark then
      s.fixB0 mark.toNat (mark + s.period).toNat
    else s

/-- A marker that arrives at `t` comes half a period or more after the accepted one before it of its source (R26). -/
def State.spaced (s : State) (last : Option Nat) (t : Nat) : Bool := !last.any fun a => decide (2 * (s.elapsed t - a) < s.inForce)

/-- The uptime of the marker accepted before from the selected source: each source has its own (R26, R30). -/
def Cadence.lastOf (c : Cadence) : Option Nat := if c.source then c.lastRack else c.lastAccept

/-- A marker of the selected source that arrived at an uptime is accepted (R26). -/
def Cadence.accepted (t : Nat) (c : Cadence) : Cadence :=
  if c.source then { c with lastRack := some t } else { c with lastAccept := some t }

/-- The closed window in which a marker tick lies, once every window that it has passed is closed: the earliest that
closes at or after it (R26). -/
def Cadence.closedAt (mark : Int) (c : Cadence) : Option ClosedWindow :=
  (c.closedWindows.takeWhile fun w => decide (mark ≤ w.stop)).getLast?

/-- A marker is the first of its window, of leader frames where `led`, else of the selected source (R26). One that lies
before the window of boundary 0, or comes while no window exists, lies in none. -/
def Cadence.firstMark (led : Bool) (mark : Int) (c : Cadence) : Bool :=
  if !c.winOpen || decide (mark < c.opened) then true
  else match c.closedAt mark with
  | some w => !(if led then w.led else w.marked)
  | none => (if led then c.leaderMarker else c.marker).isNone

/-- The window in which an accepted marker lies has its marker (R26); one that has closed has earned its correction by
then (assumption 172). -/
def Cadence.takeMark (led : Bool) (mark : Int) (c : Cadence) : Cadence :=
  if mark < c.opened then c
  else match c.closedAt mark with
  | some w => { c with closedWindows := c.closedWindows.map fun x =>
      if x = w then { x with marked := x.marked || !led, led := x.led || led } else x }
  | none => if led then { c with leaderMarker := some (mark - c.winBase) } else { c with marker := some (mark - c.winBase) }

/-- A marker of the selected source that arrived at `t`, its tick after compensation `mark` (R26): accepted or
rejected, and the first of its window is the marker of its boundary; it is one more in the run that ends a holdover
(R32, R40). Without its clock the cadence block takes none (R402). One whose window has closed is accepted, where that
window had none, and moves no boundary (assumption 172). -/
def State.selectedMarker (t : Nat) (mark : Int) (s : State) : State :=
  if s.cad.inputEnable ∧ s.clocked 0 then
    let s := s.passWindow mark
    if !(s.spaced s.cad.lastOf t && s.cad.firstMark false mark) then s.rejectMarker t
    else
      let s := s.onCad (Cadence.accepted (s.elapsed t))
      if !s.cad.winOpen then s.markBefore mark
      else (s.onCad (Cadence.takeMark false mark)).onCad fun c => { c with
        returnRun := if c.state.leaderless then min 4 (c.returnRun + 1) else c.returnRun }
  else s

/-- `CADENCE_MARKER`: a rising edge of the pin, captured at a tick while the pin is selected (R27, R30). A device in reset
ignores it (R458). -/
def execCadenceMarker (tick : Nat) (s : State) : Out :=
  let s := s.at_ tick
  finish (if s.cad.source || s.inReset then s else s.selectedMarker tick ((tick : Int) - s.cad.pinDelay.toNat))

/-! ### Cadence frames (R33, R34) -/

/-- The number of the step that the matching boundary of a frame begins, once every window that the frame's marker tick
has passed is closed (R34): the boundary of the closed window in which the marker tick lies, else that of the open window,
which has run or is the next one; none before the first window opened. -/
def State.matchingStep (mark : Int) (s : State) : Option (BitVec 64) :=
  let c := s.cad
  if mark < c.opened then none
  else match c.closedAt mark with
  | some w => some w.step
  | none => some (if !c.begun then 0 else if c.winBase = c.bk then c.step else c.step + 1)

/-- A leader frame is accepted as a marker (R26, R33, R34): it is spaced from the one accepted before from the same chip,
and the first of its window. -/
def State.leaderTaken (sender : BitVec 12) (t : Nat) (mark : Int) (s : State) : Bool :=
  s.spaced ((s.cad.lastLeaderAccept.filter fun x => decide (x.1 = sender)).map (·.2)) t && s.cad.firstMark true mark

/-- A leader frame as a marker of its window (R26, R33, R34), or rejected. -/
def State.leaderMark (sender : BitVec 12) (t : Nat) (mark : Int) (s : State) : State :=
  if s.leaderTaken sender t mark then
    (s.onCad fun c => { c with lastLeaderAccept := some (sender, s.elapsed t) }).onCad (Cadence.takeMark true mark)
  else s.onCad fun c => { c with rejects := satInc c.rejects }

/-- A leader frame that names the right step acts on the cadence state (R33). -/
def State.leaderActs (sender : BitVec 12) (t : Nat) (mark : Int) (s : State) : State :=
  match s.cad.state with
  | .leader =>
    if sender < s.fab.chip then s.onCad fun c => { c with
      followTo := some (match c.followTo with
        | some x => if x < sender then x else sender
        | none => sender) }
    else s
  | .holdover =>
    if s.cad.leader = some sender then
      let taken := s.leaderTaken sender t mark
      (s.leaderMark sender t mark).onCad fun c => { c with followTo := if taken then some sender else c.followTo }
    else s
  | .follower => if s.cad.leader = some sender then s.leaderMark sender t mark else s
  | _ => s

/-- A leader frame that is captured (R30, R33, R34). -/
def State.leaderFrame (t : Nat) (mark : Int) (b : CadenceBody) (s : State) : State :=
  let s := s.passWindow mark
  if s.matchingStep mark ≠ some b.sequence then s.raiseCad 6
  else
    let s := if s.cad.state = .follower ∧ b.period ≠ BitVec.ofNat 32 s.inForce then s.raiseCad 6 else s
    s.leaderActs b.sender t mark

/-- A copy of the frame has been used: one of the same kind and sequence (R34). -/
def Cadence.copyUsed (c : Cadence) (b : CadenceBody) : Bool := decide ((b.kind.toNat, b.sequence.toNat) ∈ c.framesSeen)

/-- The frame is one that the device captures: a rack frame while rack frames are selected and the input is enabled, a
leader frame of the own partition in the states in which leader frames count (R30, R31, R34). -/
def State.captures (b : CadenceBody) (s : State) : Bool :=
  match b.kind.toNat with
  | 1 => s.cad.source && s.cad.inputEnable
  | 2 => s.clocked 0 && s.cad.state.leaderless && decide (b.partition = s.fab.partition)
  | _ => false

/-- `CADENCE_FRAME`: the marker tick is the arrival less the link delay of the port and the correction (R34). -/
def execCadenceFrame (hdr : FrameHdr) (body : CadenceBody) (s : State) : Out :=
  receiveIf (State.listens (decide (body.kind = 1)) hdr) hdr (fun s =>
    let delay := (s.fab.ports.getD hdr.inPort Port.reset).delay.toNat
    let mark : Int := (hdr.tick : Int) - delay - body.correction.toNat
    if !s.captures body || s.cad.copyUsed body then s
    else
      let s := s.onCad fun c => { c with framesSeen := (body.kind.toNat, body.sequence.toNat) :: c.framesSeen }
      if body.kind = 1 then s.selectedMarker hdr.tick mark else s.leaderFrame hdr.tick mark body) s

/-- `LEADER_FRAME_TIMEOUT`: the 16th consecutive window closes with no leader frame from the chip chosen or followed
(R33); the next boundary acts on it. -/
def execLeaderFrameTimeout (s : State) : Out :=
  let c := s.cad
  let waits := decide (c.state = .follower) || (decide (c.state = .holdover) && c.leader.isSome)
  if waits ∧ c.closable ∧ c.leaderMarker.isNone ∧ 15 ≤ c.electWindows then
    finish (s.at_ c.winEnd).closeWindow
  else .next s

/-! ### The change of state after phase 11 (R32, R33, R36) -/

/-- No leader is chosen or followed, and the counts of a holdover start again. -/
def Cadence.unled (c : Cadence) : Cadence :=
  { c with leader := none, followTo := none, holdSteps := 0, electWindows := 0 }

/-- The cadence enters `HOLDOVER` (R31 to R33). The run of accepted markers of the selected source goes on. -/
def State.enterHoldover (s : State) : State :=
  (s.onCad fun c => { c.unled with state := .holdover, forceHoldover := false }).raiseCad 1

/-- A chip is live for leadership no longer: it has been declared lost, as every peer counts once this chip has withdrawn
(R346, R347). -/
def State.deadLeader (s : State) (c : BitVec 12) : Bool :=
  decide (c ≠ s.fab.chip) && (decide (c ∈ s.hlt.lost) || (s.hlt.withdrawn && !s.hlt.withdrawNow))

/-- The lowest-numbered eligible chip of the partition (R33). -/
def State.electee (s : State) : Option (BitVec 12) :=
  let eligible (c : BitVec 12) : Bool :=
    if c = s.fab.chip then s.cad.leaderEnable
    else !s.deadLeader c && s.step.verdicts.any fun r => decide (r.chip = c) && r.body.mayLead
  ((s.fab.memberChips.filter eligible).mergeSort fun a b => decide (a ≤ b)).head?

/-- A chip that has been in `HOLDOVER` for 4 boundaries chooses its leader (R33). -/
def State.elect (s : State) : State :=
  match s.electee with
  | none => s
  | some x =>
    if x = s.fab.chip then
      (s.onCad fun c => { c with state := .leader, leader := some x, electWindows := 0 }).raiseCad 3
    else s.onCad fun c => { c with leader := some x, electWindows := 0 }

/-- `HOLDOVER` at a boundary: it follows the chip it chose, or chooses (R33). Where no chip is eligible at the fourth
boundary it tries again at every later one (assumption 143). -/
def State.holdoverTurn (s : State) : State :=
  match s.cad.followTo.filter fun x => !s.deadLeader x with
  | some x => s.onCad fun c => { c with
      state := .follower, leader := some x, followTo := none, electWindows := 0 }
  | none =>
    let gone := s.cad.leader.any s.deadLeader || decide (16 ≤ s.cad.electWindows)
    let s := if gone then s.onCad fun c => { c with leader := none, followTo := none, electWindows := 0 } else s
    if s.cad.leader.isNone ∧ 4 ≤ s.cad.holdSteps.toNat ∧ 1 < s.fab.size then s.elect else s

/-- `LOCKED` and `SLEWING` name the rule of the last correction (R35); where none was made, the rule that the last marker
of the selected source calls for, and `LOCKED` where there was none (assumption 141). -/
def Cadence.ruled (c : Cadence) : CadState := if c.slewed then .slewing else .locked

/-- A chip that returns to its selected source (R32), whose markers are then those that its windows lack or have. -/
def State.leaveHoldover (s : State) : State :=
  (s.onCad fun c => { c.unled with state := c.ruled, returnRun := 0, misses := 0 }).raiseCad 2

/-- The change of cadence state of a boundary, after phase 11 (R32, R33, R36). The boundary at B_0 leaves `ACQUIRING` for
`LOCKED`, before any correction, and counts as a boundary in `HOLDOVER` where the arming timed out (assumption 141). An
input that was disabled brings `HOLDOVER` whatever the state, and ends the run of its markers (R31, R32). A follower whose
leader this boundary declares lost enters `HOLDOVER` at this boundary itself (R33 item 4; DESIGN CHOICE, assumption 198). -/
def State.cadenceTurn (s : State) : State :=
  let c := s.cad
  let s := if c.state.leaderless then s.onCad fun c => { c with holdSteps := satInc c.holdSteps } else s
  let s := match c.state with
    | .acquiring => if c.forceHoldover then s.enterHoldover else s.onCad fun c => { c with state := .locked }
    | .locked | .slewing =>
      if c.forceHoldover ∨ 16 ≤ c.misses then s.enterHoldover else s.onCad fun c => { c with state := c.ruled }
    | .holdover | .leader | .follower =>
      if c.forceHoldover ∧ c.state ≠ CadState.holdover then s.enterHoldover.onCad fun c => { c with returnRun := 0 }
      else if c.forceHoldover then (s.onCad fun c => { c with returnRun := 0 }).holdoverTurn
      else if 4 ≤ c.returnRun then s.leaveHoldover
      else match c.state with
        | .holdover => s.holdoverTurn
        | .follower =>
          if c.leader.any s.deadLeader ∨ 16 ≤ c.electWindows then s.enterHoldover.raiseCad 4 else s
        | _ => match c.followTo.filter fun x => !s.deadLeader x with
          | some x => (s.onCad fun c => { c with
              state := .follower, leader := some x, followTo := none, electWindows := 0 }).raiseCad 4
          | none => s
    | .unarmed => s
  s.onCad fun c => { c with forceHoldover := false }

/-- A `LEADER` sends its frame to every peer on every live plane at each of its boundaries (R33, R34). -/
def State.sendLeader (s : State) : State :=
  if s.cad.state = .leader then
    -- while the frame waits, `correction` holds the low word of its marker instant (`State.departing`)
    let b : CadenceBody := { kind := 2, sender := s.fab.chip, partition := s.fab.partition, sequence := s.cad.step,
                             period := BitVec.ofNat 32 s.inForce
                             correction := BitVec.ofNat 32 s.cad.bk }
    s.fab.groups.foldl (fun s g => s.livePorts.foldl (fun s p => s.sendMsg 1 g true (some p) (.cadence b)) s) s
  else s

/-! ### Commands (R37, R38) -/

/-- The input is enabled and the rejection history cleared (R31, R37). -/
def State.enableInput (s : State) : State := s.onCad fun c => { c with inputEnable := true, rejectTicks := [] }

/-- The source, window and pin delay of `SET_SOURCE` and `ARM` (R37). -/
def State.setSource (l : Live) (s : State) : State :=
  let rack := decide (l.param 9 1 = 1)
  s.onCad fun c => { c with
    source := rack, returnRun := 0
    window := Voted.all (BitVec.ofNat 9 (l.param 10 2)), pinDelay := BitVec.ofNat 8 (l.param 24 2) }

/-- The period of `SET_PERIOD` and `ARM` (R37). -/
def State.setPeriod (l : Live) (s : State) : State :=
  s.onCad fun c => { c with period := Voted.all (BitVec.ofNat 27 (l.param 12 4)) }

/-- Offset of the first field out of range (R37). -/
def cadenceBad (l : Live) : Option Nat :=
  let src := decide (1 < l.param 9 1)
  let win := decide (l.param 10 2 < 32) || decide (256 < l.param 10 2)
  let per := decide (l.param 12 4 < 2048) || decide (67108864 < l.param 12 4)
  let pin := decide (255 < l.param 24 2)
  let first (xs : List (Bool × Nat)) : Option Nat := (xs.find? fun x => x.1).map (·.2)
  match l.param 8 1 with
  | 1 => first [(src, 9), (win, 10), (per, 12), (pin, 24)]
  | 2 => first [(per, 12)]
  | 3 | 4 | 5 => none
  | 6 => first [(src, 9), (win, 10), (pin, 24)]
  | _ => some 8

/-- A cylinder meeting a condition fails R28 at the period of the command. -/
def State.periodFails (s : State) (l : Live) (which : KnownCyl → Bool) : Bool :=
  s.cyl.known.any fun k => which k &&
    !budgetFits (imgHeader k.image).budget (l.param 12 4) s.pwr.floor.value.toNat

/-- What arming starts afresh (R20, R33, R345, R361). -/
def State.startArming (h : BitVec 32) (l : Live) (s : State) : State :=
  let s := (s.enableInput.setSource l).setPeriod l
  let s := s.onCad fun c => { c with
    state := .acquiring, armTick := BitVec.ofNat 64 (l.param 16 8), armHandle := some h, step := 0, b0Fixed := false
    begun := false, next := 0, winOpen := false, marker := none, leaderMarker := none, misses := 0, holdSteps := 0
    returnRun := 0, slewed := false, leader := none, followTo := none, electWindows := 0, forceHoldover := false
    framesSeen := c.framesSeen.filter fun x => decide (x.1 = 1)
    closedWindows := [] }
  let s := s.onStep fun g => { g with
    replay := 0, committed := none, running := false, playing := false, noPlay := .none, verdicts := []
    serial := none, cut := none, verdictSent := false }
  let s := s.onHlt fun x => { x with
    lost := [], missing := [], notices := [], peerLost := false, withdrawn := false, withdrawNow := false, left := false
    stallRaised := false, cCommitted := 0 }
  s.onFab fun f => { f with vectors := [] }

/-- `CADENCE_SET` with `ARM` (R37). -/
def State.arm (h : BitVec 32) (l : Live) (s : State) : State :=
  if !s.unarmed then s.complete h stNotAllowed 0
  else if s.cad.loadHandle.isSome then s.complete h stBusy 0
  else match cadenceBad l with
  | some o => s.complete h stBadParam (BitVec.ofNat 32 o)
  | none =>
    if s.periodFails l fun k => decide (k.status ≠ .loaded) then s.complete h stNotAllowed 0
    else (s.working h).startArming h l

/-- An action that a boundary takes while the cadence is armed, and that acts at once while it is `UNARMED`; its
`detail` is then the present tick, where R37 names a boundary or a marker (assumption 142). -/
def State.cadenceNow (h : BitVec 32) (act : State → State) (s : State) : State :=
  if s.unarmed then (act s).complete h stOk (lo32 s.cad.tb) else s.atBoundary h

/-- `CADENCE_SET` (R37). `ENABLE_INPUT` acts at once; its `detail` is the present tick, where R37 names a boundary or a
marker (assumption 142). -/
def execCadenceSet (handle : BitVec 32) (s : State) : Out :=
  carry 0x12 false handle (fun l s =>
    match cadenceBad l, l.param 8 1 with
    | _, 1 => s.arm handle l
    | some o, _ => s.complete handle stBadParam (BitVec.ofNat 32 o)
    | none, 2 =>
      if s.periodFails l fun k => decide (k.status = .active) || decide (k.status = .verified) then
        s.complete handle stNotAllowed 0
      else s.cadenceNow handle (State.setPeriod l)
    | none, 3 =>
      if !s.unarmed then s.complete handle stNotAllowed 0
      else if s.cad.loadHandle.isSome then s.complete handle stBusy 0
      else ((s.working handle).enableInput).onCad fun c => { c with
        loadHandle := some handle, tbLoad := BitVec.ofNat 64 (l.param 16 8) }
    | none, 4 => s.enableInput.complete handle stOk (lo32 s.cad.tb)
    | none, 5 =>
      if s.srv.slots ≠ [] then s.complete handle stNotAllowed 0 else s.cadenceNow handle id
    | none, _ => s.enableInput.cadenceNow handle (State.setSource l)) s

/-- `CADENCE_STATUS` (R38): the first 64 bytes of the register block. -/
def execCadenceStatus (handle : BitVec 32) (s : State) : Out :=
  carry 0x13 true handle (fun l s =>
    let bs := (List.range 16).flatMap fun i => bvBytes 4 ((s.readBlock .cad (4 * i)).getD 0)
    (s.hostWrite l.func.toNat (l.param 8 8) bs).complete handle stOk 0) s

/-- The periods and sources that the boundary at tick `b` takes, whatever the outcome of the closing step. Their
completion records belong to phase 2 of a boundary that commits: of this one, else of the next that does (R15, R37;
assumption 48). -/
def State.takeCadence (b : Nat) (commit : Bool) (s : State) : State :=
  let s := (s.waitingFor 0x12 fun l => decide (l.param 8 1 ≠ 5)).foldl (fun s x =>
    ((if x.2.param 8 1 = 2 then s.setPeriod x.2 else s.setSource x.2).working x.1).onCad fun c => { c with
      dones := c.dones ++ [(x.1, BitVec.ofNat 32 b)] }) s
  if commit then
    let ds := s.cad.dones
    ds.foldl (fun s x => s.due x.1 stOk x.2) (s.onCad fun c => { c with dones := [] })
  else s

/-- The commands of a context that a boundary would have resolved are resolved, since none comes (R19, R295). -/
def State.unarmCtx (n : Nat) (s : State) : State :=
  let c := s.ctx n
  if c.cancels = [] ∧ c.closeHandle = none then s
  else
    let s := if c.gen.isSome then s.cancelNow n else s
    let s := (s.onCtx n fun c => { c with cancels := [] }).completeAll c.cancels (if c.gen.isSome then stOk else stFinished) 0
    match c.closeHandle with
    | some h => (s.freeCtx n).complete h stOk 0
    | none => s

/-- The cadence is disarmed (R37): what waits for a boundary and can act without one acts at once, as while the cadence
is `UNARMED` (R339, R453, R477). -/
def State.unarm (s : State) : State :=
  let s := s.onStep fun g => { g with
    cut := none, serial := none, barred := [], running := false, playing := false, verdicts := [], noPlay := .none, replay := 0 }
  let s := s.onPwr fun p => { p with skipping := false }
  let ds := s.cad.dones
  let s := ds.foldl (fun s x => s.complete x.1 stOk x.2) (s.onCad fun c => { c with dones := [] })
  let s := s.onCad fun c => { c.unled with
    state := .unarmed, b0Fixed := false, begun := false, next := 0, winOpen := false, marker := none
    leaderMarker := none, misses := 0, returnRun := 0, forceHoldover := false }
  let s := (s.waitingFor 0x12 fun _ => true).foldl (fun s x =>
    (match x.2.param 8 1 with
      | 2 => s.setPeriod x.2
      | 6 => s.setSource x.2
      | _ => s).complete x.1 stOk (lo32 s.cad.tb)) s
  let s := (s.waitingFor 0x92 fun _ => true).foldl (fun s x =>
    (s.onFab fun f => { f with mask := Voted.all (BitVec.ofNat 16 (x.2.param 8 2)) }).complete x.1 stOk 0) s
  let hs := s.fab.maskPending.map (·.1)
  let s := (s.onFab fun f => { f with maskPending := [] }).completeAll hs stOk 0
  let s := match s.cyl.drainHandle with
    | some h => (s.onCyl fun y => { y with drain := 2, drainHandle := none }).complete h stOk 0
    | none => s
  let s := (s.waitingFor 0x62 fun _ => true).foldl (fun s x => s.release x.1) s
  let s := s.openCtxs.foldl (fun s n => s.unarmCtx n) s
  let s := (s.waitingFor 0xA2 fun _ => true).foldl (fun s x => (s.complete x.1 stCancelled 3).raisePwr 9) s
  s.cancelCal 3

end Sys2Proof.Machine
end

