-- ==== Sys2Proof/Machine/Fence.lean ====
section
/-!
DEFINITION. Fences and repairs: what charges a cell (R64, R65), the actions of phase 4 (R66, R67, R344, R358), the
persistent fence record (R357), and the repair (R68 to R72).
-/
namespace Sys2Proof.Machine

/-! ### The map (R63) -/

/-- A fence entry. -/
def State.fenceAt (s : State) (e : Nat) : BitVec 6 := s.grid.fence.value.getD e 0x3F

/-- A fence entry set. -/
def State.setFence (e : Nat) (v : BitVec 6) (s : State) : State :=
  s.onGrid fun g => { g with fence := VotedMap.all (g.fence.value.set e v) }

/-- The entry shifts logical columns. -/
def shifts (v : BitVec 6) : Bool := decide (v.toNat ≤ 31)

/-! ### The persistent fence record (R357) -/

/-- The bytes of the record as written last: in a write that has started, else in the store; no fences where there is
none. -/
def State.fenceRecord (s : State) : List (BitVec 8) :=
  match s.store.writing.find? fun x => decide (x.1 = StoreRec.fence) with
  | some x => x.2.1
  | none => (storeGet s.store.fence0 s.store.fence1).getD (List.replicate 48 0x3F)

/-- An entry of the record is written, within 100 ms; a write that has started takes the change too. -/
def State.keepFence (e : Nat) (v : BitVec 6) (s : State) : State :=
  let bs := s.fenceRecord.set e (v.setWidth 8)
  if s.store.writing.any fun x => decide (x.1 = StoreRec.fence) then
    s.onStore fun t => { t with writing := t.writing.map fun x => if x.1 = StoreRec.fence then (x.1, bs, x.2.2) else x }
  else s.storeStart .fence bs none

/-! ### Actions of phase 4 (R66, R67) -/

/-- A repair falls due (R68). -/
def State.repairDue (e : Nat) (old new : BitVec 6) (h : Option (BitVec 32)) (s : State) : State :=
  s.onGrid fun g => { g with repairs := g.repairs ++
    [{ row := e % 24, die := decide (24 ≤ e), oldEntry := old, newEntry := new, handle := h, running := false, spans := 0 }] }

/-- A fence command completes in phase 2 of the next committing boundary (R358). -/
def State.fenceDone (h : Option (BitVec 32)) (st : BitVec 16) (d : BitVec 32) (s : State) : State :=
  match h with
  | none => s
  | some h => s.onGrid fun g => { g with doneHandles := g.doneHandles ++ [(h, st, d)] }

/-- A fence is counted (R75, R359). -/
def State.fenced (s : State) : State := (s.onHlt fun h => { h with fences := satInc h.fences }).raiseGrid 0

/-- An unfence is counted (R75, R359). -/
def State.unfenced (s : State) : State := (s.onHlt fun h => { h with unfences := satInc h.unfences }).raiseGrid 1

/-- The map takes a new value, for a command or by the device; a change that is not transient enters the persistent
record. Where no logical column moves there is no repair (R66, R358). -/
def State.changeEntry (e : Nat) (v : BitVec 6) (keep : Bool) (h : Option (BitVec 32)) (s : State) : State :=
  let old := s.fenceAt e
  let s := s.setFence e v
  let s := if keep then s.keepFence e v else s
  if shifts old || shifts v then s.repairDue e old v h else s.fenceDone h stOk 0

/-- A fence meets an exhausted row: leave notices, and no further verdict frame (R67). -/
def State.exhausted (s : State) : State :=
  let s := (s.onGrid fun g => { g with rowExhausted := true }).raiseGrid 4
  if s.hlt.left ∨ s.hlt.withdrawn then s
  else (s.sendLeave 0x02).onHlt fun h => { h with left := true }

/-- The automatic fences of a boundary (R65, R67): `due` are the physical cells. -/
def State.autoFences (due : List Nat) (s : State) : State :=
  (List.range 48).foldl (fun s e =>
    match due.find? fun k => decide (entryOfPhys k = e) with
    | none => s
    | some k =>
      if 1 < dueIn due e ∨ s.fenceAt e ≠ 0x3F then s.exhausted
      else (s.changeEntry e (fenceEntryOf (k % 33)) true none).fenced) s

/-- A `FENCE_CELL` is applied (R66, R67, R358). -/
def State.applyFence (due : List Nat) (h : BitVec 32) (l : Live) (s : State) : State :=
  let e := entryOfRow (l.param 8 1) (decide (l.param 9 1 = 1))
  let v := fenceEntryOf (l.param 10 1)
  let s := s.working h
  if s.fenceAt e = v then s.fenceDone (some h) stOk 0
  else if s.fenceAt e ≠ 0x3F ∨ 1 < dueIn due e then s.fenceDone (some h) stNoSpace 0
  else (s.changeEntry e v (decide (l.param 11 1 = 0)) (some h)).fenced

/-- An `UNFENCE_CELL` is applied (R66, R70, R358). -/
def State.applyUnfence (h : BitVec 32) (l : Live) (s : State) : State :=
  let e := entryOfRow (l.param 8 1) (decide (l.param 9 1 = 1))
  let s := s.working h
  if s.fenceAt e = fenceEntryOf (l.param 10 1) then
    (s.changeEntry e 0x3F (decide (l.param 11 1 = 0)) (some h)).unfenced
  else s.fenceDone (some h) stOk 0

/-- The fence commands that the boundary takes, in order of acceptance (R66). -/
def State.fenceCommands (due : List Nat) (s : State) : State :=
  s.liveHandles.foldl (fun s h => match s.liveOf h with
    | none => s
    | some l =>
      if l.phase ≠ .boundary then s
      else if l.opcode = 0xA0 then s.applyFence due h l
      else if l.opcode = 0xA1 then s.applyUnfence h l
      else s) s

/-- The entries written to `GRID_PEND` under the override; an old position is unfenced where the old entry is 0x00 to
0x1F (R66, R75). One that replaces 0x20 unfences nothing and raises `FENCED` alone (DESIGN CHOICE, assumption 202). -/
def State.pendEntries (s : State) : State :=
  let pend := s.grid.pend
  let s := (pend.mapIdx fun e v => (e, v)).foldl (fun s (x : Nat × BitVec 6) =>
    let old := s.fenceAt x.1
    if 0x20 < x.2.toNat ∨ x.2 = old then s
    else
      let s := s.changeEntry x.1 x.2 true none
      (if shifts old then s.unfenced else s).fenced) s
  s.onGrid fun g => { g with pend := List.replicate 48 0x3F }

/-- Phase 4 (R66): automatic fences, commands in order of acceptance, and entries of `GRID_PEND` after them, for which the
specification gives no order of acceptance (DESIGN CHOICE, assumption 155). -/
def State.fencePhase (due : List Nat) (s : State) : State := ((s.autoFences due).fenceCommands due).pendEntries

/-! ### Charges (R64, R65) and bridge rows (R344) -/

/-- The cells charged with a voided step are recorded, and those charged twice within 1,024 boundaries fall due for a
fence. -/
def State.chargeCells (s : State) : List Nat × State :=
  let n := s.step.boundaries
  s.step.charged.foldl (fun (r : List Nat × State) k =>
    let recent := (r.2.phys k).lastCharge.any fun b => decide (n - b < 1024)
    (if recent then r.1 ++ [k] else r.1,
     r.2.onPhys k fun c => { c with lastCharge := some n, fltCharges := satInc c.fltCharges })) ([], s)

/-- Bridge failures of a voided step: one that recurs on a row within 1,024 boundaries exhausts the row. -/
def State.bridgeRows (s : State) : State :=
  let n := s.step.boundaries
  s.step.bridgeRows.foldl (fun s row =>
    let last := Sparse.get 0 s.grid.bridgeAge row
    let s := s.onGrid fun g => { g with bridgeAge := Sparse.set 0 g.bridgeAge row (n + 1) }
    if last ≠ 0 ∧ n + 1 - last < 1024 then s.exhausted.raiseHlt 5 else s) s

/-! ### Repairs (R68 to R72) -/

/-- A repair that is due may start: none is running (R68, R354). -/
def State.repairsRunning (s : State) : Bool := s.grid.repairs.any (·.running)

/-- The repairs that are due start (R68); a row whose staging has begun restarts it (R153). A source that cannot be
read makes the chip withdraw (R349). -/
def execRepairStart (sourceBad : Bool) (s : State) : Out :=
  if s.grid.repairs = [] ∨ s.repairsRunning then .next s
  else
    let rows := s.grid.repairs.map fun r => (r.row, r.die)
    let s := s.onGrid fun g => { g with repairActive := true, repairs := g.repairs.map fun r => { r with running := true } }
    let s := s.onCyl fun y => { y with staging := y.staging.map fun g => { g with restart := rows } }
    close (if sourceBad && !s.unarmed then s.withdraw else s)

/-- A physical cell receives what a repair moves from another: its SRAM, both slot-memory banks and its trackers. -/
def Cell.receives (src dst : Cell) : Cell :=
  { dst with sram := src.sram, poisoned := src.poisoned, bankA := src.bankA, bankB := src.bankB, trackers := src.trackers }

/-- Physical columns of a row of a die receive the state of others: `(to, from)`, all read before any is written. -/
def State.moveColumns (row die : Nat) (moves : List (Nat × Nat)) (s : State) : State :=
  let old := moves.map fun m => (m.1, s.phys (physIndex row die m.2))
  old.foldl (fun s m => s.onPhys (physIndex row die m.1) fun c => Cell.receives m.2 c) s

/-- The cell that a fence brings into the row's shift receives from tier 1 what logical column `logical` held at the
last commit: resident image, carried mirror and both slot-memory slices; its scratch bytes are zero (R68). -/
def State.loadCell (logical : Nat) (trackers : SMap Tracker) (s : State) : State :=
  let img := s.active
  let slice (b : List (BitVec 8)) : SMap (BitVec 128) := bankOf (imgProgram b (imgCell b logical).1)
  let now := slice img
  let other := match s.cylOf .verified with
    | some k => slice k.image
    | none => []
  let bank := s.cyl.bank
  let s := s.onCell logical fun c => { c with
    sram := [], poisoned := [], trackers := trackers
    bankA := if bank then other else now, bankB := if bank then now else other }
  let resident := (imgBuffers img).filter fun b => decide (b.cls = 1) && decide (b.cell = logical)
  let s := resident.foldl (fun s b => s.writeResident img b) s
  let carried := (carriedOf img).filter fun x => decide (x.1.cell = logical)
  carried.foldl (fun s x => s.onCell logical (Cell.sramWrite x.1.addr (s.getMirror x.2 x.1.len) false)) s

/-- What the first of the running repairs does (R66, R68, R70): first the old fence is undone, then the new one is
repaired. A jack that returns to standby keeps its last contents, which are undefined (R73; DESIGN CHOICE, assumption 156). -/
def State.repairRow (r : RepairRec) (s : State) : State :=
  let die := if r.die then 1 else 0
  let f := r.oldEntry.toNat
  let s := if shifts r.oldEntry then
      s.moveColumns r.row die ((List.range (32 - f)).map fun i => (f + i, f + i + 1)) else s
  -- from here on the row's state lies as its new entry says
  let s := s.onGrid fun g => { g with repairs := g.repairs.erase r }
  if shifts r.newEntry then
    let n := r.newEntry.toNat
    let trackers := (s.phys (physIndex r.row die n)).trackers
    let s := s.moveColumns r.row die ((List.range (31 - n)).map fun i => (n + 2 + i, n + 1 + i))
    s.loadCell (r.row * 64 + die * 32 + n) trackers
  else s

/-- The repairs complete (R69): their commands complete in phase 2 of the next committing boundary. -/
def execRepairDone (cycles : Nat) (s : State) : Out :=
  let rs := s.grid.repairs.filter (·.running)
  if rs = [] then .next s
  else
    let s := rs.foldl (fun s r => s.repairRow r) s
    let s := s.onGrid fun g => { g with repairActive := false, repairCyc := satOf 32 cycles }
    let s := s.onCyl fun y => { y with staging := y.staging.map fun g => { g with restart := [] } }
    let s := rs.foldl (fun s r => s.fenceDone r.handle stOk (satOf 32 cycles)) s
    let s := s.raiseGrid 2
    close (if rs.any fun r => decide (0 < r.spans) then s.raiseGrid 3 else s)

end Sys2Proof.Machine
end

