-- ==== Sys2Proof/Machine/Phases.lean ====
section
/-!
DEFINITION. Phases of a boundary: scales (phase 3, R101 to R104), the thermal cap, stale calibrations, the operating
point and calibration (phase 6, R440 to R453), and what the cells hold at beat 0.
-/
namespace Sys2Proof.Machine

/-! ### Phase 3: scales (R101 to R104) -/

/-- The largest finite value of a tracked format as c × 2^k (R76, R101). -/
def trackedMax (fmt : BitVec 8) : Nat × Nat :=
  match fmt.toNat % 128 with
  | 1 => (3, 1)
  | 2 => (7, 6)
  | _ => (7, 13)

/-- Integer m and shift x + 200 with a positive finite FP32 value m × 2^x. -/
def fp32Scaled (a : BitVec 32) : Nat × Nat :=
  let f := (a.extractLsb' 0 23).toNat
  let e := (a.extractLsb' 23 8).toNat
  if e = 0 then (f, 51) else (f + 2 ^ 23, e + 50)

/-- T = ceil(log2(a ÷ f_max)), exact and clamped to −126 to 127 (R102): the least exponent whose scale reaches `a`. -/
def trackerT (fmt : BitVec 8) (a : BitVec 32) : Int :=
  let (m, x) := fp32Scaled a
  let (c, k) := trackedMax fmt
  match (List.range 254).find? fun i => decide (m * 2 ^ x ≤ c * 2 ^ (k + i + 74)) with
  | some i => (i : Int) - 126
  | none => 127

/-- One tracker at a committing boundary (R102, R103), and whether a locked one would have raised its exponent. -/
def Tracker.update (lock : Bool) (t : Tracker) : Tracker × Bool :=
  let t' := { t with amaxLast := t.amax }
  if t.hold = 0 ∨ t.amax = 0 then (t', false)
  else
    let x := trackerT t.fmt t.amax
    if t.locked || lock then
      if t.e < x then ({ t' with misses := satInc t.misses }, true) else (t', false)
    else if t.e < x then ({ t' with e := x, low := 0 }, false)
    else if x ≤ t.e - 2 then
      if t.hold ≤ t.low + 1 then ({ t' with e := t.e - 1, low := 0 }, false) else ({ t' with low := t.low + 1 }, false)
    else ({ t' with low := 0 }, false)

/-- Phase 3 of a committing boundary: the trackers of every cell and the scale tables with their mirrors (R102 to
R104). However many locked trackers miss at a boundary, `SCALE_LOCK_MISS` is raised once (DESIGN CHOICE, assumption
177). -/
def State.scales (s : State) : State :=
  let lock := s.arith.scaleLock
  let s := s.onArith fun a => { a with lockInForce := lock }
  let missed := s.grid.cells.any fun p => p.2.trackers.any fun t => (t.2.update lock).2
  let s := s.onGrid fun g => { g with cells := Sparse.mapVals Cell.reset (fun c =>
    { c with trackers := Sparse.mapVals Tracker.reset (fun t => (t.update lock).1) c.trackers }) g.cells }
  let s := if missed then s.raiseArith 0 else s
  (carriedOf s.active).foldl (fun s x => if x.1.scales then s.putTable x.1 x.2 else s) s

/-! ### Before phase 6: the thermal cap and stale calibrations (R443, R444, R450) -/

/-- The hottest reading of the span of scans from the latest at or before the boundary `a` to the latest at or before
the boundary `b` (R443). -/
def State.junctionOf (s : State) (a b : Nat) : Int :=
  let first := ((s.pwr.scans.find? fun x => decide (x.1 ≤ s.elapsed a)).map (·.1)).getD 0
  let span := s.pwr.scans.filter fun x => decide (first ≤ x.1) && decide (x.1 ≤ s.elapsed b)
  match span with
  | [] => s.pwr.junctionMax
  | x :: r => r.foldl (fun m y => max m y.2.1) x.2.1

/-- The scans of the last 1 ms (R444). -/
def State.lastMs (s : State) : List (Nat × Int × Nat) := s.pwr.scans.filter fun x => decide (s.uptime ≤ x.1 + 1000000)

/-- The thermal cap is lowered at a boundary, at most once per 1 ms (R444). -/
def State.lowerCap (s : State) : State :=
  let p := s.pwr
  let xs := s.lastMs
  let hot := xs.any fun x => decide ((p.thermDown.toNat : Int) * 16 ≤ x.2.1)
  let load := decide (xs ≠ []) && decide (p.limit.toNat * 1000 * xs.length ≤ (xs.map (·.2.2)).sum)
  let new : BitVec 3 := BitVec.ofNat 3 (max p.floor.value.toNat (p.inForce.toNat - 1))
  let soon := p.lastDown.any fun t => decide (s.uptime < t + 1000000)
  if (hot || load) ∧ !soon ∧ new < p.cap then
    let s := s.onPwr fun p => { p with cap := new, lastDown := some s.uptime }
    let s := if hot then s.raisePwr 1 else s
    (if load then s.raisePwr 3 else s).tunePll
  else s

/-- Stretched cycles are counted (R441): in the step, `PWR_STRETCH` and the total of `TELEMETRY`. -/
def State.stretchedBy (n : Nat) (s : State) : State :=
  let s := s.onPwr fun p => { p with stretch := satAdd p.stretch n, stretchTotal := satAdd p.stretchTotal n }
  s.onStep fun g => { g with stretched := g.stretched + n }

/-- The rail current of a die last read (R432). -/
def Power.current (p : Power) (east : Bool) : BitVec 32 := if east then p.curE else p.curW

/-- A calibrated entry in use whose load is exceeded by a quarter is guarded (R450). -/
def State.guard (east : Bool) (s : State) : State :=
  let e := s.entryOf s.pwr.inForce east
  let i := entryIndex s.pwr.inForce east
  if e.valid ∧ e.load.toNat * 5 < (s.pwr.current east).toNat * 4 ∧ !s.pwr.guards.getLsbD i then
    (s.onPwr fun p => { p with guards := p.guards ||| bit 16 i }).raisePwr 7
  else s

/-! ### Calibration (R451 to R453) -/

/-- The greater of two readings. -/
def larger {w : Nat} (a b : BitVec w) : BitVec w := if a < b then b else a

/-- One die of a running calibration at the boundary that closes a step (R451). -/
def CalDie.closes (op : BitVec 3) (dwell : Nat) (commit trouble : Bool) (current : BitVec 32) (junction : Int)
    (d : CalDie) : CalDie :=
  if !d.named || d.ended then d
  else
    let d := { d with junction := max d.junction junction, loadNow := larger d.loadNow current }
    if trouble then
      { d with ended := true, troubled := true
               level := match d.lowest with
                 | some n => min (tableVoltage op) (n + 10)
                 | none => tableVoltage op }
    else if !commit then d
    else if d.clean + 1 < dwell then { d with clean := d.clean + 1 }
    else
      let d := { d with lowest := some d.level, load := larger d.load d.loadNow }
      if d.level < floorVoltage op + 5 then { d with ended := true, clean := d.clean + 1 }
      else { d with level := d.level - 5, clean := 0, loadNow := 0 }

/-- Trouble on a die in the closing step (R452). -/
def State.trouble (s : State) (overrun : Bool) (east : Bool) : Bool :=
  s.step.trouble.getLsbD (if east then 1 else 0) || overrun || decide (s.step.bridgeRows ≠ []) ||
    s.step.charged.any fun k => decide (k % 66 / 33 = if east then 1 else 0)

/-- Both named dies have ended (R453). -/
def CalRun.over (c : CalRun) : Bool := (!c.west.named || c.west.ended) && (!c.east.named || c.east.ended)

/-- A calibration whose dies have ended: the set is written, unless it is a dry run (R453, R454). A write lock that has
been set since refuses the write. -/
def State.finishCal (c : CalRun) (s : State) : State :=
  if c.dry then (s.endCal.complete c.handle stOk c.detail).raisePwr 8
  else if s.sys.lock.value.getLsbD 1 then
    (((s.applyEntries c).endCal).complete c.handle stDegraded c.detail).raisePwr 10
  else (s.storeStart .calSet (s.applyEntries c).calSet (some c.handle)).onPwr fun p => { p with
    cal := p.cal.map fun c => { c with writing := true } }

/-- A running calibration at the boundary that closes a step (R451, R453). -/
def State.calStep (commit skipped overrun : Bool) (junction : Int) (s : State) : State :=
  match s.pwr.cal with
  | none => s
  | some c =>
    if skipped then s.cancelCal 2
    else if c.writing then s
    else
      let die (east : Bool) (d : CalDie) : CalDie :=
        d.closes c.op c.dwell commit (s.trouble overrun east) (s.pwr.current east) junction
      let c := { c with west := die false c.west, east := die true c.east }
      let s := s.onPwr fun p => { p with cal := some c }
      if c.over then s.finishCal c else s

/-- A die at the start of a calibration (R451). -/
def CalDie.start (op : BitVec 3) (named : Bool) (junction : Int) : CalDie :=
  { CalDie.reset with named := named, level := tableVoltage op, junction := junction }

/-- `CALIBRATE`s that the boundary takes start in its phase 6 (R451); one whose point is no longer in force is
cancelled (R453). -/
def State.startCal (s : State) : State :=
  (s.waitingFor 0xA2 fun _ => true).foldl (fun s x =>
    let l := x.2
    let op := BitVec.ofNat 3 (l.param 8 1)
    let dies := l.param 9 1
    if op ≠ s.pwr.inForce ∨ s.pwr.cal.isSome then
      (s.complete x.1 stCancelled 1).raisePwr 9
    else
      let die (i : Nat) : CalDie := CalDie.start op (dies.testBit i) s.pwr.junctionMax
      (s.working x.1).onPwr fun p => { p with
        calState := 1, calOp := op, calDies := BitVec.ofNat 2 dies
        cal := some { handle := x.1, op := op, dry := decide (l.param 10 1 = 1)
                      dwell := if l.param 12 4 = 0 then 4096 else l.param 12 4
                      west := die 0, east := die 1, writing := false } }) s

/-- Phase 6: the sequencer, the calibrations that start, and the voltages in force (R440, R449 to R451). `west` and
`east` say that a regulator reports the voltage reached. -/
def State.phase6 (west east : Bool) (s : State) : State :=
  let s := (((s.lowerCap).guard false).guard true).sequence west east
  let s := s.startCal
  if s.pwr.transition.isSome then s else s.commandVolts s.pwr.inForce

/-! ### Beat 0 (R42, R60, R101, R108, R136, R170) -/

/-- What a cell holds at beat 0 of a step. Its SRAM, its slot memory, its accumulators and its counts stay; so scratch
bytes, which are undefined at beat 0 (R51), hold their last contents (DESIGN CHOICE, assumption 115). -/
def Cell.beat0 (c : Cell) : Cell :=
  { Cell.reset with
    bankA := c.bankA, bankB := c.bankB, acc0 := c.acc0, acc1 := c.acc1, accFlags := c.accFlags
    accPoison := c.accPoison, accSize := c.accSize, sram := c.sram, poisoned := c.poisoned
    trackers := Sparse.mapVals Tracker.reset (fun t => { t with amax := 0 }) c.trackers
    flags := c.flags, lastCharge := c.lastCharge, eccSram := c.eccSram, eccSlot := c.eccSlot
    fltChecksum := c.fltChecksum, fltSteering := c.fltSteering, fltBarrier := c.fltBarrier, fltCharges := c.fltCharges }

/-- The cells and the mesh at beat 0: nothing is in flight (R71). -/
def State.beat0 (s : State) : State :=
  let s := s.onGrid fun g => { g with
    flits := [], tokens := [], pieces := [], writes := [], cells := Sparse.mapVals Cell.reset Cell.beat0 g.cells }
  (s.onFab fun f => { f with ins := [], outs := [], dataQ := [] }).edgeOpen

/-- The cells that raised a flag in the step, and the OR of their flags (R21, R100). -/
def State.arithFlags (s : State) : BitVec 32 :=
  let fs := s.grid.cells.map fun p => p.2.stepFlags
  let n := (fs.filter fun f => decide (f ≠ 0)).length
  (fs.foldl (fun (a : BitVec 5) f => a ||| f) 0).setWidth 32 ||| put 32 16 11 n

end Sys2Proof.Machine
end

