-- ==== Sys2Proof/Machine/Boundary.lean ====
section
/-!
DEFINITION. The boundary: the last beat and the verdict frame (R14, R326), the verdict (phase 1, R345 to R348), what is
published and the step report (phase 2, R18, R21), the phases in their order (R15), and the step that begins (R20, R69,
R156, R342, R445).
-/
namespace Sys2Proof.Machine

/-! ### The verdict frame (R14, R326, R327) -/

/-- This chip may lead (R33, R327). -/
def State.mayLead (s : State) : Bool :=
  s.cad.leaderEnable && (decide (s.cad.state = .holdover) || decide (s.cad.state = .leader))

/-- The chip sends verdict frames: it has peers, and has neither withdrawn nor left (R67, R324, R347). -/
def State.votes (s : State) : Bool := decide (1 < s.fab.size) && !s.hlt.withdrawn && !s.hlt.left

/-- A verdict frame for the step in progress, two copies to each group (R326, R327). -/
def State.sendVerdict (commit : Bool) (cause : BitVec 8) (s : State) : State :=
  let serving := commit && s.isServing
  let (es, adds) := if serving then s.step.serial.getD ([], []) else ([], [])
  let b : VerdictBody :=
    { commit := commit, cause := cause, serving := serving, hostFormed := serving && s.hostFormed, mayLead := s.mayLead
      step := s.cad.step, capacity := s.capacity, slots := es, additions := adds }
  let s := s.sendGroups 2 (.verdict b)
  let s := s.onFab fun f => { f with vectors := Sparse.set fullCapacity f.vectors s.fab.chip.toNat s.capacity }
  s.onStep fun g => { g with verdictSent := true }

/-- The last beat of the step ends (R14, R274, R320, R326): every inbound window has ended, the local verdict is formed,
and the verdict frame is queued. -/
def execLastBeat (s : State) : Out :=
  if !s.step.playing ∨ s.step.lastBeat then .next s
  else
    let img := s.active
    let s := s.at_ (s.cycleTick (imgHeader img).budget)
    -- a tile written in the last cycle is checked four cycles later (R62)
    let s := (s.settleAll (imgHeader img).budget)
    let s := ((imgEdges img).foldl (fun s e => s.streamEnd e) s).settleAll ((imgHeader img).budget + 4)
    let s := s.onStep fun g => { g with lastBeat := true }
    if s.votes then
      let s := if !s.step.void && s.isServing then s.announce else s
      close (s.sendVerdict (!s.step.void) s.step.cause)
    else close s

/-! ### Phase 1: the verdict (R14, R29, R345 to R348) -/

/-- What phase 1 and the tick of a boundary decide for the later phases. -/
structure Closing where
  /-- tick of the boundary -/
  tick : Nat
  /-- the boundary at B_0: no closing step -/
  first : Bool
  /-- the closing step commits -/
  commit : Bool
  /-- the closing step was skipped -/
  skipped : Bool
  /-- `void_cause` -/
  cause : BitVec 8
  /-- the closing step overran -/
  overrun : Bool
  /-- `junction_max` of the closing step -/
  junction : Int
  /-- physical cells due for an automatic fence -/
  due : List Nat
  /-- the west regulator reports the voltage reached -/
  west : Bool
  /-- the east regulator reports the voltage reached -/
  east : Bool
  deriving DecidableEq, Repr

/-- The peers not yet declared lost whose verdict for the closing step has not arrived (R14). -/
def State.missingPeers (s : State) : List (BitVec 12) :=
  s.peers.filter fun c => decide (c ∉ s.hlt.lost) && !s.step.verdicts.any fun r => decide (r.chip = c)

/-- A leave notice of a peer has arrived: the boundary that closes the step in which it fell declares the peer lost,
whichever step was its last (R328, R345). -/
def State.noticed (s : State) (c : BitVec 12) : Bool := s.hlt.notices.any fun n => decide (n.1 = c)

/-- The peers that the boundary declares lost (R345). -/
def State.newlyLost (s : State) : List (BitVec 12) :=
  if s.hlt.withdrawn then []
  else s.peers.filter fun c => decide (c ∉ s.hlt.lost) &&
    (s.noticed c || (decide (c ∈ s.missingPeers) && decide (c ∈ s.hlt.missing)))

/-- The bits of `void_cause` that the peers' verdicts give (R14, R21). -/
def State.peerCause (s : State) : BitVec 8 :=
  flag 8 2 (decide (s.missingPeers ≠ [])) ||| flag 8 3 (s.step.verdicts.any fun r => !r.body.commit)

/-- The closing step overran: its last beat had not ended (R29). -/
def State.overran (s : State) : Bool := s.step.playing && !s.step.lastBeat && (s.cylOf .active).isSome

/-- A chip of a larger partition that has no groups: every step that it plays is voided (R317). -/
def State.groupless (s : State) : Bool := decide (1 < s.fab.size) && decide (s.fab.groups = [])

/-- The outcome of the closing step: whether it commits, whether it was skipped, and its `void_cause` (R14, R21, R29,
R69, R156, R317, R343, R345 to R347). -/
def State.outcome (s : State) : Bool × Bool × BitVec 8 :=
  let peers := if 1 < s.fab.size then s.peerCause else 0
  if s.hlt.withdrawNow then (false, false, 0)
  else if s.newlyLost ≠ [] then (false, false, bit 8 2 ||| s.step.cause ||| peers)
  else match s.step.noPlay with
    | .withdrawn | .repair | .fill => (false, false, 0)
    | .peerLost => (false, false, bit 8 2)
    | .skipped => (false, true, bit 8 4 ||| peers)
    | .none =>
      if s.overran then (false, false, 0)
      else (!s.step.void && decide (peers = 0) && !s.groupless, false, s.step.cause ||| peers)

/-- A peer is declared lost (R210, R345, R346, R453). -/
def State.declareLost (c : BitVec 12) (s : State) : State :=
  let s := s.onHlt fun h => { h with
    lost := h.lost ++ [c], peerLost := true, lastLost := put 32 0 12 c.toNat ||| bit 32 31, declared := satInc h.declared
    lostStep := s.cad.step }
  ((s.raiseHlt 1).resolvePeer c).cancelCal 3

/-- The cycles of a stretching episode that were doubled before this boundary count in the closing step (R441). How many
they are nothing gives: a free value (DESIGN CHOICE, assumption 171). -/
def State.countStretch (s : State) : State :=
  if s.pwr.episode.isSome then s.drawn.stretchedBy (s.free 32).toNat else s

/-- Every remote move of a chip that withdraws is resolved, as though every peer had been declared lost (R347). -/
def State.resolvePeers (s : State) : State := (s.peers.foldl (fun s c => s.resolvePeer c) s).cancelCal 3

/-- Phase 1 of a boundary at tick `b` (R14, R345 to R347). -/
def State.judge (b : Nat) (west east : Bool) (s : State) : Closing × State :=
  let s := s.countStretch
  let (commit, skipped, cause) := s.outcome
  let overrun := s.overran
  let lost := s.newlyLost
  let withdrew := s.hlt.withdrawNow
  let missing := s.missingPeers
  let s := lost.foldl (fun s c => s.declareLost c) s
  let s := s.onHlt fun h => { h with missing := missing, withdrawNow := false }
  let s := if withdrew then s.resolvePeers else s
  let s := if withdrew || decide (lost ≠ []) then s.losePartition else s
  let s := if overrun then (s.onCad fun c => { c with overruns := satInc c.overruns }).raiseCad 5 else s
  let j := s.junctionOf s.cad.bk b
  let (due, s) := if commit || skipped then ([], s) else s.chargeCells
  let s := if commit || skipped then s else s.bridgeRows
  ({ tick := b, first := false, commit := commit, skipped := skipped, cause := cause, overrun := overrun, junction := j
     due := due, west := west, east := east }, s)

/-! ### Phase 2: publication (R18, R349) and the step report (R21) -/

/-- An uncorrectable read is acted on, according to the owner of the page that holds the data (R349). -/
def State.actOnRead (tier slot : Nat) (s : State) : State :=
  let e := s.dirEntry tier slot
  let leave (s : State) : State := (s.losePage tier slot).withdraw
  if e.state = .free ∨ e.state = .reserved then s
  else if e.ownerKind = ownModel then
    match s.wgt.models.find? fun m => decide (m.id = e.ownerId) && m.pages.any fun p => decide (gaSlot p.2 = (tier, slot)) with
    | none => s
    | some m => match m.pages.find? fun p => decide (gaSlot p.2 = (tier, slot)) with
      | none => s
      | some p => s.scrubMismatch m p.1
  else if e.ownerKind = ownContext then
    if s.chips = 1 then ((s.losePage tier slot).loseCtx (e.ownerId.toNat % 1024) stCheckFailed).raiseSrv 5
    else leave s
  else if e.ownerKind = ownFunction then
    if s.cyl.known.any fun k => s.windowNames k tier slot then leave s else s
  else leave s

/-- The uncorrectable reads since the last boundary are acted on (R349). -/
def State.actOnReads (s : State) : State :=
  let rs := s.hlt.ueReads
  let s := s.onHlt fun h => { h with ueReads := [] }
  rs.foldl (fun s r => s.actOnRead r.2.1.toNat r.2.2) s

/-- What the serving chip's verdict frame for the closing step carried (R274, R327). -/
def State.servingItems (s : State) : List SlotEntry × List (BitVec 32 × BitVec 16) :=
  if s.isServing then s.step.serial.getD ([], [])
  else match s.stageChip (s.fab.size - 1) with
    | none => ([], [])
    | some c => match s.step.verdicts.find? fun r => decide (r.chip = c) with
      | none => ([], [])
      | some r => (r.body.slots, r.body.additions)

/-- The records of phase 2 of a committing boundary, those of its slots and those of what completes there (R18, R155,
R304, R339, R358). -/
def State.publishAll (s : State) : State :=
  let s := if s.isServing then s.publish else s.publishPeer s.servingItems.1
  let s := (s.completeBatches.masksDone).takeReleases
  let s := match s.cyl.switched with
    | some h => (s.onCyl fun y => { y with switched := none }).due h stOk 0
    | none => s
  let done := s.grid.doneHandles
  let s := s.onGrid fun g => { g with doneHandles := [] }
  done.foldl (fun s x => s.due x.1 x.2.1 x.2.2) s

/-- The drain is complete when the boundary leaves no slot occupied (R154). -/
def State.takeDrain (empty : Bool) (s : State) : State :=
  match s.cyl.drainHandle with
  | some h => if empty && s.taken h then (s.onCyl fun y => { y with drain := 2, drainHandle := none }).due h stOk 0 else s
  | none => s

/-- The step report (R21). Its `health_events` are those raised since the report before: events that phases 3 to 11 of
this boundary raise count in the next report (assumption 47). -/
def State.reportBytes (k : Closing) (s dry : State) : List (BitVec 8) :=
  let g := s.step
  let n := 2 ^ s.cfgField 48 1
  let phase := decide (s.cmd.srTail.toNat / n % 2 = 0)
  let counts (v : Nat) : BitVec 16 := if k.commit then satOf 16 v else 0
  let op : BitVec 8 := g.opAtStep.setWidth 8 ||| flag 8 3 g.transAtStep |||
    flag 8 4 (k.overrun || decide (g.stretched ≠ 0) || s.pwr.episode.isSome)
  padTo 64 (bvBytes 8 s.cad.step ++ leBytes 8 k.tick ++
    [if k.commit then 1 else if k.skipped then 3 else 2, flag 8 0 phase, k.cause, op,
     BitVec.ofNat 8 s.cad.state.code, s.cyl.epoch.setWidth 8 ||| flag 8 4 s.cyl.bank] ++
    leBytes 2 g.replay ++ bvBytes 2 (counts g.tokens) ++ bvBytes 2 (counts dry.step.joinsN) ++
    bvBytes 2 (counts dry.step.leavesN) ++ bvBytes 2 (counts dry.step.placedN) ++ bvBytes 4 s.arithFlags ++
    bvBytes 2 (satOf 16 g.checksums) ++ bvBytes 2 (satOf 16 g.steering) ++ leBytes 2 dry.fencedCount ++
    bvBytes 2 g.live ++ bvBytes 4 (satOf 32 g.stretched) ++ bvBytes 4 s.cad.offset ++
    bvBytes 2 (intBits 16 k.junction) ++ bvBytes 2 (satOf 16 g.health) ++ bvBytes 4 g.reportsLost)

/-- The step report is written, or dropped and counted where the ring is full (R21). A chip that has halted writes none
(R351); nor does one whose function 0 writes no records (R389, R392) or that has no ring, which counts none as dropped
(assumptions 7 and 8). -/
def State.writeReport (bs : List (BitVec 8)) (s : State) : State :=
  let n := 2 ^ s.cfgField 48 1
  let c := s.cmd
  if s.hlt.halted then s
  else if !s.configured ∨ !(s.func 0).state.records then s.onStep fun g => { g with health := 0 }
  else if n ≤ (c.srTail - c.srHead).toNat then
    s.onStep fun g => { g with reportsLost := satInc g.reportsLost, health := 0 }
  else
    let s := s.hostWrite 0 (c.srBase.toNat + 64 * (c.srTail.toNat % n)) bs
    let s := s.onCmd fun c => { c with srTail := c.srTail + 1 }
    let s := s.onStep fun g => { g with reportsLost := 0, health := 0 }
    if s.cfgField 50 2 = 0xFFFF then s else s.vectorEvent (globalVector 0 (s.cfgField 50 2))

/-- The counts of the health block for the closing step (R359, R360). -/
def State.countOutcome (k : Closing) (s : State) : State :=
  if k.commit then
    (s.onHlt fun h => { h with cCommitted := h.cCommitted + 1, stalled := false }).onStep fun g => { g with
      committed := some s.cad.step }
  else if k.skipped then s.onHlt fun h => { h with skips := satInc h.skips, cSkipped := satInc h.cSkipped }
  else s.onHlt fun h => { h with
    voids := satInc h.voids, cVoided := satInc h.cVoided
    byCause := h.byCause.mapIdx fun i n => if k.cause.getLsbD i then satInc n else n
    causeZero := if k.cause = 0 then satInc h.causeZero else h.causeZero }

/-! ### Phases 4 to 9 -/

/-- Phase 5: a switch that is due (R155). -/
def State.phase5 (s : State) : State :=
  match s.cyl.pend with
  | none => s
  | some p =>
    if s.cyl.drain = 2 ∧ p.atStep.toNat ≤ s.nextStep then
      let r := s.trySwitch p
      if r.1 then r.2.onCyl fun y => { y with switched := some p.handle } else r.2
    else s

/-- Slots whose occupants are lost leave, whatever the outcome, and their input entries are cleared (R346, R349). -/
def State.forceOut (s : State) : State :=
  let out := (s.srv.slots.filter fun x => decide ((s.ctx x.2.ctx).state = .lost)).map (·.1)
  let s := s.forcedLeaves
  if s.fab.stage = 0 then out.foldl (fun s i => s.putInput i) s else s

/-- Phases 7 to 9 of a committing boundary (R15, R274, R283 to R290). The contexts that return to `WAITING` at one
boundary enter it together (R283). -/
def State.slotChanges (b : Nat) (s : State) : State :=
  let s := if s.chips = 1 then s.plan b
    else
      let (es, adds) := s.servingItems
      s.applySerial es adds
  let s := s.countNotes.batchesApplied
  s.onSrv fun v => { v with waitClock := v.waitClock + 1 }

/-- Phases 3 to 9 (R15). -/
def State.phases3to9 (k : Closing) (s : State) : State :=
  let s := if k.commit && !k.first then s.scales else s
  let s := s.fencePhase k.due
  let s := if k.commit then s.phase5 else s
  let s := if k.first then s else s.calStep k.commit k.skipped k.overrun k.junction
  let s := (s.phase6 k.west k.east).forceOut
  if k.commit then s.slotChanges k.tick else s

/-- Phase 2 of a boundary that closes a step. The reads that could not be corrected are acted on first, so that a context
that R349 makes `LOST` has its pending commands completed so, a `CANCEL` among them (R354), and no further record (R305,
assumption 189). What a rehearsal of the later phases gives the report is read off it
(R18, R21). The last boundary of a quiesce has no later phases, so the report shows none and nothing of them completes
(R350). -/
def State.phase2 (k : Closing) (s : State) : State :=
  let s := s.actOnReads
  let s := if k.commit then s.publishAll else s
  let last := s.hlt.pwrfailPending
  let s := if last then s else s.takeCadence k.tick k.commit
  let dry := if last then s else s.phases3to9 k
  let s := if k.commit && !last then s.takeDrain (decide (dry.srv.slots = [])) else s
  let s := s.writeDues
  (s.writeReport (s.reportBytes k dry)).countOutcome k

/-- Phase 2 of the boundary at B_0: the write-back mode is left, and `ARM` completes (R37, R213, R215). -/
def State.phase2First (b : Nat) (s : State) : State :=
  let h := s.cad.armHandle
  let s := s.onCad fun c => { c with armHandle := none }
  if s.mem.converting then s.onMem fun m => { m with convHandle := m.convHandle ++ h.toList }
  else if s.mem.writeBack then
    if s.anyShadow then s.leaveWriteBack h.toList
    else (s.onMem fun m => { m with writeBack := false }).completeOpt h stOk (BitVec.ofNat 32 b)
  else s.completeOpt h stOk (BitVec.ofNat 32 b)

/-! ### Phases 10 and 11, and the step that begins -/

/-- Phase 10: timers, scrubs, suspect pages and write-backs (R214, R255, R257, R296, R297). -/
def State.phase10 (s : State) : State :=
  let s := s.openCtxs.foldl (fun s n => (s.ttl2Due n).ttl3Due n) s
  let s := s.startScrubs.restoreSuspects
  if s.mem.writeBack then s.writeBackAll else s

/-- Phase 11: after a commit the next step's inputs are staged (R15, R20). -/
def State.phase11 (k : Closing) (s : State) : State :=
  if k.commit then
    (if k.first then s else s.onCad fun c => { c with step := c.step + 1 }).stageInputs
  else s

/-- The planes in a stripe list in force, for any peer with which the active cylinder exchanges a fabric stream (R21). -/
def State.livePlanes (s : State) : BitVec 16 :=
  let chips := (imgEdges s.active).filterMap fun e => if e.kind = 1 ∨ e.kind = 2 then s.stageChip e.peer else none
  (s.fab.stripes.filter fun x => chips.any fun c => decide (c.toNat = x.1)).foldl
    (fun (b : BitVec 16) x => x.2.foldl (fun (b : BitVec 16) p => b ||| bit 16 (p % 16)) b) 0

/-- Whether the next step is skipped (R445): from a reading of 105 °C until a skipped step closes below 103 °C. -/
def State.skipNext (k : Closing) (s : State) : Bool :=
  !k.first && (decide (1680 ≤ k.junction) || (s.pwr.skipping && !(k.skipped && decide (k.junction < 1648))))

/-- Why the cells play no beat of the step that begins (R69, R156, R346, R347, R445). -/
def State.standstill (skip : Bool) (s : State) : NoPlay :=
  if s.hlt.withdrawn ∧ !s.hlt.withdrawNow then .withdrawn
  else if s.hlt.peerLost then .peerLost
  else if skip then .skipped
  else if s.grid.repairs ≠ [] then .repair
  else if s.cyl.fillDue.isSome then .fill
  else .none

/-- `void_cause` of the verdict sent at the start of a step that the cells do not play (R69, R156, R343). -/
def NoPlay.cause : NoPlay → BitVec 8
  | .skipped => bit 8 4
  | .peerLost => bit 8 2
  | _ => 0

/-- The replay index reaches 16 (R342). -/
def State.replayed (s : State) : State :=
  let n := s.step.replay
  let s := s.onHlt fun h => { h with replayMax := larger h.replayMax (satOf 16 n) }
  if n = 0 then s.onHlt fun h => { h with stallRaised := false }
  else if 16 ≤ n ∧ !s.hlt.stallRaised then
    (s.onHlt fun h => { h with stallRaised := true, stalled := true, stalls := satInc h.stalls }).raiseHlt 0
  else s

/-- The step begins (R11, R20, R69, R342, R343). -/
def State.beginStep (k : Closing) (s : State) : State :=
  let skip := s.skipNext k
  let s := if skip then (s.onPwr fun p => { p with skipping := true }).raisePwr 2
    else s.onPwr fun p => { p with skipping := false }
  let s := if skip then s.cancelCal 2 else s
  let still := s.standstill skip
  let s := s.onCad fun c => { c with
    bk := k.tick, begun := true, heldPeriod := s.period, next := k.tick + s.period }
  let s := s.onStep fun g => { Step.reset with
    replay := if k.commit || k.first then 0 else min 65535 (g.replay + 1)
    playing := decide (still = .none), running := true, noPlay := still, opAtStep := s.pwr.inForce
    transAtStep := s.pwr.transition.isSome, live := s.livePlanes, health := g.health, reportsLost := g.reportsLost
    committed := g.committed, boundaries := g.boundaries }
  let s := s.onGrid fun g => { g with repairs := g.repairs.map fun r => if r.running then { r with spans := r.spans + 1 } else r }
  let s := (s.replayed.beat0).sendLeader
  if still ≠ .none ∧ s.votes then s.sendVerdict false still.cause else s

/-! ### The whole sequence (R15) -/

/-- A chip that has acted on `PWRFAIL_N` is quiet after the records of the last boundary (R350); its handles end
(R375). -/
def State.quiesce (s : State) : State :=
  let s := (s.stopCells.sendLeave 0x01).endHandles
  let s := s.onHlt fun h => { h with pwrfailPending := false, halted := true, haltCause := 1 }
  s.onPins fun p => { p with faultN := false }

/-- No batch slot is occupied while the cadence is `UNARMED` (R295): a context that joined at the boundary that takes a
`DISARM` leaves its slot again (DEDUCED, assumption 182). -/
def State.vacate (s : State) : State :=
  ((s.srv.slots.foldl (fun s x => s.leaveSlot x.1) s).freeClosing).onSrv fun v => { v with fed := [], gens := [] }

/-- The `DISARM`s that the boundary takes: the cadence is `UNARMED` after phase 11 (R37). -/
def State.takeDisarm (b : Nat) (s : State) : Option State :=
  match (s.waitingFor 0x12 fun l => decide (l.param 8 1 = 5)).map (·.1) with
  | [] => none
  | hs => some (((hs.foldl (fun s h => s.working h) s).vacate.unarm).completeAll hs stOk (BitVec.ofNat 32 b))

/-- Phases 3 to 11 and the step that begins; the boundary source pulses after phase 11 of every boundary (R407). -/
def State.afterReport (k : Closing) (s : State) : State :=
  let s := s.phases3to9 k
  let s := (s.phase10.phase11 k).takeMasks
  let s := s.onCad fun c => { c with bk := k.tick }
  let s := s.pulse 61
  match s.takeDisarm k.tick with
  | some s => s
  | none => ((s.restripe.fabricShort).cadenceTurn).beginStep k

/-- The boundary at B_0 (R37): no closing step, no report. Health events raised before it belong to no step (R21). A chip
that withdrew in `ACQUIRING` takes its own loss here, the boundary that follows (R347). -/
def State.firstBoundary (b : Nat) (west east : Bool) (s : State) : State :=
  let k : Closing := { tick := b, first := true, commit := true, skipped := false, cause := 0, overrun := false
                       junction := 0, due := [], west := west, east := east }
  let s := s.countStretch.onStep fun g => { g with health := 0 }
  let s := if s.hlt.withdrawNow then (s.onHlt fun h => { h with withdrawNow := false }).resolvePeers.losePartition else s
  (((s.phase2First b).actOnReads.takeCadence b true).writeDues).afterReport k

/-- A boundary that closes a step. -/
def State.closingBoundary (b : Nat) (west east : Bool) (s : State) : State :=
  let (k, s) := s.judge b west east
  let s := (if k.commit then s else s.rollBack).phase2 k
  if s.hlt.pwrfailPending then s.quiesce else s.afterReport k

/-- `BOUNDARY`: boundary k runs at B_k (R15, R25). The operands say whether each core regulator reports the voltage of
a transition reached (R440). A window that is open still, because a shorter period brings the boundary before its end,
closes here (DESIGN CHOICE, assumption 188). -/
def execBoundary (vrWest vrEast : Bool) (s : State) : Out :=
  if s.unarmed ∨ !s.cad.b0Fixed ∨ s.hlt.halted then .next s
  else
    let s := if s.cad.closable then s.closeWindow else s
    let b := s.cad.next
    let s := (s.at_ b).onStep fun g => { g with boundaries := g.boundaries + 1 }
    let s := s.voteAll
    if s.hlt.halted then close s
    else if s.cad.begun then close (s.closingBoundary b vrWest vrEast)
    else close (s.firstBoundary b vrWest vrEast)

end Sys2Proof.Machine
end

