-- ==== Sys2Proof/Machine/Health.lean ====
section
/-!
DEFINITION. Faults of memory and of the management domain: uncorrectable reads and the loss of a stack, a channel or a
drive (R226, R264, R349, R351, R353), NVMe completions, firmware SRAM (R427), heartbeats (R428) and core states (R430), the records of the
calibration store (R447, R453) and `PWRFAIL_N` (R350, R354, R479).
-/
namespace Sys2Proof.Machine

/-! ### Lost pages (R264, R271, R353) -/

/-- Pages of a version's image are lost: the shards that wrote tiles into them are failed, and the version is
`INCOMPLETE` (R264). One whose pages are in a move becomes so when the move ends; one that retires stays so. -/
def State.modelLoses (m : ModelVer) (pages : List Nat) (s : State) : State :=
  if pages = [] then s
  else
    let s := pages.foldl (fun s p => (pageShards m.manifest p).foldl
      (fun s i => s.setShard m.id m.version i .failed) s) s
    s.onModel m.id m.version fun m => { m with
      failedPages := m.failedPages ++ pages.filter fun p => decide (p ∉ m.failedPages)
      state := if m.state = .active ∨ m.state = .resting then .incomplete else m.state }

/-- The pages of a version whose entries are `LOST`. -/
def State.lostOf (s : State) (m : ModelVer) : List Nat :=
  (m.pageList.filter fun p => decide ((s.dirEntry (gaSlot p.2).1 (gaSlot p.2).2).state = .lost)).map (·.1)

/-- What the owners of pages that have become `LOST` learn at once: versions are `INCOMPLETE` (R264), and contexts are
`LOST` (R271). -/
def State.ownersLearn (tier : Nat) (slots : List Nat) (s : State) : State :=
  let s := s.wgt.models.foldl (fun s m => s.modelLoses m (s.lostOf m)) s
  let ctxs := ((slots.map fun sl => s.dirEntry tier sl).filter fun e => decide (e.ownerKind = ownContext)).map
    fun e => e.ownerId.toNat % 1024
  if ctxs = [] then s
  else ((ctxs.eraseDups.foldl (fun s n => s.loseCtx n stCheckFailed) s).raiseSrv 5).writeDues

/-- A page whose medium has failed becomes `LOST` (R353): a move that writes it fails, a move that reads it fails, and a
move between chips is resolved as R210 resolves one. A shadow of the page is given up with it. -/
def State.pageFails (tier slot : Nat) (s : State) : State :=
  let at_ (t : BitVec 4) (sl : Nat) : Bool := decide (t.toNat = tier) && decide (sl = slot)
  let s := (s.mem.moves.filter fun mv => at_ mv.dstTier mv.dst).foldl (fun s mv => s.endLocal mv true false) s
  let s := (s.mem.moves.filter fun mv => at_ mv.srcTier mv.src).foldl (fun s mv => s.endLocal mv false true) s
  let s := (s.mem.remotes.filter fun r => at_ r.tier r.slot).foldl (fun s r => s.resolveRemote r) s
  match (s.dirEntry tier slot).state with
  | .free | .reserved | .lost => s
  | _ =>
    let shadow := s.shadowOf tier slot
    let s := s.losePage tier slot
    match shadow with
    | some f => s.freeSlotAt 1 f
    | none => s

/-! ### Uncorrectable reads and failed devices (R349, R351, R353) -/

/-- The wired source of a stack, a channel or a root port (R407). -/
def unitSource (tier : BitVec 4) (unit : Nat) : Nat :=
  if tier = 1 then 37 + unit else if tier = 2 then 25 + unit else 17 + unit

/-- A stack, a channel or a root port is in service. -/
def State.unitUp (s : State) (tier : BitVec 4) (unit : Nat) : Bool :=
  if tier = 1 then s.mem.hbmStacks.getLsbD unit
  else if tier = 2 then s.mem.channels.getLsbD unit
  else s.mem.mounted && decide (unit ∈ s.memberPorts)

/-- `UNCORRECTABLE_READ`: a read of a page meets an error that cannot be corrected, on the stack, channel or root port
`unit`. The owner of a page in tier 1 or 2 is handled at the next boundary (R349); more than 64 such reads of one
stack in 1 s halt the chip (R351). -/
def execUncorrectableRead (tier : BitVec 4) (slot unit : Nat) (tick : Nat) (s : State) : Out :=
  let s := s.at_ tick
  if s.hlt.halted ∨ !s.unitUp tier unit then .next s
  else
    let s := s.uncorrectable tier.toNat slot
    let s := if tier = 3 then s else s.signal (unitSource tier unit) true
    if tier = 1 then
      let recent := (unit, s.uptime) :: s.hlt.stackUe.filter fun x => decide (s.uptime < x.2 + 1000000000)
      let s := s.onHlt fun h => { h with stackUe := recent }
      if 64 < (recent.filter fun x => decide (x.1 = unit)).length then close (s.halt 0x05 0x04 true) else finish s
    else finish s

/-- `HBM_STACK_FAILURE`: a stack stops answering, and the chip halts (R351). -/
def execHbmStackFailure (stack : Nat) (s : State) : Out :=
  if s.unitUp 1 stack then close ((s.signal (unitSource 1 stack) true).halt 0x05 0x04 true) else .next s

/-- A page of tier 2 has a granule on a channel. -/
def DirEntry.onChannel (e : DirEntry) (channel : Nat) : Bool :=
  (List.range (ceilDiv e.stored.toNat 4096)).any fun i =>
    decide (Config.granuleChannel (e.granule.toNat + i) % 12 = channel)

/-- `DDR_CHANNEL_FAILURE` at run time (R353): the channel is left out, its capacity goes, and every page with a granule
on it becomes `LOST`. -/
def execDdrChannelFailure (channel : Nat) (s : State) : Out :=
  if !s.unitUp 2 channel then .next s
  else
    let slots := (s.mem.dir2.filter fun p => p.2.onChannel channel).map (·.1)
    let s := (s.onMem fun m => { m with
      channels := m.channels &&& ~~~ (bit 12 channel), t2Bytes := m.t2Bytes - m.channelBytes.getD channel 0 }).raiseMem 3
    let s := s.signal (unitSource 2 channel) true
    close ((slots.foldl (fun s sl => s.pageFails 2 sl) s).ownersLearn 2 slots)

/-- The I/O queue pairs of the drives left are deleted with the volume, each submission queue before its completion queue
(R226; assumption 145). -/
def Memory.deletePairs (m : Memory) : Memory :=
  let gone (p : Nat) : List (Nat × AdminCmd) := (List.range 8).flatMap fun q => [(p, .deleteSq q), (p, .deleteCq q)]
  { m with
    adminLog := (m.memberPorts.flatMap gone).reverse ++ m.adminLog
    drives := m.drives.map fun d => { d with pairs := 0 } }

/-- A drive fails (R353): where it is a member of the mounted volume, the volume is unmounted and every page of tier 3
becomes `LOST`. -/
def State.driveFails (port : Nat) (s : State) : State :=
  let member := s.unitUp 3 port
  let s := s.onMem fun m => { m with
    drives := listModify m.drives port fun d => { d with failed := true, pairs := 0 }
    driveDma := m.driveDma.filter fun x => decide (x.port ≠ port)
    driveWait := m.driveWait.filter fun x => decide (x.port ≠ port) }
  let s := s.signal (unitSource 3 port) true
  if member then
    let slots := s.mem.dir3.map (·.1)
    let s := (slots.foldl (fun s sl => s.pageFails 3 sl) s).ownersLearn 3 slots
    (s.onMem fun m => { m.deletePairs with
      mounted := false, members := 0, volSlots := 0, driveDma := [], driveWait := [] }).raiseMem 5
  else s

/-- A drive answers on the root port, and is in use. -/
def State.driveUp (s : State) (port : Nat) : Bool :=
  (s.mem.drives[port]?).any fun d => d.present && !d.refused && !d.failed

/-- `FLASH_DRIVE_TIMEOUT`: no completion within 8 s, or fatal status (R353). -/
def execFlashDriveTimeout (port : Nat) (s : State) : Out :=
  if s.driveUp port then close (s.driveFails port) else .next s

/-- A copy of a member label is on its drive; after the first the second is written (R228). -/
def State.labelWritten (c : DriveCmd) (second : Bool) (bytes : List (BitVec 8)) (s : State) : State :=
  let s := s.onMem fun m => { m with drives := listModify m.drives c.port fun d =>
    if second then { d with label2 := bytes }
    else { d with label1 := bytes, generation := BitVec.ofNat 64 (fieldAt bytes 28 8) } }
  if second then s else s.toDrive c.port [(.label true bytes, 8)] none

/-- A command over a page of a move that fails: the move fails, on a read as an uncorrectable error of its source. -/
def State.driveError (c : DriveCmd) (s : State) : State :=
  match c.move.bind fun q => s.mem.moves.find? fun mv => decide (mv.seq = q) with
  | none => s
  | some mv =>
    if c.op = .read then (s.uncorrectable 3 mv.src).endLocal mv false true else s.endLocal mv true false

/-- `NVME_COMPLETION`: a drive posts the completion of a command (R226). A success lets the move it belongs to go on;
an error fails it; a fatal status fails the drive. -/
def execNvmeCompletion (port : Nat) (command : Nat) (status : NvmeStatus) (s : State) : Out :=
  match s.mem.driveDma.find? fun x => decide (x.port = port) && decide (x.id = command) with
  | none => .next s
  | some c =>
    if !s.driveUp port then .next s
    else
      let rest := (s.onMem fun m => { m with driveDma := m.driveDma.erase c }).pumpDrives
      match status, c.op with
      | .success, .label second bytes => finish (rest.labelWritten c second bytes)
      | .success, _ => finish rest
      | .error, _ => close (rest.driveError c)
      | .fatal, _ => close (s.driveFails port)

/-! ### The management cores (R427, R428) -/

/-- `FIRMWARE_SRAM_UNCORRECTABLE`: the chip halts with cause 0x04 (R427); before the firmware runs, the boot stage that
loads it fails (R467). -/
def execFirmwareSramUncorrectable (s : State) : Out :=
  let s := s.onMgt fun m => { m with fwSramBad := true }
  if s.cfg.inPulse ∨ s.cfg.stage.toNat ≤ 3 then .next s else close (s.halt 0x04 0x04 true)

/-- What each core that runs is found to do: running (1) or waiting for an interrupt (2); one that the debug module has
halted (3) stays so (R430). The firmware that decides it is not modelled: a free value (DESIGN CHOICE, assumption 173). -/
def State.sampleCores (s : State) : State :=
  let found (i : Nat) (x : BitVec 3) : BitVec 3 :=
    if x = 0 ∨ x = 3 then x else if (Config.freeValue 1 (s.freeCount + i) : BitVec 1) = 1 then 2 else 1
  ((s.onFreeCount (· + 5)).onMgt fun m => { m with coreState := m.coreState.mapIdx found }).lines

/-- `HEARTBEAT_INTERVAL`: the silent intervals of the cores that run are counted (R428). A count that reaches 5 raises
`BEAT_LATE`, and one that reaches 10 halts the chip. -/
def execHeartbeatInterval (s : State) : Out :=
  let m := s.mgt
  let runs (i : Nat) : Bool := decide (m.coreState.getD i 0 ≠ 0)
  let counts := (List.range 5).map fun i =>
    if m.written.getD i false || !runs i then 0 else satInc (m.silent.getD i 0)
  let newly (n : BitVec 4) : Bool := (List.range 5).any fun i =>
    decide (counts.getD i 0 = n) && decide (m.silent.getD i 0 ≠ n)
  let s := s.onMgt fun m => { m with silent := counts, written := List.replicate 5 false }
  let s := (if newly 5 then s.raiseMgt 0 else s).sampleCores
  if newly 10 then close (s.halt 0x04 0x04 true) else finish s

/-! ### Records of the calibration store (R447, R453, R454) -/

/-- The calibration set has been written, or could not be (R453, R454): the entries apply, and `CALIBRATE`
completes. -/
def State.calStored (ok : Bool) (s : State) : State :=
  match s.pwr.cal with
  | none => s
  | some c =>
    if c.writing then
      let s := (s.applyEntries c).endCal
      if ok then (s.complete c.handle stOk c.detail).raisePwr 8
      else (s.complete c.handle stDegraded c.detail).raisePwr 10
    else s

/-- `CALIBRATION_STORE_WRITE_DONE`: the oldest write of a record has ended (R447); a failed write leaves the record as it
was, and later writes of it wait. -/
def execCalibrationStoreWriteDone (record : StoreRec) (ok : Bool) (s : State) : Out :=
  match s.store.writing.find? fun x => decide (x.1 = record) with
  | none => .next s
  | some x =>
    let s := s.onStore fun t => { t with writing := t.writing.erase x }
    let s := if ok then s.storeWrite record x.2.1 else s
    if record = .calSet then
      let s := if ok then s.onPwr fun p => { p with storeValid := true } else s
      close (s.calStored ok)
    else finish s

/-! ### Power failure (R350, R354, R479) -/

/-- What the report of a step stopped by a power failure holds: `VOIDED` with `void_cause` 0 (R350). -/
def State.cutShort (s : State) : Closing :=
  { tick := s.now, first := false, commit := false, skipped := false, cause := 0, overrun := false
    junction := s.junctionOf s.cad.bk s.now, due := [], west := false, east := false }

/-- `PWRFAIL_N` is acted on, once (R350): the step in progress ends at its boundary where that comes within 2 ms and the
cells play; otherwise it is reported `VOIDED` at once. Then the chip is quiet. During boot, boot stops (R479). -/
def execPwrfail (tick : Nat) (s : State) : Out :=
  let s := s.at_ tick
  if s.hlt.pwrfail ∨ !s.pins.powered ∨ s.hlt.haltCause = 2 then .next s
  else
    let t := (s.onHlt fun h => { h with pwrfail := true, pwrfailPending := true }).raiseHlt 6
    if s.cfg.inPulse ∨ s.cfg.stage ≠ 8 then close (t.quiesce.onCfg fun c => { c with pwrStop := true })
    else if s.unarmed ∨ !s.cad.begun ∨ s.hlt.halted then close t.quiesce
    else if s.step.playing ∧ s.cad.next ≤ s.now + 2000000 then close t
    else
      let s := t.countStretch
      let k := s.cutShort
      close (((s.stopCells).writeReport (s.reportBytes k s)).countOutcome k).quiesce

end Sys2Proof.Machine
end

