-- ==== Sys2Proof/Machine/PowerRows.lean ====
section
/-!
DEFINITION. Power, clocks and thermal limits: sensor scans and the thermal trip (R443, R444, R446), rail currents
(R432), margin sensors (R441), PLLs and references (R434 to R436), and the sequencer while unarmed (R477).
-/
namespace Sys2Proof.Machine

/-! ### Thermal (R443, R444, R446) -/

/-- The thermal trip (R446, R351): the clocks stop, `THERMTRIP_N` and `FAULT_N` fall, the chip halts, its commands end
without completion (R375), and the PCIe link goes down. -/
def State.trip (s : State) : State :=
  let s := (s.halt 0x02 0x05 false).endHandles
  let s := s.onPins fun p => { p with thermtripN := false, faultN := false, linkUp := false }
  s.onHlt fun h => { h with linkFell := true }

/-- The scans that a later boundary can still need: those of the last 1 ms, those of the step in progress, and the one
before it (R443, R444). -/
def keptScans (from_ : Nat) : List (Nat × Int × Nat) → List (Nat × Int × Nat)
  | [] => []
  | x :: r => if from_ < x.1 then x :: keptScans from_ r else [x]

/-- The uptime up to which a later boundary needs no scan but the latest: 1 ms ago, and the boundary that began the step in
progress (R443, R444). -/
def State.scansFrom (s : State) : Nat :=
  if s.cad.begun then min (s.uptime - 1000000) (s.elapsed s.cad.bk) else s.uptime - 1000000

/-- `THERMAL_SCAN`: the junction sensors and the input power are read (R443). The time without a break below the
thresholds of R444 is kept; a reading of 115 °C trips (R446). -/
def execThermalScan (tick : Nat) (hottest coolest : Int) (power : BitVec 32) (s : State) : Out :=
  let s := s.at_ tick
  if !s.pins.powered then .next s
  else
    let below := decide (hottest < (s.pwr.thermUp.toNat : Int) * 16) &&
      decide (power.toNat * 20 < s.pwr.limit.toNat * 1000 * 19)
    let s := s.onPwr fun p => { p with
      junctionMax := hottest, junctionMin := coolest, power := power
      scans := (s.uptime, hottest, power.toNat) :: keptScans s.scansFrom p.scans
      belowSince := if below then some (p.belowSince.getD s.uptime) else none }
    if 1840 ≤ hottest ∧ s.pins.thermtripN then close s.trip else finish s

/-- `THERMAL_CAP_RAISE`: the cap rises by one after 100 ms without a break below the thresholds, at most once per
100 ms (R444). -/
def execThermalCapRaise (tick : Nat) (s : State) : Out :=
  let s := s.at_ tick
  let p := s.pwr
  let calm := p.belowSince.any fun t => decide (t + 100000000 ≤ s.uptime)
  let free := p.lastUp.all fun t => decide (t + 100000000 ≤ s.uptime)
  if calm ∧ free ∧ p.cap < 7 then
    finish (s.onPwr fun p => { p with cap := p.cap + 1, lastUp := some s.uptime }).tunePll
  else .next s

/-! ### Rails and margin sensors (R432, R441, R452) -/

/-- The core regulators and clocks are in use: from stage 0x04 of boot on (R458, R466), until a halt stops them. -/
def State.coreRuns (s : State) : Bool := !s.cfg.inPulse && decide (4 ≤ s.cfg.stage.toNat) && s.pins.thermtripN

/-- `RAIL_CURRENT_READ`: the current of each core rail (R432); a calibration keeps the highest of its level (R451). -/
def execRailCurrentRead (west east : BitVec 32) (s : State) : Out :=
  if !s.coreRuns then .next s
  else
    let die (i : BitVec 32) (d : CalDie) : CalDie :=
      if d.named && !d.ended then { d with loadNow := larger d.loadNow i } else d
    finish (s.onPwr fun p => { p with
      curW := west, curE := east
      cal := p.cal.map fun c => { c with west := die west c.west, east := die east c.east } })

/-- `MARGIN_TRIP`: sensors of the named dies trip, and the clock period doubles until the episode ends (R441). The trip
is trouble for a calibration of the die in a step that plays (R452). -/
def execMarginTrip (west east : Bool) (s : State) : Out :=
  let dies : BitVec 2 := flag 2 0 west ||| flag 2 1 east
  if dies = 0 ∨ !s.coreRuns ∨ s.hlt.halted then .next s
  else
    let s := s.onPwr fun p => { p with episode := some (p.episode.getD 0 ||| dies) }
    finish (if s.step.playing then s.onStep fun g => { g with trouble := g.trouble ||| dies } else s)

/-- `STRETCH_END`: the episode ends, `cycles` cycles having been doubled since it began or since the latest boundary in it;
each die that tripped counts one (R441). -/
def execStretchEnd (cycles : Nat) (s : State) : Out :=
  match s.pwr.episode with
  | none => .next s
  | some dies =>
    let s := s.onPwr fun p => { p with
      episode := none
      tripsW := if dies.getLsbD 0 then satInc p.tripsW else p.tripsW
      tripsE := if dies.getLsbD 1 then satInc p.tripsE else p.tripsE }
    finish (s.stretchedBy cycles)

/-! ### PLLs and references (R434 to R436) -/

/-- Bit of a PLL in `PWR_CLK_STATUS` (R457). -/
def pllBit : Pll → Nat
  | .timebase => 3
  | .coreA => 4
  | .coreB => 5
  | .hub => 6
  | .serdes => 7
  | .memory => 8

/-- The PLL is the active core PLL (R433). -/
def State.isActivePll (s : State) (p : Pll) : Bool :=
  (decide (p = .coreA) && !s.pwr.activeB) || (decide (p = .coreB) && s.pwr.activeB)

/-- The PLL is the standby core PLL (R433). -/
def State.isStandbyPll (s : State) (p : Pll) : Bool :=
  (decide (p = .coreA) && s.pwr.activeB) || (decide (p = .coreB) && !s.pwr.activeB)

/-- `PLL_LOCK` (R435): a lock of the standby core PLL at its clock may make a change ready (R439). -/
def execPllLock (pll : Pll) (s : State) : Out :=
  let s := s.onPwr fun p => { p with clk := p.clk ||| bit 9 (pllBit pll) }
  finish (if s.isStandbyPll pll then s.onPwr fun p => { p with standbyLocked := p.standbyOp.isSome } else s)

/-- `PLL_SLIP` of a locked PLL (R436). -/
def execPllSlip (pll : Pll) (s : State) : Out :=
  if !s.pwr.clk.getLsbD (pllBit pll) then .next s
  else
    let s := (s.onPwr fun p => { p with clk := p.clk &&& ~~~ (bit 9 (pllBit pll)) }).raisePwr 6
    let s := if s.isStandbyPll pll then s.onPwr fun p => { p with standbyLocked := false } else s
    finish (if (decide (pll = .timebase) || s.isActivePll pll) && !s.unarmed then s.withdraw else s)

/-- Bit of a reference in `PWR_CLK_STATUS` (R457). -/
def srcBit : ClockSrc → Nat
  | .xtal => 0
  | .hostRef => 1
  | .fabricRef => 2

/-- A count is in the accepted range (R434); that of the crystal is in µs of the RC oscillator. -/
def qualified (src : ClockSrc) (count : Nat) : Bool :=
  match src with
  | .xtal => decide (36000 ≤ count) && decide (count ≤ 48000)
  | .hostRef => decide (262013 ≤ count) && decide (count ≤ 262275)
  | .fabricRef => decide (167689 ≤ count) && decide (count ≤ 167856)

/-- `CLOCK_QUALIFICATION` (R434, R436). At power-up a failure only clears the status bit: the boot stage that waits for the
oscillator fails with the count that it finds (R467). -/
def execClockQualification (src : ClockSrc) (count : Nat) (s : State) : Out :=
  if s.cfg.inPulse ∨ !s.pins.powered then .next s
  else if qualified src count then finish (s.onPwr fun p => { p with clk := p.clk ||| bit 9 (srcBit src) })
  else if s.cfg.stage.toNat ≤ 2 then finish (s.onPwr fun p => { p with clk := p.clk &&& ~~~ (bit 9 (srcBit src)) })
  else
    let s := (s.onPwr fun p => { p with clk := p.clk &&& ~~~ (bit 9 (srcBit src)) }).raisePwr 5
    match src with
    | .xtal => finish s
    | .hostRef => close s.linkDown
    | .fabricRef => close (if s.unarmed then s else s.withdraw)

/-! ### The sequencer while unarmed (R477) -/

/-- `UNARMED_OP_TICK`: R440 applies every 100 µs in place of phase 6. -/
def execUnarmedOpTick (vrWest vrEast : Bool) (tick : Nat) (s : State) : Out :=
  let s := s.at_ tick
  if !s.unarmed ∨ !s.coreRuns ∨ s.hlt.halted then .next s
  else
    let s := s.sequence vrWest vrEast
    finish (if s.pwr.transition.isSome then s else s.commandVolts s.pwr.inForce)

end Sys2Proof.Machine
end

