-- ==== Sys2Proof/Machine/Boot.lean ====
section
/-!
DEFINITION. Power-up, power-down and resets (R459 to R465), the boot stages (R466 to R470), the firmware image (R468,
R469), the flash volume (R226 to R228), and what is restored (R211, R212, R264, R357).
-/
namespace Sys2Proof.Machine

/-! ### Power and reset pins (R459 to R461) -/

/-- `POWER_ON`: the rails have risen (R459), and the internal pulse of a power-on reset runs. The straps are sampled
(R485). `RESET_N`, which the board held low, has ended a thermal trip that `VDD_AUX33` kept (R446, R460). -/
def execPowerOn (tick : Nat) (s : State) : Out :=
  if s.pins.powered then .next s
  else
    let s := s.enterReset 1 false
    let s := s.onPins fun p => { p with powered := true, aux := true, resetN := true, thermtripN := true }
    finish ((s.onCfg fun c => { c with strap := s.pins.strapPins, pwrStop := false }).at_ tick)

/-- `VDD_AUX33` goes down: the thermal-trip latch, `RST_CTRL.retain` and the sideband's address with it (R446, R458, R481). -/
def State.auxDown (s : State) : State :=
  let s := s.onPins fun p => { p with aux := false, thermtripN := true, sbAddr := none }
  s.onCfg fun c => { c with retain := false, tripLatched := false }

/-- `POWER_REMOVED`: the device is unpowered (R458, R460). Only what needs no power stays: the boot flash, the
calibration store, the fuses and the flash volume. `VDD_AUX33` may stay up, with the sideband and the thermal-trip latch:
a free value (assumption 185); where it did, a second removal takes it down. -/
def execPowerRemoved (s : State) : Out :=
  if s.pins.powered then
    let up := decide ((s.free 1 : BitVec 1) = 1)
    let s := s.drawn.enterReset 1 false
    -- the test access port is no longer driven (R489)
    let s := s.onPins fun p => { p with powered := false, jtagInstr := 0, trstN := false, boundary := 0 }
    let s := s.onCfg fun c => { c with inPulse := false, pwrStop := false }
    finish (if up then s else s.auxDown)
  else if s.pins.aux then finish s.auxDown
  else .next s

/-- `RESET_N_ASSERT`: a pin reset (R461). Retention follows `RST_CTRL.retain`; the thermal trip ends (R446). -/
def execResetNAssert (tick : Nat) (s : State) : Out :=
  if !s.pins.powered then .next s
  else
    let s := (s.at_ tick).enterReset 2 s.cfg.retain
    finish (s.onPins fun p => { p with resetN := false, thermtripN := true })

/-- The device is released into boot: stage 0x01 begins once `RESET_N` is high and the internal pulse is over
(R461, R466). -/
def State.released (s : State) : State :=
  if s.pins.resetN && !s.cfg.inPulse then s.onCfg fun c => { c with stage := 1, released := s.uptime } else s

/-- A debug-module instruction in effect as `RESET_N` rises may leave each core halted when it comes out of reset (R430, R489):
a free value, since the specification gives the debug modules no other time (DESIGN CHOICE, assumption 173). -/
def State.debugRelease (s : State) : State :=
  if s.jtagInForce = 6 then s.drawn.onMgt fun m => { m with debugHalt := s.free 5 } else s

/-- `RESET_N` rises: the straps are sampled (R461, R485). -/
def execResetNRelease (strap : BitVec 8) (tick : Nat) (s : State) : Out :=
  if !s.pins.powered ∨ s.pins.resetN then .next s
  else
    let s := (s.at_ tick).debugRelease
    let s := s.onPins fun p => { p with resetN := true, strapPins := strap }
    finish (s.onCfg fun c => { c with strap := strap }).released

/-- The internal reset pulse ends (R461); a release of reset samples the straps (R485). -/
def execResetPulseEnd (tick : Nat) (s : State) : Out :=
  if !s.pins.powered ∨ !s.cfg.inPulse then .next s
  else
    let s := s.at_ tick
    finish (s.onCfg fun c => { c with
      inPulse := false, strap := if s.pins.resetN then s.pins.strapPins else c.strap }).released

/-! ### The firmware image (R468, R469) -/

/-- The body of an image. -/
def fwBody (img : List (BitVec 8)) : List (BitVec 8) := (img.drop 256).take (fieldAt img 12 4)

/-- The fields of the header are in range and its reserved bytes are zero (R468, R469). -/
def fwHeaderOk (img : List (BitVec 8)) : Bool :=
  let size := fieldAt img 12 4
  let load := fieldAt img 16 8
  let entry := fieldAt img 24 8
  decide (img.take 4 = [0x4A, 0x58, 0x46, 0x57]) && decide (fieldAt img 4 2 = 1) && decide (fieldAt img 6 2 = 0) &&
    decide (1 ≤ size) && decide (size ≤ 12 * 2 ^ 20) && decide (256 + size ≤ img.length) &&
    decide (0x08000000 ≤ load) && decide (load + size ≤ 0x09000000) &&
    decide (0x08000000 ≤ entry) && decide (entry < 0x09000000) &&
    ((img.drop 192).take 64).all fun b => decide (b = 0)

/-- The key of an image is one of the fuses' and is not revoked (R469). -/
def fwKeyOk (fuses : List (BitVec 256 × Bool)) (img : List (BitVec 8)) : Bool :=
  let d := digestBits (sha256 ((img.drop 64).take 64))
  fuses.any fun f => decide (f.1 = d) && !f.2

/-- The signature over bytes 0 to 127 verifies (R468, R469). -/
def fwSignatureOk (img : List (BitVec 8)) : Bool :=
  ecdsaVerifies (fieldAt img 64 32) (fieldAt img 96 32) (fieldAt img 128 32) (fieldAt img 160 32) (sha256 (img.take 128))

/-- An image is verified (R469). -/
def fwVerified (fuses : List (BitVec 256 × Bool)) (img : List (BitVec 8)) : Bool :=
  fwHeaderOk img && fwKeyOk fuses img && fwSignatureOk img &&
    decide (sha256 (fwBody img) = (img.drop 32).take 32)

/-- `fw_version` of an image (R468). -/
def fwVersionOf (img : List (BitVec 8)) : Nat := fieldAt img 8 4

/-- The slot that the boot ROM boots, true for slot B, and whether it is the fallback; or the error with which boot ends
(R467, R469). -/
def chooseSlot (floor : Nat) (fuses : List (BitVec 256 × Bool)) (a b : List (BitVec 8)) : Except (BitVec 8) (Bool × Bool) :=
  let va := fwVerified fuses a
  let vb := fwVerified fuses b
  let ga := va && decide (floor ≤ fwVersionOf a)
  let gb := vb && decide (floor ≤ fwVersionOf b)
  if ga && gb then .ok (decide (fwVersionOf a < fwVersionOf b), false)
  else if ga then .ok (false, false)
  else if gb then .ok (true, true)
  else if va || vb then .error 0x85
  else .error 0x84

/-! ### Stages (R466, R467) -/

/-- Boot ends in an error, and the device stays in reset (R467). -/
def State.bootFails (e : BitVec 8) (s : State) : State := s.onCfg fun c => { c with error := e }

/-- A clock stage failed: it is repeated up to three times, 100 ms apart (R467). -/
def State.clockFails (e : BitVec 8) (s : State) : State :=
  if s.cfg.tries < 3 then s.onCfg fun c => { c with tries := c.tries + 1, retryWait := true } else s.bootFails e

/-- The next stage begins. -/
def State.enterStage (n : BitVec 8) (s : State) : State := s.onCfg fun c => { c with stage := n, tries := 0 }

/-- Stage 0x01, `AUX`: the crystal (R434). -/
def State.stageAux (r : BootReport) (s : State) : State :=
  if qualified .xtal r.crystal then (s.onPwr fun p => { p with clk := p.clk ||| bit 9 0 }).enterStage 2 else s.clockFails 0x81

/-- Stage 0x02, `CLOCKS`: the references qualify, and the hub, timebase and SerDes PLLs and core PLL A lock (R434,
R435). -/
def State.stageClocks (r : BootReport) (s : State) : State :=
  if !(qualified .hostRef r.hostRef && qualified .fabricRef r.fabricRef) then s.clockFails 0x82
  else if !r.plls then s.clockFails 0x83
  else (s.onPwr fun p => { p with clk := p.clk ||| 0xDE }).enterStage 3

/-- Stage 0x03, `ROM`: the rollback floor is loaded, an image is verified and loaded into firmware SRAM (R429, R468,
R469). -/
def State.stageRom (r : BootReport) (s : State) : State :=
  let floor := match storeGet s.store.floor0 s.store.floor1 with
    | some bs => fieldAt bs 0 4
    | none => 0
  let s := s.onMgt fun m => { m with fwFloor := BitVec.ofNat 32 floor }
  match chooseSlot floor s.pins.fuses s.pins.flashA s.pins.flashB with
  | .error e => s.bootFails e
  | .ok (b, fallback) =>
    if !r.sram || s.mgt.fwSramBad then s.bootFails 0x86
    else
      let img := if b then s.pins.flashB else s.pins.flashA
      let body := fwBody img
      let s := s.onMgt fun m => { m with fwSram := Mem.writes m.fwSram (fieldAt img 16 8 - 0x08000000) body }
      let s := s.onCfg fun c => { c with
        slotB := b, fallback := fallback, fwVersion := BitVec.ofNat 32 (fwVersionOf img)
        fwDigest := digestBits (sha256 body) }
      (if fallback then s.raiseCfg 2 else s).enterStage 4

/-- The persistent fence record enters the map; a reserved entry is applied as 0x3F (R357, R466). -/
def State.bootFences (s : State) : State :=
  let bs := (storeGet s.store.fence0 s.store.fence1).getD (List.replicate 48 0x3F)
  let ok (b : BitVec 8) : Bool := decide (b.toNat ≤ 0x20) || decide (b = 0x3F)
  let es := (List.range 48).map fun i => bs.getD i 0x3F
  let s := s.onGrid fun g => { g with fence := VotedMap.all (es.map fun b => if ok b then b.setWidth 6 else 0x3F) }
  if es.all ok then s else s.raiseCfg 4

/-- The calibration set that the store holds comes into force (R447 to R449). -/
def State.bootCal (s : State) : State :=
  match storeGet s.store.cal0 s.store.cal1 with
  | none => s
  | some bs => s.onPwr fun p => { p with storeValid := true, entries := (List.range 16).map (readEntry bs) }

/-- Stage 0x04, `FIRMWARE`: the cores start, the clock enables are set, the voltage of OP0 is commanded, and the fence
record enters the map. With stage 0x05 the device leaves reset (R402, R458, R466). -/
def State.stageFirmware (s : State) : State :=
  let s := s.onMgt fun m => { m with
    coreState := (List.range 5).map fun i => if m.debugHalt.getLsbD i then 3 else 1 }
  let s := s.onSys fun g => { g with clkEn := 0x3FF }
  let s := (s.bootCal.commandVolts 0).bootFences
  let s := s.onPins fun p => { p with faultN := true }
  (s.onCfg fun c => { c with inReset := false, retain := if c.cause = 2 ∨ c.cause = 4 then false else c.retain }).enterStage 5

/-- Stage 0x05, `HOST`: the physical function enters `ON` (R389). With stage 0x06 the drives leave their reset
(R458). -/
def State.stageHost (s : State) : State :=
  let s := (s.onFunc 0 fun f => { f with state := .on }).raiseCmd 2
  (s.onPins fun p => { p with flPerstN := true }).enterStage 6

/-! ### Memory and the flash volume (R225 to R228) -/

/-- The drives that a root port finds (R226). -/
def DriveReport.drive (r : DriveReport) : Drive :=
  let d : Drive := { Drive.reset with
    present := r.present, namespaces := r.namespaces, lba4k := r.lba4k, maxKiB := r.maxKiB, label1 := r.label1
    label2 := r.label2
    refused := r.present && (decide (r.namespaces ≠ 1) || !r.lba4k || decide (r.maxKiB.toNat < 512)) }
  { d with
    pairs := if d.present && !d.refused then 8 else 0
    generation := match d.label with
      | some bs => BitVec.ofNat 64 (fieldAt bs 28 8)
      | none => 0 }

/-- The admin commands with which a drive that answers is brought up (R226; assumption 145): `Identify`, and for one that is
not refused its features, its health log and its 8 queue pairs. -/
def Drive.bringUp (d : Drive) : List AdminCmd :=
  if !d.present then []
  else if d.refused then [.identify]
  else [.identify, .setFeatures .numberOfQueues, .setFeatures .volatileWriteCache, .setFeatures .arbitration, .getFeatures,
      .getLogPage] ++
    (List.range 8).flatMap fun q => [.createCq q, .createSq q]

/-- The volume slots and the number of members of the volume that the accepted drives form; none where it is not
complete (R228). -/
def volumeOf (ds : List Drive) : Option (Nat × Nat) :=
  let ls := (ds.filter fun d => d.present && !d.refused).map fun d => d.label
  match ls with
  | some l :: _ =>
    let n := ls.length
    let same (x : Option (List (BitVec 8))) : Bool := match x with
      | some y => decide ((y.drop 12).take 16 = (l.drop 12).take 16) && decide (fieldAt y 10 1 = n)
      | none => false
    let at_ (i : Nat) (x : Option (List (BitVec 8))) : Bool := match x with
      | some y => decide (fieldAt y 11 1 = i)
      | none => false
    if ls.all same && (List.range n).all fun i => ls.any (at_ i) then some (fieldAt l 36 4, n) else none
  | _ => none

/-- The drives come up, and the volume is mounted where it is complete (R226 to R228). -/
def State.bootDrives (rs : List DriveReport) (s : State) : State :=
  let ds := (List.range 8).map fun i => match rs[i]? with
    | some r => DriveReport.drive r
    | none => Drive.reset
  let admin := (List.range 8).flatMap fun i => ((ds.getD i Drive.reset).bringUp).map fun c => (i, c)
  let s := s.onMem fun m => { m with drives := ds, adminLog := admin.reverse ++ m.adminLog }
  let s := if ds.any fun d => d.refused then s.raiseMem 4 else s
  match volumeOf ds with
  | some (slots, n) => s.onMem fun m => { m with mounted := true, members := BitVec.ofNat 4 n, volSlots := slots }
  | none => s.raiseMem 5

/-- Training results in force: those of the store where the reset was warm and a copy holds, else new ones, of a content
that nothing gives, which are written to the store (R224, R225, R466; assumption 149). -/
def State.training (r : StoreRec) (stored : Option (List (BitVec 8))) (s : State) : List (BitVec 8) × State :=
  match (if s.cfg.cause = 1 then none else stored) with
  | some bs => (bs, s)
  | none =>
    let bs := bvBytes 8 (s.free 64)
    (bs, s.drawn.storeStart r bs none)

/-- The interfaces are trained, or their results reloaded (R224, R225). -/
def State.trainMemory (s : State) : State :=
  let h := s.training .hbmTraining (storeGet s.store.hbm0 s.store.hbm1)
  let d := h.2.training .ddrTraining (storeGet s.store.ddr0 s.store.ddr1)
  d.2.onMem fun m => { m with hbmTraining := h.1, ddrTraining := d.1 }

/-- Hard post-package repair of the rows of the repair record (R224). -/
def State.hardRepair (s : State) : State :=
  let rows := s.repairRecord.filter fun r => decide (r ∉ s.mem.hardRepairs)
  s.onMem fun m => { m with hardRepairs := m.hardRepairs ++ rows }

/-- The DDR5 channels in service, in order. -/
def inService (channels : BitVec 12) : List Nat := (List.range 12).filter fun c => channels.getLsbD c

/-- Stage 0x06, `MEMORY`: stacks and channels are trained, or reloaded from the store, or leave self-refresh, and what
fails is left out; every channel runs at the lowest speed that the population allows (R224, R225, R463, R464, R467). -/
def State.stageMemory (r : BootReport) (s : State) : State :=
  let stored := (storeGet s.store.ddr0 s.store.ddr1).isSome
  let s := s.onMem fun m => { m with
    hbmStacks := r.hbmStacks, channels := r.channels
    channelBytes := (List.range 12).map fun c => (r.dimms.getD c (0, false)).1
    t2Bytes := ((inService r.channels).map fun c => (r.dimms.getD c (0, false)).1).sum
    t2Dimm2 := (inService r.channels).any fun c => (r.dimms.getD c (0, false)).2 }
  let s := s.onPins fun p => { p with selfRefresh := 0, dimmReset := false }
  let s := if r.channels = 0xFFF then s else s.raiseMem 3
  let s := s.trainMemory.hardRepair.bootDrives r.drives
  let s := s.onPwr fun p => { p with clk := p.clk ||| bit 9 8 }
  (s.onCfg fun c => { c with
    reqRetention := c.reqRetention && r.rails && stored && decide (c.channelsBefore &&& ~~~ r.channels = 0) }).enterStage 7

/-! ### The directory (R211, R212, R264, R464, R465) -/

/-- A version restored from its slot (R264): lost pages fail the shards that wrote tiles into them and make it `INCOMPLETE`;
so do pages not written, whose staged tiles the reset took; a shard in flight has failed, and one not delivered is missing
(assumption 71). A version that was waiting for room, loaded or placed rests where no shard is missing, and is `INCOMPLETE`
else; any other keeps its state, one that served suspect pages its mark too. Commands and deadlines are not restored. -/
def restoredModel (d1 : SMap DirEntry) (m : ModelVer) : ModelVer :=
  let lost := (m.pageList.filter fun p => decide (gaSpace p.2 = 1) &&
    decide ((Sparse.get DirEntry.reset d1 (gaSlot p.2).2).state = .lost)).map (·.1)
  let unwritten := (List.range (manPages m.manifest)).filter fun p => decide (Sparse.get 0 m.pages p = 0)
  let bad := (lost ++ unwritten ++ m.failedPages).flatMap fun p => pageShards m.manifest p
  let shards := m.shards.mapIdx fun i x => match x with
    | .ingested => if i ∈ bad then ShardState.failed else .ingested
    | .inFlight => .failed
    | .outstanding => .missing
    | x => x
  let whole := shards.all fun x => decide (x = .ingested)
  let state := if lost ≠ [] then ModelState.incomplete
    else match m.state with
      | .pendingRoom | .loading | .placing => if whole then .resting else .incomplete
      | x => x
  { m with
    state := state, shards := shards, failedPages := m.failedPages ++ lost.filter fun p => decide (p ∉ m.failedPages)
    handle := none, retireHandle := none, activateHandle := none, activateAfter := false, waitRoom := false
    replace := false, deadline := none, staged := [], restored := [], suspect := m.suspect && decide (state = m.state), scrubLeft := [], scrubSkipped := [] }

/-- The model slots are restored (R264). New pages that were to replace poisoned ones are given up. -/
def State.restoreModels (s : State) : State :=
  let saved := s.wgt.saved
  let s := saved.foldl (fun s m => m.restored.foldl (fun s p => s.freePage p.2) s) s
  let ms := saved.map fun m => restoredModel s.mem.dir1 m
  s.onWgt fun w => { w with models := ms, saved := [] }

/-- The owner of a page survives a reset (R465): the physical function does, and a model whose slot was restored with the
page at that place; a context, a cylinder and a virtual function do not. -/
def State.survives (s : State) (tier slot : Nat) (e : DirEntry) : Bool :=
  (decide (e.ownerKind = ownFunction) && decide (e.ownerId = 0)) ||
    (decide (e.ownerKind = ownModel) &&
      s.wgt.models.any fun m => m.pages.any fun g => decide (gaSlot g.2 = (tier, slot)))

/-- The pages whose owner did not survive the reset are freed: those of tier 3 where the volume is mounted (R465), and those
of tiers 1 and 2 (DEDUCED, assumption 166); each change is journaled (R211). -/
def State.freeOrphans (s : State) : State :=
  let kept (tier : Nat) (d : SMap DirEntry) : SMap DirEntry := d.filter fun p => s.survives tier p.1 p.2
  let s' := s.onMem fun m => (m.replaceDir 1 (kept 1 m.dir1)).replaceDir 2 (kept 2 m.dir2)
  if s.mem.mounted then
    (changedSlots s.mem.dir3 (kept 3 s.mem.dir3)).foldl (fun s i => s.deallocate i)
      (s'.onMem (Memory.replaceDir 3 (kept 3 s.mem.dir3)))
  else s'

/-- The pages that the reset lost are counted (R212). -/
def State.countLost (s : State) : State :=
  let n := s.mem.newLost
  let s := s.onMem fun m => { m with newLost := 0, lostPages := satAdd m.lostPages n }
  if n = 0 then s else s.raiseMem 1

/-- Tier 2 is lost, its directory region with it: its pages are, and every entry of tier 2 is then freed (R211, R212,
R464). -/
def State.loseTier2 (s : State) : State :=
  let before := s.mem.lostCount
  let s := s.onMem fun m => ({ m with journal2 := [] }).replaceDir 2 (lostFrames m.dir2)
  let s := (s.onMem fun m => { m with newLost := m.newLost + (m.lostCount - before) }).countLost
  let s := s.onMem fun m => ({ m with t2 := [] }).replaceDir 2 []
  let s := s.onWgt fun w => { w with saved := [] }
  if s.cfg.retainReq then s.raiseCfg 3 else s

/-- Tier 2 is retained: the directory is restored, and what was homed in tier 1 is `LOST` (R212, R464). -/
def State.keepTier2 (s : State) : State :=
  let s := s.onMem fun m => { m with retained := true }
  (s.onCfg fun c => { c with retainedBit := true }).countLost.restoreModels

/-- Stage 0x07, `DIRECTORY`, and the end of boot: stage 0x08, at which a waiting `CFG_COMMIT` is checked (R466, R474). -/
def State.stageDirectory (r : BootReport) (s : State) : State :=
  let s := if s.cfg.reqRetention && r.journal then s.keepTier2 else s.loseTier2
  let s := if s.mem.mounted then s.freeOrphans.writeLabels else s.freeOrphans
  let ms := (s.uptime - s.cfg.released) / 1000000
  let s := (s.onCfg fun c => { c with bootTime := satOf 16 ms }).enterStage 8
  match s.cfg.commit with
  | some h => s.checkCommit h
  | none => s

/-- Boot proceeds: the device is powered and released, no stage has failed or waits, and nothing has stopped it
(R467, R479). -/
def State.booting (s : State) : Bool :=
  s.pins.powered && s.pins.resetN && !s.cfg.inPulse && decide (s.cfg.error = 0) && !s.cfg.retryWait && !s.cfg.pwrStop &&
    s.pins.thermtripN && !s.hlt.halted

/-- `BOOT_STAGE_DONE`: the work of the stage in progress has ended, with what it found (R466). -/
def execBootStageDone (r : BootReport) (s : State) : Out :=
  let s := s.at_ r.tick
  if !s.booting then .next s
  else if s.cfg.stage = 1 then close (s.stageAux r)
  else if s.cfg.stage = 2 then close (s.stageClocks r)
  else if s.cfg.stage = 3 then close (s.stageRom r)
  else if s.cfg.stage = 4 then close s.stageFirmware
  else if s.cfg.stage = 5 then close s.stageHost
  else if s.cfg.stage = 6 then close (s.stageMemory r)
  else if s.cfg.stage = 7 then close (s.stageDirectory r)
  else .next s

/-- `BOOT_STAGE_RETRY`: a failed clock stage is tried again 100 ms later (R467). -/
def execBootStageRetry (s : State) : Out :=
  if s.cfg.retryWait then finish (s.onCfg fun c => { c with retryWait := false }) else .next s

end Sys2Proof.Machine
end

