-- ==== Sys2Proof/Machine/RegRows.lean ====
section
/-!
DEFINITION. The rows that read or write a register (R362 to R369, R397 to R430), the events of the interrupt controller
(R408 to R417), the sideband and the test access port (R486 to R489).
-/
namespace Sys2Proof.Machine

/-! ### Register accesses -/

/-- A core that makes an access runs (R430). -/
def State.requested (req : Requester) (s : State) : State := match req with
  | .core c => s.wakeCore c.val
  | .supervisor => s.wakeCore 4
  | _ => s

/-- A register is read: the value goes to its requester, or the access is aborted (R399). -/
def readRow (a : Access) (s : State) : Out :=
  let r := (s.requested a.req).regRead a
  finish (r.2.onHost fun h => { h with answer := r.1, aborted := r.1.isNone })

/-- A register is written, or the access is aborted (R399). -/
def writeRow (a : Access) (v : BitVec 32) (s : State) : Out :=
  let r := (s.requested a.req).regWrite a v
  finish (r.2.onHost fun h => { h with aborted := !r.1 })

/-- A whole access of a requester to the register space. -/
def at32 (req : Requester) (off : Nat) : Access := { req := req, bar2 := none, off := off }

/-- A whole access of the host to BAR2 of a function. -/
def bar2At (f : BitVec 4) (off : Nat) : Access := { req := .host, bar2 := some f, off := off }

/-- A read of `IC_CLAIM_t` (R411). -/
def execIcClaimRead (req : Requester) (target : Fin 5) (s : State) : Out :=
  readRow (at32 req (0x10040 + 4 * target.val)) s

/-- A write of `IC_COMPLETE_t` (R412). -/
def execIcCompleteWrite (req : Requester) (target : Fin 5) (value : BitVec 32) (s : State) : Out :=
  writeRow (at32 req (0x10060 + 4 * target.val)) value s

/-- A write of `IC_GW_ACK` (R416). -/
def execIcGwAckWrite (req : Requester) (value : BitVec 32) (s : State) : Out :=
  writeRow (at32 req 0x100A0) value s

/-- A read of `IC_PEND_w` (R413). -/
def execIcPendRead (req : Requester) (word : Fin 32) (s : State) : Out :=
  readRow (at32 req (0x10100 + 4 * word.val)) s

/-- A write of `IC_DOORBELL_LO` or `IC_DOORBELL_HI` (R408). -/
def execIcDoorbellWrite (req : Requester) (high : Bool) (value : BitVec 32) (s : State) : Out :=
  writeRow (at32 req (if high then 0x10014 else 0x10010)) value s

/-- A write of `IC_SRC_CFG_n`, whose `storm` bit 0 unmasks the source (R414). -/
def execIcStormUnmask (req : Requester) (source : Nat) (value : BitVec 32) (s : State) : Out :=
  writeRow (at32 req (0x11000 + 4 * (source % 1024))) value s

/-- A write of `DMA_CTRL` with `go` (R421). -/
def execDmaGo (req : Requester) (channel : Fin 16) (value : BitVec 32) (s : State) : Out :=
  writeRow (at32 req (0x20014 + 64 * channel.val)) value s

/-- A write of `DMA_CTRL` with `abort` (R424). -/
def execDmaAbort (req : Requester) (channel : Fin 16) (value : BitVec 32) (s : State) : Out :=
  writeRow (at32 req (0x20014 + 64 * channel.val)) value s

/-- A write of `Q_CTRL` (R364). -/
def execQueueEnable (func : BitVec 4) (queue : Fin 8) (value : BitVec 32) (s : State) : Out :=
  writeRow (bar2At func (0x100 * queue.val + 0x10)) value s

/-- A write of `Q_CTRL` (R364). -/
def execQueueDisable (func : BitVec 4) (queue : Fin 8) (value : BitVec 32) (s : State) : Out :=
  writeRow (bar2At func (0x100 * queue.val + 0x10)) value s

/-- A write of `Q_CMD_TAIL` (R365). -/
def execCmdTailDoorbell (func : BitVec 4) (queue : Fin 8) (value : BitVec 32) (tick : Nat) (s : State) : Out :=
  writeRow (bar2At func (0x100 * queue.val + 0x18)) value (s.at_ tick)

/-- A write of `Q_RSP_HEAD` (R366). -/
def execRspHeadDoorbell (func : BitVec 4) (queue : Fin 8) (value : BitVec 32) (tick : Nat) (s : State) : Out :=
  writeRow (bar2At func (0x100 * queue.val + 0x1C)) value (s.at_ tick)

/-- A write of `SR_HEAD` (R368). -/
def execSrHeadDoorbell (value : BitVec 32) (s : State) : Out := writeRow (bar2At 0 0x800) value s

/-- A write of `TOK_CONSUMED_n` (R368). -/
def execTokenDoorbell (func : BitVec 4) (ctx : Fin 1024) (value : BitVec 32) (s : State) : Out :=
  writeRow (bar2At func (0x1000 + 4 * ctx.val)) value s

/-- A write of `GRID_PEND` (R75). -/
def execGridPendWrite (req : Requester) (reg : Fin 12) (value : BitVec 32) (s : State) : Out :=
  writeRow (at32 req (0x1140 + 4 * reg.val)) value s

/-- A write of `GRID_CELL_SEL` (R75). -/
def execGridCellSelWrite (req : Requester) (value : BitVec 32) (s : State) : Out :=
  writeRow (at32 req 0x1180) value s

/-- A write of `GRID_LOCK` (R75, R403). -/
def execGridLockWrite (req : Requester) (value : BitVec 32) (s : State) : Out :=
  writeRow (at32 req 0x1108) value s

/-- A write of `ARITH_CTRL` (R104). -/
def execArithCtrlWrite (req : Requester) (value : BitVec 32) (s : State) : Out :=
  writeRow (at32 req 0x1200) value s

/-- A write of `SYS_CLK_EN` (R402). -/
def execSysClkEnWrite (req : Requester) (value : BitVec 32) (s : State) : Out :=
  writeRow (at32 req 0x04) value s

/-- A write of `SYS_LOCK` (R403). -/
def execSysLockWrite (req : Requester) (value : BitVec 32) (s : State) : Out :=
  writeRow (at32 req 0x08) value s

/-- A write of `PWR_OP_REQ` (R439). -/
def execPwrOpReqWrite (req : Requester) (value : BitVec 32) (s : State) : Out :=
  writeRow (at32 req 0x2008) value s

/-- A write of `PWR_OP_LIMITS` (R438). -/
def execPwrOpLimitsWrite (req : Requester) (value : BitVec 32) (s : State) : Out :=
  writeRow (at32 req 0x2004) value s

/-- A write of `MGT_FW_FLOOR` (R429). -/
def execMgtFwFloorWrite (req : Requester) (value : BitVec 32) (s : State) : Out :=
  writeRow (at32 req 0x21020) value s

/-- A write of a heartbeat register (R428). -/
def execHeartbeatWrite (req : Requester) (core : Fin 5) (value : BitVec 32) (s : State) : Out :=
  writeRow (at32 req (0x21004 + 4 * core.val)) value s

/-- A write of `RST_CTRL` (R461). -/
def execRstCtrlReset (req : Requester) (value : BitVec 32) (s : State) : Out :=
  writeRow (at32 req 0x3004) value s

/-- A read of a register that clears what it returns (R400). -/
def execRcRegisterRead (acc : Access) (s : State) : Out := readRow acc s

/-- A read of the low word of a latched pair (R400). -/
def execLatchedLowRead (acc : Access) (s : State) : Out := readRow acc s

/-- A write of a register (R398). -/
def execRegisterWrite (acc : Access) (value : BitVec 32) (s : State) : Out := writeRow acc value s

/-! ### Events of the interrupt controller -/

/-- The wired signal of a source is at a level (R407, R408). The signals of the events registers follow their registers,
and a source that the table does not assign is never pending. -/
def execSourceAssert (source : Nat) (level : Bool) (s : State) : Out :=
  if 1 ≤ source ∧ source ≤ 61 ∧ source ∉ levelSources then finish (s.signal source level) else finish s

/-- The moderation time of a busy target elapses (R410). -/
def execNotifyModerationTimeout (target : Fin 5) (tick : Nat) (s : State) : Out :=
  finish ((s.at_ tick).line target.val)

/-- A storm window ends: the counts of assertions restart (R414). -/
def execStormWindow (s : State) : Out :=
  finish (s.ic.listed.foldl (fun s n => s.onIc fun ic => ic.setSrc n { ic.src n with window := 0 }) s)

/-- The coalescing time of a vector elapses: one message (R417). -/
def execVectorModerationTimeout (vector : Nat) (tick : Nat) (s : State) : Out :=
  let s := s.at_ tick
  let v := s.ic.vec vector
  if 0 < v.coalesced ∧ v.time ≠ 0 ∧ v.firstAt + v.time.toNat * 1000 ≤ s.uptime then finish (s.sendVector vector)
  else finish s

/-- The host unmasks a vector (R417). -/
def execMsixVectorUnmask (vector : Nat) (s : State) : Out :=
  if vector < 2048 then finish (s.unmaskVector vector) else finish s

/-! ### The sideband (R486 to R488) -/

/-- The answer to a register read that had no effect (R488). -/
def sbNoData (st : BitVec 8) : List (BitVec 8) := st :: List.replicate 4 0xFF

/-- The static address of the sideband (R486): 0x30 plus the two low bits of the straps. -/
def State.staticAddress (s : State) : BitVec 7 := 0x30 + (s.cfg.strap.extractLsb' 0 2 : BitVec 2).setWidth 7

/-- The address at which the sideband answers (R486): the dynamic one, or until one is assigned the static one. -/
def State.sbAddress (s : State) : BitVec 7 := s.pins.sbAddr.getD s.staticAddress

/-- The request before has not completed (R488): less than its time has passed. -/
def State.sbPending (s : State) : Bool := s.pins.sbDue.any fun x => decide (s.uptime < x.1)

/-- A sideband request of the given command and length is acted on, or answered with the status of R488. It is not answered
without `VDD_AUX33` (R458), nor at another address than the target's (R486). One that finds the request before it not
completed has no effect, and the answer of that one can still be read; a reset works in every state (R487), and a malformed
one has no effect either. -/
def sideband (op : BitVec 8) (okLength : Nat → Bool) (request : SbRequest) (act : State → State)
    (s : State) : Out :=
  let fail (st : BitVec 8) : List (BitVec 8) := if op = 1 then sbNoData st else [st]
  if !s.pins.aux ∨ request.addr ≠ s.sbAddress then .next s
  else if op ≠ 3 ∧ s.sbPending then finish (s.sbAnswer (fail 0x02))
  else
    let s := if s.sbPending then s else s.onPins fun p => { p with sbDue := none }
    if byteAt request.bytes 0 ≠ op ∨ request.bytes.isEmpty ∨ !okLength request.bytes.length then finish (s.sbAnswer (fail 0x03))
    else finish (act s)

/-- A register access of the sideband completes within 2 µs (R487), after a time that is free (DESIGN CHOICE, assumption 85).
Until then its answer reads 0x02, and is read again later (R488; `State.sbLater`). -/
def State.sbTakes (busy answer : List (BitVec 8)) (s : State) : State :=
  let wait := (s.free 11 : BitVec 11).toNat % 2001
  if wait = 0 then s.drawn.sbAnswer answer
  else (s.drawn.onPins fun p => { p with sbDue := some (s.uptime + wait, answer) }).sbAnswer busy

/-- Sideband command 0x01, register read (R487). -/
def execSbRegisterRead (request : SbRequest) (s : State) : Out :=
  sideband 1 (fun n => decide (n = 5)) request (fun s =>
    let r := s.regRead (at32 .sideband (fieldAt request.bytes 1 4))
    r.2.sbTakes (sbNoData 0x02) (match r.1 with
      | none => sbNoData 0x01
      | some v => 0 :: bvBytes 4 v)) s

/-- Sideband command 0x02, register write (R487). -/
def execSbRegisterWrite (request : SbRequest) (s : State) : Out :=
  sideband 2 (fun n => decide (n = 9)) request (fun s =>
    let r := s.regWrite (at32 .sideband (fieldAt request.bytes 1 4)) (BitVec.ofNat 32 (fieldAt request.bytes 5 4))
    r.2.sbTakes [0x02] [if r.1 then 0 else 0x01]) s

/-- Sideband command 0x03, reset with cause 0x5 (R487). -/
def execSbReset (request : SbRequest) (s : State) : Out :=
  sideband 3 (fun n => decide (n = 3)) request (fun s =>
    if byteAt request.bytes 1 = 0xA5 then (s.requestReset 5 ((byteAt request.bytes 2).getLsbD 0)).sbAnswer [0]
    else s.sbAnswer [0x03]) s

/-- Sideband command 0x04, mailbox write (R487). -/
def execSbMailboxWrite (request : SbRequest) (s : State) : Out :=
  let n := (byteAt request.bytes 1).toNat
  sideband 4 (fun k => decide (k = n + 2) && decide (1 ≤ n) && decide (n ≤ 32)) request (fun s =>
    if s.pins.sbIn.isSome then s.sbAnswer [0x04]
    else (s.onPins fun p => { p with sbIn := some (request.bytes.drop 2) }).sbAnswer [0]) s

/-- Sideband command 0x05, mailbox read (R487). -/
def execSbMailboxRead (request : SbRequest) (s : State) : Out :=
  sideband 5 (fun n => decide (n = 1)) request (fun s => match s.pins.sbOut with
    | none => s.sbAnswer [0x04]
    | some m => (s.onPins fun p => { p with sbOut := none }).sbAnswer (0 :: BitVec.ofNat 8 m.length :: m)) s

/-- An I3C common command reaches the target (R486), while `VDD_AUX33` is present (R458). An assignment gives it a dynamic
address where it has none, SETDASA at its static address; RSTDAA takes it back. Events are enabled and disabled without
effect, there being no in-band interrupt. What a command that reads the target's characteristics or status returns the
specification does not give: free values. The commands that I3C Basic requires are PRESUMED (assumption 187). -/
def execI3cAddressAssignment (cmd : I3cCommand) (s : State) : Out :=
  let assign (a : BitVec 7) (s : State) : State :=
    if s.pins.sbAddr.isSome then s else s.onPins fun p => { p with sbAddr := some a }
  let answer (n : Nat) (s : State) : State :=
    (s.onFreeCount (· + n)).sbAnswer ((List.range n).map fun i => Config.freeValue 8 (s.freeCount + i))
  if !s.pins.aux then .next s
  else finish (match cmd with
    | .entdaa a => assign a s
    | .setdasa static a => if static = s.staticAddress then assign a s else s
    | .rstdaa => s.onPins fun p => { p with sbAddr := none }
    | .enec | .disec => s
    | .getbcr | .getdcr => answer 1 s
    | .getstatus => answer 2 s
    | .getpid => answer 6 s)

/-! ### Test access (R489) -/

/-- What the port shifts out under IDCODE (R489): version 0x1, part 0x7200, manufacturer field 0x3A5. -/
def jtagIdcode : BitVec 32 := 0x1720074B

/-- Codes under which the instruction loaded is kept. -/
def JtagCode : JtagInstr → BitVec 8
  | .bypass => 0
  | .idcode => 1
  | .sample => 2
  | .extest => 3
  | .extestPulse => 4
  | .extestTrain => 5
  | .debugModule => 6

/-- An instruction of the test access port is loaded, `TRST_N` being driven high; `State.jtagInForce` is the one in effect
(R489). IDCODE answers the identity. SAMPLE/PRELOAD leaves in the boundary register what the tester shifts in, which no row
gives: a free value (assumption 187); EXTEST and its pulse forms drive it on the outputs (`State.level`,
`State.laneDrive`). An unpowered device has no port. -/
def execJtagInstruction (instr : JtagInstr) (s : State) : Out :=
  if !s.pins.powered then .next s
  else
    let s := s.onPins fun p => { p with jtagInstr := JtagCode instr, trstN := true }
    finish (match instr with
      | .idcode => s.onHost fun h => { h with answer := some jtagIdcode }
      | .sample => s.drawn.onPins fun p => { p with boundary := s.free 4 }
      | _ => s)

end Sys2Proof.Machine
end

