-- ==== Sys2Proof/Machine/DmaRows.lean ====
section
/-!
DEFINITION. The progress of utility DMA (R422 to R424), and remote accesses served and answered (R201, R329).
-/
namespace Sys2Proof.Machine

/-! ### What a channel reads and writes (R422) -/

/-- Whose accesses a channel makes: the physical function's, or the device's (R420). -/
def State.dmaWho (s : State) (c : Nat) : Option Nat := if s.hostCh c then some 0 else none

/-- Bytes swapped under a mode of `swap` (R422). -/
def swapBytes (mode : BitVec 2) : List (BitVec 8) → List (BitVec 8)
  | a :: b :: c :: d :: r =>
    (match mode.toNat with
      | 0 => [a, b, c, d]
      | 1 => [b, a, d, c]
      | 2 => [c, d, a, b]
      | _ => [d, c, b, a]) ++ swapBytes mode r
  | [a, b] => if mode = 1 then [b, a] else [a, b]
  | l => l

/-- Words read from the register space, one register access each; none at the first bus error, with its offset
(R398). -/
def State.readRegs (req : Requester) : Nat → Nat → State → Except Nat (List (BitVec 8)) × State
  | 0, _, s => (.ok [], s)
  | n + 1, off, s =>
    let r := s.regRead (at32 req off)
    match r.1 with
    | none => (.error off, r.2)
    | some v =>
      let t := State.readRegs req n (off + 4) r.2
      match t.1 with
      | .ok bs => (.ok (bvBytes 4 v ++ bs), t.2)
      | .error e => (.error e, t.2)

/-- Words written to the register space, one register access each; the offset of the first bus error (R398). -/
def State.writeRegs (req : Requester) : List (BitVec 8) → Nat → State → Option Nat × State
  | a :: b :: c :: d :: r, off, s =>
    let t := s.regWrite (at32 req off) (d ++ c ++ b ++ a)
    if t.1 then State.writeRegs req r (off + 4) t.2 else (some off, t.2)
  | _, _, s => (none, s)

/-- One write of a channel to this chip is made: it waits for its response, or stops the channel (R422 to R424). -/
def State.dmaPut (c : Nat) (off : Nat) (bs : List (BitVec 8)) (s : State) : State :=
  let x := s.dmaCh c
  let g := x.dst + BitVec.ofNat 64 off
  let wait (s : State) : State := s.onCh c fun x => { x with waiting := x.waiting ++ [(off, bs.length)] }
  if x.stop.isSome ∨ x.state ≠ 1 then s
  else if gaChip x.dst ≠ s.fab.chip then
    if bs.length % 4 ≠ 0 ∨ gaSpace x.dst = 0 ∨ gaSpace x.dst = 5 then s.dmaStop c 3 2 (some g)
    else (wait s).remoteSend (gaChip x.dst) true g bs.length bs (.dmaWrite c off)
  else if gaSpace x.dst = 4 then
    (let r := s.writeRegs (.dma (Fin.ofNat 16 c)) bs (gaOffset g)
     match r.1 with
     | none => wait r.2
     | some e =>
       -- the words before it are written, and their responses return
       let k := e - gaOffset g
       let t := if k = 0 then r.2 else r.2.onCh c fun x => { x with waiting := x.waiting ++ [(off, k)] }
       t.dmaStop c 3 2 (some (x.dst + BitVec.ofNat 64 (off + k))))
  else match s.writeGa (s.dmaWho c) g bs with
    | none => s.dmaStop c 3 2 (some g)
    | some s => wait s

/-- Bytes of the buffer that may be written now: whole 4 KiB units of space 3, and whole words of another chip
(R422, R329). -/
def State.dmaReady (s : State) (x : DmaCh) : Nat :=
  let n := x.buffer.length
  let last := decide (x.reading = x.total)
  if gaSpace x.dst = 3 then n / 4096 * 4096
  else if gaChip x.dst ≠ s.fab.chip ∧ !last then n / 4 * 4
  else n

/-- Pieces of a run of writes: cut at page ends, and at 4,096 bytes for another chip (R329). -/
def dmaPieces (remote : Bool) (g : BitVec 64) (n : Nat) : List (Nat × Nat) :=
  let ps := (gaPieces g n).map fun p => ((p.1 - g).toNat, p.2)
  if remote then ps.flatMap fun p => (List.range (ceilDiv p.2 4096)).map fun i =>
    (p.1 + 4096 * i, min 4096 (p.2 - 4096 * i)) else ps

/-- The bytes that may be written are written (R422). -/
def State.dmaDrain (c : Nat) (s : State) : State :=
  let x := s.dmaCh c
  let n := s.dmaReady x
  let at0 := x.reading - x.buffer.length
  let out := x.buffer.take n
  let s := s.onCh c fun x => { x with buffer := x.buffer.drop n }
  (dmaPieces (decide (gaChip x.dst ≠ s.fab.chip)) (x.dst + BitVec.ofNat 64 at0) n).foldl
    (fun s p => s.dmaPut c (at0 + p.1) ((out.drop p.1).take p.2)) s

/-- A block of the source has been read (R422): it is written. -/
def State.dmaTake (c : Nat) (bs : List (BitVec 8)) (s : State) : State :=
  (s.onCh c fun x => { x with
    reading := x.reading + bs.length, buffer := x.buffer ++ swapBytes x.swap bs, asked := none }).dmaDrain c

/-- A local block of the source is read (R422, R424): the turn passes to the channels after it. -/
def State.dmaRead (c : Nat) (uncorrectable : Bool) (s : State) : State :=
  let s := s.onDma fun d => { d with turn := c }
  let x := s.dmaCh c
  let g := x.src + BitVec.ofNat 64 x.reading
  let n := x.block
  if gaSpace x.src = 4 then
    (let r := s.readRegs (.dma (Fin.ofNat 16 c)) (n / 4) (gaOffset g)
     match r.1 with
     | .ok bs => r.2.dmaTake c bs
     | .error e => r.2.dmaStop c 3 1 (some (g + BitVec.ofNat 64 (e - gaOffset g))))
  else if uncorrectable ∧ gaSpace x.src ≠ 5 then s.dmaStop c 3 3 (some g)
  else match s.readGa (s.dmaWho c) g n with
    | .ok bs => s.dmaTake c bs
    | .poisoned => (s.noteRead g n).dmaStop c 3 3 (some g)
    | .refused => s.dmaStop c 3 (if gaSpace x.src = 5 then 7 else 1) (some g)

/-- A DMA source block read returns, or is refused or poisoned (R422, R424); only that of the channel in turn does. Blocks
of other chips come as their responses arrive. -/
def execDmaReadComplete (channel : Fin 16) (uncorrectable : Bool) (s : State) : Out :=
  if s.dmaNext = some channel.val ∧ gaChip (s.dmaCh channel.val).src = s.fab.chip then
    close (s.dmaRead channel.val uncorrectable).dmaServe
  else finish s

/-- The response to a write of a channel returns (R423). The one response of space 5 comes after the last write and
covers them all. -/
def execDmaWriteResponse (channel : Fin 16) (s : State) : Out :=
  let c := channel.val
  let x := s.dmaCh c
  if x.state ≠ 1 ∨ gaChip x.dst ≠ s.fab.chip then finish s
  else match x.waiting with
    | [] => finish s
    | w :: _ =>
      if gaSpace x.dst ≠ 5 then finish (s.dmaAck c w)
      else if x.stop.isSome ∨ (x.reading = x.total ∧ x.buffer = []) then
        finish (x.waiting.foldl (fun s w => s.dmaAck c w) s)
      else finish s

/-! ### Remote accesses (R201, R329) -/

/-- A remote request is served under the local rules: the status and the data of its response (R329). -/
def State.serve (src : BitVec 12) (write : Bool) (addr : BitVec 64) (len : Nat) (data : List (BitVec 8)) (s : State) :
    BitVec 8 × List (BitVec 8) × State :=
  let t := gaSpace addr
  if gaChip addr ≠ s.fab.chip ∨ t < 1 ∨ 4 < t ∨ len % 4 ≠ 0 ∨ len < 4 ∨ remoteMax < len ∨
      (write ∧ data.length ≠ len) then (1, [], s)
  else if t = 4 then
    if write then
      (let r := s.writeRegs (.remote src) data (gaOffset addr)
       (if r.1.isNone then 0 else 1, [], r.2))
    else
      (let r := s.readRegs (.remote src) (len / 4) (gaOffset addr)
       match r.1 with
       | .ok bs => (0, bs, r.2)
       | .error _ => (1, [], r.2))
  else if write then
    (let ps := gaPieces addr len
     match ps.foldl (fun (acc : Option (Nat × State)) p => match acc with
        | none => none
        | some (o, s) => (s.writeGa none p.1 ((data.drop o).take p.2)).map fun s => (o + p.2, s)) (some (0, s)) with
     | none => (1, [], s)
     | some (_, s) => (0, [], s))
  else match s.readRun none addr len with
    | .ok bs => (0, bs, s)
    | .poisoned => (2, [], s.noteRead addr len)
    | .refused => (1, [], s)

/-- A remote access request arrives (R329). -/
def execRemoteRequest (hdr : FrameHdr) (id : BitVec 32) (write : Bool) (addr : BitVec 64) (len : Nat)
    (data : List (BitVec 8)) (s : State) : Out :=
  receiveWork hdr (fun s =>
    let r := s.serve hdr.source write addr len data
    r.2.2.sendMsg 4 hdr.source false none (.response id r.1 r.2.1)) s

/-- A remote access has ended with a status: 0x0 done, 0x1 refused, 0x2 poisoned; `lost` when no response came. -/
def State.remoteEnd (r : RemoteReq) (status : BitVec 8) (lost : Bool) (data : List (BitVec 8)) (s : State) : State :=
  let code (refused : BitVec 4) : BitVec 4 := if lost then 6 else if status = 2 then 3 else refused
  match r.owner with
  | .none => s
  | .history n h => s.historyEnd n h (decide (status = 0))
  | .dmaRead c =>
    let x := s.dmaCh c
    -- a response to a transfer that has ended is nobody's
    if x.state ≠ 1 ∨ x.stop.isSome ∨ x.asked ≠ some r.id then s
    else
      let g := x.src + BitVec.ofNat 64 x.reading
      (if status = 0 then s.dmaTake c ((data.drop (gaOffset g % 4)).take x.block)
       else s.dmaStop c 3 (code 1) (some g)).dmaServe
  | .pageList h => s.listEnd h (if lost then 1 else status) data
  | .core c => s.onMgt fun m => { m with remoteDone := (c, if lost then 1 else status, data) :: m.remoteDone }
  | .dmaWrite c off =>
    let x := s.dmaCh c
    if x.state ≠ 1 then s
    else if status = 0 then s.dmaAck c (off, r.len)
    else
      -- the refused write is answered: it is no longer waited for
      let s := s.onCh c fun x => { x with waiting := x.waiting.erase (off, r.len) }
      if x.stop.isSome then
        (match x.stop with
         | some (st, k, _) => if (s.dmaCh c).waiting = [] then s.dmaLeave c st k else s
         | none => s)
      else (s.dmaStop c 3 (code 2) (some r.addr)).dmaServe

/-- A remote access response arrives (R329). -/
def execRemoteResponse (hdr : FrameHdr) (id : BitVec 32) (status : BitVec 8) (data : List (BitVec 8)) (s : State) : Out :=
  receiveWork hdr (fun s =>
    match s.fab.requests.find? fun r => decide (r.id = id) && decide (r.dest = hdr.source) with
    | none => s
    | some r => (s.onFab fun f => { f with requests := f.requests.filter fun x => decide (x.id ≠ id) }).remoteEnd
        r status false data) s

/-- Another live port than the one by which a request left (R329); where there is none, any. -/
def State.otherPort (s : State) (was : Option Nat) : Option Nat :=
  was.bind fun p => s.livePorts.find? fun q => decide (q ≠ p)

/-- No response has come for 50 µs: the request is sent again up to three times, and then refused (R329). -/
def execRemoteRequestTimeout (id : BitVec 32) (tick : Nat) (s : State) : Out :=
  let s := s.at_ tick
  match s.fab.requests.find? fun r => decide (r.id = id) with
  | none => finish s
  | some r =>
    if s.uptime < r.sentAt + 50000 then finish s
    else if r.resent < 3 then
      finish ((s.onFab fun f => { f with requests := f.requests.map fun x =>
        if x.id = id then { x with resent := x.resent + 1, sentAt := s.uptime } else x }).sendMsg 5 r.dest false (s.otherPort r.port)
          (.request r.id r.write r.addr r.len r.data))
    else
      close ((s.onFab fun f => { f with
        requests := f.requests.filter fun x => decide (x.id ≠ id)
        remoteErr := satInc f.remoteErr }).remoteEnd r 1 true [])

end Sys2Proof.Machine
end

