-- ==== Sys2Proof/Machine/Dispatch.lean ====
section
/-!
DEFINITION. The meaning of every command: one arm for each constructor of `Instr`.
-/
namespace Sys2Proof.Machine

/-- What the command `i` does to everything but the queue of waiting commands. -/
def exec (i : Instr) (s : State) : Host.Outcome State Fault Refusal :=
  match i with
  | .boundary vrWest vrEast => Sys2Proof.Machine.execBoundary vrWest vrEast s
  | .lastBeat => Sys2Proof.Machine.execLastBeat s
  | .cadenceMarker tick => Sys2Proof.Machine.execCadenceMarker tick s
  | .cadenceFrame hdr body => Sys2Proof.Machine.execCadenceFrame hdr body s
  | .associationWindowClose => Sys2Proof.Machine.execAssociationWindowClose s
  | .armTimeout => Sys2Proof.Machine.execArmTimeout s
  | .leaderFrameTimeout => Sys2Proof.Machine.execLeaderFrameTimeout s
  | .mpass p shape add bank a b guard => Sys2Proof.Machine.execMpass p shape add bank a b guard s
  | .mdrain p bf16 bank d guard => Sys2Proof.Machine.execMdrain p bf16 bank d guard s
  | .mseta p reg addr => Sys2Proof.Machine.execMseta p reg addr s
  | .msets p reg stride => Sys2Proof.Machine.execMsets p reg stride s
  | .mnop p => Sys2Proof.Machine.execMnop p s
  | .copy p o => Sys2Proof.Machine.execCopy p o s
  | .send p o => Sys2Proof.Machine.execSend p o s
  | .gather p o => Sys2Proof.Machine.execGather p o s
  | .readT1 p o => Sys2Proof.Machine.execReadT1 p o s
  | .writeT1 p o => Sys2Proof.Machine.execWriteT1 p o s
  | .steer p o => Sys2Proof.Machine.execSteer p o s
  | .dseta p reg high imm => Sys2Proof.Machine.execDseta p reg high imm s
  | .dsets p reg stride => Sys2Proof.Machine.execDsets p reg stride s
  | .dnop p => Sys2Proof.Machine.execDnop p s
  | .cnop p => Sys2Proof.Machine.execCnop p s
  | .vguard p guard => Sys2Proof.Machine.execVguard p guard s
  | .endloop p trip body => Sys2Proof.Machine.execEndloop p trip body s
  | .idle p beats => Sys2Proof.Machine.execIdle p beats s
  | .string p template scalar => Sys2Proof.Machine.execString p template scalar s
  | .setskip p binding vl origin stride => Sys2Proof.Machine.execSetskip p binding vl origin stride s
  | .steersel p stream => Sys2Proof.Machine.execSteersel p stream s
  | .vnop p => Sys2Proof.Machine.execVnop p s
  | .vadd p o => Sys2Proof.Machine.execVadd p o s
  | .vsub p o => Sys2Proof.Machine.execVsub p o s
  | .vmul p o => Sys2Proof.Machine.execVmul p o s
  | .vfma p o => Sys2Proof.Machine.execVfma p o s
  | .vmax p o => Sys2Proof.Machine.execVmax p o s
  | .vmin p o => Sys2Proof.Machine.execVmin p o s
  | .vabs p o => Sys2Proof.Machine.execVabs p o s
  | .vneg p o => Sys2Proof.Machine.execVneg p o s
  | .exp2 p o => Sys2Proof.Machine.execExp2 p o s
  | .log2 p o => Sys2Proof.Machine.execLog2 p o s
  | .rcp p o => Sys2Proof.Machine.execRcp p o s
  | .rsqrt p o => Sys2Proof.Machine.execRsqrt p o s
  | .sigm p o => Sys2Proof.Machine.execSigm p o s
  | .tanh p o => Sys2Proof.Machine.execTanh p o s
  | .rsum p o => Sys2Proof.Machine.execRsum p o s
  | .rmax p o => Sys2Proof.Machine.execRmax p o s
  | .rmin p o => Sys2Proof.Machine.execRmin p o s
  | .ramax p o => Sys2Proof.Machine.execRamax p o s
  | .iadd p o => Sys2Proof.Machine.execIadd p o s
  | .isub p o => Sys2Proof.Machine.execIsub p o s
  | .vand p o => Sys2Proof.Machine.execVand p o s
  | .vor p o => Sys2Proof.Machine.execVor p o s
  | .vxor p o => Sys2Proof.Machine.execVxor p o s
  | .vshl p o => Sys2Proof.Machine.execVshl p o s
  | .vshr p o => Sys2Proof.Machine.execVshr p o s
  | .vsel p o => Sys2Proof.Machine.execVsel p o s
  | .vmov p o => Sys2Proof.Machine.execVmov p o s
  | .vbcast p o => Sys2Proof.Machine.execVbcast p o s
  | .vperm p o => Sys2Proof.Machine.execVperm p o s
  | .viota p o => Sys2Proof.Machine.execViota p o s
  | .vcmp p o => Sys2Proof.Machine.execVcmp p o s
  | .mlog p o => Sys2Proof.Machine.execMlog p o s
  | .mvl p o => Sys2Proof.Machine.execMvl p o s
  | .mflg p o => Sys2Proof.Machine.execMflg p o s
  | .vcvtBf16 p o => Sys2Proof.Machine.execVcvtBf16 p o s
  | .vcvtFp16 p o => Sys2Proof.Machine.execVcvtFp16 p o s
  | .vcvtFp8 p o => Sys2Proof.Machine.execVcvtFp8 p o s
  | .vcvtFp4 p o => Sys2Proof.Machine.execVcvtFp4 p o s
  | .vqblk p o => Sys2Proof.Machine.execVqblk p o s
  | .vunpk p o => Sys2Proof.Machine.execVunpk p o s
  | .vld p o => Sys2Proof.Machine.execVld p o s
  | .vst p o => Sys2Proof.Machine.execVst p o s
  | .vsthOpen p o => Sys2Proof.Machine.execVsthOpen p o s
  | .vsthClose p o => Sys2Proof.Machine.execVsthClose p o s
  | .slui p o => Sys2Proof.Machine.execSlui p o s
  | .slli p o => Sys2Proof.Machine.execSlli p o s
  | .smov p o => Sys2Proof.Machine.execSmov p o s
  | .sadd p o => Sys2Proof.Machine.execSadd p o s
  | .landingFlit dest cycle bridgeBad => Sys2Proof.Machine.execLandingFlit dest cycle bridgeBad s
  | .emptyFlit dest cycle bridgeBad => Sys2Proof.Machine.execEmptyFlit dest cycle bridgeBad s
  | .t1PieceArrival cell cycle uncorrectable => Sys2Proof.Machine.execT1PieceArrival cell cycle uncorrectable s
  | .t1WriteAck cell cycle => Sys2Proof.Machine.execT1WriteAck cell cycle s
  | .validLengthToken cell cycle bridgeBad => Sys2Proof.Machine.execValidLengthToken cell cycle bridgeBad s
  | .steeringControlToken cell cycle bridgeBad => Sys2Proof.Machine.execSteeringControlToken cell cycle bridgeBad s
  | .remoteBarrierToken cell cycle bridgeBad => Sys2Proof.Machine.execRemoteBarrierToken cell cycle bridgeBad s
  | .zeroLengthHeaderToken cell cycle bridgeBad => Sys2Proof.Machine.execZeroLengthHeaderToken cell cycle bridgeBad s
  | .steerFlitArrival cell cycle => Sys2Proof.Machine.execSteerFlitArrival cell cycle s
  | .steerWindowExpiry cell cycle => Sys2Proof.Machine.execSteerWindowExpiry cell cycle s
  | .hubStringInject entry => Sys2Proof.Machine.execHubStringInject entry s
  | .repairStart sourceBad => Sys2Proof.Machine.execRepairStart sourceBad s
  | .repairDone cycles => Sys2Proof.Machine.execRepairDone cycles s
  | .stagingComplete cycles => Sys2Proof.Machine.execStagingComplete cycles s
  | .switchFillStart => Sys2Proof.Machine.execSwitchFillStart s
  | .switchFillDone cycles => Sys2Proof.Machine.execSwitchFillDone cycles s
  | .dataFrame hdr cycle flits => Sys2Proof.Machine.execDataFrame hdr cycle flits s
  | .streamWindowEnd stream => Sys2Proof.Machine.execStreamWindowEnd stream s
  | .slotTransmit port tick => Sys2Proof.Machine.execSlotTransmit port tick s
  | .verdictFrame hdr body => Sys2Proof.Machine.execVerdictFrame hdr body s
  | .leaveNotice hdr cause lastStep => Sys2Proof.Machine.execLeaveNotice hdr cause lastStep s
  | .remoteRequest hdr id write addr len data => Sys2Proof.Machine.execRemoteRequest hdr id write addr len data s
  | .remoteResponse hdr id status data => Sys2Proof.Machine.execRemoteResponse hdr id status data s
  | .remoteRequestTimeout id tick => Sys2Proof.Machine.execRemoteRequestTimeout id tick s
  | .moveOffer hdr body => Sys2Proof.Machine.execMoveOffer hdr body s
  | .moveAccept hdr body => Sys2Proof.Machine.execMoveAccept hdr body s
  | .moveRefuse hdr body => Sys2Proof.Machine.execMoveRefuse hdr body s
  | .moveData hdr body => Sys2Proof.Machine.execMoveData hdr body s
  | .moveReady hdr body => Sys2Proof.Machine.execMoveReady hdr body s
  | .moveCommit hdr body => Sys2Proof.Machine.execMoveCommit hdr body s
  | .moveAbort hdr body => Sys2Proof.Machine.execMoveAbort hdr body s
  | .moveAck hdr body => Sys2Proof.Machine.execMoveAck hdr body s
  | .moveReadyTimeout move tick => Sys2Proof.Machine.execMoveReadyTimeout move tick s
  | .moveCommitResend move tick => Sys2Proof.Machine.execMoveCommitResend move tick s
  | .moveAbortResend move tick => Sys2Proof.Machine.execMoveAbortResend move tick s
  | .localMoveComplete move tick mismatch uncorrectable => Sys2Proof.Machine.execLocalMoveComplete move tick mismatch uncorrectable s
  | .writeBackComplete frame tick => Sys2Proof.Machine.execWriteBackComplete frame tick s
  | .conversionPassDone => Sys2Proof.Machine.execConversionPassDone s
  | .ttl2Expiry ctx => Sys2Proof.Machine.execTtl2Expiry ctx s
  | .ttl3Expiry ctx => Sys2Proof.Machine.execTtl3Expiry ctx s
  | .shardIngestDone handle tick => Sys2Proof.Machine.execShardIngestDone handle tick s
  | .shardDeadlineExpiry model version tick => Sys2Proof.Machine.execShardDeadlineExpiry model version tick s
  | .scrubDue model version => Sys2Proof.Machine.execScrubDue model version s
  | .scrubPageRead model version page => Sys2Proof.Machine.execScrubPageRead model version page s
  | .uncorrectableRead tier slot unit tick => Sys2Proof.Machine.execUncorrectableRead tier slot unit tick s
  | .hbmStackFailure stack => Sys2Proof.Machine.execHbmStackFailure stack s
  | .ddrChannelFailure channel => Sys2Proof.Machine.execDdrChannelFailure channel s
  | .flashDriveTimeout port => Sys2Proof.Machine.execFlashDriveTimeout port s
  | .nvmeCompletion port command status => Sys2Proof.Machine.execNvmeCompletion port command status s
  | .pcieLinkDown => Sys2Proof.Machine.execPcieLinkDown s
  | .hostPerst high => Sys2Proof.Machine.execHostPerst high s
  | .pcieConfigRequest req => Sys2Proof.Machine.execPcieConfigRequest req s
  | .functionLevelReset func tick => Sys2Proof.Machine.execFunctionLevelReset func tick s
  | .bar4Access func off op => Sys2Proof.Machine.execBar4Access func off op s
  | .funcSetupDone func => Sys2Proof.Machine.execFuncSetupDone func s
  | .funcStopComplete func => Sys2Proof.Machine.execFuncStopComplete func s
  | .funcWedgeTimeout func tick => Sys2Proof.Machine.execFuncWedgeTimeout func tick s
  | .portStateDone port good => Sys2Proof.Machine.execPortStateDone port good s
  | .portStateTimeout port miss => Sys2Proof.Machine.execPortStateTimeout port miss s
  | .portRetryTimer port tick => Sys2Proof.Machine.execPortRetryTimer port tick s
  | .identFrame hdr plane switchPort => Sys2Proof.Machine.execIdentFrame hdr plane switchPort s
  | .echoFrame hdr departure arrival turnaround => Sys2Proof.Machine.execEchoFrame hdr departure arrival turnaround s
  | .laneFailure port fault => Sys2Proof.Machine.execLaneFailure port fault s
  | .powerOn tick => Sys2Proof.Machine.execPowerOn tick s
  | .resetNAssert tick => Sys2Proof.Machine.execResetNAssert tick s
  | .pwrfail tick => Sys2Proof.Machine.execPwrfail tick s
  | .thermalScan tick hottest coolest power => Sys2Proof.Machine.execThermalScan tick hottest coolest power s
  | .thermalCapRaise tick => Sys2Proof.Machine.execThermalCapRaise tick s
  | .railCurrentRead west east => Sys2Proof.Machine.execRailCurrentRead west east s
  | .marginTrip west east => Sys2Proof.Machine.execMarginTrip west east s
  | .stretchEnd cycles => Sys2Proof.Machine.execStretchEnd cycles s
  | .pllLock pll => Sys2Proof.Machine.execPllLock pll s
  | .pllSlip pll => Sys2Proof.Machine.execPllSlip pll s
  | .clockQualification src count => Sys2Proof.Machine.execClockQualification src count s
  | .unarmedOpTick vrWest vrEast tick => Sys2Proof.Machine.execUnarmedOpTick vrWest vrEast tick s
  | .voteScan upsets => Sys2Proof.Machine.execVoteScan upsets s
  | .heartbeatInterval => Sys2Proof.Machine.execHeartbeatInterval s
  | .bootStageDone report => Sys2Proof.Machine.execBootStageDone report s
  | .bootStageRetry => Sys2Proof.Machine.execBootStageRetry s
  | .sourceAssert source level => Sys2Proof.Machine.execSourceAssert source level s
  | .notifyModerationTimeout target tick => Sys2Proof.Machine.execNotifyModerationTimeout target tick s
  | .stormWindow => Sys2Proof.Machine.execStormWindow s
  | .vectorModerationTimeout vector tick => Sys2Proof.Machine.execVectorModerationTimeout vector tick s
  | .msixVectorUnmask vector => Sys2Proof.Machine.execMsixVectorUnmask vector s
  | .dmaReadComplete channel uncorrectable => Sys2Proof.Machine.execDmaReadComplete channel uncorrectable s
  | .dmaWriteResponse channel => Sys2Proof.Machine.execDmaWriteResponse channel s
  | .icClaimRead req target => Sys2Proof.Machine.execIcClaimRead req target s
  | .icCompleteWrite req target value => Sys2Proof.Machine.execIcCompleteWrite req target value s
  | .icGwAckWrite req value => Sys2Proof.Machine.execIcGwAckWrite req value s
  | .icPendRead req word => Sys2Proof.Machine.execIcPendRead req word s
  | .icDoorbellWrite req high value => Sys2Proof.Machine.execIcDoorbellWrite req high value s
  | .icStormUnmask req source value => Sys2Proof.Machine.execIcStormUnmask req source value s
  | .dmaGo req channel value => Sys2Proof.Machine.execDmaGo req channel value s
  | .dmaAbort req channel value => Sys2Proof.Machine.execDmaAbort req channel value s
  | .queueEnable func queue value => Sys2Proof.Machine.execQueueEnable func queue value s
  | .queueDisable func queue value => Sys2Proof.Machine.execQueueDisable func queue value s
  | .cmdTailDoorbell func queue value tick => Sys2Proof.Machine.execCmdTailDoorbell func queue value tick s
  | .rspHeadDoorbell func queue value tick => Sys2Proof.Machine.execRspHeadDoorbell func queue value tick s
  | .srHeadDoorbell value => Sys2Proof.Machine.execSrHeadDoorbell value s
  | .tokenDoorbell func ctx value => Sys2Proof.Machine.execTokenDoorbell func ctx value s
  | .gridPendWrite req reg value => Sys2Proof.Machine.execGridPendWrite req reg value s
  | .gridCellSelWrite req value => Sys2Proof.Machine.execGridCellSelWrite req value s
  | .gridLockWrite req value => Sys2Proof.Machine.execGridLockWrite req value s
  | .arithCtrlWrite req value => Sys2Proof.Machine.execArithCtrlWrite req value s
  | .sysClkEnWrite req value => Sys2Proof.Machine.execSysClkEnWrite req value s
  | .sysLockWrite req value => Sys2Proof.Machine.execSysLockWrite req value s
  | .pwrOpReqWrite req value => Sys2Proof.Machine.execPwrOpReqWrite req value s
  | .pwrOpLimitsWrite req value => Sys2Proof.Machine.execPwrOpLimitsWrite req value s
  | .mgtFwFloorWrite req value => Sys2Proof.Machine.execMgtFwFloorWrite req value s
  | .heartbeatWrite req core value => Sys2Proof.Machine.execHeartbeatWrite req core value s
  | .rstCtrlReset req value => Sys2Proof.Machine.execRstCtrlReset req value s
  | .rcRegisterRead acc => Sys2Proof.Machine.execRcRegisterRead acc s
  | .latchedLowRead acc => Sys2Proof.Machine.execLatchedLowRead acc s
  | .registerWrite acc value => Sys2Proof.Machine.execRegisterWrite acc value s
  | .sbRegisterRead request => Sys2Proof.Machine.execSbRegisterRead request s
  | .sbRegisterWrite request => Sys2Proof.Machine.execSbRegisterWrite request s
  | .sbReset request => Sys2Proof.Machine.execSbReset request s
  | .sbMailboxWrite request => Sys2Proof.Machine.execSbMailboxWrite request s
  | .sbMailboxRead request => Sys2Proof.Machine.execSbMailboxRead request s
  | .jtagInstruction instr => Sys2Proof.Machine.execJtagInstruction instr s
  | .identify handle => Sys2Proof.Machine.execIdentify handle s
  | .deviceReset handle => Sys2Proof.Machine.execDeviceReset handle s
  | .telemetry handle => Sys2Proof.Machine.execTelemetry handle s
  | .handleQuery handle => Sys2Proof.Machine.execHandleQuery handle s
  | .cfgWrite handle => Sys2Proof.Machine.execCfgWrite handle s
  | .cfgCommit handle => Sys2Proof.Machine.execCfgCommit handle s
  | .cadenceSet handle => Sys2Proof.Machine.execCadenceSet handle s
  | .cadenceStatus handle => Sys2Proof.Machine.execCadenceStatus handle s
  | .roleSet handle => Sys2Proof.Machine.execRoleSet handle s
  | .alloc handle => Sys2Proof.Machine.execAlloc handle s
  | .free handle => Sys2Proof.Machine.execFree handle s
  | .move handle => Sys2Proof.Machine.execMove handle s
  | .pageQuery handle => Sys2Proof.Machine.execPageQuery handle s
  | .memMode handle => Sys2Proof.Machine.execMemMode handle s
  | .modelDeclare handle => Sys2Proof.Machine.execModelDeclare handle s
  | .shardLoad handle => Sys2Proof.Machine.execShardLoad handle s
  | .shardFromFlash handle => Sys2Proof.Machine.execShardFromFlash handle s
  | .modelActivate handle => Sys2Proof.Machine.execModelActivate handle s
  | .modelRetire handle => Sys2Proof.Machine.execModelRetire handle s
  | .adapterLoad handle => Sys2Proof.Machine.execAdapterLoad handle s
  | .adapterReplace handle => Sys2Proof.Machine.execAdapterReplace handle s
  | .modelReplace handle => Sys2Proof.Machine.execModelReplace handle s
  | .scrubSet handle => Sys2Proof.Machine.execScrubSet handle s
  | .modelStatus handle => Sys2Proof.Machine.execModelStatus handle s
  | .cylLoad handle => Sys2Proof.Machine.execCylLoad handle s
  | .cylVerify handle => Sys2Proof.Machine.execCylVerify handle s
  | .drain handle => Sys2Proof.Machine.execDrain handle s
  | .cylSwitch handle => Sys2Proof.Machine.execCylSwitch handle s
  | .cylUnload handle => Sys2Proof.Machine.execCylUnload handle s
  | .ctxOpen handle => Sys2Proof.Machine.execCtxOpen handle s
  | .promptSubmit handle => Sys2Proof.Machine.execPromptSubmit handle s
  | .append handle => Sys2Proof.Machine.execAppend handle s
  | .cancel handle => Sys2Proof.Machine.execCancel handle s
  | .ctxClose handle => Sys2Proof.Machine.execCtxClose handle s
  | .ctxPark handle => Sys2Proof.Machine.execCtxPark handle s
  | .ctxResume handle => Sys2Proof.Machine.execCtxResume handle s
  | .fallbackBind handle => Sys2Proof.Machine.execFallbackBind handle s
  | .kvExport handle => Sys2Proof.Machine.execKvExport handle s
  | .kvImport handle => Sys2Proof.Machine.execKvImport handle s
  | .batchStep handle => Sys2Proof.Machine.execBatchStep handle s
  | .deadlineSet handle => Sys2Proof.Machine.execDeadlineSet handle s
  | .linkStatus handle => Sys2Proof.Machine.execLinkStatus handle s
  | .routeSet handle => Sys2Proof.Machine.execRouteSet handle s
  | .planeMask handle => Sys2Proof.Machine.execPlaneMask handle s
  | .fenceCell handle => Sys2Proof.Machine.execFenceCell handle s
  | .unfenceCell handle => Sys2Proof.Machine.execUnfenceCell handle s
  | .calibrate handle => Sys2Proof.Machine.execCalibrate handle s
  | .calStatus handle => Sys2Proof.Machine.execCalStatus handle s
  | .healthRead handle => Sys2Proof.Machine.execHealthRead handle s
  | .funcEnable handle => Sys2Proof.Machine.execFuncEnable handle s
  | .funcDisable handle => Sys2Proof.Machine.execFuncDisable handle s
  | .funcStatus handle => Sys2Proof.Machine.execFuncStatus handle s
  | .diagNop handle => Sys2Proof.Machine.execDiagNop handle s
  | .manufacturingTest handle => Sys2Proof.Machine.execManufacturingTest handle s
  | .powerRemoved => Sys2Proof.Machine.execPowerRemoved s
  | .resetNRelease strap tick => Sys2Proof.Machine.execResetNRelease strap tick s
  | .resetPulseEnd tick => Sys2Proof.Machine.execResetPulseEnd tick s
  | .pcieLinkUp => Sys2Proof.Machine.execPcieLinkUp s
  | .firmwareSramUncorrectable => Sys2Proof.Machine.execFirmwareSramUncorrectable s
  | .calibrationStoreWriteDone record ok => Sys2Proof.Machine.execCalibrationStoreWriteDone record ok s
  | .cylLoadChecked handle => Sys2Proof.Machine.execCylLoadChecked handle s
  | .kvImageTransferDone handle tick => Sys2Proof.Machine.execKvImageTransferDone handle tick s
  | .i3cAddressAssignment cmd => Sys2Proof.Machine.execI3cAddressAssignment cmd s
  | .memoryPatrolScrub tier unit corrected row tick => Sys2Proof.Machine.execMemoryPatrolScrub tier unit corrected row tick s

end Sys2Proof.Machine
end

