-- ==== Sys2Proof/Machine/Step.lean ====
section
/-!
DEFINITION. One step: the command at the front of the queue is carried out on the state with the queue's rest;
on an empty queue the timebase counts one tick (R23; assumption 18).
-/
namespace Sys2Proof.Machine

/-- The timebase counts one tick (R23), and a sideband answer that has become due is read (R488). -/
def idleTick (s : State) : State := (s.onCad fun c => { c with tb := c.tb + 1 }).sbLater

/-- One step. -/
def step (s : State) : Host.Outcome State Fault Refusal :=
  match s.pending with
  | [] => .next (idleTick s)
  | c :: r => exec c { s with pending := r }

/-- The state with the command that a word of the table spells put in front; no word spells one
(assumption 16). -/
def State.withFetchWord (s : State) (nbits w : Nat) : State :=
  match decodeTableWord nbits w with
  | none => s
  | some c => { s with pending := c :: s.pending }

end Sys2Proof.Machine
end

