-- ==== Sys2Proof/Machine/Cores.lean ====
section
/-!
DEFINITION. The address map of the management cores and the supervisor (R427): what a load or a store of a core at a physical
address does. Which of them a core makes is its firmware's; no row of the table is one.
-/
namespace Sys2Proof.Machine

/-- What a load or a store of a core answers. -/
inductive CoreAcc where
  /-- the bytes read; none for a store -/
  | ok (bs : List (BitVec 8))
  /-- a load or a store/AMO access fault (R399, R427) -/
  | fault
  /-- the bytes carry an uncorrectable error (R50) -/
  | poisoned
  /-- a request to another chip, which answers later (R201) -/
  | remote
  deriving DecidableEq, Repr

/-- A core as a requester of registers (R397); core 4 is the supervisor (R430). -/
def coreRequester (c : Fin 5) : Requester := if h : c.val < 4 then .core ⟨c.val, h⟩ else .supervisor

/-! ### Physical memory protection (PRESUMED, assumption 183) -/

/-- Low bits of a protection address that are 1, up to the first 0. -/
def trailingOnes (v : BitVec 64) : Nat := ((List.range 64).takeWhile v.getLsbD).length

/-- The addresses that a protection entry covers, first and one past the last; `prev` is the address of the entry before. -/
def pmpRange (prev : BitVec 64) (e : BitVec 8 × BitVec 64) : Nat × Nat :=
  let a := e.2.toNat
  match (e.1.extractLsb' 3 2 : BitVec 2) with
  | 0 => (0, 0)
  | 1 => (4 * prev.toNat, 4 * a)
  | 2 => (4 * a, 4 * a + 4)
  | _ =>
    let k := trailingOnes e.2
    (4 * (a / 2 ^ k * 2 ^ k), 4 * (a / 2 ^ k * 2 ^ k) + 2 ^ (k + 3))

/-- The first entry that covers a byte of an access decides it: whether it covers all of it, and its configuration. -/
def pmpMatch (a n : Nat) : BitVec 64 → List (BitVec 8 × BitVec 64) → Option (Bool × BitVec 8)
  | _, [] => none
  | prev, e :: es =>
    let r := pmpRange prev e
    if r.1 < a + n ∧ a < r.2 then some (decide (r.1 ≤ a) && decide (a + n ≤ r.2), e.1) else pmpMatch a n e.2 es

/-- A core may make an access of `n` bytes at an address; `right` is the bit of its kind, 0 for a load and 1 for a store. -/
def Mgt.permits (m : Mgt) (c : Fin 5) (right a n : Nat) : Bool :=
  let machine := decide (m.coreMode.getD c.val 3 = 3)
  match pmpMatch a n 0 (m.pmp.getD c.val []) with
  | none => machine
  | some (whole, cfg) => whole && ((machine && !cfg.getLsbD 7) || cfg.getLsbD right)

/-! ### The address map (R427) -/

/-- What lies at a core physical address. -/
inductive CoreRegion where
  | rom
  | sram (offset : Nat)
  | registers (offset : Nat)
  | window (g : BitVec 64)
  | nothing
  deriving DecidableEq, Repr

/-- Where an access of `n` bytes of a core leads (R427). -/
def Mgt.region (m : Mgt) (c : Fin 5) (a n : Nat) : CoreRegion :=
  let within (base size : Nat) : Bool := decide (base ≤ a) && decide (a + n ≤ base + size)
  if within 0 0x20000 then .rom
  else if within 0x08000000 0x01000000 then .sram (a - 0x08000000)
  else if within 0x10000000 0x04000000 then .registers (a - 0x10000000)
  else if within 0x80000000000000 0x1000000000000 then
    .window ((m.gwin.getD c.val 0) ++ BitVec.ofNat 48 (a - 0x80000000000000))
  else .nothing

/-- A register access of a core: one of another size than a word, or atomic, is a bus error (R398 item 1). -/
def coreAccess (c : Fin 5) (off n : Nat) (atomic : Bool) : Access :=
  { req := coreRequester c, bar2 := none, off := off, whole := decide (n = 4) && !atomic }

/-- An access of a core to another chip is sent as a request of R329, which carries whole words: one of four or eight aligned
bytes, else the access faults (DEDUCED, assumption 183). Only spaces 1 to 4 of another chip are reached (R201). Its answer comes
with the response. -/
def State.coreRemote (c : Fin 5) (write : Bool) (g : BitVec 64) (n : Nat) (bs : List (BitVec 8)) (s : State) :
    CoreAcc × State :=
  if gaSpace g < 1 ∨ 4 < gaSpace g then (.fault, s)
  else if n % 4 ≠ 0 ∨ n = 0 ∨ gaOffset g % 4 ≠ 0 then (.fault, s)
  else (.remote, s.remoteSend (gaChip g) write g n bs (.core c.val))

/-- A load of `n` bytes by core `c` (R399, R427). A global window into the register space of this chip is a register
access; every other one is checked as an access by the device (R202). -/
def State.coreLoad (c : Fin 5) (a n : Nat) (atomic : Bool) (s : State) : CoreAcc × State :=
  let s := s.wakeCore c.val
  let register (off : Nat) : CoreAcc × State :=
    let r := s.regRead (coreAccess c off n atomic)
    (match r.1 with
      | some v => .ok (bvBytes 4 v)
      | none => .fault, r.2)
  if !s.mgt.permits c 0 a n then (.fault, s)
  else match s.mgt.region c a n with
  | .rom => (.ok ((List.range n).map fun i => Config.bootRom (a + i)), s)
  | .sram o => (.ok (Mem.reads s.mgt.fwSram o n), s)
  | .registers o => register o
  | .window g =>
    if gaChip g ≠ s.fab.chip then s.coreRemote c false g n []
    else if gaSpace g = 4 ∧ gaOffset g < 2 ^ 26 then register (gaOffset g)
    else (match s.readRun none g n with
      | .ok bs => .ok bs
      | .refused => .fault
      | .poisoned => .poisoned, s.noteRead g n)
  | .nothing => (.fault, s)

/-- A store of bytes by core `c` (R399, R427); the boot ROM is read only. -/
def State.coreStore (c : Fin 5) (a : Nat) (bs : List (BitVec 8)) (atomic : Bool) (s : State) : CoreAcc × State :=
  let s := s.wakeCore c.val
  let n := bs.length
  let register (off : Nat) : CoreAcc × State :=
    let r := s.regWrite (coreAccess c off n atomic) (BitVec.ofNat 32 (leNat bs))
    (if r.1 then .ok [] else .fault, r.2)
  if !s.mgt.permits c 1 a n then (.fault, s)
  else match s.mgt.region c a n with
  | .sram o => (.ok [], s.onMgt fun m => { m with fwSram := Mem.writes m.fwSram o bs })
  | .registers o => register o
  | .window g =>
    if gaChip g ≠ s.fab.chip then s.coreRemote c true g n bs
    else if gaSpace g = 4 ∧ gaOffset g < 2 ^ 26 then register (gaOffset g)
    else match s.writeGa none g bs with
    | some t => (.ok [], t)
    | none => (.fault, s)
  | .rom | .nothing => (.fault, s)

end Sys2Proof.Machine
end

