-- ==== Sys2Proof/Safety.lean ====
section
/-!
DEFINITION. What a safe state is: the memories and sparse maps of the machine are in canonical form.
-/
namespace Sys2Proof

/-! ### Kinds of command -/

/-- The place of issue of a sub-slot; none for a command that is no sub-slot (R41, R113). -/
def Instr.issuedAt : Instr → Option At
  | .mpass p _ _ _ _ _ _ => some p
  | .mdrain p _ _ _ _ => some p
  | .mseta p _ _ => some p
  | .msets p _ _ => some p
  | .mnop p => some p
  | .copy p _ => some p
  | .send p _ => some p
  | .gather p _ => some p
  | .readT1 p _ => some p
  | .writeT1 p _ => some p
  | .steer p _ => some p
  | .dseta p _ _ _ => some p
  | .dsets p _ _ => some p
  | .dnop p => some p
  | .cnop p => some p
  | .vguard p _ => some p
  | .endloop p _ _ => some p
  | .idle p _ => some p
  | .string p _ _ => some p
  | .setskip p _ _ _ _ => some p
  | .steersel p _ => some p
  | .vnop p => some p
  | .vadd p _ => some p
  | .vsub p _ => some p
  | .vmul p _ => some p
  | .vfma p _ => some p
  | .vmax p _ => some p
  | .vmin p _ => some p
  | .vabs p _ => some p
  | .vneg p _ => some p
  | .exp2 p _ => some p
  | .log2 p _ => some p
  | .rcp p _ => some p
  | .rsqrt p _ => some p
  | .sigm p _ => some p
  | .tanh p _ => some p
  | .rsum p _ => some p
  | .rmax p _ => some p
  | .rmin p _ => some p
  | .ramax p _ => some p
  | .iadd p _ => some p
  | .isub p _ => some p
  | .vand p _ => some p
  | .vor p _ => some p
  | .vxor p _ => some p
  | .vshl p _ => some p
  | .vshr p _ => some p
  | .vsel p _ => some p
  | .vmov p _ => some p
  | .vbcast p _ => some p
  | .vperm p _ => some p
  | .viota p _ => some p
  | .vcmp p _ => some p
  | .mlog p _ => some p
  | .mvl p _ => some p
  | .mflg p _ => some p
  | .vcvtBf16 p _ => some p
  | .vcvtFp16 p _ => some p
  | .vcvtFp8 p _ => some p
  | .vcvtFp4 p _ => some p
  | .vqblk p _ => some p
  | .vunpk p _ => some p
  | .vld p _ => some p
  | .vst p _ => some p
  | .vsthOpen p _ => some p
  | .vsthClose p _ => some p
  | .slui p _ => some p
  | .slli p _ => some p
  | .smov p _ => some p
  | .sadd p _ => some p
  | _ => none

/-- The opcode and the handle of a host command that is carried out only once a configuration has been committed (R379,
R382), `LINK_STATUS` and the manufacturing tests apart. -/
def Instr.needsConfig : Instr → Option (BitVec 8 × BitVec 32)
  | .cadenceSet h => some (0x12, h)
  | .roleSet h => some (0x14, h)
  | .alloc h => some (0x20, h)
  | .free h => some (0x21, h)
  | .move h => some (0x22, h)
  | .pageQuery h => some (0x23, h)
  | .memMode h => some (0x24, h)
  | .modelDeclare h => some (0x40, h)
  | .shardLoad h => some (0x41, h)
  | .shardFromFlash h => some (0x42, h)
  | .modelActivate h => some (0x43, h)
  | .modelRetire h => some (0x44, h)
  | .adapterLoad h => some (0x45, h)
  | .adapterReplace h => some (0x46, h)
  | .modelReplace h => some (0x47, h)
  | .scrubSet h => some (0x48, h)
  | .modelStatus h => some (0x49, h)
  | .cylLoad h => some (0x60, h)
  | .cylVerify h => some (0x61, h)
  | .drain h => some (0x62, h)
  | .cylSwitch h => some (0x63, h)
  | .cylUnload h => some (0x64, h)
  | .ctxOpen h => some (0x70, h)
  | .promptSubmit h => some (0x71, h)
  | .append h => some (0x72, h)
  | .cancel h => some (0x73, h)
  | .ctxClose h => some (0x74, h)
  | .ctxPark h => some (0x75, h)
  | .ctxResume h => some (0x76, h)
  | .fallbackBind h => some (0x77, h)
  | .kvExport h => some (0x78, h)
  | .kvImport h => some (0x79, h)
  | .batchStep h => some (0x7A, h)
  | .deadlineSet h => some (0x7B, h)
  | .routeSet h => some (0x91, h)
  | .planeMask h => some (0x92, h)
  | .fenceCell h => some (0xA0, h)
  | .unfenceCell h => some (0xA1, h)
  | .calibrate h => some (0xA2, h)
  | .funcEnable h => some (0xC0, h)
  | .funcDisable h => some (0xC1, h)
  | _ => none

end Sys2Proof

namespace Sys2Proof.Machine

/-- The byte memories of the machine outside the cells are in canonical form. -/
def Memory.wf (m : Memory) : Bool := Mem.wf m.t1 && Mem.wf m.t2 && Mem.wf m.t3

/-- The SRAM of every listed cell is in canonical form. -/
def Grid.wf (g : Grid) : Bool := g.cells.all fun c => Mem.wf c.2.sram

/-- The byte memories that the machine writes are in canonical form: tiers 1 to 3, host memory, firmware
SRAM and the cells' SRAM. -/
def State.memWf (s : State) : Bool :=
  s.mem.wf && s.grid.wf && Mem.wf s.host.mem && Mem.wf s.mgt.fwSram

/-- A run of `n` steps that stops nowhere. -/
def runs : Nat → State → Bool
  | 0, _ => true
  | n + 1, s => match step s with
    | .next s' => runs n s'
    | _ => false

/-! ### The terms of the statements -/

/-- A host command may be carried out: its handle names a live command of the opcode that has been accepted and not
yet carried out, on a device with a committed configuration (R374, R379). -/
def State.ready (s : State) (h : BitVec 32) (op : BitVec 8) (l : Live) : Prop :=
  s.liveOf h = some l ∧ l.opcode = op ∧ l.phase = .accepted ∧ s.configured = true

/-- A frame is received at its tick: its port is `UP` on a plane that carries it, and no test of R313 discards it. -/
def State.receives (s : State) (h : FrameHdr) : Prop :=
  s.listens false h = true ∧ (s.heard h).frameOk h = true

/-- What a vector issue of latency `lat` leaves whose run changes its cell by `f` (R110, R129, R141). -/
def State.afterVector (p : At) (lat : Nat) (f : Cell → Cell) (s : State) : State :=
  s.issued p (State.vecBody p lat (fun s => s.onCell p.cell f) fun s => s)

/-- The result of an FP32 operation that gives each lane a code and flags from lanes of a, b and the old `vd`. -/
def Cell.fp32Lanes (p : At) (o : VOp) (lat : Nat) (useD : Bool) (f : Nat → Nat → Nat → Nat × AFlags) (c : Cell) : Cell :=
  let rs : List (BitVec 32 × AFlags) := (List.range 64).map fun i =>
    let r := f (lane (c.vreg o.va) i).toNat (c.bLane o.b i).toNat (lane (c.vreg o.vd) i).toNat
    (BitVec.ofNat 32 r.1, r.2)
  c.vecResult p.beat lat o.vd (c.mreg o.mask) (rs.map (·.1)) (rs.map (·.2))
    (c.vpoison.getLsbD o.va.toNat || c.bPoison o.b || (useD && c.vpoison.getLsbD o.vd.toNat))

/-- The result of a BF16 operation, two halves to a lane (R116). -/
def Cell.bf16Lanes (p : At) (o : VOp) (lat : Nat) (useD : Bool) (f : Nat → Nat → Nat → Nat × AFlags) (c : Cell) : Cell :=
  let half (i h : Nat) : Nat × AFlags := f ((lane (c.vreg o.va) i).extractLsb' (16 * h) 16).toNat (c.bHalf o.b i h)
    ((lane (c.vreg o.vd) i).extractLsb' (16 * h) 16).toNat
  let rs : List (BitVec 32 × AFlags) := (List.range 64).map fun i =>
    (BitVec.ofNat 32 ((half i 0).1 + 65536 * (half i 1).1), (half i 0).2 ||| (half i 1).2)
  c.vecResult p.beat lat o.vd (c.mreg o.mask) (rs.map (·.1)) (rs.map (·.2))
    (c.vpoison.getLsbD o.va.toNat || c.bPoison o.b || (useD && c.vpoison.getLsbD o.vd.toNat))

/-- The result of a function of one FP32 operand (R118). -/
def Cell.fnLanes (p : At) (o : VOp) (f : BitVec 32 → Nat × AFlags) (c : Cell) : Cell :=
  let rs := (List.range 64).map fun i => f (lane (c.vreg o.va) i)
  c.vecResult p.beat 6 o.vd (c.mreg o.mask) (rs.map fun r => BitVec.ofNat 32 r.1) (rs.map (·.2))
    (c.vpoison.getLsbD o.va.toNat)

/-- The result of a reduction: the lanes the mask leaves out count as `ident` (R119). -/
def Cell.reduced (p : At) (o : VOp) (leaf : Nat → Nat) (ident : Nat) (g : Fl → Fl → Fl) (c : Cell) : Cell :=
  let xs := (List.range 64).map fun i =>
    if (c.mreg o.mask).getLsbD i then leaf (lane (c.vreg o.va) i).toNat else ident
  let r := reduceTree (fun x y => Fmt.fp32.round (g (Fmt.fp32.decode x) (Fmt.fp32.decode y))) 6 (xs, 0)
  let c := c.land (p.beat + 8) (.vreg o.vd (c.mreg o.mask) (ofLanes (List.replicate 64 (BitVec.ofNat 32 (r.1.getD 0 0))))
    (c.vpoison.getLsbD o.va.toNat))
  let c := if r.2 = 0 then c else c.land (p.beat + 8) (.flags (laneFlagBits [r.2]))
  c.addFlags r.2

/-- The result of an exact operation on the lanes (R120). -/
def Cell.exactLanes (p : At) (o : VOp) (lat : Nat) (f : Nat → BitVec 32) (c : Cell) : Cell :=
  c.vecResult p.beat lat o.vd (c.mreg o.mask) ((List.range 64).map f) []
    (c.vpoison.getLsbD o.va.toNat || c.bPoison o.b)

/-- The end of a register write that was taken (R398). -/
def State.wrote (s : State) : State := (s.onHost fun h => { h with aborted := false }).stepEnd

/-- The end of a register read that answers a value (R398). -/
def State.gave (v : BitVec 32) (s : State) : State :=
  (s.onHost fun h => { h with answer := some v, aborted := false }).stepEnd

end Sys2Proof.Machine
end

