-- ==== Sys2Proof/Certificates/Slice0/Obligations.lean ====
section
/-!
DEFINITION. What is to be proved of the machine, from the numbered rules of the specification.
-/
open Sys2Proof Sys2Proof.Machine

/-! ### The machine -/

/-- A step takes the command at the front of the queue and carries it out on the state with the queue's rest. -/
def Obligations.StepRunsFront : Prop :=
  ∀ (c : Instr) (r : List Instr) (s : State), step { s with pending := c :: r } = exec c { s with pending := r }

/-- The model's choice (assumption 18): with no command waiting, a step lets the timebase count one tick, at which a sideband
answer that has become due is read (R488; assumption 85), and changes nothing else. -/
def Obligations.IdleStepCounts : Prop :=
  ∀ s : State, s.pending = [] →
    let u : State := { s with cad := { s.cad with tb := s.cad.tb + 1 } }
    ((∀ t bs, s.pins.sbDue = some (t, bs) → u.uptime < t) → step s = .next u) ∧
    ∀ t bs, s.pins.sbDue = some (t, bs) → t ≤ u.uptime →
      step s = .next { u with pins := { u.pins with sbDue := none }, host := { u.host with answerBytes := bs } }

/-- Every command but a manufacturing test answers a next state, whatever the state: no operand, no data and no mode ends a
run. -/
def Obligations.EveryCommandAnswers : Prop :=
  ∀ (i : Instr) (s : State), (∀ h, i ≠ .manufacturingTest h) → ∃ t, exec i s = .next t

/-- No command changes the queue of the commands that wait behind it. -/
def Obligations.QueueUntouched : Prop :=
  ∀ (i : Instr) (s t : State), exec i s = .next t → t.pending = s.pending

/-- Every step keeps the memory of the host and the firmware SRAM in canonical form: addresses strictly rising, and no entry
that equals what an unlisted address reads as (the form is the model's, assumption 3). -/
def Obligations.MemoryStaysCanonical : Prop :=
  ∀ s t : State, Mem.wf s.host.mem = true → Mem.wf s.mgt.fwSram = true → step s = .next t →
    Mem.wf t.host.mem = true ∧ Mem.wf t.mgt.fwSram = true

/-- Every step keeps the memories of the machine in canonical form: tiers 1 to 3 (R198), the SRAM of every cell (R49), host
memory and firmware SRAM (R427), with the bytes of the pages that arrive from other chips and of the tiles that wait for
their pages (the form is the model's, assumption 3). -/
def Obligations.TiersStayCanonical : Prop :=
  ∀ s t : State,
    let inv (s : State) : Bool := s.memWf && s.mem.remotes.all (fun r => Mem.wf r.bytes) &&
      s.wgt.models.all (fun m => Mem.wf m.staged) && s.wgt.saved.all fun m => Mem.wf m.staged
    inv s = true → step s = .next t → inv t = true

/-- R63: no step but one that finds upset copies gives a copy of the fence map a reserved entry, 0x21 to 0x3E. -/
def Obligations.FenceMapStaysLegal : Prop :=
  ∀ (c : Instr) (r : List Instr) (s t : State), (∀ us, c ≠ .voteScan us) →
    let legal (e : BitVec 6) : Prop := e.toNat ≤ 0x20 ∨ e = 0x3F
    let inv (s : State) : Prop :=
      (∀ e ∈ s.grid.fence.a, legal e) ∧ (∀ e ∈ s.grid.fence.b, legal e) ∧ ∀ e ∈ s.grid.fence.c, legal e
    inv s → step { s with pending := c :: r } = .next t → inv t

/-- R151: every step keeps at most 8 cylinders known, no two of one identity, at most one of them `VERIFIED` and at most one
`ACTIVE`. -/
def Obligations.KnownCylindersBounded : Prop :=
  ∀ s t : State,
    let inv (s : State) : Prop := s.cyl.known.length ≤ 8 ∧ (s.cyl.known.map (·.id)).Nodup ∧
      (s.cyl.known.filter fun k => decide (k.status = .verified)).length ≤ 1 ∧
      (s.cyl.known.filter fun k => decide (k.status = .active)).length ≤ 1
    inv s → step s = .next t → inv t

/-- What the specification says of the state after a full device reset: the cadence is `UNARMED` (R35, R462), so that no step
is in progress; the fence registers read their reset values, no row with a fenced cell (R74); no cylinder is known (R151,
R462); the write-back mode holds (R213); no lock bit is set (R403); no configuration is committed (R462, R471).
The model's own: every byte memory and sparse table is in canonical form with nothing listed (assumption 3), and no command
waits in the queue (assumptions 2 and 18); no slot is taken and no command is live, fields of the model (assumption 2) that
are empty as no context is open and every function is `OFF` (R462); no import from another chip and no model is held, as
nothing of either is kept. -/
def Obligations.ResetValues : Prop :=
  State.reset.memWf = true ∧ State.reset.mem.remotes = [] ∧ State.reset.wgt.models = [] ∧ State.reset.wgt.saved = [] ∧
  State.reset.pending = [] ∧
  State.reset.cad.state = .unarmed ∧ State.reset.step.playing = false ∧
  State.reset.grid.fence.value = List.replicate 48 0x3F ∧ State.reset.cyl.known = [] ∧
  State.reset.mem.writeBack = true ∧ State.reset.sys.lock.value = 0 ∧ State.reset.configured = false ∧
  State.reset.srv.slots = [] ∧ State.reset.cmd.live = []

/-- Issuing a sub-slot changes the cells, the mesh, the step's verdict, tier 1 and its directory and journal, the timebase,
the count of free values, the interrupt controller's view of the events and whether a core that it notifies waits (R430):
the rest of the cadence, the cylinders, the
weights, the contexts, the host commands, the fabric, the power and calibration state, the system block, the DMA, the
management cores, the configuration, the pins, host memory, tiers 2 and 3, the queue and every other cell are as before.
Where the cells play, the bytes of the issuing cell's SRAM and of every tier are those that have landed by the beat: the
issue itself changes none. It leaves pending accesses (R47, R49, R52), and those that write bytes are within the 256 bytes at
the address of a `VST`, the 64 bytes of the header of a `VSTH` close, the results that an `MDRAIN` writes from its register's
address on, the flits from the destination register on of a `COPY` (in SRAM), a `GATHER` or `READ_T1` (in SRAM, as their
pieces come) and a `WRITE_T1` (in tier 1, where its window leads); every other form leaves none that writes. Where they do
not play nothing changes. -/
def Obligations.SubSlotFrame : Prop :=
  ∀ (i : Instr) (p : At) (s t : State), i.issuedAt = some p → exec i s = .next t →
    ({ t.cad with tb := s.cad.tb } = s.cad ∧ t.cyl = s.cyl ∧ t.wgt = s.wgt ∧ t.srv = s.srv ∧ t.cmd = s.cmd ∧
    t.hlt = s.hlt ∧ t.fab = s.fab ∧
    t.pwr = s.pwr ∧ t.store = s.store ∧ t.sys = s.sys ∧ t.dma = s.dma ∧ { t.mgt with coreState := s.mgt.coreState } = s.mgt ∧ t.cfg = s.cfg ∧
    t.pins = s.pins ∧ t.pending = s.pending ∧ t.host.mem = s.host.mem ∧ t.mem.t2 = s.mem.t2 ∧ t.mem.t3 = s.mem.t3 ∧
    t.mem.dir2 = s.mem.dir2 ∧ t.mem.dir3 = s.mem.dir3 ∧
    t.grid.fence = s.grid.fence ∧ t.grid.repairs = s.grid.repairs ∧
    ∀ k, k ≠ s.hostOf p.cell → t.phys k = s.phys k) ∧
    (s.plays p = false → t = s) ∧
    (s.plays p = true →
      let u := s.atBeat p
      let c := u.cell p.cell
      t.mem = u.mem ∧ (t.cell p.cell).sram = c.sram ∧ (t.cell p.cell).poisoned = c.poisoned ∧
      (∀ l ∈ (t.cell p.cell).landings, l ∈ c.landings ∨ (match l.2 with
        | .sram a bs _ _ => (match i with
          | .vst _ o => c.vecAddr o.sbase o.offset.toNat ≤ a ∧ a + bs.length ≤ c.vecAddr o.sbase o.offset.toNat + 256
          | .vsthClose _ h =>
            let start := (c.stream.map (·.base)).getD (c.vecAddr h.sbase h.offset.toNat)
            start ≤ a ∧ a + bs.length ≤ start + 64
          | .mdrain _ bf16 bank d _ =>
            let start := (c.maReg d).toNat * 64
            start ≤ a ∧ a + bs.length ≤ start + (if bf16 = true then 2 else 4) * Sparse.get 0 c.accSize (bankNo bank)
          | _ => False)
        | .copy _ dst _ => (match i with
          | .copy _ o => ∃ j < moverCount o, dst = daSram (c.daReg o.dst) + 128 * j
          | _ => False)
        | .indexBlock _ _ dst count _ _ _ => (match i with
          | .gather _ o => ∃ j < ceilDiv (moverCount o) 32,
            dst = daSram (c.daReg o.dst) + 4096 * j ∧ count = min 32 (moverCount o - 32 * j)
          | _ => False)
        | .toT1 _ dst _ => (match i with
          | .writeT1 _ o => ∃ j < moverCount o, dst = (match u.t1Flits (c.daReg o.dst) j with
            | .addr a => some a
            | _ => none)
          | _ => False)
        | .piece _ _ _ _ _ _ => False
        | _ => True)) ∧
      ∀ x ∈ t.grid.pieces, x ∈ u.grid.pieces ∨ (x.cell = p.cell ∧ (match i with
        | .readT1 _ o => ∃ j < moverCount o, x.dst = daSram (c.daReg o.dst) + 128 * j
        | _ => False)))

/-- R110: a result of latency 1 or more is not seen by the beat that issues it: after any vector sub-slot the vector, mask
and scalar registers, the flags by lane, the accumulators and the SRAM of the cell are those its issue saw, and whatever the
issue adds to the cell's landings becomes visible in a later beat. -/
def Obligations.VectorResultsLandLater : Prop :=
  ∀ (i : Instr) (p : At) (s t : State), i.issuedAt = some p → (encodeVector i).isSome = true → s.plays p = true →
    exec i s = .next t →
    let c := t.cell p.cell
    let d := (s.atBeat p).cell p.cell
    c.v = d.v ∧ c.m = d.m ∧ c.sc = d.sc ∧ c.laneFlags = d.laneFlags ∧ c.sram = d.sram ∧ c.acc0 = d.acc0 ∧
      c.acc1 = d.acc1 ∧ c.da = d.da ∧ c.ma = d.ma ∧ c.beat = d.beat ∧
      ∀ x ∈ c.landings, x ∈ d.landings ∨ p.beat < x.1

/-! ### Encodings -/

/-- R113 to R115, R138 to R140: a well-formed vector, matrix, data-mover or control sub-slot decodes to the operation it
encodes, with every operand. -/
def Obligations.EncodingsRoundTrip : Prop :=
  ∀ (i : Instr) (p : At) (w : BitVec 32), i.wf = true → i.issuedAt = some p →
    (encodeVector i = some w → decodeVector p w = some i) ∧
    (encodeMatrix i = some w → decodeMatrix p w = some i) ∧
    (encodeMover i = some w → decodeMover p w = some i) ∧
    (encodeControl i = some w → decodeControl p w = some i)

/-- R113, R138 to R140: a sub-slot word has one meaning: an operation that a decoder reads from a word is issued where it
was read, and encodes to that word, no bit of it left out. -/
def Obligations.DecodedWordsEncodeBack : Prop :=
  ∀ (p : At) (w : BitVec 32) (i : Instr),
    (decodeVector p w = some i → i.issuedAt = some p ∧ encodeVector i = some w) ∧
    (decodeMatrix p w = some i → i.issuedAt = some p ∧ encodeMatrix i = some w) ∧
    (decodeMover p w = some i → i.issuedAt = some p ∧ encodeMover i = some w) ∧
    (decodeControl p w = some i → i.issuedAt = some p ∧ encodeControl i = some w)

/-- Words 0, 7, 9 and 11 of the specification's worked slot program decode to the operations that it lists beside them. -/
def Obligations.KnownSlotWords : Prop :=
  ∀ p : At,
    decodeSlot p 0x30000200000000000000000052004000 =
      some [.setskip p 1 0 32 0, .mseta p 0 0x200, .dnop p, .vnop p] ∧
    decodeSlot p 0x12041000000000000000000000000000 =
      some [.cnop p, .mpass p .s16 true false 0 1 { skip := 1, chkCtr := 0, chkAdd := 0, sigEn := false, sigCtr := 0 },
        .dnop p, .vnop p] ∧
    decodeSlot p 0x20400013000000000000000000000000 =
      some [.cnop p, .mdrain p false false 2 { skip := 0, chkCtr := 0, chkAdd := 0, sigEn := true, sigCtr := 3 },
        .dnop p, .vnop p] ∧
    decodeSlot p 0x00000000E00020000000000010000320 =
      some [.vguard p { skip := 0, chkCtr := 3, chkAdd := 1, sigEn := false, sigCtr := 0 }, .mnop p, .dnop p,
        .vld p { v := 0, sbase := 0, offset := 0x100, mask := 0, post := .none }]

/-- R10: a slot word that decodes gives the control, matrix, data-mover and vector operations of its bits [31:0], [127:96],
[63:32] and [95:64]. -/
def Obligations.SlotWordLayout : Prop :=
  ∀ (p : At) (w : BitVec 128) (is : List Instr), decodeSlot p w = some is →
    ∃ c m d v, is = [c, m, d, v] ∧ decodeControl p (w.extractLsb' 0 32) = some c ∧
      decodeMatrix p (w.extractLsb' 96 32) = some m ∧ decodeMover p (w.extractLsb' 32 32) = some d ∧
      decodeVector p (w.extractLsb' 64 32) = some v

/-- R137: the guard field: bits [14:12] are `skip`, [11:8] `chk_ctr`, [7:5] `chk_add`, [4] `sig_en`, [3:0] `sig_ctr`. With
`skip` 0 and `chk_add` 0 an issue is neither skipped nor checked; it signals `sig_ctr` where `sig_en` is 1. -/
def Obligations.GuardFieldLayout : Prop :=
  (∀ w : BitVec 32, (guardOf w).skip = w.extractLsb' 12 3 ∧ (guardOf w).chkCtr = w.extractLsb' 8 4 ∧
    (guardOf w).chkAdd = w.extractLsb' 5 3 ∧ (guardOf w).sigEn = w.getLsbD 4 ∧ (guardOf w).sigCtr = w.extractLsb' 0 4) ∧
  (∀ g : Guard, (guardBits g).toNat = g.skip.toNat * 4096 + g.chkCtr.toNat * 256 + g.chkAdd.toNat * 32 +
    g.sigEn.toNat * 16 + g.sigCtr.toNat) ∧
  (∀ (s : State) (k : Nat) (g : Guard), g.skip = 0 → g.chkAdd = 0 → (s.guarded k g).1 = .run) ∧
  ∀ g : Guard, Machine.Guard.signal g = if g.sigEn = true then some g.sigCtr else none

/-! ### Rules of their own -/

/-- R80, of the rounding of a value to a format and of the functions of R118: the result of a NaN is the canonical NaN of
the format, no other result is a NaN, and a result that is a NaN is the canonical one. R87: the block scale 0xFF stands for
a block with an element that is not finite, and for no other. -/
def Obligations.CanonicalNaNs : Prop :=
  Fmt.fp32.nanCode = 0x7FC00000 ∧ Fmt.bf16.nanCode = 0x7FC0 ∧ Fmt.fp16.nanCode = 0x7E00 ∧ Fmt.e4m3.nanCode = 0x7F ∧
  Fmt.e5m2.nanCode = 0x7F ∧
  (∀ (f : Fmt) (x : Fl), x.isNan = true → (f.round x).1 = f.nanCode) ∧
  (∀ (f : Fmt) (x : Fl), (f.decode (f.round x).1).isNan = true → x.isNan = true ∧ (f.round x).1 = f.nanCode) ∧
  (∀ (g : Fl → Fl) (z : Bool) (a : BitVec 32),
    ((g (Fmt.fp32.decode a.toNat)).isNan = true → (fnFp32 g z a).1 = 0x7FC00000) ∧
    ((Fmt.fp32.decode (fnFp32 g z a).1).isNan = true → (fnFp32 g z a).1 = 0x7FC00000)) ∧
  ∀ (f : Fmt) (ssf4 : Bool) (xs : List Fl), (quantBlock f ssf4 xs).scale = 0xFF ↔ xs.any (fun x => !x.isFin) = true

/-- R471: after a full reset the staging copy holds zeros and no unit counts as written; each unit that a `CFG_WRITE` covers
counts as written; a committed block leaves the copy as it is with every unit written; a refused commit leaves both as they
were. -/
def Obligations.StagingCopy : Prop :=
  (∀ (s : State) (cause : BitVec 4) (retain : Bool),
    (s.enterReset cause retain).cfg.staging = List.replicate 1024 0 ∧ (s.enterReset cause retain).cfg.written = 0) ∧
  (∀ (h : BitVec 32) (src : BitVec 64) (o n : Nat) (s : State), o + n ≤ 16 →
    (∀ (u : Config_) (k : Nat), k < n →
      ∃ bs, ({ s with cfg := { s.cfg with staging := u.staging, written := u.written } } : State).readRun (some 0)
        (src + BitVec.ofNat 64 (64 * k)) 64 = .ok bs) →
    ∀ i, i < 16 → (s.storeUnits h src o n).cfg.written.getLsbD i =
      (s.cfg.written.getLsbD i || (decide (o ≤ i) && decide (i < o + n)))) ∧
  (∀ (h : BitVec 32) (b : List (BitVec 8)) (s : State),
    (s.commitBlock h b).cfg.staging = s.cfg.staging ∧ (s.commitBlock h b).cfg.written = 0xFFFF) ∧
  ∀ (h : BitVec 32) (l : Live) (s : State) (e : Nat × Nat), s.liveOf h = some l →
    (s.onCfg fun c => { c with commit := none }).cfgFault s.cfg.staging (BitVec.ofNat 256 (l.param 24 32)) = some e →
    (s.checkCommit h).cfg.staging = s.cfg.staging ∧ (s.checkCommit h).cfg.written = s.cfg.written

/-- R379: before a configuration is committed, a command that R379 does not list completes with `CONFIG_INVALID` and does
nothing else: every one of the 41 that need it, `LINK_STATUS` with an action other than `REPORT`, and the manufacturing
tests. -/
def Obligations.UnconfiguredRefusesCommands : Prop :=
  ∀ (i : Instr) (op : BitVec 8) (h : BitVec 32) (l : Live) (s : State),
    s.liveOf h = some l → l.phase = .accepted → s.configured = false →
    (i.needsConfig = some (op, h) → l.opcode = op →
      exec i s = .next (s.complete h stConfigInvalid 0).stepEnd) ∧
    (l.opcode = 0x90 → l.param 8 1 ≠ 0 → exec (.linkStatus h) s = .next (s.complete h stConfigInvalid 0).workEnd) ∧
    (0xF1 ≤ l.opcode.toNat → exec (.manufacturingTest h) s = .next (s.complete h stConfigInvalid 0).stepEnd)

/-- R338: `ROUTE_SET` with a group count G of 0 to 5 replaces the chip's groups by the G group numbers and completes `OK`;
it is refused with `NOT_ALLOWED_IN_STATE` unless the cadence is `UNARMED`, and with `BAD_PARAM` for G above 5. -/
def Obligations.RouteSetReplacesGroups : Prop :=
  ∀ (h : BitVec 32) (l : Live) (s : State), s.ready h 0x91 l →
    (s.unarmed = true → l.param 8 1 ≤ 5 → (∀ i, i < l.param 8 1 → l.param (16 + 2 * i) 2 < 4096) →
      (∀ j, 2 * l.param 8 1 ≤ j → j < 10 → l.param (16 + j) 1 = 0) →
      exec (.routeSet h) s = .next ((s.onFab fun f => { f with
        groups := (List.range (l.param 8 1)).map fun i => BitVec.ofNat 12 (l.param (16 + 2 * i) 2) }).complete h
          stOk 0).workEnd) ∧
    (s.unarmed = false → exec (.routeSet h) s = .next (s.complete h stNotAllowed 0).workEnd) ∧
    (s.unarmed = true → 5 < l.param 8 1 → exec (.routeSet h) s = .next (s.complete h stBadParam 8).workEnd)

/-- R232: `PAGE_QUERY` of an address of the chip writes the directory entry of the page at it to the host address and
completes `OK`; with `BAD_HANDLE` for another owner's page, and with `BAD_PARAM` for a space other than 1 to 3. -/
def Obligations.PageQueryAnswers : Prop :=
  ∀ (h : BitVec 32) (l : Live) (s : State),
    let g := BitVec.ofNat 64 (l.param 8 8)
    s.ready h 0x23 l → gaChip g = s.fab.chip →
    ((gaSlot g).1 ∈ [1, 2, 3] → s.offsetOk g = true → s.ownPage l.func g = true →
      exec (.pageQuery h) s = .next
        ((s.hostWrite l.func.toNat (l.param 16 8) (s.entryBytes (gaSlot g).1 (gaSlot g).2)).complete h stOk 0).workEnd) ∧
    ((gaSlot g).1 ∈ [1, 2, 3] → s.offsetOk g = true → s.ownPage l.func g = false →
      exec (.pageQuery h) s = .next (s.complete h stBadHandle 0).workEnd) ∧
    ((gaSlot g).1 ∉ [1, 2, 3] → exec (.pageQuery h) s = .next (s.complete h stBadParam 8).workEnd)
/-! ### The vector engine -/

/-- R116, R117: where the cells play, each floating-point operation on FP32 lanes completes: every lane takes the operation
on the exact values rounded once, or the sign change; `VFMA` reads the old `vd`.
R116, R117: the same operations with type BF16 act on both halves of each lane, and a scalar operand is bits [15:0] of the
scalar register in both halves.
R118, R119: the functions of one operand, with a result of latency 6, and the reductions, with a result of latency 8 in
which a lane that the mask leaves out counts as the identity of the operation: −0, −infinity, +infinity and +0.
The model's reading, which R116 to R119 do not give: the invalid flag of `VABS`, `VNEG`, `VMAX` and `VMIN` of a NaN
(assumption 101), and the flags of the roundings within `RSUM` and the sigmoid (assumption 102). -/
def Obligations.VectorFloat : Prop :=
  (∀ (p : At) (o : VOp) (s : State), s.plays p = true → o.ty = .fp32 →
      exec (.vadd p o) s = .next (s.afterVector p 4 (Cell.fp32Lanes p o 4 false fun a b _ =>
        Fmt.fp32.round ((Fmt.fp32.decode a).add (Fmt.fp32.decode b)))) ∧
      exec (.vsub p o) s = .next (s.afterVector p 4 (Cell.fp32Lanes p o 4 false fun a b _ =>
        Fmt.fp32.round ((Fmt.fp32.decode a).add (Fmt.fp32.decode b).negate))) ∧
      exec (.vmul p o) s = .next (s.afterVector p 4 (Cell.fp32Lanes p o 4 false fun a b _ =>
        Fmt.fp32.round ((Fmt.fp32.decode a).mul (Fmt.fp32.decode b)))) ∧
      exec (.vfma p o) s = .next (s.afterVector p 4 (Cell.fp32Lanes p o 4 true fun a b d =>
        Fmt.fp32.round (((Fmt.fp32.decode a).mul (Fmt.fp32.decode b)).add (Fmt.fp32.decode d)))) ∧
      exec (.vmax p o) s = .next (s.afterVector p 2 (Cell.fp32Lanes p o 2 false fun a b _ =>
        Fmt.fp32.round ((Fmt.fp32.decode a).max (Fmt.fp32.decode b)))) ∧
      exec (.vmin p o) s = .next (s.afterVector p 2 (Cell.fp32Lanes p o 2 false fun a b _ =>
        Fmt.fp32.round ((Fmt.fp32.decode a).min (Fmt.fp32.decode b)))) ∧
      exec (.vabs p o) s = .next (s.afterVector p 2 (Cell.fp32Lanes p { o with b := .scalar 0 } 2 false fun a _ _ =>
        if (Fmt.fp32.decode a).isNan then (Fmt.fp32.nanCode, fInvalid) else (a % 2 ^ 31, 0))) ∧
      exec (.vneg p o) s = .next (s.afterVector p 2 (Cell.fp32Lanes p { o with b := .scalar 0 } 2 false fun a _ _ =>
        if (Fmt.fp32.decode a).isNan then (Fmt.fp32.nanCode, fInvalid)
        else ((if a < 2 ^ 31 then 2 ^ 31 else 0) + a % 2 ^ 31, 0)))) ∧
  (∀ (p : At) (o : VOp) (s : State), s.plays p = true → o.ty = .bf16 →
      exec (.vadd p o) s = .next (s.afterVector p 4 (Cell.bf16Lanes p o 4 false fun a b _ =>
        Fmt.bf16.round ((Fmt.bf16.decode a).add (Fmt.bf16.decode b)))) ∧
      exec (.vsub p o) s = .next (s.afterVector p 4 (Cell.bf16Lanes p o 4 false fun a b _ =>
        Fmt.bf16.round ((Fmt.bf16.decode a).add (Fmt.bf16.decode b).negate))) ∧
      exec (.vmul p o) s = .next (s.afterVector p 4 (Cell.bf16Lanes p o 4 false fun a b _ =>
        Fmt.bf16.round ((Fmt.bf16.decode a).mul (Fmt.bf16.decode b)))) ∧
      exec (.vfma p o) s = .next (s.afterVector p 4 (Cell.bf16Lanes p o 4 true fun a b d =>
        Fmt.bf16.round (((Fmt.bf16.decode a).mul (Fmt.bf16.decode b)).add (Fmt.bf16.decode d)))) ∧
      exec (.vmax p o) s = .next (s.afterVector p 2 (Cell.bf16Lanes p o 2 false fun a b _ =>
        Fmt.bf16.round ((Fmt.bf16.decode a).max (Fmt.bf16.decode b)))) ∧
      exec (.vmin p o) s = .next (s.afterVector p 2 (Cell.bf16Lanes p o 2 false fun a b _ =>
        Fmt.bf16.round ((Fmt.bf16.decode a).min (Fmt.bf16.decode b)))) ∧
      exec (.vabs p o) s = .next (s.afterVector p 2 (Cell.bf16Lanes p { o with b := .scalar 0 } 2 false fun a _ _ =>
        if (Fmt.bf16.decode a).isNan then (Fmt.bf16.nanCode, fInvalid) else (a % 2 ^ 15, 0))) ∧
      exec (.vneg p o) s = .next (s.afterVector p 2 (Cell.bf16Lanes p { o with b := .scalar 0 } 2 false fun a _ _ =>
        if (Fmt.bf16.decode a).isNan then (Fmt.bf16.nanCode, fInvalid)
        else ((if a < 2 ^ 15 then 2 ^ 15 else 0) + a % 2 ^ 15, 0)))) ∧
  (∀ (p : At) (o : VOp) (s : State), s.plays p = true → o.ty = .fp32 →
      exec (.exp2 p o) s = .next (s.afterVector p 6 (Cell.fnLanes p o (fnFp32 flExp2 false))) ∧
      exec (.log2 p o) s = .next (s.afterVector p 6 (Cell.fnLanes p o (fnFp32 flLog2 true))) ∧
      exec (.rcp p o) s = .next (s.afterVector p 6 (Cell.fnLanes p o (fnFp32 flRcp true))) ∧
      exec (.rsqrt p o) s = .next (s.afterVector p 6 (Cell.fnLanes p o (fnFp32 flRsqrt true))) ∧
      exec (.sigm p o) s = .next (s.afterVector p 6 (Cell.fnLanes p o (fnFp32 flSigm false))) ∧
      exec (.tanh p o) s = .next (s.afterVector p 6 (Cell.fnLanes p o (fnFp32 flTanh false))) ∧
      exec (.rsum p o) s = .next (s.afterVector p 8 (Cell.reduced p o (fun a => a) 0x80000000 Fl.add)) ∧
      exec (.rmax p o) s = .next (s.afterVector p 8 (Cell.reduced p o (fun a => a) 0xFF800000 Fl.max)) ∧
      exec (.rmin p o) s = .next (s.afterVector p 8 (Cell.reduced p o (fun a => a) 0x7F800000 Fl.min)) ∧
      exec (.ramax p o) s = .next (s.afterVector p 8 (Cell.reduced p o (fun a => a % 2 ^ 31) 0 Fl.max)))

/-- R120, R121: the integer, logic and move operations: the value of each lane, modulo 2^32, with latency 2, or 3 for
`VPERM` and `VIOTA`; `VSEL` writes every lane, the others the lanes of the mask. That a scalar operand of `VSEL` with type
BF16 is all of the register is the model's reading (assumption 204). -/
def Obligations.VectorExact : Prop :=
  ∀ (p : At) (o : VOp) (s : State), s.plays p = true →
    (o.ty = .int32 →
      exec (.iadd p o) s = .next (s.afterVector p 2 fun c =>
        c.exactLanes p o 2 fun i => lane (c.vreg o.va) i + c.bLane o.b i) ∧
      exec (.isub p o) s = .next (s.afterVector p 2 fun c =>
        c.exactLanes p o 2 fun i => lane (c.vreg o.va) i - c.bLane o.b i) ∧
      exec (.vand p o) s = .next (s.afterVector p 2 fun c =>
        c.exactLanes p o 2 fun i => lane (c.vreg o.va) i &&& c.bLane o.b i) ∧
      exec (.vor p o) s = .next (s.afterVector p 2 fun c =>
        c.exactLanes p o 2 fun i => lane (c.vreg o.va) i ||| c.bLane o.b i) ∧
      exec (.vxor p o) s = .next (s.afterVector p 2 fun c =>
        c.exactLanes p o 2 fun i => lane (c.vreg o.va) i ^^^ c.bLane o.b i) ∧
      exec (.vshl p o) s = .next (s.afterVector p 2 fun c =>
        c.exactLanes p o 2 fun i => lane (c.vreg o.va) i <<< ((c.bLane o.b i).toNat % 32)) ∧
      exec (.vshr p o) s = .next (s.afterVector p 2 fun c => c.exactLanes p o 2 fun i =>
        if o.mod.getLsbD 0 then (lane (c.vreg o.va) i).sshiftRight ((c.bLane o.b i).toNat % 32)
        else lane (c.vreg o.va) i >>> ((c.bLane o.b i).toNat % 32)) ∧
      exec (.vperm p o) s = .next (s.afterVector p 3 fun c =>
        c.exactLanes p o 3 fun i => lane (c.vreg o.va) ((c.bLane o.b i).toNat % 64)) ∧
      ∀ sn, o.b = .scalar sn →
        exec (.viota p o) s = .next (s.afterVector p 3 fun c => c.vecResult p.beat 3 o.vd (c.mreg o.mask)
          ((List.range 64).map fun i => c.sreg sn + BitVec.ofNat 32 i) [] false)) ∧
    exec (.vsel p o) s = .next (s.afterVector p 2 fun c =>
      c.land (p.beat + 2) (.vreg o.vd (BitVec.allOnes 64) (ofLanes ((List.range 64).map fun i =>
          if (c.mreg o.mask).getLsbD i then lane (c.vreg o.va) i else c.bLane o.b i))
        (c.vpoison.getLsbD o.va.toNat || c.bPoison o.b))) ∧
    exec (.vmov p o) s = .next (s.afterVector p 2 fun c =>
      c.exactLanes p { o with b := .scalar 0 } 2 fun i => lane (c.vreg o.va) i) ∧
    ∀ sn, o.b = .scalar sn →
      exec (.vbcast p o) s = .next (s.afterVector p 2 fun c =>
        c.vecResult p.beat 2 o.vd (c.mreg o.mask) (List.replicate 64 (c.sreg sn)) [] false)

/-- R122: the masks. `VCMP` clears the lanes the mask leaves out and compares as floating-point or signed numbers, with
zeros of either sign equal and no comparison but "unordered" true of a NaN; `MLOG` combines two masks; `MVL` marks the lanes
within a valid length, start plus lane as whole numbers (assumption 103); `MFLG` marks the lanes that hold a flag, and
clears every lane flag where `mod` bit 3 is set. The model's choices, which R122 does not give: `MVL` with scalar bit 0
counts the scalar as 0, and `MFLG` with `mod` bits 2 to 0 from 5 to 7 gives a zero mask (assumption 196); `MLOG`, `MVL` and
`MFLG` take every type (assumption 204). -/
def Obligations.VectorMasks : Prop :=
  ∀ (p : At) (o : VOp) (s : State), s.plays p = true →
    (o.ty = .int32 → exec (.vcmp p o) s = .next (s.afterVector p 2 fun c =>
      c.land (p.beat + 2) (.mask (o.vd.extractLsb' 0 3) (BitVec.allOnes 64) (maskOf fun i =>
        (c.mreg o.mask).getLsbD i &&
          (if o.mod.extractLsb' 0 2 = 0 then decide (lane (c.vreg o.va) i = c.bLane o.b i)
           else if o.mod.extractLsb' 0 2 = 1 then (lane (c.vreg o.va) i).slt (c.bLane o.b i)
           else if o.mod.extractLsb' 0 2 = 2 then (lane (c.vreg o.va) i).sle (c.bLane o.b i) else false))))) ∧
    (o.ty = .fp32 → exec (.vcmp p o) s = .next (s.afterVector p 2 fun c =>
      c.land (p.beat + 2) (.mask (o.vd.extractLsb' 0 3) (BitVec.allOnes 64) (maskOf fun i =>
        let x := Fmt.fp32.decode (lane (c.vreg o.va) i).toNat
        let y := Fmt.fp32.decode (c.bLane o.b i).toNat
        let nan := x.isNan || y.isNan
        (c.mreg o.mask).getLsbD i &&
          (if o.mod.extractLsb' 0 2 = 0 then !nan && !x.less false y && !y.less false x
           else if o.mod.extractLsb' 0 2 = 1 then x.less false y
           else if o.mod.extractLsb' 0 2 = 2 then !nan && !y.less false x else nan))))) ∧
    (∀ vb, o.b = .reg vb → exec (.mlog p o) s = .next (s.afterVector p 1 fun c =>
      let a := c.mreg (o.va.extractLsb' 0 3)
      let b := c.mreg (vb.extractLsb' 0 3)
      c.land (p.beat + 1) (.mask (o.vd.extractLsb' 0 3) (BitVec.allOnes 64)
        (if o.mod.extractLsb' 0 2 = 0 then a &&& b
         else if o.mod.extractLsb' 0 2 = 1 then a ||| b
         else if o.mod.extractLsb' 0 2 = 2 then a ^^^ b else a &&& ~~~ b)))) ∧
    exec (.mvl p o) s = .next (s.afterVector p 1 fun c =>
      c.land (p.beat + 1) (.mask (o.vd.extractLsb' 0 3) (BitVec.allOnes 64) (maskOf fun i =>
        decide ((c.bScalar o.b).toNat + i < (c.vlen (o.mod.extractLsb' 0 4)).toNat)))) ∧
    exec (.mflg p o) s = .next (s.afterVector p 1 fun c =>
      let f := (o.mod.extractLsb' 0 3).toNat
      let c' := c.land (p.beat + 1) (.mask (o.vd.extractLsb' 0 3) (BitVec.allOnes 64) (maskOf fun i =>
        decide (f < 5) && c.laneFlags.getLsbD (5 * i + f)))
      if o.mod.getLsbD 3 then c'.land (p.beat + 1) .clearFlags else c')

/-- R123 to R126: the conversions. The source is 2, 4 or 8 consecutive registers of FP32; a tracked FP8 or FP4 conversion
divides by the tracker's scale and raises the tracker's largest magnitude; `VUNPK` widens 64 elements exactly. The lanes to
which the flags go are the model's (assumptions 101 and 204). -/
def Obligations.VectorConversions : Prop :=
  ∀ (p : At) (o : COp) (s : State), s.plays p = true →
    exec (.vcvtBf16 p o) s = .next (s.afterVector p 3 fun c => c.convResult p.beat 3 o.vd 16
      ((List.range 128).map fun k => let r := Fmt.bf16.round (Fmt.fp32.decode (c.srcElem o.va k).toNat); (r.1, r.2))
      (c.srcPoison o.va 2)) ∧
    exec (.vcvtFp16 p o) s = .next (s.afterVector p 3 fun c => c.convResult p.beat 3 o.vd 16
      ((List.range 128).map fun k => let r := Fmt.fp16.round (Fmt.fp32.decode (c.srcElem o.va k).toNat); (r.1, r.2))
      (c.srcPoison o.va 2)) ∧
    (o.tracked = false →
      exec (.vcvtFp8 p o) s = .next (s.afterVector p 3 fun c => c.convResult p.beat 3 o.vd 8
        ((List.range 256).map fun k =>
          (if o.fmt = 1 then Fmt.e5m2 else Fmt.e4m3).round (Fmt.fp32.decode (c.srcElem o.va k).toNat))
        (c.srcPoison o.va 4)) ∧
      exec (.vcvtFp4 p o) s = .next (s.afterVector p 3 fun c => c.convResult p.beat 3 o.vd 4
        ((List.range 512).map fun k => Fmt.fp4.round (Fmt.fp32.decode (c.srcElem o.va k).toNat))
        (c.srcPoison o.va 8))) ∧
    (o.tracked = true →
      exec (.vcvtFp8 p o) s = .next (s.afterVector p 3 fun c =>
        let f := if o.fmt = 1 then Fmt.e5m2 else Fmt.e4m3
        let xs := (List.range 256).map (c.srcElem o.va)
        let tr := c.tracker o.tracker.toNat
        let rs := xs.map fun x =>
          let y := scaleDown tr.e (Fmt.fp32.decode x.toNat)
          ((f.round y.1).1, y.2 ||| (f.round y.1).2)
        let a := largestFinite xs
        let tr' : Tracker := { tr with amax := if tr.amax < a then a else tr.amax }
        let c := c.convResult p.beat 3 o.vd 8 rs (c.srcPoison o.va 4)
        { c with trackers := Sparse.set Tracker.reset c.trackers o.tracker.toNat tr' }) ∧
      exec (.vcvtFp4 p o) s = .next (s.afterVector p 3 fun c =>
        let xs := (List.range 512).map (c.srcElem o.va)
        let tr := c.tracker o.tracker.toNat
        let rs := xs.map fun x =>
          let y := scaleDown tr.e (Fmt.fp32.decode x.toNat)
          ((Fmt.fp4.round y.1).1, y.2 ||| (Fmt.fp4.round y.1).2)
        let a := largestFinite xs
        let tr' : Tracker := { tr with amax := if tr.amax < a then a else tr.amax }
        let c := c.convResult p.beat 3 o.vd 4 rs (c.srcPoison o.va 8)
        { c with trackers := Sparse.set Tracker.reset c.trackers o.tracker.toNat tr' })) ∧
    (∀ f, unpkFmt o.fmt = some f →
      exec (.vunpk p o) s = .next (s.afterVector p 3 fun c =>
        let rs := (List.range 64).map fun i => Fmt.fp32.round (f.decode
          ((c.vreg o.va).extractLsb' (f.width * (64 * o.part.toNat + i)) f.width).toNat)
        c.vecResult p.beat 3 o.vd (BitVec.allOnes 64) (rs.map fun r => BitVec.ofNat 32 r.1) (rs.map (·.2))
          (c.vpoison.getLsbD o.va.toNat))) ∧
    (1 ≤ o.fmt.toNat → o.fmt.toNat ≤ 4 →
      exec (.vqblk p o) s = .next (s.afterVector p 6 fun c =>
        let f := qblkFmt o.fmt
        let regs := if f = .fp4 then 8 else 4
        let xs := (List.range (64 * regs)).map fun k => Fmt.fp32.decode (c.srcElem o.va k).toNat
        let bs := (List.range (2 * regs)).map fun b => quantBlock f (decide (o.fmt = 4)) ((xs.drop (32 * b)).take 32)
        let poison := c.srcPoison o.va regs
        let c := c.convResult p.beat 6 o.vd f.width (bs.flatMap (·.codes)) poison
        c.land (p.beat + 6) (.vreg (o.vd + 1) (BitVec.allOnes 64)
          (BitVec.ofNat 2048 (leNat (bs.map (fun b => BitVec.ofNat 8 b.scale) ++
            (if o.fmt = 4 then bs.map (fun b => BitVec.ofNat 8 b.shifts) else [])))) poison)))

/-- R127, R128: a load reads 256 bytes into the lanes of the mask in cycle t + 4; a store writes the lanes of the mask in
cycle t + 2; opening a tile stream writes nothing; closing one writes the header with the stream's CRC-32C. The address is
`Sbase` plus 64 times the offset; one that is not on a line of the SRAM is a fault of the step.
The model's own choices: what a mask does to a load and that a dropped access still takes its post-increment and signals
(assumption 178), that closing without an open stream writes at its own address with the CRC-32C of no bytes (assumption
179), and that an access off a line or past the end moves no data (assumption 9).
R114, R131: `VNOP` leaves only the beat; each scalar operation's value reaches `Sd` in the next cycle. -/
def Obligations.VectorMemoryAndScalars : Prop :=
  (∀ (p : At) (o : LOp) (h : HOp) (s : State), s.plays p = true →
      exec (.vld p o) s = .next (s.issued p (State.vecBody p 4 (fun s =>
        let a := (s.cell p.cell).vecAddr o.sbase o.offset.toNat
        let s := s.onCell p.cell (Cell.postInc p.beat o)
        if !addrOk a 256 then s.barrierFault p.cell false
        else
          let u := (s.cell p.cell).useBanks p.beat (banksOf a 256) 1
          let s := (List.range u.2.1).foldl (fun s _ => s.barrierFault p.cell false) (s.onCell p.cell fun _ => u.2.2)
          if !u.1 then s.barrierFault p.cell false
          else
            (s.onCell p.cell fun c => c.land (p.beat + 4) (.vreg o.v (c.mreg o.mask)
              (BitVec.ofNat 2048 (leNat (c.sramRead a 256)))
              (c.poisonedAt a 256 || decide (p.read = .uncorrectable)))).onCell p.cell
              fun c => if p.read = .corrected then { c with eccSram := satInc c.eccSram } else c) fun s => s)) ∧
      exec (.vst p o) s = .next (s.issued p (State.vecBody p 2 (fun s =>
        let c := s.cell p.cell
        let a := c.vecAddr o.sbase o.offset.toNat
        let s := s.onCell p.cell (Cell.postInc p.beat o)
        if !addrOk a 256 then s.barrierFault p.cell false
        else
          let s := s.onCell p.cell fun d => { d with
            stream := d.stream.map fun t => { t with next := t.next + 256, crc := crcBytes t.crc (bvBytes 256 (c.vreg o.v)) } }
          s.storeLanes p.cell (p.beat + 2) a (c.mreg o.mask) (c.vreg o.v) (c.vpoison.getLsbD o.v.toNat)) fun s => s)) ∧
      exec (.vsthOpen p h) s = .next (s.issued p (State.vecBody p 2 (fun s => s.onCell p.cell fun c =>
        let a := (s.cell p.cell).vecAddr h.sbase h.offset.toNat
        { c with stream := some { base := a, next := a + 64, crc := 0xFFFFFFFF } }) fun s => s)) ∧
      exec (.vsthClose p h) s = .next (s.issued p (State.vecBody p 2 (fun s =>
        let c := s.cell p.cell
        let a := (c.stream.map (·.base)).getD (c.vecAddr h.sbase h.offset.toNat)
        let crc := (c.stream.map fun t => ~~~ t.crc).getD (crc32c [])
        let b := (bvBytes 256 (c.vreg h.vs)).take 64
        let scale := if h.tracked then leBytes 4 (pow2Fp32 (c.tracker h.tracker.toNat).e) else (b.drop 12).take 4
        let s := s.onCell p.cell fun c => { c with stream := none }
        if !addrOk a 64 then s.barrierFault p.cell false
        else s.sramStore p.cell (p.beat + 2) a (b.take 12 ++ scale ++ bvBytes 4 crc ++ b.drop 20)
          (c.vpoison.getLsbD h.vs.toNat) 1) fun s => s.onCell p.cell fun c => { c with stream := none }))) ∧
  (∀ (p : At) (o : SOp) (s : State), s.plays p = true →
      exec (.vnop p) s = .next (s.issued p fun s => s) ∧
      exec (.slui p o) s = .next (s.afterVector p 1 fun c =>
        c.land (p.beat + 1) (.scalar o.sd (o.imm ++ (0 : BitVec 16)))) ∧
      exec (.slli p o) s = .next (s.afterVector p 1 fun c =>
        c.land (p.beat + 1) (.scalar o.sd ((c.sreg o.sd &&& 0xFFFF0000) ||| o.imm.setWidth 32))) ∧
      (o.sel.extractLsb' 4 2 = 0 → exec (.smov p o) s = .next (s.afterVector p 1 fun c =>
        c.land (p.beat + 1) (.scalar o.sd ((c.vlen (o.imm.extractLsb' 0 4)).setWidth 32)))) ∧
      (o.sel.extractLsb' 4 2 = 1 → exec (.smov p o) s = .next (s.afterVector p 1 fun c =>
        c.land (p.beat + 1) (.scalar o.sd (lane (c.vreg (o.imm.extractLsb' 11 5)) (o.imm.extractLsb' 0 6).toNat)))) ∧
      exec (.sadd p o) s = .next (s.afterVector p 1 fun c =>
        c.land (p.beat + 1) (.scalar o.sd (c.sreg (o.sel.extractLsb' 0 4) + o.imm.signExtend 32))))

/-! ### The matrix, data-mover and control sub-slots -/

/-- R138, R47, R161 to R167, R141: the matrix sub-slot completes where the cells play. A pass whose guard runs it starts on
the two tiles at the addresses of its registers: its operands are read from its cycle on, the last in cycle t + D - 1, and
its bank holds one value for each of the m × n outputs. Unless its check fails it signals in cycle t + 4 + D + 3. The last
operand read checks both tiles, the failure counted four cycles later, and its results reach the bank nine cycles later. A
drain rounds its bank, ORs its flags into the bank's and the cell's, and stores 256 bytes a cycle; one issued before the
last group of a pass into its bank has been added writes free values (assumption 110). A tile checked in the step and not
written since is not checked again (assumption 161). A pass gives its bank the size of its shape whatever its guard
decides (assumption 193); a suppressed one signals after the duration that the schedule counts for it, which is open
(assumptions 12 and 28). Both advance their address registers in every case (assumption 104). A chunk of zeros under an
infinite scale is a NaN (assumption 203). -/
def Obligations.MatrixCompletes : Prop :=
  (∀ (p : At) (sh : Shape) (add bank bf : Bool) (a b d : BitVec 3) (v : BitVec 14) (g : Guard) (s : State),
    s.plays p = true →
    exec (.mpass p sh add bank a b g) s = .next (s.issued p fun s =>
      let c := s.cell p.cell
      let ta := c.tileAt ((c.maReg a).toNat * 64) (sh.m * sh.k)
      let tb := c.tileAt ((c.maReg b).toNat * 64) (sh.k * sh.n)
      let cycles := passCycles sh (hdrFormat ta.header) (hdrFormat tb.header)
      let q : PassRec :=
        { shape := sh, add := add, bank := bank, addrA := (c.maReg a).toNat * 64, addrB := (c.maReg b).toNat * 64
          tileA := { ta with poison := ta.poison || decide (p.read = .uncorrectable) }, tileB := tb
          firstA := !c.seenTile ((c.maReg a).toNat * 64) sh false, firstB := !c.seenTile ((c.maReg b).toNat * 64) sh true
          free := s.freeCount }
      let r := s.guarded p.cell g
      let s := if r.1 = .run then (r.2.startPass p.cell p.beat cycles q).countRead p.cell p.read else r.2
      let s := match r.1 with
        | .failed => s
        | .skipped => s.onCell p.cell (Cell.signalAt (p.beat + 4 + scheduledCycles p.cell p.beat sh + 3) (Guard.signal g))
        | .run => s.onCell p.cell (Cell.signalAt (p.beat + 4 + cycles + 3) (Guard.signal g))
      s.onCell p.cell fun c =>
        let c := { c with accSize := Sparse.set 0 c.accSize (bankNo bank) (sh.m * sh.n) }
        if a = b then c.stepMa a else (c.stepMa a).stepMa b) ∧
    exec (.mdrain p bf bank d g) s = .next (s.issued p fun s =>
      let c := s.cell p.cell
      let n := Sparse.get 0 c.accSize (bankNo bank)
      let out := drainBytes bf
        (if c.passPending bank = true then freeWords s.freeCount n else Sparse.getRun 0 (c.acc bank) 0 n)
      let s := if c.passPending bank = true then s.onFreeCount (· + n) else s
      let cycles := ceilDiv out.1.length 256
      let r := s.guarded p.cell g
      let f := Sparse.get 0 c.accFlags (bankNo bank) ||| out.2
      let s := if r.1 = .run then
          (r.2.onCell p.cell fun c' => { c' with accFlags := Sparse.set 0 c'.accFlags (bankNo bank) f }.addFlags f).drainStores
            p.cell ((c.maReg d).toNat * 64) (Sparse.get false c.accPoison (bankNo bank)) cycles p.beat out.1
        else r.2
      let s := if r.1 = .failed then s
        else s.onCell p.cell (Cell.signalAt (p.beat + cycles + 1) (Guard.signal g))
      s.onCell p.cell (Cell.stepMa d)) ∧
    exec (.mseta p a v) s = .next (s.issued p fun s => s.onCell p.cell fun c =>
      { c with ma := Sparse.set 0 c.ma a.toNat v }) ∧
    exec (.msets p a v) s = .next (s.issued p fun s => s.onCell p.cell fun c =>
      { c with ms := Sparse.set 0 c.ms a.toNat v }) ∧
    exec (.mnop p) s = .next (s.issued p fun s => s)) ∧
  (∀ (cycle : Nat) (q : PassRec) (failed known poison : Bool) (c : Cell),
    c.tileAt q.addrA (q.shape.m * q.shape.k) = q.tileA → c.tileAt q.addrB (q.shape.k * q.shape.n) = q.tileB →
    q.tileA.poison = false → q.tileB.poison = false →
    tileOk q.shape false q.tileA = true → tileOk q.shape true q.tileB = true →
    operandOk (hdrFormat q.tileA.header) = true → operandOk (hdrFormat q.tileB.header) = true →
    Cell.act cycle (.operands q) c =
      ((c.land (cycle + 4) (.passCheck false)).land (cycle + 9) (.results q true false), []) ∧
    Cell.act cycle (.passCheck failed) c = (c, if failed = true then [.checksum] else []) ∧
    Cell.act cycle (.results q known poison) c = (c.passResults q known poison, []))

/-- R139, R52, R54, R173, R180: the transfers of the data mover between cells. `COPY` moves flit j from its read in cycle t
+ j; `SEND` injects flit j in cycle t + j + 1 and, where its length skips it, one empty flit in the cycle of its last; its
destination is a cell of rows 0 to 23, an edge stream where its row is 31, and nothing receives one of rows 24 to 30
(assumption 13). `STEER` feeds the selected stream. A transfer that runs or is skipped signals at its end; its registers
advance in every case. A flit whose read meets a double-bit error is marked; one whose read was corrected is counted (R50).
Each `SEND` is one tile, whose last flit signals (assumption 106); a failed one neither signals nor sends, a skipped one does
both (assumption 105). The cycles of a `COPY` are as of assumption 111, and a register named twice advances once (assumption
104). -/
def Obligations.MoverCellTransfers : Prop :=
  (∀ d : BitVec 32,
    let row := (d.extractLsb' 20 5).toNat
    let col := (d.extractLsb' 14 6).toNat
    (row < 24 → meshCell d = some (row * 64 + col)) ∧ (row = 31 → meshCell d = some (1536 + col)) ∧
    (24 ≤ row → row ≤ 30 → meshCell d = none)) ∧
  ∀ (p : At) (o : DOp) (s : State), s.plays p = true →
    exec (.copy p o) s = .next (s.issued p fun s =>
      let r := s.guarded p.cell o.guard
      let c := r.2.cell p.cell
      let s := if r.1 = .run then (r.2.onCell p.cell (Cell.perFlit p.beat (moverCount o) fun j =>
          .copy (daSram (c.daReg o.src) + 128 * j) (daSram (c.daReg o.dst) + 128 * j)
            (decide (p.read = .uncorrectable)))).countRead p.cell p.read else r.2
      let s := if r.1 = .failed then s
        else s.onCell p.cell (Cell.signalAt (p.beat + moverCount o + 3) (Guard.signal o.guard))
      s.onCell p.cell (Cell.stepPair o)) ∧
    exec (.steer p o) s = .next (s.issued p fun s =>
      let r := s.guarded p.cell o.guard
      let c := r.2.cell p.cell
      let s := if r.1 = .run then (r.2.onCell p.cell (Cell.perFlit p.beat (moverCount o) fun j =>
          .feed (daSram (c.daReg o.src) + 128 * j) c.steerSel
            (decide (p.read = .uncorrectable)))).countRead p.cell p.read else r.2
      let s := if r.1 = .failed then s
        else s.onCell p.cell (Cell.signalAt (p.beat + moverCount o + 1) (Guard.signal o.guard))
      s.onCell p.cell (Cell.stepPair o)) ∧
    (∀ k, meshCell ((((s.atBeat p).guarded p.cell o.guard).2.cell p.cell).daReg o.dst) = some k →
      p.fetch ≠ .uncorrectable →
      exec (.send p o) s = .next (State.settle (
        let r := (s.atBeat p).guarded p.cell o.guard
        let d := (r.2.cell p.cell).daReg o.dst
        let x := (r.2.cell p.cell).daReg o.src
        let n := moverCount o
        let s := if r.1 = .run then (r.2.onCell p.cell (Cell.perFlit p.beat n fun j =>
            .inject (daSram x + 128 * j)
              { r.2.meshFlit p.cell k (p.beat + j + 1) (daSram d + 128 * j) (d.extractLsb' 25 4) with
                signal := decide (j + 1 = n) } (decide (p.read = .uncorrectable)))).countRead p.cell p.read
          else if r.1 = .skipped then r.2.onGrid fun g => { g with flits := g.flits ++
            [{ r.2.meshFlit p.cell k (p.beat + n) 0 (d.extractLsb' 25 4) with signal := true, empty := true }] }
          else r.2
        let s := if r.1 = .failed then s else s.onCell p.cell (Cell.signalAt (p.beat + n) (Guard.signal o.guard))
        s.onCell p.cell (Cell.stepPair o)))) ∧
    -- toward the fabric edge: flit j in the cycle of its injection, to the stream of its column
    (∀ (c : Nat) (k t : Nat) (a : Nat) (ctr : BitVec 4), 1536 ≤ k → s.meshFlit c k t a ctr =
      { Flit.reset with arrive := t, slot := t, cell := k, addr := a, counter := ctr, row := c / 64 }) ∧
    -- toward rows 24 to 30 (assumption 13)
    (meshCell ((((s.atBeat p).guarded p.cell o.guard).2.cell p.cell).daReg o.dst) = none → p.fetch ≠ .uncorrectable →
      exec (.send p o) s = .next (State.settle (
        let r := (s.atBeat p).guarded p.cell o.guard
        let s := if r.1 = .run then r.2.countRead p.cell p.read else r.2
        let s := if r.1 = .failed then s
          else s.onCell p.cell (Cell.signalAt (p.beat + moverCount o) (Guard.signal o.guard))
        s.onCell p.cell (Cell.stepPair o))))

/-- R139, R176 to R179, R198: the transfers of the data mover with tier 1, and the registers of the data mover. A `READ_T1`
that runs leaves its pieces under way, due 630 cycles after they are asked for; a `WRITE_T1` leaves its flits' reads and one
acknowledgment; a `GATHER` reads one index block for every 32 pieces, 33 cycles apart, and each block gives one piece for
each entry used, in the cycles after it: a piece of a data base in tier 1 is asked for in its cycle. The issue's signal
comes with the last piece or the acknowledgment. A transfer that is skipped signals at its end, one whose check fails does
not; the registers advance in every case (assumption 104). Which data base of a `GATHER` is in SRAM is assumption 10, what a
piece outside its window gives assumption 14, and when a skipped transfer signals assumption 108. -/
def Obligations.MoverTierTransfers : Prop :=
  (∀ (p : At) (o : DOp) (r : BitVec 3) (high : Bool) (imm : BitVec 16) (s : State), s.plays p = true →
    let v := ((s.atBeat p).guarded p.cell o.guard).1
    let u := ((s.atBeat p).guarded p.cell o.guard).2
    let c := u.cell p.cell
    let n := moverCount o
    let bad := decide (p.read = .uncorrectable)
    (p.fetch ≠ .uncorrectable → v = .run →
      exec (.readT1 p o) s = .next (State.settle (
        let s := (List.range n).foldl (fun (s : State) j =>
          let add (src : T1Src) (s : State) : State := s.onGrid fun g => { g with pieces := g.pieces ++
            [{ cell := p.cell, due := p.beat + j + 630, src := src, dst := daSram (c.daReg o.dst) + 128 * j,
               head := false, tile := true, last := decide (j + 1 = n), signal := Guard.signal o.guard, bad := false }] }
          match s.t1Flits (c.daReg o.src) j with
          | .addr x => add (.addr x) s
          | .fixed d => add (.data d) s
          | .outside => (add (.data 0) s).barrierFault p.cell false) u
        (s.countRead p.cell p.read).onCell p.cell (Cell.stepPair o))) ∧
      exec (.writeT1 p o) s = .next (State.settle (
        let dst (j : Nat) : Option Nat := match u.t1Flits (c.daReg o.dst) j with
          | .addr a => some a
          | _ => none
        (((u.onCell p.cell (Cell.perFlit p.beat n fun j =>
          .toT1 (daSram (c.daReg o.src) + 128 * j) (dst j) bad)).onGrid fun g => { g with writes := g.writes ++
            [{ cell := p.cell, due := p.beat + n + 630, signal := Guard.signal o.guard }] }).countRead p.cell
              p.read).onCell p.cell (Cell.stepPair o))) ∧
      exec (.gather p o) s = .next (State.settle (
        let blocks := ceilDiv n 32
        ((u.onCell p.cell fun c' => { c' with landings := c'.landings ++ (List.range blocks).map fun j =>
          (p.beat + 33 * j, Landing.indexBlock (daSram (c.daReg o.src) + 128 * j) (c.daReg (o.src + 1))
            (daSram (c.daReg o.dst) + 4096 * j) (min 32 (n - 32 * j)) (decide (j + 1 = blocks))
            (Guard.signal o.guard) bad) }).countRead p.cell p.read).onCell p.cell (Cell.stepPair o)))) ∧
    (p.fetch ≠ .uncorrectable → v = .skipped →
      let ends (t : Nat) : State := (u.onCell p.cell (Cell.signalAt t (Guard.signal o.guard))).onCell p.cell (Cell.stepPair o)
      exec (.readT1 p o) s = .next (ends (p.beat + n + 630)).settle ∧
      exec (.writeT1 p o) s = .next (ends (p.beat + n + 630)).settle ∧
      exec (.gather p o) s = .next (ends (if baseInSram (c.daReg (o.src + 1)) = true then p.beat + n + ceilDiv n 32 + 2
        else p.beat + n + 630)).settle) ∧
    (p.fetch ≠ .uncorrectable → v = .failed →
      exec (.readT1 p o) s = .next (u.onCell p.cell (Cell.stepPair o)).settle ∧
      exec (.writeT1 p o) s = .next (u.onCell p.cell (Cell.stepPair o)).settle ∧
      exec (.gather p o) s = .next (u.onCell p.cell (Cell.stepPair o)).settle) ∧
    exec (.dseta p r high imm) s = .next (s.issued p fun s => s.onCell p.cell fun c => { c with
      da := Sparse.set 0 c.da r.toNat
        (if high then imm ++ (0 : BitVec 16) else (c.daReg r).extractLsb' 16 16 ++ imm) }) ∧
    exec (.dsets p r imm) s = .next (s.issued p fun s => s.onCell p.cell fun c =>
      { c with ds := Sparse.set 0 c.ds r.toNat imm }) ∧
    exec (.dnop p) s = .next (s.issued p fun s => s)) ∧
  (∀ (cycle src dst count : Nat) (base entry : BitVec 32) (last bad : Bool) (sig : Option (BitVec 4)) (c : Cell),
    (∀ d q c' outs, c.moverRead cycle src bad = (some (d, q), c', outs) →
      Cell.act cycle (.indexBlock src base dst count last sig bad) c =
        ({ c' with landings := c'.landings ++ (List.range count).map fun k =>
            (cycle + 1 + k, Landing.piece (BitVec.ofNat 32 (fieldAt (bvBytes 128 d) (4 * k) 4)) base (dst + 128 * k)
              (last && decide (k + 1 = count)) sig q) }, outs)) ∧
    (baseInSram base = false →
      Cell.act cycle (.piece entry base dst last sig bad) c = (c, [.request entry base dst cycle last sig bad])))

/-- R140, R43: the control sub-slot completes where the cells play and its word holds no double-bit error: a corrected error
is counted first.
R43: a slot word with a double-bit error issues none of its sub-slots, of whatever kind, and its control sub-slot counts a
checksum failure of the cell, which voids the step (a `STRING` to rows 24 to 30 is received by nothing, assumption 13). -/
def Obligations.ControlSubSlot : Prop :=
  (∀ (p : At) (s : State), s.plays p = true → p.fetch ≠ .uncorrectable →
      let issues (f : State → State) : State := s.issued { p with fetch := .clean } fun s =>
        f (if p.fetch = .corrected then s.onCell p.cell fun c => { c with eccSlot := satInc c.eccSlot } else s)
      exec (.cnop p) s = .next (issues fun s => s) ∧
      (∀ g, exec (.vguard p g) s = .next (issues fun s => s.onCell p.cell fun c =>
        { c with vguard := some (p.beat, guardBits g)
                 named := if g.skip = 0 then c.named else c.named ||| bit 8 g.skip.toNat })) ∧
      (∀ trip body, exec (.endloop p trip body) s = .next (issues fun s => s.onCell p.cell fun c =>
        { c with loop := (loopStep c.word trip.toNat body.toNat c.loop).1
                 loopNext := (loopStep c.word trip.toNat body.toNat c.loop).2 })) ∧
      (∀ n, exec (.idle p n) s = .next (issues fun s => s.onCell p.cell fun c =>
        { c with beat := max c.beat (p.beat + n.toNat - 1) })) ∧
      (∀ k vl origin stride, k ≠ 0 → exec (.setskip p k vl origin stride) s = .next (issues fun s => s.onCell p.cell fun c =>
        { c with skips := Sparse.set SkipBinding.reset c.skips k.toNat { vl := vl, origin := origin, stride := stride } })) ∧
      (∀ st, exec (.steersel p st) s = .next (issues fun s => s.onCell p.cell fun c => { c with steerSel := st })) ∧
      (∀ t r, exec (.string p t r) s = .next (issues fun s =>
        match imgTemplate s.active (imgCell s.active p.cell).2 t.toNat with
        | none => s
        | some w =>
          let row := (w.extractLsb' 48 5).toNat
          let dest := row * 64 + (w.extractLsb' 53 6).toNat
          if w.extractLsb' 44 4 = 0 ∨ 24 ≤ row then s
          else s.sendToken
            { arrive := s.tokenArrival p.cell dest p.beat, cell := dest, lane := w.getLsbD 59
              kind := w.extractLsb' 44 4, target := w.extractLsb' 40 4, tag := w.extractLsb' 32 8
              value := if r = 0 then w.extractLsb' 0 32 else (s.cell p.cell).sreg r
              bridge := crosses p.cell dest, row := p.cell / 64 }))) ∧
  (∀ (i : Instr) (p : At) (s : State), i.issuedAt = some p → s.plays p = true → p.fetch = .uncorrectable →
      ((encodeControl i).isSome = false → exec i s = .next (s.atBeat p).settle) ∧
      ((encodeControl i).isSome = true → exec i s = .next ((s.atBeat p).checksumFault p.cell).settle) ∧
      ((s.atBeat p).checksumFault p.cell).step.void = true)

/-! ### Arrivals at the cells -/

/-- R53, R55, R57, R173: while the cells play, a flit that is on its way and due is taken off the mesh. At a cell its 128
bytes are stored in its reserved slot and the last flit of a tile signals; an empty flit signals alone; at an edge it goes
to its stream. A bad bridge CRC is counted and voids the step, and the flit is delivered all the same.
R56 to R60, R170: while the cells play, a token that reaches its cell is taken off its lane and acts by its kind: a valid
length is written at the end of the cycle, at most 65,535; a counter rises by the token's value; a steering token meets its
flit or is held for its window; the token of a tile of length 0 steers an empty tile. What an undeclared tag or stream does
is assumption 17, and that a bad CRC counts for every kind of flit assumption 112. -/
def Obligations.ArrivalsAtCells : Prop :=
  (∀ (dest cycle : Nat) (bad : Bool) (f : Flit) (s t : State), s.step.playing = true →
      let w := (s.at_ (s.cycleTick cycle)).settleAll cycle
      (w.takeFlit (fun f => decide (f.cell = dest) && !f.empty &&
          (decide (f.arrive = cycle) || decide (1536 ≤ dest))) = some (f, t) →
        exec (.landingFlit dest cycle bad) s = .next (State.settle (
          let u := if bad = true ∧ f.bridge = true then t.bridgeFailure f.row else t
          if 1536 ≤ dest then u.edgeArrive (dest - 1536) (some f.data) f.poison f.signal
          else
            let u := if f.header = true then u else u.sramStore dest f.slot f.addr (bvBytes 128 f.data) f.poison 3
            if f.signal = true then u.onCell dest (Cell.signalAt f.slot (some f.counter)) else u))) ∧
      (w.takeFlit (fun f => decide (f.cell = dest) && f.empty &&
          (decide (f.arrive = cycle) || decide (1536 ≤ dest))) = some (f, t) →
        exec (.emptyFlit dest cycle bad) s = .next (State.settle (
          let u := if bad = true ∧ f.bridge = true then t.bridgeFailure f.row else t
          if 1536 ≤ dest then u.edgeArrive (dest - 1536) none false true
          else u.onCell dest (Cell.signalAt (cycle + 1) (some f.counter)))))) ∧
  (∀ (cell cycle : Nat) (bad : Bool) (x : StrToken) (s t : State), s.step.playing = true →
      let w := (s.at_ (s.cycleTick cycle)).settleAll cycle
      let u := if bad = true ∧ x.bridge = true then t.bridgeFailure x.row else t
      (w.takeToken cell cycle 1 = some (x, t) →
        exec (.validLengthToken cell cycle bad) s = .next (u.onCell cell (Cell.land (cycle + 1)
          (.vlen x.target (BitVec.ofNat 16 (min 65535 x.value.toNat))))).settle) ∧
      (w.takeToken cell cycle 3 = some (x, t) →
        ((u.cell cell).counter x.target).toNat + x.value.toNat ≤ 65535 →
        exec (.remoteBarrierToken cell cycle bad) s = .next (u.onCell cell (Cell.land (cycle + 1)
          (.raiseBy x.target (x.value.setWidth 16)))).settle) ∧
      (w.takeToken cell cycle 2 = some (x, t) →
        exec (.steeringControlToken cell cycle bad) s = .next (State.settle (
          match (u.cell cell).heldFlits.find? fun f => decide (f.tag = x.tag) with
          | some f => (u.onCell cell fun c => { c with heldFlits := c.heldFlits.erase f }).steer cell cycle f.stream x.value
              f.data f.poison false
          | none =>
            if ((u.cell cell).heldFlits ≠ [] ∧ (u.steerTag cell x.tag).isNone) ∨ 16 ≤ (u.cell cell).heldTokens.length then
              u.steeringFault cell
            else u.onCell cell fun c => { c with heldTokens := c.heldTokens ++
              [{ tag := x.tag, value := x.value, expiry := cycle + ((u.steerTag cell x.tag).map (·.window)).getD 0 }] }))) ∧
      (∀ d, w.takeToken cell cycle 4 = some (x, t) → u.steerTag cell x.tag = some d →
        exec (.zeroLengthHeaderToken cell cycle bad) s = .next
          (u.steer cell cycle (BitVec.ofNat 4 d.stream) x.value 0 false true).settle))

/-- R58, R59: while the cells play, a flit fed to steering meets the oldest held token of its tag, or is held for its
window; at the end of the window the flits and tokens held past it are dropped, each a steering mismatch of the step (what
an undeclared tag or stream does is assumption 17).
R171, R178: while the cells play, a piece from tier 1 lands at its place in SRAM in the cycle after its arrival, poisoned
where its read was uncorrectable or its page or bytes are poisoned, and the last of a tile signals; an acknowledged write to
tier 1 signals; a hub string is sent at its beat toward its cell, with its constant, a slot's length or a region's occupied
slots; a selector of another kind gives the value 0 (the model's choice, assumption 174). -/
def Obligations.SteeringAndTierArrivals : Prop :=
  (∀ (cell cycle : Nat) (data : BitVec 1024) (poison : Bool) (n : Nat) (st : BitVec 4) (s : State),
      s.step.playing = true →
      let u := (s.at_ (s.cycleTick cycle)).settleAll cycle
      ((u.cell cell).steerIn.find? (fun x => decide (x.1 = cycle)) = some (n, st, data, poison) →
        exec (.steerFlitArrival cell cycle) s = .next (State.settle (
          let v := u.onCell cell fun c => { c with steerIn := c.steerIn.erase (n, st, data, poison) }
          let decl := v.steerDecl cell st
          let tag := (decl.map (·.tag)).getD 0
          match (v.cell cell).heldTokens.find? fun t => decide (t.tag = tag) with
          | some t => (v.onCell cell fun c => { c with heldTokens := c.heldTokens.erase t }).steer cell cycle st t.value data
              poison false
          | none =>
            if ((v.cell cell).heldTokens ≠ [] ∧ decl.isNone) ∨ 16 ≤ (v.cell cell).heldFlits.length then v.steeringFault cell
            else v.onCell cell fun c => { c with heldFlits := c.heldFlits ++
              [{ stream := st, tag := tag, data := data, poison := poison, expiry := cycle + (decl.map (·.window)).getD 0 }] }))) ∧
      exec (.steerWindowExpiry cell cycle) s = .next (State.settle (
        (List.range (((u.cell cell).heldFlits.filter fun f => decide (f.expiry ≤ cycle)).length +
            ((u.cell cell).heldTokens.filter fun t => decide (t.expiry ≤ cycle)).length)).foldl
          (fun s _ => s.steeringFault cell)
          (u.onCell cell fun c => { c with
            heldFlits := c.heldFlits.filter fun f => decide (cycle < f.expiry)
            heldTokens := c.heldTokens.filter fun t => decide (cycle < t.expiry) })))) ∧
  (∀ (cell cycle entry : Nat) (bad : Bool) (x : T1Piece) (w : T1Write) (h : HubString) (s : State), s.step.playing = true →
      let u := (s.at_ (s.cycleTick cycle)).settleAll cycle
      (u.grid.pieces.find? (fun y => decide (y.cell = cell)) = some x →
        exec (.t1PieceArrival cell cycle bad) s = .next (State.settle (
          let v := u.onGrid fun g => { g with pieces := g.pieces.erase x }
          let d := match x.src with
            | .addr a => v.t1Flit a
            | .data d => d
          let poison := bad || x.bad || (match x.src with
            | .addr a => v.t1Poisoned a
            | .data _ => false)
          let v := (v.sramStore cell (cycle + 1) x.dst (bvBytes 128 d) poison 3).landPiece cell (cycle + 1) x.dst x.head
            x.tile (bvBytes 128 d) poison
          if x.last = true then v.onCell cell (Cell.signalAt (cycle + 1) x.signal) else v))) ∧
      (u.grid.writes.find? (fun y => decide (y.cell = cell)) = some w →
        exec (.t1WriteAck cell cycle) s = .next
          ((u.onGrid fun g => { g with writes := g.writes.erase w }).onCell cell (Cell.signalAt cycle w.signal)).settle) ∧
      ((imgHubStrings s.active)[entry]? = some h → h.kind ≠ 0 → h.row < 24 → h.col < 64 →
        exec (.hubStringInject entry) s = .next (s.sendToken
          { arrive := h.beat + 24 - h.row, cell := h.row * 64 + h.col, lane := true, kind := h.kind, target := h.target
            tag := h.tag, bridge := false, row := 23
            value := match h.sel with
              | 0 => h.imm
              | 1 => BitVec.ofNat 32 (s.slotLength h.imm.toNat)
              | 2 => BitVec.ofNat 32 (s.occupied h.imm.toNat)
              | _ => 0 })))

/-! ### The boundary and the cadence -/

/-- R15, R25: once B_0 is fixed, an armed chip that is not halted runs the phases of the boundary in their order at the tick
B_k: the verdict, and without a commit the carried bytes as of the last one; publication and the step report; with a commit
the scales; fences; with a commit a switch; the operating point; with a commit the leaves, moves and joins; the timers; with
a commit the next step's inputs; the boundary source pulses after them (R407); and the step that begins. The boundary at B_0
closes no step and writes no report; a chip that has withdrawn before it takes its loss there (R347). A boundary whose window
has not been closed closes it first (assumption 188), and an episode of clock stretching counts up to it (assumption 171).
R14, R320, R326: the last beat of a step that plays ends every inbound window, fixes the local verdict and, where the chip
votes, queues its verdict frame: COMMIT exactly where the step is not void. -/
def Obligations.BeatBoundary : Prop :=
  (∀ (west east : Bool) (s : State), s.unarmed = false → s.cad.b0Fixed = true → s.hlt.halted = false →
      let c := if s.cad.closable = true then s.closeWindow else s
      let b := c.cad.next
      let u := ((c.at_ b).onStep fun g => { g with boundaries := g.boundaries + 1 }).voteAll
      let after (k : Closing) (s : State) : State :=
        let s := if k.commit = true ∧ k.first = false then s.scales else s
        let s := s.fencePhase k.due
        let s := if k.commit = true then s.phase5 else s
        let s := if k.first = true then s else s.calStep k.commit k.skipped k.overrun k.junction
        let s := (s.phase6 k.west k.east).forceOut
        let s := if k.commit = true then s.slotChanges k.tick else s
        let s := s.phase10
        let s := if k.commit = true then
            (if k.first = true then s else s.onCad fun c => { c with step := c.step + 1 }).stageInputs
          else s
        let s := (s.takeMasks.onCad fun c => { c with bk := k.tick }).pulse 61
        match s.takeDisarm k.tick with
        | some s => s
        | none => ((s.restripe.fabricShort).cadenceTurn).beginStep k
      u.hlt.halted = false →
      (u.cad.begun = true →
        exec (.boundary west east) s = .next (State.workEnd (
          let k := (u.judge b west east).1
          let s := if k.commit = true then (u.judge b west east).2 else (u.judge b west east).2.rollBack
          let s := s.phase2 k
          if s.hlt.pwrfailPending = true then s.quiesce else after k s))) ∧
      (u.cad.begun = false →
        exec (.boundary west east) s = .next (State.workEnd (
          let k : Closing := { tick := b, first := true, commit := true, skipped := false, cause := 0, overrun := false
                               junction := 0, due := [], west := west, east := east }
          let v := u.countStretch.onStep fun g => { g with health := 0 }
          -- a chip that withdrew before B_0 takes its loss here (R347)
          let w := if v.hlt.withdrawNow = true then
              (v.onHlt fun h => { h with withdrawNow := false }).resolvePeers.losePartition
            else v
          after k (((w.phase2First b).actOnReads.takeCadence b true).writeDues))))) ∧
  (∀ (s : State), s.step.playing = true → s.step.lastBeat = false →
      let n := (imgHeader s.active).budget
      let u := (((imgEdges s.active).foldl (fun s e => s.streamEnd e)
        ((s.at_ (s.cycleTick n)).settleAll n)).settleAll (n + 4)).onStep fun g => { g with lastBeat := true }
      (u.votes = true →
        exec .lastBeat s = .next (((if u.step.void = false ∧ u.isServing = true then u.announce else u).sendVerdict
          (!(if u.step.void = false ∧ u.isServing = true then u.announce else u).step.void)
          (if u.step.void = false ∧ u.isServing = true then u.announce else u).step.cause).workEnd)) ∧
      (u.votes = false → exec .lastBeat s = .next u.workEnd))

/-- R25, R26, R27, R30, R33, R34, R37: the events of the cadence. An association window that is due closes at its end: the
next boundary falls one period after the last, moved where the state follows a marker by the marker's distance, at most the
capture window either way; the run of windows without a marker and of those without a leader frame go on or start again; and
the window of the next boundary opens. An edge of the selected pin counts at its tick less the pin's delay, where the input
is enabled, the block has its clock (R402) and the device is not in reset (R458): it is rejected within half a period of the
accepted edge before it, or in a window, open or closed, that has its marker; else it is the marker of its window, or, before
a window is open, loads the timebase or fixes B_0 one period after it. An arming without a marker for 16 periods enters
`HOLDOVER` with B_0 at that tick and raises `HOLDOVER_ENTERED`. A wait for a leader ends with the window that is the 16th
without a frame. That an edge after the end of the open window closes it first is assumption 50, which run of windows counts
in which state assumption 52, that a load moves no duration assumption 54, the rule that `slewed` keeps and the marker that
counts in `HOLDOVER` assumption 141, the detail of a load assumption 142, and an edge of a window that has closed assumption
172. -/
def Obligations.CadenceEvents : Prop :=
  ∀ (tick : Nat) (s : State),
    let counted (c : Cadence) : Option Int :=
      if c.state = .follower then c.leaderMarker else if c.state = .holdover then c.marker.or c.leaderMarker else c.marker
    (s.cad.closable = true →
      let w : Int := (s.cad.window.value.toNat : Int)
      let closed : State := (s.at_ s.cad.winEnd).onCad fun c =>
        let d := counted c
        let moves := decide (c.state = .locked) || decide (c.state = .slewing) || decide (c.state = .follower)
        let move : Int := if moves = true then (d.map fun x => max (-w) (min w x)).getD 0 else 0
        let next := ((c.bk + c.heldPeriod : Int) + move).toNat
        let elects := decide (c.state = .follower) || (decide (c.state = .holdover) && c.leader.isSome)
        { c with
          next := next, winBase := next, winEnd := next + c.heldPeriod / 2, marker := none, leaderMarker := none
          offset := (d.map (intBits 32)).getD 0x80000000
          slewed := if c.marker.isSome = true then c.marker.any fun x => decide (w < x.natAbs) else c.slewed
          misses := if d.isSome = true then 0 else min 16 (c.misses + 1)
          missCount := if d.isSome = true then c.missCount else satInc c.missCount
          closedWindows := ⟨c.winEnd, c.step, c.marker.isSome, c.leaderMarker.isSome⟩ :: c.closedWindows
          returnRun := if c.marker.isSome = true then c.returnRun else 0
          electWindows := if elects = false then c.electWindows
            else if c.leaderMarker.isSome = true then 0 else c.electWindows + 1 }
      let slews := (decide (s.cad.state = .locked) || decide (s.cad.state = .slewing) || decide (s.cad.state = .follower)) &&
        (counted s.cad).any fun x => decide (w < x.natAbs)
      let t := if slews = true then closed.raiseCad 7 else closed
      exec .associationWindowClose s = .next t.stepEnd ∧
      ((s.cad.state = .follower ∨ s.cad.state = .holdover ∧ s.cad.leader.isSome = true) → s.cad.leaderMarker = none →
        15 ≤ s.cad.electWindows → exec .leaderFrameTimeout s = .next t.stepEnd)) ∧
    (s.cad.source = false →
      (s.cad.inputEnable = false ∨ s.clocked 0 = false ∨ s.inReset = true →
        exec (.cadenceMarker tick) s = .next (s.at_ tick).stepEnd) ∧
      (s.cad.inputEnable = true → s.clocked 0 = true → s.inReset = false →
        let mark : Int := (tick : Int) - s.cad.pinDelay.toNat
        let u := if s.cad.closable = true ∧ (s.cad.winEnd : Int) < mark then (s.at_ tick).closeWindow else s.at_ tick
        let near := u.cad.lastAccept.any fun a => decide (2 * (u.elapsed tick - a) < u.inForce)
        let held := (u.cad.closedWindows.takeWhile fun x => decide (mark ≤ x.stop)).getLast?
        let marked := if u.cad.winOpen = false ∨ mark < u.cad.opened then false
          else (held.map (·.marked)).getD u.cad.marker.isSome
        (near = true ∨ marked = true →
          exec (.cadenceMarker tick) s = .next (State.stepEnd (
            let v := u.onCad fun c => { c with
              rejects := satInc c.rejects, rejectTicks := (u.elapsed tick :: c.rejectTicks).take 64 }
            if v.cad.rejectTicks.length = 64 ∧ u.elapsed tick ≤ v.cad.rejectTicks.getLastD 0 + 1000000000 then
              (v.onCad fun c => { c with
                inputEnable := false, forceHoldover := c.forceHoldover || decide (c.state ≠ .unarmed) }).raiseCad 0
            else v))) ∧
        (near = false → u.cad.winOpen = true → marked = false →
          exec (.cadenceMarker tick) s = .next (u.onCad fun c => { c with
            lastAccept := some (u.elapsed tick)
            marker := if mark < c.opened ∨ held.isSome = true then c.marker else some (mark - c.winBase)
            closedWindows := if mark < c.opened then c.closedWindows
              else c.closedWindows.map fun x => if some x = held then { x with marked := true } else x
            returnRun := if c.state = .holdover ∨ c.state = .leader ∨ c.state = .follower then min 4 (c.returnRun + 1)
              else c.returnRun }).stepEnd) ∧
        (near = false → u.cad.winOpen = false → u.cad.loadHandle = none → u.cad.state = .acquiring →
          (u.cad.armTick.toNat : Int) ≤ mark →
          exec (.cadenceMarker tick) s = .next (u.onCad fun c => { c with
            lastAccept := some (u.elapsed tick), b0Fixed := true, b0 := (mark + u.period).toNat
            next := (mark + u.period).toNat, winOpen := true, opened := mark.toNat, winBase := (mark + u.period).toNat
            winEnd := (mark + u.period).toNat + u.period / 2, marker := none, leaderMarker := none }).stepEnd) ∧
        (∀ h, near = false → u.cad.winOpen = false → u.cad.loadHandle = some h →
          exec (.cadenceMarker tick) s = .next (State.stepEnd (
            let shift : Int := (u.cad.tbLoad.toNat : Int) - mark
            (u.onCad fun c => { c with
              tb := BitVec.ofInt 64 ((c.tb.toNat : Int) + shift), tbShift := c.tbShift + shift, loadHandle := none
              lastAccept := some (u.elapsed tick) }).complete h stOk
                (u.cad.tbLoad.extractLsb' 0 32)))))) ∧
    (s.cad.state = .acquiring → s.cad.b0Fixed = false →
      let t := s.cad.armTick.toNat + 16 * s.period
      exec .armTimeout s = .next (((((s.at_ t).onCad fun c => { c with
        state := .holdover, holdSteps := 0, returnRun := 0 }).raiseCad 1).onCad fun c => { c with
          b0Fixed := true, b0 := t, next := t, winOpen := true, opened := t, winBase := t, winEnd := t + s.period / 2
          marker := none, leaderMarker := none }).stepEnd))

/-- R66 to R69, R148, R153, R156: repair, staging and the fill of a switch. A repair starts on every waiting row; its end
writes the rows' data, completes their commands and raises `REPAIR_DONE`, and `REPAIR_LONG` where a boundary passed; a
staging that ends loads the standby bank, raises `STAGED` and completes its command; a fill starts when one is due, and its
end writes the fill contents, raises `FILL_DONE` and completes its command. That a repair's data is written and its trackers
move at `REPAIR_DONE`, and which boundary makes it long, is assumption 133. -/
def Obligations.RepairAndFill : Prop :=
  ∀ (bad : Bool) (cycles : Nat) (s : State),
    (s.grid.repairs ≠ [] → s.repairsRunning = false →
      let u := (s.onGrid fun g => { g with
        repairActive := true, repairs := g.repairs.map fun r => { r with running := true } }).onCyl fun y =>
          { y with staging := y.staging.map fun g => { g with restart := s.grid.repairs.map fun r => (r.row, r.die) } }
      exec (.repairStart bad) s = .next (if bad = true ∧ u.unarmed = false then u.withdraw else u).workEnd) ∧
    (s.grid.repairs.filter (·.running) ≠ [] →
      exec (.repairDone cycles) s = .next (State.workEnd (
        let rs := s.grid.repairs.filter (·.running)
        let u := ((rs.foldl (fun s r => s.repairRow r) s).onGrid fun g => { g with
          repairActive := false, repairCyc := satOf 32 cycles }).onCyl
            fun y => { y with staging := y.staging.map fun g => { g with restart := [] } }
        let u := (rs.foldl (fun s r => s.fenceDone r.handle stOk (satOf 32 cycles)) u).raiseGrid 2
        if rs.any (fun r => decide (0 < r.spans)) = true then u.raiseGrid 3 else u))) ∧
    (∀ g k, s.cyl.staging = some g → s.cylById g.id = some k → g.restart = [] →
      exec (.stagingComplete cycles) s = .next (((((s.loadBank (!s.cyl.bank) k.image).onCyl fun y => { y with
        staging := none, stageCyc := satOf 32 cycles }).raiseCyl 0).completeOpt g.handle stOk 0).workEnd)) ∧
    (s.cyl.fillDue.isSome = true →
      exec .switchFillStart s = .next (s.onCyl fun y => { y with fillActive := true }).stepEnd) ∧
    (s.cyl.fillActive = true →
      exec (.switchFillDone cycles) s = .next ((((s.fillCells.onCyl fun y => { y with
        fillActive := false, fillDue := none, fillHandle := none, fillCyc := satOf 32 cycles }).raiseCyl 2).completeOpt
          s.fillCells.cyl.fillHandle stOk 0).workEnd))

/-! ### The fabric -/

/-- R157, R313, R319, R321, R322, R326, R328, R345, R348: frames received. A data frame of the epoch, the step and its
replay goes to the inbound stream of its sender; one of another epoch is counted and raises `EPOCH_DISCARD`. Of a peer's
verdict the capacity is kept whichever its step; the first for the step in progress is kept whole; one ahead of the step
raises `DIVERGED` and withdraws the chip. A leave notice raises `PEER_LEAVE`, is kept, and ends the moves with that peer. A
frame that a test discards is counted, and one on a port out of service is not received.
R34: a cadence frame that is received, of a kind that is captured, and no copy of one used gives a marker: its arrival less
the link delay of its port and its correction. A rack's frame counts where the rack is the selected source; in `FOLLOWER` a
frame of the leader for the matching step, at the period in force and half a period or more after the one before of that
leader, is the marker of its window; one for another step raises `STEP_MISMATCH`. A copy of a frame used is not captured. That
a frame of another epoch is discarded before the other tests is assumption 59; frames beyond the end of a window are as of
assumption 172. -/
def Obligations.FrameReception : Prop :=
  (∀ (h : FrameHdr) (s : State), s.receives h →
      let u := s.heard h
      (∀ cycle flits e, h.epoch = u.cyl.epoch → imgEdge u.active h.stream.toNat = some e → e.kind = 2 →
        u.stageChip e.peer = some h.source → u.step.playing = true → h.step = u.cad.step.setWidth 32 →
        h.replay = BitVec.ofNat 16 u.step.replay →
        exec (.dataFrame h cycle flits) s = .next
          (((u.at_ (u.cycleTick cycle)).settleAll cycle).takeFrame e h cycle flits).stepEnd) ∧
      (∀ cycle flits, h.epoch ≠ u.cyl.epoch →
        exec (.dataFrame h cycle flits) s = .next
          ((u.onCyl fun c => { c with epochDisc := satInc c.epochDisc }).raiseCyl 3).stepEnd) ∧
      (∀ b : VerdictBody, h.source ∈ u.peers → u.unarmed = false → h.source ∉ u.hlt.lost →
        (u.hlt.notices.any fun n => decide (n.1 = h.source)) = false →
        let v := u.onFab fun f => { f with vectors := Sparse.set fullCapacity f.vectors h.source.toNat b.capacity }
        (b.step = u.cad.step → h.replay = BitVec.ofNat 16 u.step.replay →
          (u.step.verdicts.any fun r => decide (r.chip = h.source)) = false →
          exec (.verdictFrame h b) s = .next (v.onStep fun g => { g with
              verdicts := g.verdicts ++ [{ chip := h.source, replay := h.replay, body := b }] }).stepEnd) ∧
        (b.step.toNat < u.cad.step.toNat → exec (.verdictFrame h b) s = .next v.stepEnd) ∧
        (u.cad.step.toNat < b.step.toNat → u.step.running = true → u.hlt.withdrawn = false →
          exec (.verdictFrame h b) s = .next ((v.raiseHlt 3).withdraw).stepEnd)) ∧
      (∀ cause last, h.source ∈ u.peers → u.unarmed = false →
        (u.hlt.notices.any fun n => decide (n.1 = h.source)) = false →
        exec (.leaveNotice h cause last) s = .next ((((u.raiseFab 7).onHlt fun x => { x with
          notices := x.notices ++ [(h.source, last)] }).resolvePeer h.source).settleWork.stepEnd))) ∧
  (∀ (h : FrameHdr) (b : CadenceBody) (s : State),
      (s.listens (decide (b.kind = 1)) h = false → exec (.cadenceFrame h b) s = .next (s.at_ h.tick).stepEnd) ∧
      (s.listens (decide (b.kind = 1)) h = true → (s.heard h).frameOk h = false →
        exec (.cadenceFrame h b) s = .next ((s.heard h).onFab fun f => { f with frameErr := satInc f.frameErr }).stepEnd) ∧
      (s.listens (decide (b.kind = 1)) h = true → (s.heard h).frameOk h = true →
        (b.kind.toNat, b.sequence.toNat) ∉ (s.heard h).cad.framesSeen →
        let u := s.heard h
        let mark : Int := (h.tick : Int) - (u.fab.ports.getD h.inPort Port.reset).delay.toNat - b.correction.toNat
        let v := u.onCad fun c => { c with framesSeen := (b.kind.toNat, b.sequence.toNat) :: c.framesSeen }
        (b.kind = 1 → u.cad.source = true → u.cad.inputEnable = true →
          exec (.cadenceFrame h b) s = .next (v.selectedMarker h.tick mark).stepEnd) ∧
        (b.kind = 2 → u.clocked 0 = true → u.cad.state.leaderless = true → b.partition = u.fab.partition →
          exec (.cadenceFrame h b) s = .next (v.leaderFrame h.tick mark b).stepEnd) ∧
        (b.kind = 2 → u.clocked 0 = true → u.cad.state = .follower → u.cad.leader = some b.sender → b.partition = u.fab.partition →
          (u.cad.closable = true → mark ≤ u.cad.winEnd) → u.matchingStep mark = some b.sequence →
          (u.cad.opened : Int) ≤ mark → (∀ w ∈ u.cad.closedWindows.head?, w.stop < mark) →
          b.period = BitVec.ofNat 32 u.inForce → u.cad.leaderMarker = none →
          (∀ a, u.cad.lastLeaderAccept = some (b.sender, a) → u.inForce ≤ 2 * (u.elapsed h.tick - a)) →
          exec (.cadenceFrame h b) s = .next (v.onCad fun c => { c with
            lastLeaderAccept := some (b.sender, u.elapsed h.tick), leaderMarker := some (mark - c.winBase) }).stepEnd) ∧
        (b.kind = 2 → u.clocked 0 = true → u.cad.state.leaderless = true → b.partition = u.fab.partition →
          u.cad.closable = false → u.matchingStep mark ≠ some b.sequence →
          exec (.cadenceFrame h b) s = .next (v.raiseCad 6).stepEnd)) ∧
      (s.listens (decide (b.kind = 1)) h = true → (s.heard h).frameOk h = true →
        (b.kind.toNat, b.sequence.toNat) ∈ (s.heard h).cad.framesSeen →
        exec (.cadenceFrame h b) s = .next (s.heard h).stepEnd))

/-- R311, R316, R317, R320, R321, R325, R326: the slots of a port that is `UP` or in `IDENT`. Fifteen of every sixteen slots
between beat 0 and the last beat carry the next data frame that waits for the port; a slot without one carries the next
management frame, a leader frame with the time since its boundary, and an empty slot nothing; the end of an inbound window
closes its stream, and voids the step where a fabric stream lacks a frame.
R309 to R311, R313, R331 to R334: the states of a port. Training with every lane, and not with fewer, gives `ALIGNING`,
which gives `IDENT` and sends the identification; the identification of another plane is `MISWIRED`; that of its own plane
is followed by 16 echoes, after whose answers the port is `UP` with eight lanes; a retraining gives the port the lanes that
are left, four or two, or fails it; a failed lane of a port that is `UP` starts one; one that fails in a port that
retrains, or has not trained when that runs out, is reported as failed; a third attempt that runs out fails the port, and
an earlier one is retried after a second. That `FAB_SLOT_LOST` rises by the number of frames missing is assumption
58, the landing of a tier-2 stream assumption 131, which of the two nearest ticks is the delay of an odd round trip (a free
value) and that a lane lost retrains narrower assumptions 4 and 60. -/
def Obligations.FabricPorts : Prop :=
  (∀ (port tick : Nat) (s : State),
      let x := (s.at_ tick).fab.ports.getD port Port.reset
      (x.state = .up ∨ x.state = .ident) →
      let u := (s.at_ tick).onPort port fun x => { x with slots := x.slots + 1 }
      let data := if x.slots.toNat % 16 ≠ 15 ∧ s.step.playing = true ∧ s.step.lastBeat = false ∧
        u.cycleTick 0 ≤ u.now ∧ u.portUp port = true then u.nextData port else none
      (∀ f, data = some f → exec (.slotTransmit port tick) s = .next (State.stepEnd (
        (u.onFab fun g => { g with dataQ := g.dataQ.erase f, sentData := f :: g.sentData }).toWire f.port x.slots.toNat
          f.bytes))) ∧
      (∀ m, data = none → u.nextMsg port = some m →
        let m' : OutMsg := { m with port := some port, body := u.departing m.body }
        exec (.slotTransmit port tick) s = .next (State.stepEnd ((u.onFab fun g => { g with
          mgmtQ := g.mgmtQ.erase m, sent := m' :: g.sent
          requests := g.requests.map (RemoteReq.leaves port m.body) }).toWire port x.slots.toNat (m'.bytes port)))) ∧
      (data = none → u.nextMsg port = none → exec (.slotTransmit port tick) s = .next u.stepEnd)) ∧
  (∀ (n : Nat) (e : EdgeDecl) (s : State), imgEdge s.active n = some e → s.step.playing = true →
      (s.inStream e.index).ended = false →
      let u := s.setIn { s.inStream e.index with ended := true }
      (e.kind = 2 → ((s.inStream e.index).lastSeq.any fun q => decide (q + 1 = (s.inStream e.index).landed)) = true →
        exec (.streamWindowEnd n) s = .next u.stepEnd) ∧
      (e.kind = 2 → ((s.inStream e.index).lastSeq.any fun q => decide (q + 1 = (s.inStream e.index).landed)) = false →
        exec (.streamWindowEnd n) s = .next ((u.onFab fun f => { f with
          slotLost := satAdd f.slotLost (s.inStream e.index).missing }).voidWith 5).stepEnd) ∧
      (e.kind = 3 → exec (.streamWindowEnd n) s = .next (u.landTier2 e).stepEnd)) ∧
  (∀ (port : Nat) (s : State),
      let x := s.fab.ports.getD port Port.reset
      (x.state = .training → exec (.portStateDone port 0xFF) s = .next
        (s.onPort port fun x => { x with state := .aligning }).stepEnd) ∧
      (x.state = .aligning → exec (.portStateDone port 0xFF) s = .next
        (((s.onPort port fun x => { x with state := .ident, identDone := false, echoes := [] }).sendMsg 1 0 false (some port)
          (.ident (s.fab.chip.setWidth 16) (BitVec.ofNat 8 port) 8)).stepEnd)) ∧
      (∀ good, good ≠ 0xFF → x.state = .training ∨ x.state = .aligning →
        exec (.portStateDone port good) s = .next s.stepEnd) ∧
      (∀ good, x.state = .ident → x.identDone = true → x.echoes.length = 16 →
        exec (.portStateDone port good) s = .next (s.portRises port 8 0xFF).retrainDone.stepEnd) ∧
      (∀ good g, x.state = .retraining → laneGroup (good &&& ~~~ x.failed) = some g →
        exec (.portStateDone port good) s = .next ((((s.onPort port fun x =>
          { x with failed := x.failed ||| ~~~ good }).portRises port (if popCount g = 4 then 4 else 2) g).raiseFab
            2).retrainDone).stepEnd) ∧
      (∀ good, x.state = .retraining → laneGroup (good &&& ~~~ x.failed) = none →
        exec (.portStateDone port good) s = .next ((s.onPort port fun x =>
          { x with failed := x.failed ||| ~~~ good }).portFails port).retrainDone.stepEnd) ∧
      (∀ tick good, ((s.at_ tick).fab.ports.getD port Port.reset).state ∈
          [PortState.training, PortState.aligning, PortState.ident, PortState.retraining] →
        (let u := (s.at_ tick).onPort port fun x => { x with
           attempts := satInc x.attempts, failed := if x.state = .retraining then x.failed ||| ~~~ good else x.failed }
         exec (.portStateTimeout port ⟨good, tick⟩) s = .next (
          if 2 ≤ ((s.at_ tick).fab.ports.getD port Port.reset).attempts.toNat then (u.portFails port).retrainDone.stepEnd
          else (u.onPort port fun x => { x.down with retryAt := some (u.uptime + 1000000000) }).stepEnd))) ∧
      (∀ tick d, ((s.at_ tick).fab.ports.getD port Port.reset).state = .down →
        ((s.at_ tick).fab.ports.getD port Port.reset).retryAt = some d → d ≤ (s.at_ tick).uptime →
        exec (.portRetryTimer port tick) s = .next ((s.at_ tick).onPort port fun x =>
          if x.failed = 0 then x.train else { x.down with state := .retraining }).stepEnd) ∧
      (∀ (lane : Fin 8) (bad : Nat), x.state = .up → x.lanes.getLsbD lane.val = true → port < s.fab.ports.length →
        exec (.laneFailure port ⟨lane, bad⟩) s = .next (
          let u := ((s.onPort port fun y => { y with
              uncorr := satAdd y.uncorr bad, uncorrRep := satAdd y.uncorrRep bad
              corr := satAdd y.corr 0, corrRep := satAdd y.corrRep 0 }).portLost port).onPort port fun y => { y.down with
            state := .retraining, failed := x.failed ||| bit 8 lane.val }
          if (laneGroup (~~~ (x.failed ||| bit 8 lane.val))).isSome = true then u.stepEnd
          else (u.portFails port).retrainDone.stepEnd)) ∧
      (∀ (lane : Fin 8) (bad : Nat), x.state = .retraining → port < s.fab.ports.length →
        exec (.laneFailure port ⟨lane, bad⟩) s = .next ((s.onPort port fun y => { y with
          uncorr := satAdd y.uncorr bad, uncorrRep := satAdd y.uncorrRep bad
          corr := satAdd y.corr 0, corrRep := satAdd y.corrRep 0 }).onPort port fun y => { y with
            failed := y.failed ||| bit 8 lane.val }).stepEnd)) ∧
  (∀ (h : FrameHdr) (s : State), s.identifies h = true → (s.heard h).frameOk h = true →
      let u := s.heard h
      let x := u.fab.ports.getD h.inPort Port.reset
      (∀ plane sw, x.identDone = false →
        exec (.identFrame h plane sw) s = .next (
          let v := u.onPort h.inPort fun x => { x with plane := plane, switchPort := sw }
          if plane.toNat ≠ h.inPort then
            (((v.onPort h.inPort fun x => { x.down with state := .miswired }).raiseFab 4).retrainDone).stepEnd
          else
            ((List.range 16).foldl (fun s _ => s.sendMsg 1 0 false (some h.inPort) (.echo 0))
              (v.onPort h.inPort fun x => { x with identDone := true })).stepEnd)) ∧
      (∀ d a r : Nat, x.identDone = true → x.echoes.length < 15 →
        exec (.echoFrame h d a r) s = .next (u.onPort h.inPort fun y =>
          { y with echoes := x.echoes ++ [(a : Int) - d - r] }).stepEnd) ∧
      (∀ d a r : Nat, x.identDone = true → x.echoes.length = 15 →
        let least := (x.echoes ++ [(a : Int) - d - r]).foldl min ((a : Int) - d - r)
        least % 2 = 0 →
        exec (.echoFrame h d a r) s = .next ((u.onPort h.inPort fun y =>
          { y with echoes := x.echoes ++ [(a : Int) - d - r] }).onPort h.inPort fun y =>
            { y with delay := BitVec.ofInt 32 (least / 2) }).stepEnd) ∧
      (∀ d a r : Nat, x.identDone = true → x.echoes.length = 15 →
        let least := (x.echoes ++ [(a : Int) - d - r]).foldl min ((a : Int) - d - r)
        let v := u.onPort h.inPort fun y => { y with echoes := x.echoes ++ [(a : Int) - d - r] }
        least % 2 ≠ 0 →
        exec (.echoFrame h d a r) s = .next (v.drawn.onPort h.inPort fun y =>
          { y with delay := BitVec.ofInt 32 (least / 2 + ((v.free 1 : BitVec 1).toNat : Int)) }).stepEnd))

/-- R201, R325, R329: requests between chips. A request that is received is served, and its answer sent to its sender at
priority 4; an answer ends its request; a request unanswered for 50 µs is sent again, by another live port where there is
one, three times, and then fails with status 1 and is counted. -/
def Obligations.RemoteRequests : Prop :=
  ∀ (h : FrameHdr) (id : BitVec 32) (s : State),
    (∀ write addr len data, s.receives h →
      let r := (s.heard h).serve h.source write addr len data
      exec (.remoteRequest h id write addr len data) s = .next
        (r.2.2.sendMsg 4 h.source false none (.response id r.1 r.2.1)).workEnd) ∧
    (∀ status data r, s.receives h →
      ((s.heard h).fab.requests.find? fun r => decide (r.id = id) && decide (r.dest = h.source)) = some r →
      exec (.remoteResponse h id status data) s = .next (((s.heard h).onFab fun f => { f with
        requests := f.requests.filter fun x => decide (x.id ≠ id) }).remoteEnd r status false data).workEnd) ∧
    (∀ tick r, ((s.at_ tick).fab.requests.find? fun r => decide (r.id = id)) = some r →
      r.sentAt + 50000 ≤ (s.at_ tick).uptime →
      (r.resent < 3 →
        let port := r.port.bind fun p => (s.at_ tick).livePorts.find? fun q => decide (q ≠ p)
        exec (.remoteRequestTimeout id tick) s = .next (((s.at_ tick).onFab fun f => { f with
          requests := f.requests.map fun x =>
            if x.id = id then { x with resent := x.resent + 1, sentAt := (s.at_ tick).uptime } else x }).sendMsg 5 r.dest false
              port (.request r.id r.write r.addr r.len r.data)).stepEnd) ∧
      (3 ≤ r.resent → exec (.remoteRequestTimeout id tick) s = .next (((s.at_ tick).onFab fun f => { f with
        requests := f.requests.filter fun x => decide (x.id ≠ id)
        remoteErr := satInc f.remoteErr }).remoteEnd r 1 true []).workEnd))

/-! ### Moves between chips, and memory events -/

/-- R206, R209, R210, R330: the side of a move between chips that sends. An acceptance of a page that is still there makes
its entry `SENDING` toward the peer and sends the page's content, and where its content cannot be read aborts; a refusal
gives the page up as without room; READY commits the move, frees the slot here and sends COMMIT; the acknowledgment of
COMMIT ends it; a READY that does not come in a second aborts; COMMIT and ABORT are sent again each millisecond until they
are acknowledged.
R206, R209, R210, R330: the side of a move between chips that receives. An offer with room for it reserves a slot and is
accepted, one without room is refused; data are kept, wherever their offset, until the whole page is here; COMMIT makes the
page home and is acknowledged; ABORT gives the slot up and is acknowledged. That a READY that does not come also aborts a
move whose offer has no answer is assumption 119; the slot that a receiver reserves and the address there that the source
keeps are free (assumptions 23 and 24); that READY also deallocates the slot of the volume is assumption 145, and what an
offer and a `COMMIT` do with an import is assumption 25. -/
def Obligations.PageMoves : Prop :=
  (∀ (h : FrameHdr) (b : MoveBody) (r : RemoteMove) (s : State), s.receives h →
      (s.heard h).remote b.move h.source true = some r →
      let u := s.heard h
      (∀ m, r.phase = .offered → u.stillThere r = true → u.content r.tier.toNat r.slot = some m →
        exec (.moveAccept h b) s = .next (State.workEnd (
          (moveDataMsgs r.seq m).foldl (fun s b => s.sendMove r.peer b)
            (((u.onDir r.tier.toNat r.slot fun e => { e with
              state := .sending, peerChip := r.peer, peer := r.peer ++ (u.free 52 : BitVec 52) }).drawn).setRemote r
                (some { r with phase := .sending, sent := true, since := u.uptime }))))) ∧
      (r.phase = .offered → u.stillThere r = true → u.content r.tier.toNat r.slot = none →
        exec (.moveAccept h b) s = .next ((u.readFails r.tier.toNat r.slot).abortMove r).workEnd) ∧
      (r.phase = .offered → u.stillThere r = false →
        exec (.moveAccept h b) s = .next (u.abortMove r).workEnd) ∧
      (r.phase = .offered →
        exec (.moveRefuse h b) s = .next ((u.setRemote r none).pageEnd r.job r.name r.name .noSpace).workEnd) ∧
      (r.phase = .sending →
        exec (.moveReady h b) s = .next (State.workEnd (
          let new := r.peer ++ (u.free 52 : BitVec 52)
          let v := u.drawn.setDir r.tier.toNat r.slot DirEntry.reset (some (r.tier, r.slot))
          let v := match r.pair with
            | some h => v.freeSlotAt 2 h
            | none => v
          let v := if r.tier.toNat = 3 then v.deallocate r.slot else v
          ((v.setRemote r (some { r with phase := .committed, since := v.uptime })).pageEnd r.job r.name new .moved).sendMove
            r.peer (moveMsg r.seq 6 0)))) ∧
      (r.phase = .committed → b.acked = 6 →
        exec (.moveAck h b) s = .next (u.setRemote r none).workEnd) ∧
      (r.phase = .aborting → b.acked = 7 → r.sent = true →
        exec (.moveAck h b) s = .next (((u.setRemote r none).onDir r.tier.toNat r.slot fun e => match r.pair with
          | some h => { e with state := .shadow, peer := (u.setRemote r none).slotGa 2 h, peerChip := 0 }
          | none => { e with state := .home, peer := 0, peerChip := 0 }).pageEnd r.job r.name r.name .failed).workEnd)) ∧
  (∀ (move : BitVec 32) (tick : Nat) (r : RemoteMove) (s : State),
      let u := s.at_ tick
      ((u.waitingMove move 1000000000 fun p => decide (p = .sending) || decide (p = .offered)) = some r →
        exec (.moveReadyTimeout move tick) s = .next (((u.setRemote r
          (some { r with phase := .aborting, since := u.uptime })).sendMove r.peer (moveMsg r.seq 7 0)).workEnd)) ∧
      ((u.waitingMove move 1000000 fun p => decide (p = .committed)) = some r →
        exec (.moveCommitResend move tick) s = .next (((u.setRemote r
          (some { r with since := u.uptime })).sendMove r.peer (moveMsg r.seq 6 0)).workEnd)) ∧
      ((u.waitingMove move 1000000 fun p => decide (p = .aborting)) = some r →
        exec (.moveAbortResend move tick) s = .next (((u.setRemote r
          (some { r with since := u.uptime })).sendMove r.peer (moveMsg r.seq 7 0)).workEnd))) ∧
  (∀ (h : FrameHdr) (b : MoveBody) (s : State), s.receives h →
      let u := s.heard h
      let kind := b.owner.extractLsb' 28 4
      (u.remote b.move h.source false = none → kind ≠ ownContext →
        u.importFor h.source (b.owner.extractLsb' 0 28 : BitVec 28).toNat = none →
        (u.reserve kind = none →
          exec (.moveOffer h b) s = .next (u.drawn.sendMove h.source (moveMsg b.move 3 0)).workEnd) ∧
        (∀ t sl g, u.reserve kind = some (t, sl, g) →
          exec (.moveOffer h b) s = .next (State.workEnd (
            let e := { placedEntry kind (b.owner.extractLsb' 0 28) b.index.toNat .inbound g (true, []) false b.move with
              peerChip := h.source, peer := h.source ++ (u.free 52 : BitVec 52)
              stored := BitVec.ofNat 32 (if t = 1 then pageBytes else worstStored) }
            let v := u.drawn.setDir t sl e none
            (v.onMem fun m => { m with remotes := m.remotes ++ [{ RemoteMove.reset with
              seq := b.move, outgoing := false, peer := h.source, tier := BitVec.ofNat 4 t, slot := sl
              phase := .receiving, crc := b.crc, since := v.uptime }] }).sendMove h.source (moveMsg b.move 2 0))))) ∧
      (∀ r, u.remote b.move h.source false = some r →
        let a := chunkBytes * b.chunk.toNat + b.offset.toNat
        let n := b.data.length
        (r.phase = .receiving → b.chunk.toNat < 32 → 1 ≤ n → n ≤ 4928 → b.offset.toNat + n ≤ chunkBytes →
          exec (.moveData h b) s = .next (State.workEnd (
            let r' := { r with
              bytes := Mem.writes r.bytes a b.data, chunks := addSpan a (a + n) r.chunks }
            if r'.chunks = [(0, pageBytes)] then (u.setRemote r (some r')).arrived r'
            else u.setRemote r (some r')))) ∧
        ((r.phase ≠ .receiving ∨ 32 ≤ b.chunk.toNat ∨ n < 1 ∨ 4928 < n ∨ chunkBytes < b.offset.toNat + n) →
          exec (.moveData h b) s = .next u.workEnd)) ∧
      (∀ r, (u.sendMove h.source (moveMsg b.move 8 7)).remote b.move h.source false = some r →
        exec (.moveAbort h b) s = .next (((((u.sendMove h.source (moveMsg b.move 8 7)).setRemote r none).pageImportFails
          r.tier.toNat r.slot stCheckFailed).dropInbound r).workEnd)) ∧
      (∀ r, (u.sendMove h.source (moveMsg b.move 8 6)).remote b.move h.source false = some r → r.phase = .readySent →
        exec (.moveCommit h b) s = .next (State.workEnd (
          let t := r.tier.toNat
          let v := (((u.sendMove h.source (moveMsg b.move 8 6)).setRemote r none).onDir t r.slot fun e => { e with
            state := .home, peer := 0, peerChip := 0 }).applyHeld (t, r.slot) (t, r.slot)
          let e := v.dirEntry t r.slot
          let v := if e.ownerKind = ownContext ∧ (v.ctx e.ownerId.toNat).importFrom.isSome = true then
              v.onCtx e.ownerId.toNat fun c => c.takePage e.index.toNat (v.slotGa t r.slot)
            else v
          let e := v.dirEntry t r.slot
          if e.ownerKind = ownContext ∧ (v.ctx e.ownerId.toNat).importFrom.isSome = true then v.endImport e.ownerId.toNat
          else v))))

/-- R24, R207, R209, R214, R215, R229, R296, R297: events of the tiers. A local move that ends commits or fails; a
write-back that ends makes its frame clean, dirty again where it was written since, and may end a flush; a conversion pass
that ends converts every shadow and completes what waits for it; a timer's expiry is reached, and the boundary acts on it:
where the context is parked its pages are freed, or move to tier 3; an access of BAR4 reaches the pages that its function
owns and has marked host-visible, and is aborted elsewhere, in reset and after a failed boot (R467).
R224 to R227, R234, R271, R349, R361: media that fail. An uncorrectable read is counted and raises `UNCORRECTABLE`, and one
of tier 1 or 2 is kept for the boundary; the 65th of one stack within a second, or the failure of a stack, halts the chip
with class 5; a channel that fails leaves the tier with its bytes, raises `CHANNEL_DOWN` and loses its pages; a drive that
does not answer, or answers with a fatal status, fails; another answer ends the command that it names; a patrol counts what
it corrects, and repairs a row of tier 1 with more than 16 corrections. When the expiry of a timer acts is assumption 44,
what a write during a write-back does assumption 116, what the tiers and a failed channel count assumptions 135 and 136. -/
def Obligations.TierAndMediaEvents : Prop :=
  (∀ (s : State),
      (∀ move tick mv, ((s.at_ tick).mem.moves.find? fun m => decide (m.seq = move)) = some mv →
        let u := ((s.at_ tick).onMem fun m => { m with moves := m.moves.filter fun x => decide (x.seq ≠ mv.seq) }).endDrive mv.seq
        (∀ m, u.content mv.srcTier.toNat mv.src = some m →
          exec (.localMoveComplete move tick false false) s = .next (u.commitLocal mv m).workEnd ∧
          exec (.localMoveComplete move tick true false) s = .next (u.failLocal mv).workEnd)) ∧
      (∀ move tick mismatch mv, ((s.at_ tick).mem.moves.find? fun m => decide (m.seq = move)) = some mv →
        exec (.localMoveComplete move tick mismatch true) s = .next
          ((((s.at_ tick).uncorrectable mv.srcTier.toNat mv.src).endLocal mv mismatch true).workEnd)) ∧
      (∀ frame tick w, ((s.at_ tick).mem.wbRun.find? fun w => decide (w.1 = frame)) = some w →
        exec (.writeBackComplete frame tick) s = .next (State.workEnd (
          let u := (s.at_ tick).onMem fun m => { m with
            wbRun := m.wbRun.erase w, flushSet := m.flushSet.filter fun f => decide (f ≠ frame) }
          let home := gaSlot (u.dirEntry 1 frame).peer
          State.checkFlush (
            if (u.dirEntry 1 frame).state = .shadow then
              match u.content 1 frame with
              | some m => (u.restore home.1 home.2 m).onDir 1 frame fun e => { e with dirty := w.2 }
              | none => u
            else u)))) ∧
      (s.mem.converting = true → s.movingShadows = [] →
        exec .conversionPassDone s = .next (State.workEnd (
          let u := (((s.mem.dir1.filter fun p => decide (p.2.state = .shadow)).map (·.1)).foldl
            (fun s f => s.commitDir 1 f { s.dirEntry 1 f with state := .home, peer := 0, dirty := false }
              (gaSlot (s.dirEntry 1 f).peer)) s)
          let v := u.onMem fun m => { m with converting := false, convHandle := [], wbRun := [], flushSet := [] }
          u.mem.convHandle.foldl (fun s h => s.complete h stOk
            (if ((v.liveOf h).any fun (l : Live) => decide (l.opcode = 0x12)) = true then BitVec.ofNat 32 v.cad.b0 else 0))
            v.checkFlush))) ∧
      (∀ n t, (s.ctx n).ttl2At = some t → exec (.ttl2Expiry n) s = .next (s.at_ t).workEnd) ∧
      (∀ n t, (s.ctx n).ttl3At = some t → exec (.ttl3Expiry n) s = .next (s.at_ t).workEnd) ∧
      (∀ n t, (s.ctx n).state = .parked → (s.ctx n).ttl2At = some t → t ≤ s.now →
        s.ttl2Due n = if (s.ctx n).ttl3 = 0 then s.expire n
          else (s.onCtx n fun c => { c with ttl2At := none, toTier3 := true }).startJob
            { PageJob.reset with purpose := .toTier3 n, tier := 3, strict := true }
            ((s.ctx n).pageList.filter fun g => decide (gaSpace g = 2))) ∧
      (∀ n t, (s.ctx n).state = .parked → (s.ctx n).ttl3At = some t → t ≤ s.now → s.ttl3Due n = s.expire n) ∧
      (∀ f off n bs, s.pins.linkUp = true → s.cfg.inReset = false → s.cfg.error = 0 → off + n ≤ 2 ^ 37 →
        let g := mkGa s.fab.chip 2 (s.cfgField 32 8 + off)
        ((gaPieces g n).all fun p => (s.dirEntry 2 (gaSlot p.1).2).hostVisible &&
          decide ((s.dirEntry 2 (gaSlot p.1).2).ownerKind = ownFunction) &&
          decide ((s.dirEntry 2 (gaSlot p.1).2).ownerId = f.setWidth 28)) = true →
        s.readRun (some f.toNat) g n = .ok bs →
        exec (.bar4Access f off (.read n)) s = .next ((s.noteRead g n).onHost fun h => { h with
          aborted := false, answerBytes := bs }).stepEnd) ∧
      (∀ f off op, s.pins.linkUp = true →
        let n := match op with | .read k => k | .write d => d.length
        (s.cfg.inReset = true ∨ s.cfg.error ≠ 0 ∨ 2 ^ 37 < off + n ∨ ((gaPieces (mkGa s.fab.chip 2 (s.cfgField 32 8 + off)) n).all fun p =>
          (s.dirEntry 2 (gaSlot p.1).2).hostVisible &&
          decide ((s.dirEntry 2 (gaSlot p.1).2).ownerKind = ownFunction) &&
          decide ((s.dirEntry 2 (gaSlot p.1).2).ownerId = f.setWidth 28)) = false) →
        exec (.bar4Access f off op) s = .next (s.onHost fun h => { h with aborted := true, answerBytes := [] }).stepEnd)) ∧
  (∀ (s : State),
      (∀ slot unit tick, (s.at_ tick).hlt.halted = false → (s.at_ tick).unitUp 2 unit = true →
        let u := ((s.at_ tick).onMem fun m => { m with ueReads := satInc m.ueReads }).raiseMem 2
        exec (.uncorrectableRead 2 slot unit tick) s = .next (((u.onHlt fun h => { h with
            ueReads := h.ueReads ++ [(u.now, 2, slot)] }).signal (unitSource 2 unit) true).stepEnd)) ∧
      (∀ slot unit tick, (s.at_ tick).hlt.halted = false → (s.at_ tick).unitUp 3 unit = true →
        exec (.uncorrectableRead 3 slot unit tick) s = .next
          ((((s.at_ tick).onMem fun m => { m with ueReads := satInc m.ueReads }).raiseMem 2).stepEnd)) ∧
      (∀ slot unit tick, (s.at_ tick).hlt.halted = false → (s.at_ tick).unitUp 1 unit = true →
        let u := ((s.at_ tick).onMem fun m => { m with ueReads := satInc m.ueReads }).raiseMem 2
        let v := (u.onHlt fun h => { h with ueReads := h.ueReads ++ [(u.now, 1, slot)] }).signal (unitSource 1 unit) true
        let recent := (unit, v.uptime) :: v.hlt.stackUe.filter fun x => decide (v.uptime < x.2 + 1000000000)
        let w := v.onHlt fun h => { h with stackUe := recent }
        ((recent.filter fun x => decide (x.1 = unit)).length ≤ 64 →
          exec (.uncorrectableRead 1 slot unit tick) s = .next w.stepEnd) ∧
        (64 < (recent.filter fun x => decide (x.1 = unit)).length →
          exec (.uncorrectableRead 1 slot unit tick) s = .next (w.halt 0x05 0x04 true).workEnd)) ∧
      (∀ k, s.unitUp 1 k = true →
        exec (.hbmStackFailure k) s = .next (((s.signal (unitSource 1 k) true).halt 0x05 0x04 true).workEnd)) ∧
      (∀ k, s.unitUp 2 k = true →
        exec (.ddrChannelFailure k) s = .next (State.workEnd (
          let slots := (s.mem.dir2.filter fun p => p.2.onChannel k).map (·.1)
          let u := ((s.onMem fun m => { m with
            channels := m.channels &&& ~~~ (bit 12 k)
            t2Bytes := m.t2Bytes - m.channelBytes.getD k 0 }).raiseMem 3).signal (unitSource 2 k) true
          (slots.foldl (fun s sl => s.pageFails 2 sl) u).ownersLearn 2 slots))) ∧
      (∀ k, s.driveUp k = true → exec (.flashDriveTimeout k) s = .next (s.driveFails k).workEnd) ∧
      (∀ k n c, s.driveUp k = true →
        (s.mem.driveDma.find? fun x => decide (x.port = k) && decide (x.id = n)) = some c →
        ((∀ second bytes, c.op ≠ .label second bytes) → exec (.nvmeCompletion k n .success) s = .next
          ((s.onMem fun m => { m with driveDma := m.driveDma.erase c }).pumpDrives).stepEnd) ∧
        exec (.nvmeCompletion k n .fatal) s = .next (s.driveFails k).workEnd) ∧
      (∀ unit corrected tick, (s.at_ tick).mem.channels.getLsbD unit = true →
        exec (.memoryPatrolScrub 2 unit corrected none tick) s = .next ((s.at_ tick).onMem fun m => { m with
          eccT2 := satAdd m.eccT2 corrected }).stepEnd) ∧
      (∀ unit corrected tick row, (s.at_ tick).mem.hbmStacks.getLsbD unit = true →
        let u := (s.at_ tick).onMem fun m => { m with
          eccT1 := satAdd m.eccT1 corrected, rowCorr := Sparse.set 0 m.rowCorr row corrected }
        (corrected ≤ 16 → exec (.memoryPatrolScrub 1 unit corrected (some row) tick) s = .next u.stepEnd) ∧
        (16 < corrected → row ∉ u.mem.softRepairs →
          let w := (u.onMem fun m => { m with softRepairs := m.softRepairs ++ [row] }).raiseMem 6
          exec (.memoryPatrolScrub 1 unit corrected (some row) tick) s = .next (w.storeStart .hbmRepair
            ((if row ∈ w.repairRecord then w.repairRecord else w.repairRecord ++ [row]).flatMap (leBytes 8)) none).stepEnd)))

/-- R24, R246, R251, R255 to R259: events of the weights. A shard's ingest ends, and the next waits no longer; a version
still loading at its deadline marks the shards that are missing, counts them and raises `SHARD_MISSING`; the tick of a due
scrub is reached, and the boundary starts it on every page of the version; a page read by it is compared with its digest,
and one that is in a move is read again later. When a deadline or a tick acts is the environment's (assumption 140). -/
def Obligations.WeightEvents : Prop :=
  ∀ (id : BitVec 28) (v : BitVec 8) (s : State),
    (∀ h tick x l, (s.wgt.flight.find? fun x => decide (x.handle = h)) = some x → s.liveOf h = some l →
      exec (.shardIngestDone h tick) s = .next ((((s.at_ tick).onWgt fun w => { w with
        flight := w.flight.erase x }).ingest x l).nextShard).workEnd) ∧
    (∀ tick m d, (s.at_ tick).model id v = some m → m.state = .loading → m.deadline = some d → d ≤ (s.at_ tick).now →
      let miss := (List.range m.shards.length).filter fun i =>
        decide (m.shards[i]? = some .outstanding) && !(s.at_ tick).shardAccepted m i
      miss ≠ [] →
      exec (.shardDeadlineExpiry id v tick) s = .next (State.workEnd (
        let u := miss.foldl (fun s i => s.setShard id v i .missing) (s.at_ tick)
        ((u.onWgt fun w => { w with missing := satAdd w.missing miss.length }).raiseWgt 1).checkLoaded id v))) ∧
    (∀ m, s.model id v = some m → m.scrubs = true → m.nextScrub ≠ 0 →
      exec (.scrubDue id v) s = .next (s.at_ m.nextScrub).stepEnd ∧
      (s.startScrub m).model m.id m.version = ((s.model m.id m.version).map fun m => { m with
        nextScrub := s.uptime + s.scrubInterval m, scrubLeft := m.pageList.map (·.1), scrubSkipped := [] })) ∧
    (∀ m page, s.model id v = some m → page ∈ m.scrubLeft →
      exec (.scrubPageRead id v page) s = .next (State.stepEnd (
        let u := s.onModel id v fun m => { m with scrubLeft := m.scrubLeft.erase page }
        let at_ := gaSlot (Sparse.get 0 m.pages page)
        let home := match u.shadowOf at_.1 at_.2 with
          | some f => (1, f)
          | none => at_
        let w := if (u.dirEntry at_.1 at_.2).state.inMove = true ∨ (u.dirEntry home.1 home.2).state.inMove = true then
            (u.onModel id v fun m => { m with scrubSkipped := m.scrubSkipped ++ [page] }).onWgt fun w => { w with
              skipped := satInc w.skipped }
          else match u.content home.1 home.2 with
            | none => u.scrubMismatch m page
            | some c =>
              if digestBits (sha256 (Mem.reads c 0 pageBytes)) = Sparse.get 0 m.digests page then u
              else u.scrubMismatch m page
        w.onModel id v fun m =>
          if m.scrubLeft = [] then { m with scrubLeft := m.scrubSkipped, scrubSkipped := [] } else m)))

/-! ### The host link, the functions and the interrupts -/

/-- R346, R353, R359, R393, R396, R458, R459, R479, R483: the host link. When it falls, `HOST_LINK_DOWN` is raised, an armed
chip withdraws, the wired source 46 falls and every function is reset as by a function level reset, each virtual one by
itself where function 0 is `WEDGED`; `HOST_PERST_N` low takes it down; it rises from stage 0x02 of boot on while nothing
holds it down, and a return is counted. A configuration request is answered with retry status only while the chip is in
reset without an error, and one that is not and that carries a Message Control write puts that in force (the operand is the
model's, assumption 159). A function level reset after boot raises `FLR_RECEIVED`: a function that is on stops and is to
start again, one that stops already is to start again, one that is starting is to stop and start again once it is on, and the
physical function's aborts the host channels, stops every function and only function 0 is to start again; its MSI-X control
bits are cleared and its vectors masked; a wedged function is left as it is; before stage 0x05 of boot nothing changes.
R389 to R392: the states of a function. A stop that is complete leaves the function `OFF` and its queues out of service,
raises `FUNC_STOPPED`, completes the command that began it, and then what is held applies; a set-up that ends leaves it
`ON`, raises `FUNC_STARTED` and completes the commands that wait for it, and it stops at once where a disable or a reset is
held; 2 s without a complete stop leave it `WEDGED`, with
`INTERNAL` for those commands and `FUNC_WEDGED` raised, and its contexts that hold no slot and move no page are freed. That
an FLR of a virtual function that is `OFF` starts nothing, that one of a `STARTING` one is held, and that the physical one's
stops functions that are `STARTING` is assumption 88, when the link trains and its return counts assumption 91, the moments of
the boot assumption 73, and what PCI Express adds assumption 159. -/
def Obligations.LinkAndFunctions : Prop :=
  (∀ (s : State), s.pins.linkUp = true →
      let fallen (s : State) : State :=
        let u : State := { s with pins := { s.pins with linkUp := false } }
        let u := if s.clocked 7 = true then (u.onHlt fun h => { h with linkFell := true }).raiseHlt 9 else u
        let u := (if u.unarmed then u else u.withdraw).signal 46 false
        (if (u.func 0).state = .wedged then ((List.range 16).drop 1).foldl (fun s f => s.flrVf f) u else u.flrPf).workEnd
      exec .pcieLinkDown s = .next (fallen s) ∧
      exec (.hostPerst false) s = .next (fallen { s with pins := { s.pins with perstN := false } }) ∧
      exec .pcieLinkUp s = .next s.workEnd ∧
      (∀ f control, s.cfg.inReset = true → s.cfg.error = 0 →
        exec (.pcieConfigRequest ⟨f, control⟩) s = .next ({ s with
          host := { s.host with aborted := false, answer := none, answerBytes := [1] } } : State).stepEnd) ∧
      (∀ f, ¬ (s.cfg.inReset = true ∧ s.cfg.error = 0) →
        let u : State := { s with host := { s.host with aborted := false, answer := none, answerBytes := [0] } }
        exec (.pcieConfigRequest ⟨f, none⟩) s = .next u.stepEnd ∧
        ∀ c, exec (.pcieConfigRequest ⟨f, some c⟩) s = .next (u.msixControl f c).stepEnd)) ∧
  (∀ (s : State), s.pins.linkUp = false →
      exec .pcieLinkDown s = .next s.workEnd ∧
      exec (.hostPerst false) s = .next ({ s with pins := { s.pins with perstN := false } } : State).workEnd ∧
      (∀ req, exec (.pcieConfigRequest req) s = .next s) ∧
      (s.pins.perstN = true → s.cfg.inPulse = false → 2 ≤ s.cfg.stage.toNat → s.pins.powered = true →
        s.pins.resetN = true → s.hlt.pwrfail = false → s.pins.thermtripN = true →
        exec .pcieLinkUp s = .next (State.workEnd (({ s with
          pins := { s.pins with linkUp := true }
          hlt := if s.hlt.linkFell then { s.hlt with linkFell := false, linkDown := satInc s.hlt.linkDown } else s.hlt } : State).signal
          46 true))) ∧
      (s.pins.perstN = false ∨ s.cfg.inPulse = true ∨ s.cfg.stage.toNat < 2 ∨ s.pins.powered = false ∨
        s.pins.resetN = false ∨ s.hlt.pwrfail = true ∨ s.pins.thermtripN = false →
        exec .pcieLinkUp s = .next s.workEnd)) ∧
  (∀ (s : State),
      exec (.hostPerst true) s = .next ({ s with pins := { s.pins with perstN := true } } : State).workEnd ∧
      (∀ f tick, (s.pins.linkUp = false ∨ s.cfg.inReset = true) → exec (.functionLevelReset f tick) s = .next s) ∧
      ∀ tick, s.pins.linkUp = true → s.cfg.inReset = false →
        let u := (s.at_ tick).raiseCmd 3
        (∀ f : BitVec 4, f ≠ 0 →
          let w := u.msixReset fun g => decide (g = f.toNat)
          ((u.func f.toNat).state = .wedged → exec (.functionLevelReset f tick) s = .next u.workEnd) ∧
          ((u.func f.toNat).state = .on → exec (.functionLevelReset f tick) s = .next (((w.stopFunc f.toNat none).onFunc
            f.toNat fun x => { x with held := none, heldEnable := true }).workEnd)) ∧
          ((u.func f.toNat).state = .stopping → (u.func f.toNat).held = none →
            exec (.functionLevelReset f tick) s = .next ((u.onFunc f.toNat fun x => { x with heldEnable := true }).workEnd)) ∧
          ((u.func f.toNat).state = .starting →
            exec (.functionLevelReset f tick) s = .next ((w.onFunc f.toNat fun x => { x with again := true }).workEnd)) ∧
          ((u.func f.toNat).state = .off → exec (.functionLevelReset f tick) s = .next w.workEnd)) ∧
        ((u.func 0).state = .wedged → exec (.functionLevelReset 0 tick) s = .next u.workEnd) ∧
        ((u.func 0).state ≠ .wedged →
          let w := (u.msixReset fun g => decide ((u.func g).state ≠ .wedged)).abortHost
          ((u.func 0).state = .on ∨ (u.func 0).state = .starting →
            exec (.functionLevelReset 0 tick) s = .next (State.workEnd (
              let v := (List.range 16).foldl (fun s f =>
                if (s.func f).state = .on ∨ (s.func f).state = .starting then s.stopFunc f none else s) w
              (v.onFuncs fun x => { x with held := none, heldEnable := false, again := false }).onFunc 0 fun x => { x with
                heldEnable := true }))) ∧
          ((u.func 0).state = .stopping →
            exec (.functionLevelReset 0 tick) s = .next ((u.abortHost.onFunc 0 fun x => { x with heldEnable := true }).workEnd)) ∧
          ((u.func 0).state = .off → exec (.functionLevelReset 0 tick) s = .next w.workEnd))) ∧
  (∀ (f : BitVec 4) (s : State),
      let x := s.func f.toNat
      (x.state = .stopping → s.stopped f.toNat = true →
        exec (.funcStopComplete f) s = .next ((((((s.onFunc f.toNat fun x => { x with
          state := .off, stopper := none
          queues := x.queues.map fun q => { q with enable := false, enabled := false, draining := false } }).raiseCmd 1).completeOpt x.stopper stOk 0).applyHeldCmd f.toNat).tryPf).workEnd)) ∧
      (¬ (x.state = .stopping ∧ s.stopped f.toNat = true) → exec (.funcStopComplete f) s = .next s) ∧
      (x.state = .starting →
        let u := (((s.onFunc f.toNat fun x => { x with state := .on, starters := [] }).raiseCmd 2).completeAll x.starters stOk 0)
        (x.held = none → x.again = false → exec (.funcSetupDone f) s = .next u.workEnd) ∧
        (x.held ≠ none ∨ x.again = true → exec (.funcSetupDone f) s = .next
          ((((u.onFunc f.toNat fun x => { x with held := none, again := false }).stopFunc f.toNat x.held).onFunc f.toNat
            fun y => { y with heldEnable := x.again })).workEnd)) ∧
      (x.state ≠ .starting → exec (.funcSetupDone f) s = .next s) ∧
      (∀ tick, ((s.at_ tick).func f.toNat).state = .stopping →
        ((s.at_ tick).func f.toNat).stopAt + 2000000000 ≤ (s.at_ tick).uptime →
        exec (.funcWedgeTimeout f tick) s = .next (State.workEnd (
          let y := (s.at_ tick).func f.toNat
          let u := (((s.at_ tick).completeAll (y.stopper.toList ++ y.held.toList) stInternal 0).onFunc f.toNat fun x => { x with
            state := .wedged, stopper := none, held := none, heldEnable := false, again := false })
          ((u.ctxsOf f).foldl (fun s n =>
            if (s.slotOf n).isSome = true ∨ (s.ctx n).state = .moving ∨ s.ctxBusy n = true then s else s.freeCtx n)
              (u.raiseHlt 8)).tryPf))) ∧
      (∀ tick, ¬ (((s.at_ tick).func f.toNat).state = .stopping ∧
        ((s.at_ tick).func f.toNat).stopAt + 2000000000 ≤ (s.at_ tick).uptime) →
        exec (.funcWedgeTimeout f tick) s = .next (s.at_ tick)))

/-- R407 to R418, R421 to R424: interrupts and the utility DMA. A wired source takes a level; a moderation window or storm
window that ends brings its line or its counts up to date, and a vector held back past its time is sent; unmasking sends a
pending vector; the read of the channel whose turn it is goes on with its block, and of no other, after which blocks that other
chips hold are requested in their turn, and an acknowledged write ends its part of it.
R408, R411 to R414, R416, R420, R421, R424: the registers of the interrupt controller and of the utility DMA. A claim
answers the source that it takes into service; a completion ends its service; a read of a pending word answers and
acknowledges its pulse sources; a core that makes an access runs (R430); a doorbell asserts the sources of its bits; a
channel's control starts or aborts it. Which wired sources follow the row is assumption 79, that storm windows end by their
row assumption 80, what a channel's pulses do assumption 83, and a 1 written to `abort` of an idle channel assumption 184. -/
def Obligations.InterruptDelivery : Prop :=
  (∀ (s : State),
      (∀ n level, 1 ≤ n → n ≤ 61 → n ∉ levelSources → exec (.sourceAssert n level) s = .next (s.signal n level).stepEnd) ∧
      (∀ (t : Fin 5) tick, exec (.notifyModerationTimeout t tick) s = .next ((s.at_ tick).line t.val).stepEnd) ∧
      exec .stormWindow s = .next (s.ic.listed.foldl (fun s n => s.onIc fun ic =>
        ic.setSrc n { ic.src n with window := 0 }) s).stepEnd ∧
      (∀ v tick, 0 < ((s.at_ tick).ic.vec v).coalesced → ((s.at_ tick).ic.vec v).time ≠ 0 →
        ((s.at_ tick).ic.vec v).firstAt + ((s.at_ tick).ic.vec v).time.toNat * 1000 ≤ (s.at_ tick).uptime →
        exec (.vectorModerationTimeout v tick) s = .next ((s.at_ tick).sendVector v).stepEnd) ∧
      (∀ v, v < 2048 → exec (.msixVectorUnmask v) s = .next (s.unmaskVector v).stepEnd) ∧
      (∀ (c : Fin 16) bad,
        let reads (k : Nat) : Bool := decide ((s.dmaCh k).state = 1) && (s.dmaCh k).stop.isNone &&
          (s.dmaCh k).asked.isNone && decide ((s.dmaCh k).block ≠ 0)
        let turn := ((List.range 16).map fun i => (s.dma.turn + 1 + i) % 16).find? reads
        (turn = some c.val → gaChip (s.dmaCh c.val).src = s.fab.chip →
          exec (.dmaReadComplete c bad) s = .next (s.dmaRead c.val bad).dmaServe.workEnd) ∧
        (turn ≠ some c.val ∨ gaChip (s.dmaCh c.val).src ≠ s.fab.chip →
          exec (.dmaReadComplete c bad) s = .next s.stepEnd)) ∧
      (∀ (c : Fin 16) w ws, (s.dmaCh c.val).state = 1 → gaChip (s.dmaCh c.val).dst = s.fab.chip →
        gaSpace (s.dmaCh c.val).dst ≠ 5 → (s.dmaCh c.val).waiting = w :: ws →
        exec (.dmaWriteResponse c) s = .next (s.dmaAck c.val w).stepEnd)) ∧
  (∀ (req : Requester) (v : BitVec 32) (p : State),
      let s := p.requested req
      (∀ t : Fin 5, s.voteAll.busError (at32 req (0x10040 + 4 * t.val)) = none →
        exec (.icClaimRead req t) p = .next ((s.voteAll.claim t.val).2.gave (s.voteAll.claim t.val).1)) ∧
      (∀ t : Fin 5, s.busError (at32 req (0x10060 + 4 * t.val)) = none →
        exec (.icCompleteWrite req t v) p = .next
          ((s.onIc (Ic.onTarget t.val fun g => { g with complete := v })).endService t.val v.toNat).wrote) ∧
      (s.busError (at32 req 0x100A0) = none → exec (.icGwAckWrite req v) p = .next
        ((s.onIc fun ic => { ic with gwAck := v }).endService 5 v.toNat).wrote) ∧
      (∀ (w : Fin 32) x, s.voteAll.busError (at32 req (0x10100 + 4 * w.val)) = none → req ≠ .sideband →
        s.voteAll.readIc (0x100 + 4 * w.val) = some x →
        exec (.icPendRead req w) p = .next ((s.voteAll.pendRead w.val).gave x)) ∧
      (s.busError (at32 req 0x10010) = none → exec (.icDoorbellWrite req false v) p = .next
        (((List.range 32).filter fun i => v.getLsbD i).foldl (fun s i => s.doorbell (960 + i)) s).wrote) ∧
      (s.busError (at32 req 0x10014) = none → exec (.icDoorbellWrite req true v) p = .next
        (((List.range 28).filter fun i => v.getLsbD i).foldl (fun s i => s.doorbell (992 + i)) s).wrote) ∧
      (∀ n, 1 ≤ n → n ≤ 1019 → s.busError (at32 req (0x11000 + 4 * n)) = none →
        exec (.icStormUnmask req n v) p = .next (s.writeSrcCfg n v).wrote) ∧
      (∀ c : Fin 16, s.busError (at32 req (0x20014 + 64 * c.val)) = none →
        exec (.dmaGo req c v) p = .next (s.writeDmaCtrl c.val v).wrote ∧
        exec (.dmaAbort req c v) p = .next (s.writeDmaCtrl c.val v).wrote))

/-! ### Power, clocks, votes and heartbeats -/

/-- R443, R444, R445, R446: the thermal controls. A scan keeps the hottest and the coolest reading and the power, and the
time since which both are below the raise thresholds; 115 °C trips the chip; after 100 ms of calm, and of no other raise,
the thermal cap rises by one point, to at most OP7.
R433 to R436, R440 to R442, R451: the core supply and the clocks. Rail currents are kept, and the load of a calibration that
measures; a margin trip opens or widens an episode of clock stretching, whose end counts its cycles and trips; a lock of the
standby PLL makes a change ready; a slip of a PLL that runs the chip raises `PLL_SLIP` and withdraws an armed chip; an
oscillator that qualifies is marked so, and one that fails loses its bit: up to stage 2 of the boot nothing else follows
there, as the stage that waits for it fails with the count that it finds; later `REF_LOST` is raised, and the host reference
takes the link down and the fabric reference withdraws an armed chip. R477: while unarmed the sequencer of the operating
points also acts every 100 µs.
The model's own choices here: an oscillator may be judged in every powered stage (assumption 76), and the boundaries count
the cycles of an episode up to them, the rest being the row's operand (assumption 171). Times are kept as durations that no
load of the timebase moves (assumption 54). -/
def Obligations.ThermalAndClockEvents : Prop :=
  (∀ (tick : Nat) (s : State),
      (∀ hot cool power, (s.at_ tick).pins.powered = true →
        let u := s.at_ tick
        let below := decide (hot < (u.pwr.thermUp.toNat : Int) * 16) &&
          decide (power.toNat * 20 < u.pwr.limit.toNat * 1000 * 19)
        let v := u.onPwr fun p => { p with
          junctionMax := hot, junctionMin := cool, power := power
          scans := (u.uptime, hot, power.toNat) :: keptScans (
            if u.cad.begun = true then min (u.uptime - 1000000) (u.elapsed u.cad.bk) else u.uptime - 1000000) p.scans
          belowSince := if below = true then some (p.belowSince.getD u.uptime) else none }
        (hot < 1840 → exec (.thermalScan tick hot cool power) s = .next v.stepEnd) ∧
        (1840 ≤ hot → u.pins.thermtripN = true → exec (.thermalScan tick hot cool power) s = .next v.trip.workEnd)) ∧
      (∀ t, (s.at_ tick).pwr.belowSince = some t → t + 100000000 ≤ (s.at_ tick).uptime →
        (∀ x, (s.at_ tick).pwr.lastUp = some x → x + 100000000 ≤ (s.at_ tick).uptime) → (s.at_ tick).pwr.cap < 7 →
        exec (.thermalCapRaise tick) s = .next (((s.at_ tick).onPwr fun p => { p with
          cap := p.cap + 1, lastUp := some (s.at_ tick).uptime }).tunePll).stepEnd)) ∧
  (∀ (s : State),
      (∀ w e, s.coreRuns = true →
        let die (i : BitVec 32) (d : CalDie) : CalDie :=
          if d.named = true ∧ d.ended = false then { d with loadNow := larger d.loadNow i } else d
        exec (.railCurrentRead w e) s = .next (s.onPwr fun p => { p with
          curW := w, curE := e
          cal := p.cal.map fun c => { c with west := die w c.west, east := die e c.east } }).stepEnd) ∧
      (∀ west east, (west = true ∨ east = true) → s.coreRuns = true → s.hlt.halted = false →
        let dies : BitVec 2 := flag 2 0 west ||| flag 2 1 east
        let u := s.onPwr fun p => { p with episode := some (p.episode.getD 0 ||| dies) }
        exec (.marginTrip west east) s = .next (
          if u.step.playing = true then u.onStep fun g => { g with trouble := g.trouble ||| dies } else u).stepEnd) ∧
      (∀ cycles dies, s.pwr.episode = some dies →
        exec (.stretchEnd cycles) s = .next ((s.onPwr fun p => { p with
          episode := none, stretch := satAdd p.stretch cycles, stretchTotal := satAdd p.stretchTotal cycles
          tripsW := if dies.getLsbD 0 then satInc p.tripsW else p.tripsW
          tripsE := if dies.getLsbD 1 then satInc p.tripsE else p.tripsE }).onStep fun g => { g with
            stretched := g.stretched + cycles }).stepEnd) ∧
      (∀ pll, let u := s.onPwr fun p => { p with clk := p.clk ||| bit 9 (pllBit pll) }
        exec (.pllLock pll) s = .next (if u.isStandbyPll pll = true then
          u.onPwr fun p => { p with standbyLocked := p.standbyOp.isSome } else u).stepEnd) ∧
      (∀ pll, s.pwr.clk.getLsbD (pllBit pll) = true →
        let u := (s.onPwr fun p => { p with clk := p.clk &&& ~~~ (bit 9 (pllBit pll)) }).raisePwr 6
        let v := if u.isStandbyPll pll = true then u.onPwr fun p => { p with standbyLocked := false } else u
        exec (.pllSlip pll) s = .next (
          if (pll = .timebase ∨ v.isActivePll pll = true) ∧ v.unarmed = false then v.withdraw else v).stepEnd) ∧
      (∀ src n, s.cfg.inPulse = false → s.pins.powered = true → qualified src n = true →
        exec (.clockQualification src n) s = .next (s.onPwr fun p => { p with clk := p.clk ||| bit 9 (srcBit src) }).stepEnd) ∧
      (∀ src n, s.cfg.inPulse = false → s.pins.powered = true → qualified src n = false →
        let u := s.onPwr fun p => { p with clk := p.clk &&& ~~~ (bit 9 (srcBit src)) }
        let v := u.raisePwr 5
        (s.cfg.stage.toNat ≤ 2 → exec (.clockQualification src n) s = .next u.stepEnd) ∧
        (2 < s.cfg.stage.toNat →
          (src = .xtal → exec (.clockQualification src n) s = .next v.stepEnd) ∧
          (src = .hostRef → exec (.clockQualification src n) s = .next v.linkDown.workEnd) ∧
          (src = .fabricRef → exec (.clockQualification src n) s = .next
            (if v.unarmed = true then v else v.withdraw).workEnd))) ∧
      (∀ w e tick, (s.at_ tick).unarmed = true → (s.at_ tick).coreRuns = true → (s.at_ tick).hlt.halted = false →
        let u := (s.at_ tick).sequence w e
        exec (.unarmedOpTick w e tick) s = .next (
          if u.pwr.transition.isSome = true then u else u.commandVolts u.pwr.inForce).stepEnd))

/-- R350, R404, R427, R428, R447: the events that the chip's own guards raise. A vote compares the copies of every
triplicated field; an interval of the heartbeats counts the silence of each core that runs, raises `BEAT_LATE` at a count of
5 and halts the chip with class 4 at 10; an uncorrectable error of firmware SRAM after stage 3 halts it too; the oldest
write of a record of the calibration store that succeeds is in the store; while unarmed `PWRFAIL_N` quiesces the chip. R427:
an aligned word that a core stores into the register window is the register write of that core, which runs (R430).
R75, R403, R106, R402, R428, R429, R438, R439, R461, R481: writes of the registers that guard the chip: the pending fence
entries, the cell selected, the locks, which only gather bits, the scale lock, the clock enables, which only gather bits,
the operating points, the firmware floor, the heartbeats and the reset.
The model's own choices here: a core not out of reset is not silent (assumption 137), what a core does is drawn at each
interval (assumption 173), the modes and the memory protection of the cores are the architecture's (assumption 183), a
thermal trip comes before `PWRFAIL_N` (assumption 74), and a reset begins at its request (assumption 67). -/
def Obligations.GuardRing : Prop :=
  (∀ (s : State),
      (∀ us, exec (.voteScan us) s = .next (us.foldl (fun s u => s.upset u) s).voteAll.stepEnd) ∧
      (let counts := (List.range 5).map fun i =>
          if s.mgt.written.getD i false = true ∨ s.mgt.coreState.getD i 0 = 0 then 0 else satInc (s.mgt.silent.getD i 0)
       let newly (n : BitVec 4) : Bool := (List.range 5).any fun i =>
          decide (counts.getD i 0 = n) && decide (s.mgt.silent.getD i 0 ≠ n)
       let u := s.onMgt fun m => { m with silent := counts, written := List.replicate 5 false }
       let v := (if newly 5 = true then u.raiseMgt 0 else u).sampleCores
       exec .heartbeatInterval s = .next (if newly 10 = true then (v.halt 0x04 0x04 true).workEnd else v.stepEnd)) ∧
      (s.cfg.inPulse = false → 3 < s.cfg.stage.toNat →
        exec .firmwareSramUncorrectable s = .next
          (((s.onMgt fun m => { m with fwSramBad := true }).halt 0x04 0x04 true).workEnd)) ∧
      (∀ rec x, (s.store.writing.find? fun x => decide (x.1 = rec)) = some x → rec ≠ .calSet →
        exec (.calibrationStoreWriteDone rec true) s = .next (((s.onStore fun t => { t with
          writing := t.writing.erase x }).storeWrite rec x.2.1).stepEnd)) ∧
      (∀ tick, (s.at_ tick).hlt.pwrfail = false → (s.at_ tick).pins.powered = true → (s.at_ tick).hlt.haltCause ≠ 2 →
        (s.at_ tick).cfg.inPulse = false → (s.at_ tick).cfg.stage = 8 → (s.at_ tick).unarmed = true →
        exec (.pwrfail tick) s = .next ((((s.at_ tick).onHlt fun h => { h with
          pwrfail := true, pwrfailPending := true }).raiseHlt 6).quiesce).workEnd)) ∧
  (∀ (req : Requester) (v : BitVec 32) (p : State),
      let s := p.requested req
      (∀ i : Fin 12, s.busError (at32 req (0x1140 + 4 * i.val)) = none →
        exec (.gridPendWrite req i v) p = .next (s.writePend i.val v).wrote) ∧
      (s.busError (at32 req 0x1180) = none → exec (.gridCellSelWrite req v) p = .next (s.onGrid fun g => { g with
        selRow := if (v.extractLsb' 0 5 : BitVec 5).toNat ≤ 23 then v.extractLsb' 0 5 else g.selRow
        selDie := v.getLsbD 5
        selCol := if (v.extractLsb' 8 6 : BitVec 6).toNat ≤ 32 then v.extractLsb' 8 6 else g.selCol }).wrote) ∧
      (s.busError (at32 req 0x1108) = none → exec (.gridLockWrite req v) p = .next (
        if v.getLsbD 0 = true then s.onSys fun g => { g with lock := Voted.all (g.lock.value ||| 4) } else s).wrote) ∧
      (s.busError (at32 req 0x1200) = none → exec (.arithCtrlWrite req v) p = .next (s.onArith fun g => { g with
        scaleLock := v.getLsbD 0 }).wrote) ∧
      (s.busError (at32 req 0x04) = none → exec (.sysClkEnWrite req v) p = .next (s.onSys fun g => { g with
        clkEn := g.clkEn ||| v.extractLsb' 0 10 }).wrote) ∧
      (s.busError (at32 req 0x08) = none → exec (.sysLockWrite req v) p = .next (s.onSys fun g => { g with
        lock := Voted.all (g.lock.value ||| v.extractLsb' 0 4) }).wrote) ∧
      (s.busError (at32 req 0x2008) = none → exec (.pwrOpReqWrite req v) p = .next (s.writeOpReq v).wrote) ∧
      (s.busError (at32 req 0x2004) = none → exec (.pwrOpLimitsWrite req v) p = .next (s.writeOpLimits v).wrote) ∧
      (s.busError (at32 req 0x21020) = none → s.sys.lock.value.getLsbD 3 = false → s.mgt.fwFloor.toNat < v.toNat →
        exec (.mgtFwFloorWrite req v) p = .next
          (((s.onMgt fun m => { m with fwFloor := v }).storeWrite .floor (bvBytes 4 v)).raiseMgt 1).wrote) ∧
      (∀ c : Fin 5, s.busError (at32 req (0x21004 + 4 * c.val)) = none →
        exec (.heartbeatWrite req c v) p = .next (s.onMgt fun m => { m with
          beats := m.beats.set c.val v, written := m.written.set c.val true, silent := m.silent.set c.val 0 }).wrote) ∧
      (∀ (c : Fin 5) (off : Nat), off + 4 ≤ 0x04000000 → p.mgt.permits c 1 (0x10000000 + off) 4 = true →
        let r := (p.wakeCore c.val).regWrite { req := coreRequester c, bar2 := none, off := off, whole := true } v
        p.coreStore c (0x10000000 + off) (bvBytes 4 v) false = ((if r.1 = true then .ok [] else .fault), r.2)) ∧
      (s.busError (at32 req 0x3004) = none → exec (.rstCtrlReset req v) p = .next (
        if v.getLsbD 0 = true then (s.onCfg fun c => { c with retain := v.getLsbD 1 }).requestReset 4 (v.getLsbD 1)
        else s.onCfg fun c => { c with retain := v.getLsbD 1 }).wrote))

/-! ### Reset and boot -/

/-- R460, R461, R462, R463, R485: power and reset. Power starts a full reset with the straps of the pins; its removal leaves
the chip in reset, with the auxiliary rail up or down; a second removal takes that rail away; `RESET_N` low starts a reset
that keeps what the last request asked to retain; its rise samples the straps and, with no pulse left, starts the boot, as
does the end of the pulse; a retry of the clock and supply stages 0x01 and 0x02 begins again.
R466, R467, R468, R469, R470: the stages of the boot run in their order, each by what it finds.
The model's own choices here: that the straps are sampled at the rise of `RESET_N` and at the end of the pulse, and that the
release needs both (assumption 73), whether a debug module in effect at the rise leaves cores halted (R430, assumption 173),
that the test access port loses its instruction with the power (assumption 187), whether the auxiliary rail stays up is drawn
(assumption 185), `POWER_ON` of a powered chip and the other rows of an unpowered one change nothing (assumption 74), and a
reset begins at its request (assumption 67). -/
def Obligations.ResetAndBoot : Prop :=
  (∀ (s : State),
      (s.pins.powered = false →
        (∀ tick, exec (.powerOn tick) s = .next (State.stepEnd (
          let u := (s.enterReset 1 false).onPins fun p => { p with
            powered := true, aux := true, resetN := true, thermtripN := true }
          (u.onCfg fun c => { c with strap := u.pins.strapPins, pwrStop := false }).at_ tick))) ∧
        (s.pins.aux = true → exec .powerRemoved s = .next (s.auxDown).stepEnd) ∧
        (s.pins.aux = false → exec .powerRemoved s = .next s)) ∧
      (s.pins.powered = true →
        let u := ((s.drawn.enterReset 1 false).onPins fun p => { p with
          powered := false, jtagInstr := 0, trstN := false, boundary := 0 }).onCfg fun c => { c with
          inPulse := false, pwrStop := false }
        ((s.free 1 : BitVec 1) = 1 → exec .powerRemoved s = .next u.stepEnd) ∧
        ((s.free 1 : BitVec 1) ≠ 1 → exec .powerRemoved s = .next ((u.onPins fun p => { p with
          aux := false, thermtripN := true, sbAddr := none }).onCfg fun c => { c with
            retain := false, tripLatched := false }).stepEnd) ∧
        (∀ tick, exec (.resetNAssert tick) s = .next ((((s.at_ tick).enterReset 2 s.cfg.retain).onPins fun p => { p with
          resetN := false, thermtripN := true }).stepEnd)) ∧
        (∀ strap tick, s.pins.resetN = false →
          exec (.resetNRelease strap tick) s = .next ((((s.at_ tick).debugRelease.onPins fun p => { p with
            resetN := true, strapPins := strap }).onCfg fun c => { c with strap := strap }).released.stepEnd)) ∧
        (∀ tick, s.cfg.inPulse = true →
          exec (.resetPulseEnd tick) s = .next (((s.at_ tick).onCfg fun c => { c with
            inPulse := false
            strap := if (s.at_ tick).pins.resetN = true then (s.at_ tick).pins.strapPins else c.strap }).released.stepEnd))) ∧
      (s.cfg.retryWait = true →
        exec .bootStageRetry s = .next (s.onCfg fun c => { c with retryWait := false }).stepEnd)) ∧
  (∀ (r : BootReport) (s : State), (s.at_ r.tick).booting = true →
      let u := s.at_ r.tick
      (u.cfg.stage = 1 → exec (.bootStageDone r) s = .next (u.stageAux r).workEnd) ∧
      (u.cfg.stage = 2 → exec (.bootStageDone r) s = .next (u.stageClocks r).workEnd) ∧
      (u.cfg.stage = 3 → exec (.bootStageDone r) s = .next (u.stageRom r).workEnd) ∧
      (u.cfg.stage = 4 → exec (.bootStageDone r) s = .next u.stageFirmware.workEnd) ∧
      (u.cfg.stage = 5 → exec (.bootStageDone r) s = .next u.stageHost.workEnd) ∧
      (u.cfg.stage = 6 → exec (.bootStageDone r) s = .next (u.stageMemory r).workEnd) ∧
      (u.cfg.stage = 7 → exec (.bootStageDone r) s = .next (u.stageDirectory r).workEnd))

/-! ### Registers -/

/-- R398, R399: a write of a register of the register space that is no bus error reaches its block, one of BAR2 its
function, and one of the MSI-X table of a virtual function its vector; one that is a bus error is recorded and aborted, and
changes no register; a core that makes an access runs (R430; what of a virtual function's BAR0 is written is assumption 159,
and which accesses of BAR2 are bus errors assumption 82).
R398, R399, R400: a read of a register that is no bus error answers its value; one of an `RC` register clears what it
answers, unless the sideband reads it, and one of the low word of a latched pair keeps the high word for its requester,
which a read of the high word then answers; one that is a bus error is recorded and aborted. -/
def Obligations.RegisterAccess : Prop :=
  (∀ (a : Access) (v : BitVec 32) (p : State), let s := p.requested a.req
      (∀ b o, s.busError a = none → a.vf = none → a.bar2 = none → blockAt a.off = some (b, o) →
        exec (.registerWrite a v) p = .next (s.writeBlock a.req b o v).wrote) ∧
      (∀ f, s.busError a = none → a.vf = some f → exec (.registerWrite a v) p = .next (
        if a.off < 0x400 then s.writeMsix (globalVector f.toNat 0) a.off v else s).wrote) ∧
      (∀ f, s.busError a = none → a.vf = none → a.bar2 = some f →
        exec (.registerWrite a v) p = .next (s.writeBar2 f.toNat a.off v).wrote) ∧
      (∀ k, s.busError a = some k →
        exec (.registerWrite a v) p = .next ((s.recordError a true k).onHost fun h => { h with aborted := true }).stepEnd)) ∧
  (∀ (a : Access) (p : State), let u := (p.requested a.req).voteAll
      (∀ f, u.busError a = none → a.vf = some f → exec (.rcRegisterRead a) p = .next (u.gave (u.readVf f.toNat a.off))) ∧
      (∀ f v, u.busError a = none → a.vf = none → a.bar2 = some f → u.readBar2 f.toNat a.off = some v →
        exec (.rcRegisterRead a) p = .next (u.gave v)) ∧
      (∀ b o v, u.busError a = none → a.vf = none → a.bar2 = none → blockAt a.off = some (b, o) →
        (b = .ic → o < 0x40 ∨ 0x54 ≤ o) →
        (latchedPairs.find? fun x => decide (x.1 = b) && decide (x.2.1 = o)) = none →
        (latchedPairs.find? fun x => decide (x.1 = b) && decide (x.2.1 + 4 = o)) = none →
        u.readBlock b o = some v →
        exec (.rcRegisterRead a) p = .next ((if a.req = .sideband then u else u.clearRead b o).gave v)) ∧
      (∀ b o x, u.busError a = none → a.vf = none → a.bar2 = none → blockAt a.off = some (b, o) →
        (b = .ic → o < 0x40 ∨ 0x54 ≤ o) →
        (latchedPairs.find? fun x => decide (x.1 = b) && decide (x.2.1 = o)) = none →
        (latchedPairs.find? fun x => decide (x.1 = b) && decide (x.2.1 + 4 = o)) = some x →
        exec (.rcRegisterRead a) p = .next (u.gave (u.latch a.req a.off x.2.2))) ∧
      (∀ b o v x, u.busError a = none → a.vf = none → a.bar2 = none → blockAt a.off = some (b, o) →
        (b = .ic → o < 0x40 ∨ 0x54 ≤ o) →
        (latchedPairs.find? fun x => decide (x.1 = b) && decide (x.2.1 = o)) = some x →
        u.readBlock b o = some v →
        exec (.latchedLowRead a) p = .next ((u.setLatch a.req (a.off + 4) ((u.readBlock b (o + 4)).getD 0)).gave v)) ∧
      (∀ k, u.busError a = some k →
        let t := ((u.recordError a false k).onHost fun h => { h with answer := none, aborted := true }).stepEnd
        exec (.rcRegisterRead a) p = .next t ∧ exec (.latchedLowRead a) p = .next t))

/-- R362 to R369: the registers of BAR2. A queue's control puts it in service or takes it out; its tail doorbell makes
packets known and its head doorbell frees records; the head of the step report ring and the consumed count of a token ring
follow what the host writes.
R458, R486 to R489: the sideband and the test access port. Where `VDD_AUX33` is present and no access is uncompleted, a
register read answers status 0 and the value, or status 1; a register write answers whether it was taken; both end after a
time of at most 2 µs, which is free (assumption 85), and answer status 2 until then. A message is put in the mailbox where it
is empty, and taken from it where there is one. A reset with its key is answered and requested in every state. A request of
another length or with another command byte answers status 3 (of the command byte, assumption 86), one that finds an access
uncompleted status 2, without taking that one's answer away; one at another address, or without `VDD_AUX33`, is not
answered. An assignment gives the target a dynamic address where it has none; the other common commands, and what those
that read return, are the model's (assumption 187). The test access port of a powered chip holds the instruction, with
`TRST_N` taken as high (assumption 187), `BYPASS` is in force for one that its locks keep out, IDCODE while `TRST_N` is low
(assumption 187), and IDCODE answers the identity; the EXTEST instructions drive the lanes, and the boundary register drives
the outputs (assumption 187); what SAMPLE leaves in the boundary register is free (assumption 187). The codes held are the
model's (assumption 85), and so is what empties the mailboxes (assumption 186). -/
def Obligations.QueuesAndSideband : Prop :=
  (∀ (f : BitVec 4) (q : Fin 8) (v : BitVec 32) (tick : Nat) (s : State),
      (s.busError (bar2At f (0x100 * q.val + 0x10)) = none →
        exec (.queueEnable f q v) s = .next (s.writeQueueCtrl f.toNat q.val v).wrote ∧
        exec (.queueDisable f q v) s = .next (s.writeQueueCtrl f.toNat q.val v).wrote) ∧
      ((s.at_ tick).busError (bar2At f (0x100 * q.val + 0x18)) = none →
        exec (.cmdTailDoorbell f q v tick) s = .next ((s.at_ tick).writeTail f.toNat q.val v).wrote) ∧
      ((s.at_ tick).busError (bar2At f (0x100 * q.val + 0x1C)) = none →
        exec (.rspHeadDoorbell f q v tick) s = .next ((s.at_ tick).writeHead f.toNat q.val v).wrote) ∧
      (s.busError (bar2At 0 0x800) = none →
        exec (.srHeadDoorbell v) s = .next (s.onCmd fun c => { c with srHead := v }).wrote) ∧
      (∀ n : Fin 1024, s.busError (bar2At f (0x1000 + 4 * n.val)) = none →
        exec (.tokenDoorbell f n v) s = .next (s.writeToken f.toNat n.val v).wrote)) ∧
  (∀ (b : List (BitVec 8)) (s : State), s.pins.aux = true →
      let static : BitVec 7 := 0x30 + (s.cfg.strap.extractLsb' 0 2 : BitVec 2).setWidth 7
      let req : SbRequest := { addr := s.pins.sbAddr.getD static, bytes := b }
      let noData (st : BitVec 8) : List (BitVec 8) := [st, 0xFF, 0xFF, 0xFF, 0xFF]
      -- a request that is taken; what came before it is no longer read
      let u := s.onPins fun p => { p with sbDue := none }
      -- a malformed reset has no effect on an access that is not completed
      let v := if s.pins.sbDue.any (fun d => decide (s.uptime < d.1)) = true then s else u
      -- a register access ends after a free time of at most 2 µs
      let takes (busy answer : List (BitVec 8)) (r : State) : State :=
        let wait := (Config.freeValue 11 r.freeCount).toNat % 2001
        if wait = 0 then r.drawn.sbAnswer answer
        else (r.drawn.onPins fun p => { p with sbDue := some (r.uptime + wait, answer) }).sbAnswer busy
      ((∀ d, s.pins.sbDue = some d → d.1 ≤ s.uptime) →
        (b.length = 5 → byteAt b 0 = 1 → exec (.sbRegisterRead req) s = .next (State.stepEnd (
          let r := u.regRead (at32 .sideband (fieldAt b 1 4))
          takes (noData 0x02) (match r.1 with
            | none => noData 0x01
            | some v => 0 :: bvBytes 4 v) r.2))) ∧
        (b.length = 9 → byteAt b 0 = 2 → exec (.sbRegisterWrite req) s = .next (State.stepEnd (
          let r := u.regWrite (at32 .sideband (fieldAt b 1 4)) (BitVec.ofNat 32 (fieldAt b 5 4))
          takes [0x02] [if r.1 = true then 0 else 0x01] r.2))) ∧
        (b.length = (byteAt b 1).toNat + 2 → 1 ≤ (byteAt b 1).toNat → (byteAt b 1).toNat ≤ 32 → byteAt b 0 = 4 →
          (s.pins.sbIn = none →
            exec (.sbMailboxWrite req) s = .next
              ((u.onPins fun p => { p with sbIn := some (b.drop 2) }).sbAnswer [0]).stepEnd) ∧
          (s.pins.sbIn.isSome = true → exec (.sbMailboxWrite req) s = .next (u.sbAnswer [0x04]).stepEnd)) ∧
        (b.length = 1 → byteAt b 0 = 5 →
          (s.pins.sbOut = none → exec (.sbMailboxRead req) s = .next (u.sbAnswer [0x04]).stepEnd) ∧
          (∀ m, s.pins.sbOut = some m → exec (.sbMailboxRead req) s = .next
            ((u.onPins fun p => { p with sbOut := none }).sbAnswer (0 :: BitVec.ofNat 8 m.length :: m)).stepEnd)) ∧
        (¬ (b.length = 5 ∧ byteAt b 0 = 1) → exec (.sbRegisterRead req) s = .next (u.sbAnswer (noData 0x03)).stepEnd) ∧
        (¬ (b.length = 9 ∧ byteAt b 0 = 2) → exec (.sbRegisterWrite req) s = .next (u.sbAnswer [0x03]).stepEnd) ∧
        (¬ (b.length = (byteAt b 1).toNat + 2 ∧ 1 ≤ (byteAt b 1).toNat ∧ (byteAt b 1).toNat ≤ 32 ∧ byteAt b 0 = 4) →
          exec (.sbMailboxWrite req) s = .next (u.sbAnswer [0x03]).stepEnd) ∧
        (¬ (b.length = 1 ∧ byteAt b 0 = 5) → exec (.sbMailboxRead req) s = .next (u.sbAnswer [0x03]).stepEnd)) ∧
      -- a reset, also while an access is not completed
      (b.length = 3 → byteAt b 0 = 3 →
        (byteAt b 1 = 0xA5 → exec (.sbReset req) s = .next
          ((v.requestReset 5 ((byteAt b 2).getLsbD 0)).sbAnswer [0]).stepEnd) ∧
        (byteAt b 1 ≠ 0xA5 → exec (.sbReset req) s = .next (v.sbAnswer [0x03]).stepEnd)) ∧
      (¬ (b.length = 3 ∧ byteAt b 0 = 3) → exec (.sbReset req) s = .next (v.sbAnswer [0x03]).stepEnd) ∧
      -- the others while an access is not completed, whose answer is still to come
      (∀ d, s.pins.sbDue = some d → s.uptime < d.1 →
        let t := (s.sbAnswer [0x02]).stepEnd
        exec (.sbRegisterRead req) s = .next (s.sbAnswer (noData 0x02)).stepEnd ∧
        exec (.sbRegisterWrite req) s = .next t ∧
        exec (.sbMailboxWrite req) s = .next t ∧ exec (.sbMailboxRead req) s = .next t) ∧
      -- the common commands
      (∀ a, let at_ (x : Option (BitVec 7)) := (s.onPins fun p => { p with sbAddr := x }).stepEnd
        (s.pins.sbAddr = none →
          exec (.i3cAddressAssignment (.entdaa a)) s = .next (at_ (some a)) ∧
          exec (.i3cAddressAssignment (.setdasa static a)) s = .next (at_ (some a))) ∧
        (s.pins.sbAddr ≠ none →
          exec (.i3cAddressAssignment (.entdaa a)) s = .next s.stepEnd ∧
          exec (.i3cAddressAssignment (.setdasa static a)) s = .next s.stepEnd) ∧
        (∀ x, x ≠ static → exec (.i3cAddressAssignment (.setdasa x a)) s = .next s.stepEnd) ∧
        exec (.i3cAddressAssignment .rstdaa) s = .next (at_ none)) ∧
      (∀ c ∈ [I3cCommand.enec, .disec], exec (.i3cAddressAssignment c) s = .next s.stepEnd) ∧
      (∀ x ∈ [(I3cCommand.getbcr, 1), (.getdcr, 1), (.getstatus, 2), (.getpid, 6)],
        exec (.i3cAddressAssignment x.1) s = .next ((s.onFreeCount (· + x.2)).sbAnswer
          ((List.range x.2).map fun i => Config.freeValue 8 (s.freeCount + i))).stepEnd)) ∧
  (∀ (req : SbRequest) (c : I3cCommand) (s : State),
      s.pins.aux = false ∨ req.addr ≠ s.pins.sbAddr.getD (0x30 + (s.cfg.strap.extractLsb' 0 2 : BitVec 2).setWidth 7) →
      exec (.sbRegisterRead req) s = .next s ∧ exec (.sbRegisterWrite req) s = .next s ∧ exec (.sbReset req) s = .next s ∧
      exec (.sbMailboxWrite req) s = .next s ∧ exec (.sbMailboxRead req) s = .next s ∧
      (s.pins.aux = false → exec (.i3cAddressAssignment c) s = .next s)) ∧
  (∀ (i : JtagInstr) (s : State),
      (s.pins.powered = true →
        let u := s.onPins fun p => { p with jtagInstr := JtagCode i, trstN := true }
        (i ≠ .idcode → i ≠ .sample → exec (.jtagInstruction i) s = .next u.stepEnd) ∧
        (i = .sample → exec (.jtagInstruction i) s = .next
          ((u.drawn.onPins fun p => { p with boundary := Config.freeValue 4 s.freeCount }).stepEnd)) ∧
        (i = .idcode → exec (.jtagInstruction i) s = .next ((u.onHost fun h => { h with
          answer := some 0x1720074B }).stepEnd))) ∧
      (s.pins.trstN = true → s.pins.jtagInstr = JtagCode i →
        s.jtagInForce = if ((i = .extest ∨ i = .extestPulse ∨ i = .extestTrain) ∧ s.pins.resetN = true) ∨
          (i = .debugModule ∧ (s.pins.resetN = true ∨ s.sys.lock.value.getLsbD 0 = true)) then JtagCode .bypass
          else JtagCode i) ∧
      (s.pins.trstN = false → s.jtagInForce = JtagCode .idcode) ∧
      (s.jtagInForce = JtagCode i →
        s.laneDrive = (match i with
          | .extest => .steady
          | .extestPulse => .pulse
          | .extestTrain => .train
          | _ => .own) ∧
        (i = .extest ∨ i = .extestPulse ∨ i = .extestTrain →
          let d := s.pins.boundary
          s.level .faultN = d.getLsbD 0 ∧ s.level .thermtripN = d.getLsbD 1 ∧ s.level .flPerstN = d.getLsbD 2 ∧
          s.level .ddrResetN = d.getLsbD 3)))

/-! ### The host commands -/

/-- R379, R383 to R388: `IDENTIFY`, `TELEMETRY` and `DIAG_NOP` complete `OK`; `HANDLE_QUERY` answers the opcode, the queue
and whether it is held (assumption 89) of a live handle of the same function, and `BAD_HANDLE` of a handle that is not live
or is another function's; `DEVICE_RESET` freezes the queues, sends its leave notices while armed, and they depart before the
reset; it cancels a calibration with reason 0x04 (R454), completes every other command with `CANCELLED` and itself with
`OK`, and resets the chip; a kind that is not listed is refused. These need no committed configuration. The model's own
choice: the detail 0xFFFF_FFFF of the commands that a reset cancels (assumption 93), and that the notices leave before the
reset (assumption 168). -/
def Obligations.SystemCommands : Prop :=
  ∀ (h : BitVec 32) (l : Live) (s : State), s.liveOf h = some l → l.phase = .accepted →
    (l.opcode = 0x01 → exec (.identify h) s = .next
      ((s.hostWrite l.func.toNat (l.param 16 8) (s.identity l.func)).complete h stOk 0).workEnd) ∧
    (l.opcode = 0x03 → exec (.telemetry h) s = .next
      ((s.hostWrite l.func.toNat (l.param 16 8) s.telemetry).complete h stOk 0).workEnd) ∧
    (l.opcode = 0xF0 → exec (.diagNop h) s = .next (s.complete h stOk (BitVec.ofNat 32 (l.param 8 4))).workEnd) ∧
    (l.opcode = 0x04 →
      (∀ x, s.liveOf (BitVec.ofNat 32 (l.param 8 4)) = some x → x.func = l.func →
        exec (.handleQuery h) s = .next (s.complete h stOk (fields [(0, 8, x.opcode.toNat), (8, 3, x.queue),
          (11, 1, bitOf (s.waitsHeld (BitVec.ofNat 32 (l.param 8 4))))])).workEnd) ∧
      (∀ x, s.liveOf (BitVec.ofNat 32 (l.param 8 4)) = some x → x.func ≠ l.func →
        exec (.handleQuery h) s = .next (s.complete h stBadHandle 0).workEnd) ∧
      (s.liveOf (BitVec.ofNat 32 (l.param 8 4)) = none →
        exec (.handleQuery h) s = .next (s.complete h stBadHandle 0).workEnd)) ∧
    (l.opcode = 0x02 → l.param 8 1 = 1 ∨ l.param 8 1 = 2 →
      exec (.deviceReset h) s = .next (State.workEnd (
        let u := s.onCmd fun c => { c with frozen := true }
        let u := (if u.unarmed = true then u else (u.sendLeave 0x04).lastNotices).cancelCal 4
        let u := u.completeAll (u.liveInOrder.filter fun x => decide (x ≠ h)) stCancelled 0xFFFFFFFF
        (u.complete h stOk 0).enterReset 3 (decide (l.param 8 1 = 2))))) ∧
    (l.opcode = 0x02 → ¬ (l.param 8 1 = 1 ∨ l.param 8 1 = 2) →
      exec (.deviceReset h) s = .next (s.complete h stBadParam 8).workEnd)

/-- R388: a manufacturing-test command, which the specification gives no effect, is refused by name once a configuration is
committed; on a handle that names no command nothing happens (assumptions 5 and 94). -/
def Obligations.ManufacturingStops : Prop :=
  ∀ (h : BitVec 32) (s : State),
    (∀ l, s.liveOf h = some l → 0xF1 ≤ l.opcode.toNat → l.phase = .accepted → s.configured = true →
      exec (.manufacturingTest h) s = .refused (.manufacturingTest l.opcode)) ∧
    (s.liveOf h = none → exec (.manufacturingTest h) s = .next s)

/-- R37, R38, R387, R473, R474: the cadence, the roles and the configuration. `CFG_WRITE` in range stores its units; a
`CFG_COMMIT` checks the block in stage 8 and waits for it before; `CADENCE_SET` arms, sets the period and the source at a
boundary or, `UNARMED`, at once, loads the timebase, enables the input and disarms; `CADENCE_STATUS` writes the cadence
registers; `ROLE_SET` keeps the chip's place in its partition. The model's own choice: an action at once gives the present
tick as its detail (assumption 142); the order of the refusals is assumptions 49 and 92. -/
def Obligations.CadenceCommands : Prop :=
  ∀ (h : BitVec 32) (l : Live) (s : State), s.liveOf h = some l → l.phase = .accepted →
    (l.opcode = 0x10 → l.param 8 2 % 64 = 0 → l.param 8 2 < 1024 → l.param 10 2 % 64 = 0 → 64 ≤ l.param 10 2 →
      l.param 8 2 + l.param 10 2 ≤ 1024 → gaChip (BitVec.ofNat 64 (l.param 16 8)) = s.fab.chip →
      gaSpace (BitVec.ofNat 64 (l.param 16 8)) ∈ [2, 5] → s.cfg.commit = none →
      exec (.cfgWrite h) s = .next (s.storeUnits h (BitVec.ofNat 64 (l.param 16 8)) (l.param 8 2 / 64)
        (l.param 10 2 / 64)).workEnd) ∧
    (l.opcode = 0x11 → s.cfg.commit = none → s.unarmed = true →
      exec (.cfgCommit h) s = .next (if s.cfg.stage = 8 then s.checkCommit h
        else (s.working h).onCfg fun c => { c with commit := some h }).workEnd) ∧
    (l.opcode = 0x13 → exec (.cadenceStatus h) s = .next ((s.hostWrite l.func.toNat (l.param 8 8)
      ((List.range 16).flatMap fun i => bvBytes 4 ((s.readBlock .cad (4 * i)).getD 0))).complete h stOk 0).workEnd) ∧
    (s.configured = true → l.opcode = 0x12 →
      (l.param 8 1 = 1 → s.unarmed = true → s.cad.loadHandle = none → cadenceBad l = none →
        s.periodFails l (fun k => decide (k.status ≠ .loaded)) = false →
        exec (.cadenceSet h) s = .next ((s.working h).startArming h l).workEnd) ∧
      (cadenceBad l = none →
        (l.param 8 1 = 2 → s.periodFails l (fun k => decide (k.status = .active) || decide (k.status = .verified)) = false →
          (s.unarmed = true → exec (.cadenceSet h) s = .next
            (({ s with cad := { s.cad with period := Voted.all (BitVec.ofNat 27 (l.param 12 4)) } } : State).complete h stOk
              (lo32 s.cad.tb)).workEnd) ∧
          (s.unarmed = false → exec (.cadenceSet h) s = .next (s.atBoundary h).workEnd)) ∧
        (l.param 8 1 = 3 → s.unarmed = true → s.cad.loadHandle = none →
          exec (.cadenceSet h) s = .next (((s.working h).enableInput).onCad fun c => { c with
            loadHandle := some h, tbLoad := BitVec.ofNat 64 (l.param 16 8) }).workEnd) ∧
        (l.param 8 1 = 4 → exec (.cadenceSet h) s = .next (s.enableInput.complete h stOk (lo32 s.cad.tb)).workEnd) ∧
        (l.param 8 1 = 5 → s.srv.slots = [] → exec (.cadenceSet h) s = .next (
          if s.unarmed = true then s.complete h stOk (lo32 s.cad.tb) else s.atBoundary h).workEnd) ∧
        (l.param 8 1 = 6 →
          (s.unarmed = true → exec (.cadenceSet h) s = .next
            ((s.enableInput.setSource l).complete h stOk (lo32 s.cad.tb)).workEnd) ∧
          (s.unarmed = false → exec (.cadenceSet h) s = .next (s.enableInput.atBoundary h).workEnd)))) ∧
    (s.configured = true → l.opcode = 0x14 → s.unarmed = true → s.cylOf .active = none → l.param 8 4 ≠ 0 →
      1 ≤ l.param 12 1 → l.param 12 1 ≤ 72 → l.param 13 1 < l.param 12 1 → l.param 14 1 ≤ 1 →
      ∀ bs, s.hostRead l.func.toNat (l.param 16 8) (2 * l.param 12 1) = some bs →
        let ms := (List.range (l.param 12 1)).map fun i => fieldAt bs (2 * i) 2
        (ms.any fun m => decide (4096 ≤ m)) = false → ms[l.param 13 1]? = some s.fab.chip.toNat → ms.Nodup →
        exec (.roleSet h) s = .next ((((s.onFab fun f => { f with
          partition := BitVec.ofNat 32 (l.param 8 4), size := l.param 12 1, stage := l.param 13 1
          memberChips := ms.map fun m => BitVec.ofNat 12 m }).onCad fun c => { c with
            leaderEnable := decide (l.param 14 1 = 1) }).complete h stOk 0).workEnd))

/-- R211, R213, R221, R231, R233: the page commands, with their parameters in range. `ALLOC` answers the addresses of its
pages, `DEGRADED` where some are in a slower tier, or `NO_SPACE`; `FREE` and `MOVE` act on pages that the function owns and
that no rule bars; `MEM_MODE` leaves or enters the write-back mode or flushes, and leaving it is refused while a shadow or
its home is in a move. The status of pages that are not owned is assumption 125. -/
def Obligations.MemoryCommands : Prop :=
  ∀ (h : BitVec 32) (l : Live) (s : State),
    (s.ready h 0x20 l → 1 ≤ l.param 8 1 → l.param 8 1 ≤ 3 → (byteAt l.params 9).toNat < 8 →
      ((byteAt l.params 9).getLsbD 2 = true → l.param 8 1 = 2) → 1 ≤ l.param 12 4 → l.param 12 4 ≤ 65536 →
      (∀ gs low t, s.allocPages l.func (l.param 8 1) (byteAt l.params 9) (l.param 12 4) = some (gs, low, t) →
        exec (.alloc h) s = .next ((t.hostWrite l.func.toNat (l.param 16 8) (gs.flatMap (bvBytes 8))).complete h
          (if low = 0 then stOk else stDegraded) (BitVec.ofNat 32 low)).workEnd) ∧
      (s.allocPages l.func (l.param 8 1) (byteAt l.params 9) (l.param 12 4) = none →
        exec (.alloc h) s = .next (s.drawn.complete h stNoSpace 0).workEnd)) ∧
    (s.ready h 0x21 l → l.param 8 1 = 1 → s.pageBar l.func [BitVec.ofNat 64 (l.param 16 8)] = none →
      exec (.free h) s = .next ((s.freePage (BitVec.ofNat 64 (l.param 16 8))).complete h stOk 0).workEnd) ∧
    (s.ready h 0x21 l → l.param 8 1 = 0 → ∀ gs, s.hostList l.func.toNat (l.param 16 8) (l.param 12 4) = some gs →
      (∀ st, s.pageBar l.func gs = some st → exec (.free h) s = .next (s.complete h st 0).workEnd) ∧
      (s.pageBar l.func gs = none →
        exec (.free h) s = .next ((gs.foldl (fun s g => s.freePage g) s).complete h stOk 0).workEnd)) ∧
    (s.ready h 0x22 l → 1 ≤ l.param 8 1 → l.param 8 1 ≤ 3 → l.param 9 1 ≤ 1 → l.param 10 2 < 4096 → 1 ≤ l.param 12 4 →
      l.param 12 4 ≤ 65536 →
      (s.hostList l.func.toNat (l.param 16 8) (l.param 12 4) = none →
        exec (.move h) s = .next (s.complete h stBadParam readFailed).workEnd) ∧
      ∀ gs, s.hostList l.func.toNat (l.param 16 8) (l.param 12 4) = some gs →
        (∀ st, s.pageBar l.func gs = some st → exec (.move h) s = .next (s.complete h st 0).workEnd) ∧
        (s.pageBar l.func gs = none → exec (.move h) s = .next ((s.working h).startJob { PageJob.reset with
            purpose := .move, handle := some h, list := BitVec.ofNat 64 (l.param 24 8)
            tier := BitVec.ofNat 4 (l.param 8 1), strict := decide (l.param 9 1 = 1)
            chip := if BitVec.ofNat 12 (l.param 10 2) = s.fab.chip then none
              else some (BitVec.ofNat 12 (l.param 10 2)) } gs).workEnd)) ∧
    (s.ready h 0x24 l → s.srv.slots = [] → s.mem.converting = false →
      (l.param 8 1 = 0 → s.shadowMoves = false → s.mem.writeBack = false → exec (.memMode h) s = .next (s.complete h stOk 0).workEnd) ∧
      (l.param 8 1 = 0 → s.shadowMoves = true → exec (.memMode h) s = .next (s.complete h stBusy 0).workEnd) ∧
      (l.param 8 1 = 0 → s.shadowMoves = false → s.mem.writeBack = true →
        exec (.memMode h) s = .next ((s.working h).leaveWriteBack [h]).workEnd) ∧
      (l.param 8 1 = 1 → exec (.memMode h) s = .next
        ((s.onMem fun m => { m with writeBack := true }).complete h stOk 0).workEnd) ∧
      (l.param 8 1 = 2 → exec (.memMode h) s = .next (
        if s.dirtyShadows = [] then s.complete h stOk 0
        else ((s.working h).writeBackAll).onMem fun m => { m with
          flushHandle := m.flushHandle ++ [h]
          flushSet := m.flushSet ++ s.dirtyShadows.filter fun f => decide (f ∉ m.flushSet) }).workEnd))

/-- R241 to R267: the commands of the weights. A declaration whose manifest passes every check gives its version a slot; a
shard that is delivered enters flight, its page list, where another chip holds that, being fetched first (the model's
reading, assumption 195); `MODEL_ACTIVATE` of a resting version begins its moves to tier 1; `MODEL_RETIRE` with mode 1 retires
a version by its state, and with mode 0 begins to put an active version without references to rest; `SCRUB_SET` sets the
intervals of the versions it names and may start their scrubs; `MODEL_STATUS` writes the record of a version. What a `RETIRE`
does of a version that is placed or waits for room is assumptions 120 and 124. -/
def Obligations.WeightCommands : Prop :=
  ∀ (h : BitVec 32) (l : Live) (s : State),
    (∀ man, let g := BitVec.ofNat 64 (l.param 8 8)
      let held := s.versions (manModel man)
      let b := manBase man
      gaChip g = s.fab.chip → gaSpace g ∈ [2, 3, 5] → byteAt l.params 20 ∈ [0, 2, 3] →
      (byteAt l.params 21).toNat < 4 → s.readRun (some l.func.toNat) g (l.param 16 4) = .ok man →
      digestBits (sha256 man) = BitVec.ofNat 256 (l.param 24 32) → l.param 56 8 % pageBytes = 0 →
      -- a new model, or a new adapter
      (∀ adapter, manifestFault man (l.param 16 4) adapter ((s.model b.model b.version).any fun m => !m.adapter) = none →
        held = [] → s.slotsUsed adapter < slotsOf adapter →
        (adapter = true → geometryOk ((s.model b.model b.version).bind (·.geometry)) man = true) →
        s.ready h (if adapter = true then 0x45 else 0x40) l →
        exec (if adapter = true then .adapterLoad h else .modelDeclare h) s = .next (s.declare h l man adapter false).workEnd) ∧
      -- a newer version of a model or of an adapter
      (∀ adapter, manifestFault man (l.param 16 4) adapter ((s.model b.model b.version).any fun m => !m.adapter) = none →
        (byteAt l.params 21).getLsbD 1 = false → held ≠ [] →
        (∀ m ∈ held, m.replace = false ∧ m.rights l.func = true ∧ m.adapter = adapter ∧ m.version < manVersion man) →
        (adapter = true → geometryOk ((s.model b.model b.version).bind (·.geometry)) man = true) →
        s.ready h (if adapter = true then 0x46 else 0x47) l →
        exec (if adapter = true then .adapterReplace h else .modelReplace h) s = .next (s.declare h l man adapter true).workEnd)) ∧
    (∀ m st e flash bs, l.param 8 4 < 2 ^ 28 → s.model l.model.1 l.model.2 = some m → m.rights l.func = true →
      m.shards[l.param 16 4]? = some st → (manShards m.manifest)[l.param 16 4]? = some e →
      m.state = .loading ∨ m.state = .incomplete → st ≠ .ingested → st ≠ .inFlight →
      (flash = false → gaChip (BitVec.ofNat 64 (l.param 24 8)) = s.fab.chip ∧
        gaSpace (BitVec.ofNat 64 (l.param 24 8)) ∈ [2, 5] ∧ bs = [] ∧
        s.mayRead l.func.toNat (BitVec.ofNat 64 (l.param 24 8)) e.bytes = true) →
      (flash = true → s.pageListOf l e.bytes = some (.ok bs)) →
      s.ready h (if flash = true then 0x42 else 0x41) l →
      exec (if flash = true then .shardFromFlash h else .shardLoad h) s = .next (((((s.onLive h fun l => { l with
        work := bs, shardWas := st }).working h).setShard l.model.1 l.model.2 (l.param 16 4) .inFlight).onWgt fun w => { w with
          waiting := w.waiting ++ [h] }).nextShard).workEnd) ∧
    -- a page list on another chip is first fetched
    (∀ m st e, l.param 8 4 < 2 ^ 28 → s.model l.model.1 l.model.2 = some m → m.rights l.func = true →
      m.shards[l.param 16 4]? = some st → (manShards m.manifest)[l.param 16 4]? = some e →
      m.state = .loading ∨ m.state = .incomplete → st ≠ .ingested → st ≠ .inFlight → s.ready h 0x42 l →
      let g := BitVec.ofNat 64 (l.param 24 8)
      gaChip g ≠ s.fab.chip → gaSpace g ∈ [1, 2, 3, 4] → e.bytes ≤ l.param 32 4 * pageBytes →
      l.work.length < 8 * l.param 32 4 →
      exec (.shardFromFlash h) s = .next ((s.working h).fetchList h).workEnd) ∧
    (∀ m, l.param 8 4 < 2 ^ 28 → s.model l.model.1 l.model.2 = some m → m.rights l.func = true →
      (s.ready h 0x43 l → l.param 16 8 % pageBytes = 0 → m.state = .resting → m.waitRoom = false →
        exec (.modelActivate h) s = .next (((s.onModel l.model.1 l.model.2 fun m => { m with
          activateHandle := some h, streamFrom := BitVec.ofNat 64 (l.param 16 8) }).working h).beginActivate l.model.1
            l.model.2).workEnd) ∧
      (s.ready h 0x44 l → byteAt l.params 13 = 1 → m.id = l.model.1 → m.version = l.model.2 →
        (m.state = .pendingRoom → exec (.modelRetire h) s = .next (((s.onWgt fun w => { w with
          models := w.models.filter fun x => !(decide (x.id = m.id) && decide (x.version = m.version)) }).completeOpt
            m.handle stCancelled 0).complete h stOk 0).workEnd) ∧
        (m.state ≠ .pendingRoom → m.retireHandle ≠ none →
          exec (.modelRetire h) s = .next (s.complete h stBusy 0).workEnd) ∧
        (m.state ≠ .pendingRoom → m.retireHandle = none →
          let u := (s.onModel m.id m.version fun m => { m with
            state := .retiring, retireHandle := some h, deadline := none, waitRoom := false }).working h
          let cancelled (u : State) : State := (u.onModel m.id m.version fun m => { m with
            handle := none, replace := false }).completeOpt m.handle stCancelled 0
          (m.state = .placing → exec (.modelRetire h) s = .next ((u.mem.jobs.filter fun j =>
            decide (j.purpose = .activate m.id.toNat m.version.toNat) ||
              decide (j.purpose = .rest m.id.toNat m.version.toNat)).foldl (fun s j => s.stopJob j.id) u).workEnd) ∧
          (m.state = .loading ∨ m.state = .incomplete → exec (.modelRetire h) s = .next (cancelled
            ((u.cancelShards m.id m.version).onModel m.id m.version fun m => { m with staged := [] })).workEnd) ∧
          (m.state = .active ∨ m.state = .resting ∨ m.state = .retiring →
            exec (.modelRetire h) s = .next (cancelled u).workEnd))) ∧
      (s.ready h 0x44 l → byteAt l.params 13 = 0 → m.state = .active → s.refs l.model.1 l.model.2 = 0 →
        exec (.modelRetire h) s = .next (((s.onModel l.model.1 l.model.2 fun m => { m with
          activateHandle := some h }).working h).beginRest l.model.1 l.model.2).workEnd)) ∧
    (∀ m, s.ready h 0x49 l → l.param 8 4 < 2 ^ 28 → s.model l.model.1 l.model.2 = some m →
      exec (.modelStatus h) s = .next ((s.hostWrite l.func.toNat (l.param 16 8) (s.modelRecord m)).complete h stOk 0).workEnd) ∧
    (s.ready h 0x48 l → l.param 8 4 < 2 ^ 28 → (byteAt l.params 13).toNat ≤ 1 →
      (l.param 16 8 = 0 ∨ 60000000000 ≤ l.param 16 8 ∧ l.param 16 8 ≤ 86400000000000) →
      let interval : BitVec 64 := if l.param 16 8 = 0 then 600000000000 else BitVec.ofNat 64 (l.param 16 8)
      let start (named : List ModelVer) (u : State) : State :=
        if (byteAt l.params 13).getLsbD 0 = true then
          named.foldl (fun s m => s.onModel m.id m.version fun m =>
            if m.scrubs = true then { m with nextScrub := s.uptime } else m) u
        else u
      -- the default interval, and every version
      (l.param 8 4 = 0 → l.model.2 = 0 → exec (.scrubSet h) s = .next
        ((start s.wgt.models (s.onWgt fun w => { w with scrubDef := interval })).complete h stOk 0).workEnd) ∧
      -- one version, or every version of one model
      (let named := s.wgt.models.filter fun m => decide (m.id = l.model.1) &&
          (decide (l.model.2 = 0) || decide (m.version = l.model.2))
       0 < l.param 8 4 → (l.model.2 ≠ 0 → named ≠ []) → (∀ m ∈ named, m.rights l.func = true) →
        exec (.scrubSet h) s = .next ((start named (named.foldl (fun s m => s.onModel m.id m.version fun m => { m with
          interval := some interval }) s)).complete h stOk 0).workEnd))

/-- R147 to R157: the commands of the cylinders. `CYL_LOAD` in range starts the transfer of an image, or is refused where
there is no room or the image's identity is known; its end keeps an
image that passes every check of the loader, with the page frames it has been given, and answers its identifier;
`CYL_VERIFY` refuses a fault with its check and place, and else allocates and stages; `DRAIN` begins to empty the slots or
ends with `RELEASE`; `CYL_SWITCH` of a verified cylinder after a drain waits for its step, or while the cadence is `UNARMED`
acts at once (R477); `CYL_UNLOAD` frees a loaded cylinder. That a drain counts as in progress from its acceptance is
assumption 129, and the choices of the loader's checks assumption 127. -/
def Obligations.CylinderCommands : Prop :=
  ∀ (h : BitVec 32) (l : Live) (s : State),
    (s.ready h 0x60 l → gaChip (BitVec.ofNat 64 (l.param 8 8)) = s.fab.chip →
      gaSpace (BitVec.ofNat 64 (l.param 8 8)) ∈ [2, 3, 5] → 288 ≤ l.param 16 4 → l.param 16 4 ≤ 2 ^ 30 → s.loadBar l = none →
      exec (.cylLoad h) s = .next (s.working h).workEnd) ∧
    (s.ready h 0x60 l → gaChip (BitVec.ofNat 64 (l.param 8 8)) = s.fab.chip →
      gaSpace (BitVec.ofNat 64 (l.param 8 8)) ∈ [2, 3, 5] → 288 ≤ l.param 16 4 → l.param 16 4 ≤ 2 ^ 30 →
      (8 ≤ s.cyl.known.length ∨ s.freePages 1 < ceilDiv (l.param 16 4) pageBytes →
        exec (.cylLoad h) s = .next (s.complete h stNoSpace 0).workEnd) ∧
      (∀ bs, s.cyl.known.length < 8 → ceilDiv (l.param 16 4) pageBytes ≤ s.freePages 1 →
        s.readRun (some l.func.toNat) (BitVec.ofNat 64 (l.param 8 8) + 16) 4 = .ok bs →
        s.cylById (BitVec.ofNat 32 (leNat bs)) ≠ none →
        exec (.cylLoad h) s = .next (s.complete h stNotAllowed 0).workEnd)) ∧
    (s.liveOf h = some l → l.opcode = 0x60 → l.phase = .working → s.loadBar l = none →
      ∀ img, s.readRun (some l.func.toNat) (BitVec.ofNat 64 (l.param 8 8)) (l.param 16 4) = .ok img →
        (∀ code loc, loaderChecks img (BitVec.ofNat 256 (l.param 24 32)) s.mem.t2Dimm2 = some (code, loc) →
          exec (.cylLoadChecked h) s = .next
            (s.refuseCheck h (if code = 1 then stDigest else stCheckFailed) code loc).workEnd) ∧
        (loaderChecks img (BitVec.ofNat 256 (l.param 24 32)) s.mem.t2Dimm2 = none → s.cylById (imgHeader img).id = none →
          ∀ fs t, s.cylFrames (imgHeader img).id 0 (imagePages img) = some (fs, t) →
            exec (.cylLoadChecked h) s = .next ((t.onCyl fun y => { y with known := y.known ++
              [{ KnownCyl.reset with id := (imgHeader img).id, image := img, frames := fs }] }).complete h stOk
                (imgHeader img).id).workEnd)) ∧
    (∀ k, s.ready h 0x61 l → s.cylById (BitVec.ofNat 32 (l.param 8 4)) = some k → k.status = .loaded → s.switchPending = false →
      (s.cyl.staging.any fun g => decide (g.id = BitVec.ofNat 32 (l.param 8 4))) = false →
      (∀ st code loc, s.verifyFault k = some (st, code, loc) →
        exec (.cylVerify h) s = .next (s.refuseCheck h st code loc).workEnd) ∧
      (∀ t, s.verifyFault k = none → s.giveWay.allocateCyl k = some t →
        let g : Staging := { id := BitVec.ofNat 32 (l.param 8 4), handle := some h, restart := [] }
        exec (.cylVerify h) s = .next ((t.onCyl fun y => { y with staging := some g }).working h).workEnd)) ∧
    (s.ready h 0x62 l →
      (l.param 8 1 ≤ 1 → s.cyl.drain = 0 → s.unarmed = false →
        exec (.drain h) s = .next ((s.onCyl fun y => { y with
          drain := 1, drainHandle := some h, suspend := decide (l.param 8 1 = 1) }).working h).workEnd) ∧
      (l.param 8 1 ≤ 1 → s.cyl.drain = 0 → s.unarmed = true →
        exec (.drain h) s = .next ((s.onCyl fun y => { y with
          drain := 2, suspend := decide (l.param 8 1 = 1) }).complete h stOk 0).workEnd) ∧
      (l.param 8 1 = 2 → s.switchPending = false →
        exec (.drain h) s = .next (if s.unarmed = true then s.release h else s.atBoundary h).workEnd)) ∧
    (s.ready h 0x63 l → s.cyl.drain = 2 →
      ((s.cylById (BitVec.ofNat 32 (l.param 8 4))).any fun k => decide (k.status = .verified)) = true →
      (s.cyl.staging.any fun g => decide (g.id = BitVec.ofNat 32 (l.param 8 4))) = false → s.switchPending = false →
      s.unarmed = false → (l.param 16 8 = 0 ∨ s.cad.step.toNat < l.param 16 8) →
      let g : PendSwitch := { id := BitVec.ofNat 32 (l.param 8 4), handle := h, atStep := BitVec.ofNat 64 (l.param 16 8) }
      exec (.cylSwitch h) s = .next ((s.working h).onCyl fun y => { y with pend := some g }).workEnd) ∧
    (s.ready h 0x63 l → s.cyl.drain = 2 → s.unarmed = true → l.param 16 8 = 0 → s.switchPending = false →
      (s.cyl.staging.any fun g => decide (g.id = BitVec.ofNat 32 (l.param 8 4))) = false →
      ∀ k, s.cylById (BitVec.ofNat 32 (l.param 8 4)) = some k → k.status = .verified →
        (s.switchFault k.image = none → exec (.cylSwitch h) s = .next
          ((((s.working h).switchTo k).onCyl fun y => { y with fillHandle := some h, fillActive := true }).workEnd)) ∧
        (∀ st code loc, s.switchFault k.image = some (st, code, loc) → exec (.cylSwitch h) s = .next
          (((((s.working h).unallocate k.id).onCyl fun y => { y with pend := none }).refuseCheck h st code loc).workEnd))) ∧
    (∀ k, s.ready h 0x64 l → s.cylById (BitVec.ofNat 32 (l.param 8 4)) = some k → k.status = .loaded →
      exec (.cylUnload h) s = .next (((k.frames.foldl (fun s f => s.freeSlotAt 1 f) s).onCyl fun y => { y with
        known := y.known.filter fun x => decide (x.id ≠ k.id) }).complete h stOk 0).workEnd)

/-! ### The serving commands -/

/-- R238, R263, R269, R270, R303, R304: the commands that open, bind and close a context. `CTX_OPEN` in range of a free
number, or with 0xFFFF of the lowest free number, with an adapter or without, gives the context a new incarnation, idle and
empty, and answers its identifier, and is refused where no number is free; `FALLBACK_BIND` binds or unbinds; `DEADLINE_SET`
sets the deadline; `CTX_CLOSE` frees an idle context of the serving chip at once, as any context while the cadence is
`UNARMED`, and else waits for the boundary; `CANCEL` of an idle context answers `FINISHED`, of a waiting one while `UNARMED`
ends its generation at once, and while armed waits for the boundary. Bindings are those resolved when the command was
accepted (assumption 120). When `CTX_CLOSE` acts on a chip that does not serve is assumption 37, the order in which
identifier, ranges and context are examined assumption 34, where a history page is placed assumption 152, and that a close
waits for held records assumption 199. -/
def Obligations.ContextCommands : Prop :=
  ∀ (h : BitVec 32) (l : Live) (s : State),
    (s.ready h 0x70 l → openFault l = none → l.param 8 2 = 0xFFFF → (∀ i < 1024, (s.ctx i).state ≠ .free) →
      exec (.ctxOpen h) s = .next (s.complete h stNoSpace 0).workEnd) ∧
    (∀ n b ad, s.ready h 0x70 l → openFault l = none →
      (l.param 8 2 < 1024 ∧ n = l.param 8 2 ∨ l.param 8 2 = 0xFFFF ∧ n < 1024 ∧ ∀ i < n, (s.ctx i).state ≠ .free) →
      (s.ctx n).state = .free →
      ((s.func l.func.toNat).limCtx = 0 ∨ (s.ctxsOf l.func).length < (s.func l.func.toNat).limCtx) →
      s.bindBase l (l.param 12 4) (l.param 11 1) = .ok b →
      (l.param 10 1 = 0 ∧ ad = none ∨
        l.param 10 1 = 1 ∧ ∃ x, s.bindAdapter l b (l.param 16 4) (l.param 20 1) = .ok x ∧ ad = some x) →
      exec (.ctxOpen h) s = .next (State.workEnd (
        let inc := (s.ctx n).incarnation
        let u := s.onCtx n fun _ => { Context.reset with
          incarnation := (if inc = 0xFF then 1 else inc + 1), state := .idle, func := l.func, base := b, adapter := ad
          ring := BitVec.ofNat 64 (l.param 24 8), ringOrder := l.param 21 1
          vector := if l.param 24 8 = 0 then 0xFFFF else BitVec.ofNat 16 (l.param 22 2)
          kvPages := l.param 40 4, pagePositions := l.param 44 2
          deadline := BitVec.ofNat 64 (l.param 32 8) }
        (u.holdHist n).complete h stOk (u.ctxIdent n)))) ∧
    (s.ready h 0x77 l → s.ctxBar l = none → s.regionOf (l.param 8 4 % 1024) ≠ 1 →
      (l.param 12 4 = 0 → exec (.fallbackBind h) s = .next
        ((s.onCtx (l.param 8 4 % 1024) fun c => { c with fallback := none }).complete h stOk 0).workEnd) ∧
      (∀ b, l.param 12 4 ≠ 0 → 1 ≤ l.param 18 2 → l.param 18 2 ≤ 1024 → l.param 20 2 ≠ 0 →
        s.bindBase l (l.param 12 4) (l.param 16 1) = .ok b →
        exec (.fallbackBind h) s = .next ((s.onCtx (l.param 8 4 % 1024) fun c => { c with
          fallback := some b, fbChunk := l.param 18 2, fbPositions := l.param 20 2 }).complete h stOk 0).workEnd)) ∧
    (s.ready h 0x7B l → s.ctxBar l = none → exec (.deadlineSet h) s = .next
      ((s.onCtx (l.param 8 4 % 1024) fun c => { c with
        deadline := BitVec.ofNat 64 (l.param 16 8) }).complete h stOk 0).workEnd) ∧
    (s.ready h 0x73 l → s.ctxBar l = none →
      ((s.ctx (l.param 8 4 % 1024)).state = .idle → exec (.cancel h) s = .next (s.complete h stFinished 0).workEnd) ∧
      ((s.ctx (l.param 8 4 % 1024)).state = .waiting → s.unarmed = true →
        exec (.cancel h) s = .next ((s.cancelNow (l.param 8 4 % 1024)).complete h stOk 0).workEnd) ∧
      ((s.ctx (l.param 8 4 % 1024)).state ≠ .idle → s.unarmed = false → exec (.cancel h) s = .next
        ((s.atBoundary h).onCtx (l.param 8 4 % 1024) fun c => { c with cancels := c.cancels ++ [h] }).workEnd)) ∧
    (s.ready h 0x74 l → s.ctxBar l = none → (s.ctx (l.param 8 4 % 1024)).closeHandle = none → s.unarmed = true →
      let u := if (s.ctx (l.param 8 4 % 1024)).gen.isSome = true then s.cancelNow (l.param 8 4 % 1024) else s
      exec (.ctxClose h) s = .next (if (u.ctx (l.param 8 4 % 1024)).heldRecs = []
        then (u.freeCtx (l.param 8 4 % 1024)).complete h stOk 0
        else (u.atBoundary h).onCtx (l.param 8 4 % 1024) fun c => { c with closeHandle := some h }).workEnd) ∧
    (s.ready h 0x74 l → s.ctxBar l = none → (s.ctx (l.param 8 4 % 1024)).closeHandle = none → s.unarmed = false →
      ((s.ctx (l.param 8 4 % 1024)).gen = none → (s.ctx (l.param 8 4 % 1024)).state ≠ .running →
        (s.ctx (l.param 8 4 % 1024)).heldRecs = [] → s.isServing = true →
        exec (.ctxClose h) s = .next ((s.freeCtx (l.param 8 4 % 1024)).complete h stOk 0).workEnd) ∧
      ((s.ctx (l.param 8 4 % 1024)).gen.isSome = true ∨ (s.ctx (l.param 8 4 % 1024)).state = .running ∨
        (s.ctx (l.param 8 4 % 1024)).heldRecs ≠ [] ∨ s.isServing = false → exec (.ctxClose h) s = .next
        ((s.atBoundary h).onCtx (l.param 8 4 % 1024) fun c => { c with closeHandle := some h }).workEnd))

/-- R277, R278, R286, R303, R304: the commands of a generation. A `PROMPT_SUBMIT` in range of an idle context makes it wait,
and its tokens an addition that a boundary takes; an `APPEND` to an open input adds another; a `BATCH_STEP` of host-formed
batches, for a step still ahead that no other names, holds its entries for that step. That an input counts as closed from
the acceptance of the command that closes it is assumption 38, and what no region serves assumption 43. -/
def Obligations.GenerationCommands : Prop :=
  ∀ (h : BitVec 32) (l : Live) (s : State) (ts : List (BitVec 32)),
    let n := l.param 8 4 % 1024
    let c := s.ctx n
    (s.ready h 0x71 l → s.ctxBar l = none → 1 ≤ l.param 12 2 → l.param 12 2 ≤ 1024 → l.param 14 1 ≤ 1 →
      l.param 16 4 ≤ 65535 → l.param 20 4 ≤ 65535 → c.foreseen + l.param 16 4 ≤ 65535 →
      (l.param 16 4 ≠ 0 ∨ c.foreseen ≠ 0) →
      ceilDiv (min 65535 (c.foreseen + l.param 16 4 + l.param 20 4)) c.pagePositions ≤ c.kvPages →
      (l.param 20 4 = 0 ∨ c.ring ≠ 0) → s.served c = true → s.tokenList l.func.toNat (l.param 24 8) (l.param 16 4) = some ts →
      exec (.promptSubmit h) s = .next (State.workEnd (
        let a : Addition := { handle := h, append := false, closes := decide (l.param 14 1 = 0), tokens := ts
                              acked := true, announced := false, refused := false }
        let u := s.onCtx n fun c => { c with
          state := .waiting, waitSince := s.srv.waitClock
          deadline := if l.param 32 8 = 0 then c.deadline else BitVec.ofNat 64 (l.param 32 8)
          gen := some { Gen.reset with handle := h, maxTokens := l.param 20 4, chunk := l.param 12 2, open_ := true } }
        let u := u.onSrv fun v => { v with waitClock := v.waitClock + 1 }
        (u.atBoundary h).addInput n a))) ∧
    (s.ready h 0x72 l → s.ctxBar l = none → l.param 14 1 ≤ 1 → l.param 16 4 ≤ 65535 →
      c.gen.any (·.open_) = true → c.additions.any (·.closes) = false → c.foreseen + l.param 16 4 ≤ 65535 →
      ceilDiv (min 65535 (c.foreseen + l.param 16 4 + c.remaining)) c.pagePositions ≤ c.kvPages →
      s.tokenList l.func.toNat (l.param 24 8) (l.param 16 4) = some ts →
      exec (.append h) s = .next (State.workEnd (
        let a : Addition := { handle := h, append := true, closes := decide (l.param 14 1 = 1), tokens := ts
                              acked := true, announced := false, refused := false }
        (s.atBoundary h).addInput n a))) ∧
    (∀ bs, s.ready h 0x7A l → 1 ≤ l.param 16 2 → l.param 16 2 ≤ 256 → s.hostFormed = true →
      s.stepAhead (l.param 8 8) = true →
      (s.srv.batches.any fun b => !b.applied && decide (b.atStep.toNat = l.param 8 8)) = false →
      s.hostRead l.func.toNat (l.param 24 8) (8 * l.param 16 2) = some bs →
      let es := (List.range (l.param 16 2)).map fun i => (bs.drop (8 * i)).take 8
      (es.mapIdx fun i e => (batchFault (imgHeader s.active).slots e).map fun o => 8 * i + o).findSome? id = none →
      let b : BatchReq := { handle := h, atStep := BitVec.ofNat 64 (l.param 8 8), applied := false, skippedN := 0
                            entries := es.map fun e => (fieldAt e 0 2, fieldAt e 2 1, BitVec.ofNat 32 (fieldAt e 4 4)) }
      exec (.batchStep h) s = .next ((s.atBoundary h).onSrv fun v => { v with batches := v.batches ++ [b] }).workEnd)

/-- R296 to R302: a parked context and the images of one. `CTX_PARK` in range begins to move the pages to tier 2;
`CTX_RESUME` answers `TTL_EXPIRED` of an expired context, which becomes idle and empty, and else begins to bring the pages
back; an export or an import begins, and where it is of an image its end writes or reads the image: the context is idle
again, with `OK` or the status of the first check that failed (what an unreadable image gives is assumption 35, and an empty
history as of assumption 36). A timer resumes with at least one tick (assumption 44), and the page of a history is placed as
of assumption 152. -/
def Obligations.ParkCommands : Prop :=
  ∀ (h : BitVec 32) (l : Live) (s : State),
    let n := l.param 8 4 % 1024
    (s.ready h 0x75 l → s.ctxBar l = none → l.param 16 8 ≠ 0 → l.param 16 8 < 2 ^ 56 →
      exec (.ctxPark h) s = .next (State.workEnd (
        let u := s.onCtx n fun c => { c with
          state := .moving, moveHandle := some h, ttl2At := some (l.param 16 8), ttl3At := none
          ttl3 := BitVec.ofNat 64 (l.param 24 8) }
        (u.working h).startJob { PageJob.reset with purpose := .park n, tier := 2 } (u.ctx n).pageList))) ∧
    (s.ready h 0x76 l → s.ctxBar l = none →
      ((s.ctx n).state = .expired → exec (.ctxResume h) s = .next (((s.onCtx n fun c => { c with
        state := .idle, hist := 0, len := 0, lenFb := 0, fbVersion := none }).holdHist n).complete h stTtlExpired 0).workEnd) ∧
      ((s.ctx n).state ≠ .expired → (s.ctx n).toTier3 = false → exec (.ctxResume h) s = .next (State.workEnd (
        let left (t : Option Nat) : Nat := (t.map fun x => max 1 (x - s.now)).getD 0
        ((s.onCtx n fun c => { c with
          state := .moving, moveHandle := some h, ttlLeft := some (left (s.ctx n).ttl2At, left (s.ctx n).ttl3At)
          ttl2At := none, ttl3At := none }).working h).beginResume n)))) ∧
    (s.ready h 0x78 l → s.ctxBar l = none → s.kvFault l 0 [2, 5] = none → l.param 12 1 = 1 →
      exec (.kvExport h) s = .next ((s.working h).onCtx n fun c => { c with
        state := .moving, moveHandle := some h
        imageAddr := some (BitVec.ofNat 64 (l.param 24 8), BitVec.ofNat 32 (l.param 20 4)) }).workEnd) ∧
    (s.ready h 0x78 l → s.ctxBar l = none → s.kvFault l 0 [2, 5] = none → l.param 12 1 ≠ 1 →
      exec (.kvExport h) s = .next ((((s.working h).onCtx n fun c => { c with
        state := .moving, moveHandle := some h, imageAddr := none }).startJob { PageJob.reset with
          purpose := .export_ n, tier := 1, chip := some (BitVec.ofNat 12 (l.param 14 2)) }
            ((s.ctx n).kvList ++ (s.ctx n).histCarried.toList)).workEnd)) ∧
    (s.ready h 0x79 l → s.ctxBar l = none → s.kvFault l 1 [2, 3, 5] = none → l.param 12 1 = 1 →
      (s.ctx n).foreseen = 0 →
      exec (.kvImport h) s = .next (((s.working h).dropHist n).onCtx n fun c => { c with
        state := .moving, moveHandle := some h, imageAddr := none
        importFrom := some (BitVec.ofNat 12 (l.param 14 2), BitVec.ofNat 32 (l.param 16 4),
          BitVec.ofNat 32 (l.param 20 4)) }).workEnd) ∧
    (s.ready h 0x79 l → s.ctxBar l = none → s.kvFault l 1 [2, 3, 5] = none → l.param 12 1 = 0 →
      (s.ctx n).foreseen = 0 →
      exec (.kvImport h) s = .next (((s.working h).dropHist n).onCtx n fun c => { c with
        state := .moving, moveHandle := some h, importFrom := none
        imageAddr := some (BitVec.ofNat 64 (l.param 24 8), BitVec.ofNat 32 (l.param 20 4)) }).workEnd) ∧
    (∀ (tick k : Nat) (g : BitVec 64) (layout : BitVec 32), s.liveOf h = some l →
      ((s.at_ tick).openCtxs.find? fun n => decide (((s.at_ tick).ctx n).moveHandle = some h) &&
        ((s.at_ tick).ctx n).imageAddr.isSome) = some k →
      ((s.at_ tick).ctx k).imageAddr = some (g, layout) →
      let idle (s : State) : State := (s.onCtx k fun c => { c with state := .idle, moveHandle := none, imageAddr := none }).holdHist k
      (∀ ps t, l.opcode = 0x78 → (s.at_ tick).kvCarried k = some ps →
        (s.at_ tick).putImage l.func.toNat g (kvRuns ((s.at_ tick).ctx k) layout ps) = some t →
        exec (.kvImageTransferDone h tick) s = .next ((t.exported k).complete h stOk 0).workEnd) ∧
      (∀ t, l.opcode = 0x79 → (s.at_ tick).importImage l.func.toNat k ((s.at_ tick).ctx k).kvPages g layout = .ok t →
        exec (.kvImageTransferDone h tick) s = .next ((idle t).complete h stOk 0).workEnd) ∧
      ∀ e, l.opcode = 0x79 →
        (s.at_ tick).importImage l.func.toNat k ((s.at_ tick).ctx k).kvPages g layout = .error e →
        exec (.kvImageTransferDone h tick) s = .next ((idle ((s.at_ tick).noteFail e).drawn).complete h e.1 e.2.1).workEnd)

/-! ### The commands of the fabric, the fences, the calibration, the health and the functions -/

/-- R337, R339: `LINK_STATUS` writes the records of the ports and clears their reported counts, or takes the ports of a mask
down to train again; `PLANE_MASK` in range is in force at once while `UNARMED`, and else waits for the boundary. That the
records are those of all 16 ports is assumption 61. -/
def Obligations.LinkCommands : Prop :=
  ∀ (h : BitVec 32) (l : Live) (s : State),
    (s.liveOf h = some l → l.phase = .accepted → l.opcode = 0x90 → l.param 8 1 = 0 →
      exec (.linkStatus h) s = .next (((s.hostWrite l.func.toNat (l.param 16 8) (s.fab.ports.flatMap Port.record)).onFab fun f =>
        { f with ports := f.ports.map fun x => { x with corrRep := 0, uncorrRep := 0 } }).complete h stOk 0).workEnd) ∧
    (s.ready h 0x90 l → l.param 8 1 = 1 → exec (.linkStatus h) s = .next (State.workEnd (
      let mask := BitVec.ofNat 16 (l.param 12 2)
      let u := (List.range 16).foldl (fun s p =>
        if mask.getLsbD p = true then (s.portLost p).onPort p fun x => { x.train with attempts := 0 } else s) s
      ((u.working h).onFab fun f => { f with retrain := f.retrain ++ [(h, mask)] }).retrainDone))) ∧
    (s.ready h 0x92 l → BitVec.ofNat 16 (l.param 8 2) ≠ 0 →
      (s.cylOf .active = none ∨ 15 ≤ popCount (BitVec.ofNat 16 (l.param 8 2))) →
      exec (.planeMask h) s = .next (if s.unarmed = true then
        (s.onFab fun f => { f with mask := Voted.all (BitVec.ofNat 16 (l.param 8 2)) }).complete h stOk 0
        else s.atBoundary h).workEnd)

/-- R358, R454, R455, R359: a fence or an unfence in range waits for the boundary that takes it, and so does a `CALIBRATE`
in range of the point in force; one out of range, or that may not run, has none of its effect and answers why. `CAL_STATUS`
and `HEALTH_READ` write their records, and `HEALTH_READ` with clear sets the counts to 0. When a calibration counts as
running is assumption 77. -/
def Obligations.FenceAndHealthCommands : Prop :=
  ∀ (h : BitVec 32) (l : Live) (s : State),
    (l.param 8 1 ≤ 23 → l.param 9 1 ≤ 1 → l.param 10 1 ≤ 32 → l.param 11 1 ≤ 1 →
      (s.ready h 0xA0 l → exec (.fenceCell h) s = .next (s.atBoundary h).workEnd) ∧
      (s.ready h 0xA1 l → exec (.unfenceCell h) s = .next (s.atBoundary h).workEnd)) ∧
    (¬ (l.param 8 1 ≤ 23 ∧ l.param 9 1 ≤ 1 ∧ l.param 10 1 ≤ 32 ∧ l.param 11 1 ≤ 1) →
      let o : BitVec 32 := if 23 < l.param 8 1 then 8 else if 1 < l.param 9 1 then 9 else if 32 < l.param 10 1 then 10 else 11
      (s.ready h 0xA0 l → exec (.fenceCell h) s = .next (s.complete h stBadParam o).workEnd) ∧
      (s.ready h 0xA1 l → exec (.unfenceCell h) s = .next (s.complete h stBadParam o).workEnd)) ∧
    (s.ready h 0xA2 l → ¬ (l.param 8 1 ≤ 7 ∧ 1 ≤ l.param 9 1 ∧ l.param 9 1 ≤ 3 ∧ l.param 10 1 ≤ 1 ∧
        (l.param 12 4 = 0 ∨ 16 ≤ l.param 12 4 ∧ l.param 12 4 ≤ 1048576)) →
      exec (.calibrate h) s = .next (s.complete h stBadParam (if 7 < l.param 8 1 then 8
        else if l.param 9 1 < 1 ∨ 3 < l.param 9 1 then 9 else if 1 < l.param 10 1 then 10 else 12)).workEnd) ∧
    (s.ready h 0xA2 l → l.param 8 1 ≤ 7 → 1 ≤ l.param 9 1 → l.param 9 1 ≤ 3 → l.param 10 1 ≤ 1 →
      (l.param 12 4 = 0 ∨ 16 ≤ l.param 12 4 ∧ l.param 12 4 ≤ 1048576) → s.pwr.cal = none →
      (s.cmd.live.any fun x => decide (x.2.opcode = 0xA2) && decide (x.2.phase ≠ .accepted)) = false →
      (s.unarmed = true → exec (.calibrate h) s = .next (s.complete h stNotAllowed 0).workEnd) ∧
      (s.unarmed = false → l.param 8 1 = s.pwr.inForce.toNat → s.pwr.transition = none → s.target = s.pwr.inForce →
        s.pwr.skipping = false → (s.sys.lock.value.getLsbD 1 = false ∨ l.param 10 1 = 1) →
        exec (.calibrate h) s = .next (s.atBoundary h).workEnd)) ∧
    (s.liveOf h = some l → l.phase = .accepted → l.opcode = 0xA3 →
      exec (.calStatus h) s = .next ((s.hostWrite l.func.toNat (l.param 16 8) s.calRecord).complete h stOk 0).workEnd) ∧
    (s.liveOf h = some l → l.phase = .accepted → l.opcode = 0xA4 →
      (l.param 8 1 = 0 → exec (.healthRead h) s = .next
        ((s.hostWrite l.func.toNat (l.param 16 8) s.healthRecord).complete h stOk 0).workEnd) ∧
      (l.param 8 1 = 1 → exec (.healthRead h) s = .next
        (((s.hostWrite l.func.toNat (l.param 16 8) s.healthRecord).onHlt Health.clear).complete h stOk 0).workEnd))

/-- R390, R394: the commands of the functions. `FUNC_ENABLE` of an `OFF` function sets its limits and starts it, of one that
starts sets its limits and waits with the command that began it, of one that is `ON` sets its limits, and of one that stops
is held, or is answered `BUSY` where another is, or where a function level reset is; `FUNC_DISABLE` of one that is `ON`
begins to stop it, of one that starts or stops is held, or is answered `BUSY` where another is, and of one that is `OFF`
answers `OK`; a `WEDGED` function refuses both; `FUNC_STATUS` answers the state, whether a command is held and the number of
live commands. The model's reading: limits apply to a function that is `ON` or starts (assumption 89), and a function level
reset of one that starts waits, so that these clauses answer `BUSY` for it and `FUNC_STATUS` counts it as held (assumption
88). -/
def Obligations.FunctionCommands : Prop :=
  ∀ (h : BitVec 32) (l : Live) (s : State),
    let f := l.param 8 1
    (s.ready h 0xC0 l → 1 ≤ f → f ≤ 15 →
      ((s.func f).state = .off → exec (.funcEnable h) s = .next
        (((s.working h).setLimits f l).startFunc f [h]).workEnd) ∧
      ((s.func f).state = .starting → exec (.funcEnable h) s = .next
        (((s.working h).setLimits f l).onFunc f fun x => { x with starters := x.starters ++ [h] }).workEnd) ∧
      ((s.func f).state = .on → exec (.funcEnable h) s = .next ((s.setLimits f l).complete h stOk 0).workEnd) ∧
      ((s.func f).state = .stopping → (s.func f).held = none → (s.func f).heldEnable = false →
        (s.func f).again = false → exec (.funcEnable h) s = .next ((s.working h).onFunc f fun x => { x with
          held := some h, heldEnable := true }).workEnd) ∧
      ((s.func f).state = .stopping → ((s.func f).held.isSome = true ∨ (s.func f).heldEnable = true ∨
          (s.func f).again = true) →
        exec (.funcEnable h) s = .next (s.complete h stBusy 0).workEnd) ∧
      ((s.func f).state = .wedged → exec (.funcEnable h) s = .next (s.complete h stNotAllowed 0).workEnd)) ∧
    (s.ready h 0xC1 l → 1 ≤ f → f ≤ 15 →
      ((s.func f).state = .off → exec (.funcDisable h) s = .next (s.complete h stOk 0).workEnd) ∧
      ((s.func f).state = .on → exec (.funcDisable h) s = .next ((s.working h).stopFunc f (some h)).workEnd) ∧
      ((s.func f).state = .starting ∨ (s.func f).state = .stopping → (s.func f).held = none →
        (s.func f).heldEnable = false → (s.func f).again = false →
        exec (.funcDisable h) s = .next ((s.working h).onFunc f fun x => { x with held := some h, heldEnable := false }).workEnd) ∧
      ((s.func f).state = .starting ∨ (s.func f).state = .stopping →
        ((s.func f).held.isSome = true ∨ (s.func f).heldEnable = true ∨
          (s.func f).again = true) →
        exec (.funcDisable h) s = .next (s.complete h stBusy 0).workEnd) ∧
      ((s.func f).state = .wedged → exec (.funcDisable h) s = .next (s.complete h stNotAllowed 0).workEnd)) ∧
    (¬ (1 ≤ f ∧ f ≤ 15) →
      (s.ready h 0xC0 l → exec (.funcEnable h) s = .next (s.complete h stBadParam 8).workEnd) ∧
      (s.ready h 0xC1 l → exec (.funcDisable h) s = .next (s.complete h stBadParam 8).workEnd)) ∧
    (s.liveOf h = some l → l.phase = .accepted → l.opcode = 0xC2 → f ≤ 15 → (l.func = 0 ∨ l.func.toNat = f) →
      exec (.funcStatus h) s = .next (s.complete h stOk (BitVec.ofNat 32 ((s.func f).state.code +
        (if (s.func f).held.isSome || (s.func f).heldEnable || (s.func f).again then 16 else 0) +
        65536 * min 65535 (s.cmd.live.filter fun p => decide (p.2.func.toNat = f)).length))).workEnd)
end

