-- ==== Sys2Proof/Laws/Cell.lean ====
section
/-!
SUPPORT. What an issue of a sub-slot can do, said once: each lemma gives the next state of a shared operation of the
vector, matrix, data-mover and control sub-slots where the cells play.
-/
namespace Sys2Proof.Machine

/-- A sub-slot that issues where the cells play answers the state after its issue. -/
theorem issue_plays (p : At) (body : State → State) (s : State) (h : s.plays p = true) :
    issue p body s = .next (s.issued p body) := by simp [issue, h]

/-- A sub-slot that issues where the cells do not play changes nothing. -/
theorem issue_idle (p : At) (body : State → State) (s : State) (h : s.plays p = false) :
    issue p body s = .next s := by simp [issue, h]

/-- A vector issue that changes its cell. -/
theorem vecOp_plays (p : At) (lat : Nat) (f : Cell → Cell) (s : State) (h : s.plays p = true) :
    vecOp p lat f s = .next (s.afterVector p lat f) := issue_plays p _ s h

/-- A floating-point operation on FP32 lanes. -/
theorem fpOp_fp32 (p : At) (o : VOp) (lat : Nat) (useD : Bool) (f : Fmt → Nat → Nat → Nat → Nat × AFlags)
    (s : State) (h : s.plays p = true) (ht : o.ty = .fp32) :
    fpOp p o lat useD f s = .next (s.afterVector p lat (Cell.fp32Lanes p o lat useD (f .fp32))) := by
  unfold fpOp
  rw [ht, if_neg (by decide), vecOp_plays _ _ _ _ h]
  rfl

/-- A floating-point operation on BF16 halves. -/
theorem fpOp_bf16 (p : At) (o : VOp) (lat : Nat) (useD : Bool) (f : Fmt → Nat → Nat → Nat → Nat × AFlags)
    (s : State) (h : s.plays p = true) (ht : o.ty = .bf16) :
    fpOp p o lat useD f s = .next (s.afterVector p lat (Cell.bf16Lanes p o lat useD (f .bf16))) := by
  unfold fpOp
  rw [ht, if_neg (by decide), vecOp_plays _ _ _ _ h]
  rfl

/-- A function of one FP32 operand. -/
theorem fnOp_fp32 (p : At) (o : VOp) (g : Fl → Fl) (z : Bool) (s : State) (h : s.plays p = true) (ht : o.ty = .fp32) :
    fnOp p o g z s = .next (s.afterVector p 6 (Cell.fnLanes p o (fnFp32 g z))) := by
  unfold fnOp
  rw [ht, if_neg (by decide), vecOp_plays _ _ _ _ h]
  rfl

/-- A reduction over FP32 lanes. -/
theorem reduceOp_fp32 (p : At) (o : VOp) (leaf : Nat → Nat) (ident : Nat) (g : Fl → Fl → Fl) (s : State)
    (h : s.plays p = true) (ht : o.ty = .fp32) :
    reduceOp p o leaf ident g s = .next (s.afterVector p 8 (Cell.reduced p o leaf ident g)) := by
  unfold reduceOp
  rw [ht, if_neg (by decide), vecOp_plays _ _ _ _ h]
  rfl

/-- An exact operation on the lanes, of a permitted type. -/
theorem laneOp_ok (p : At) (o : VOp) (lat : Nat) (g : Cell → Nat → BitVec 32) (s : State) (h : s.plays p = true) :
    laneOp p o lat true g s = .next (s.afterVector p lat fun c => c.exactLanes p o lat (g c)) := by
  unfold laneOp
  rw [if_neg (by decide), vecOp_plays _ _ _ _ h]
  rfl

/-- An INT32 operation on the lanes. -/
theorem intOp_int32 (p : At) (o : VOp) (f : BitVec 32 → BitVec 32 → BitVec 32) (s : State) (h : s.plays p = true)
    (ht : o.ty = .int32) :
    intOp p o f s = .next (s.afterVector p 2 fun c =>
      c.exactLanes p o 2 fun i => f (lane (c.vreg o.va) i) (c.bLane o.b i)) := by
  unfold intOp
  rw [ht]
  exact laneOp_ok p o 2 _ s h

/-- A conversion without a tracker. -/
theorem convert_plain (p : At) (o : COp) (f : Fmt) (n : Nat) (k : Bool) (s : State) (h : s.plays p = true)
    (hk : (k && o.tracked) = false) :
    convert p o f n k s = .next (s.afterVector p 3 fun c => c.convResult p.beat 3 o.vd f.width
      ((List.range (64 * n)).map fun k => f.round (Fmt.fp32.decode (c.srcElem o.va k).toNat)) (c.srcPoison o.va n)) := by
  unfold convert
  rw [vecOp_plays _ _ _ _ h]
  congr 2
  funext c
  simp only [hk, Bool.false_eq_true, if_false, List.map_map]
  congr 1
  apply List.map_congr_left
  intro x _
  simp [Function.comp]

/-- A conversion that divides by its tracker's scale. -/
theorem convert_tracked (p : At) (o : COp) (f : Fmt) (n : Nat) (s : State) (h : s.plays p = true)
    (hk : o.tracked = true) :
    convert p o f n true s = .next (s.afterVector p 3 fun c =>
      let xs := (List.range (64 * n)).map (c.srcElem o.va)
      let tr := c.tracker o.tracker.toNat
      let rs := xs.map fun x =>
        let y := scaleDown tr.e (Fmt.fp32.decode x.toNat)
        ((f.round y.1).1, y.2 ||| (f.round y.1).2)
      let a := largestFinite xs
      let tr' : Tracker := { tr with amax := if tr.amax < a then a else tr.amax }
      let c := c.convResult p.beat 3 o.vd f.width rs (c.srcPoison o.va n)
      { c with trackers := Sparse.set Tracker.reset c.trackers o.tracker.toNat tr' }) := by
  unfold convert
  rw [vecOp_plays _ _ _ _ h]
  congr 2
  funext c
  simp only [hk, Bool.and_self, if_true]

/-- A scalar operation. -/
theorem scalarOp_plays (p : At) (o : SOp) (f : Cell → BitVec 32) (s : State) (h : s.plays p = true) :
    scalarOp p o f s = .next (s.afterVector p 1 fun c => c.land (p.beat + 1) (.scalar o.sd (f c))) :=
  vecOp_plays p 1 _ s h

end Sys2Proof.Machine
end

