-- ==== Sys2Proof/Laws/Memory.lean ====
section
/-!
SUPPORT. Every operation on sparse maps and byte memories keeps their canonical form, and the machine after reset
has it.
-/
namespace Sys2Proof.Machine

variable {α : Type} [DecidableEq α]

/-- The canonical form as an order and an absence. -/
theorem wf_iff (d : α) (m : SMap α) :
    Sparse.wf d m = true ↔ m.Pairwise (fun p q => p.1 < q.1) ∧ ∀ p ∈ m, p.2 ≠ d := by
  induction m with
  | nil => simp [Sparse.wf]
  | cons x r ih =>
    cases r with
    | nil => obtain ⟨k, v⟩ := x; simp [Sparse.wf]
    | cons y r =>
      obtain ⟨k, v⟩ := x
      obtain ⟨k', v'⟩ := y
      simp only [Sparse.wf, Bool.and_eq_true, decide_eq_true_eq, ih, List.pairwise_cons, List.forall_mem_cons]
      constructor
      · rintro ⟨⟨hv, hk⟩, ⟨hp, hr⟩, hv', hd⟩
        exact ⟨⟨⟨hk, fun a ha => Nat.lt_trans hk (hp a ha)⟩, hp, hr⟩, hv, hv', hd⟩
      · rintro ⟨⟨⟨hk, _⟩, hp, hr⟩, hv, hv', hd⟩
        exact ⟨⟨hv, hk⟩, ⟨hp, hr⟩, hv', hd⟩

/-- The pairs of a run: keys from its start on, below its end, rising, none the default. -/
theorem run_spec (d : α) (a : Nat) (vs : List α) :
    (Sparse.run d a vs).Pairwise (fun p q => p.1 < q.1) ∧
      ∀ p ∈ Sparse.run d a vs, a ≤ p.1 ∧ p.1 < a + vs.length ∧ p.2 ≠ d := by
  induction vs generalizing a with
  | nil => simp [Sparse.run]
  | cons v r ih =>
    obtain ⟨h1, h2⟩ := ih (a + 1)
    have h3 : ∀ p ∈ Sparse.run d (a + 1) r, a ≤ p.1 ∧ p.1 < a + (v :: r).length ∧ p.2 ≠ d := fun p hp => by
      obtain ⟨x, y, z⟩ := h2 p hp
      refine ⟨by omega, ?_, z⟩
      rw [List.length_cons]
      omega
    unfold Sparse.run
    split
    · exact ⟨h1, h3⟩
    · refine ⟨List.pairwise_cons.mpr ⟨fun p hp => (h2 p hp).1, h1⟩, ?_⟩
      intro p hp
      rcases List.mem_cons.mp hp with rfl | hp
      · exact ⟨Nat.le_refl _, by rw [List.length_cons]; omega, by assumption⟩
      · exact h3 p hp

/-- Writing a run keeps the canonical form. -/
theorem wf_setRun (d : α) (m : SMap α) (a : Nat) (vs : List α) (h : Sparse.wf d m = true) :
    Sparse.wf d (Sparse.setRun d m a vs) = true := by
  rw [wf_iff] at h ⊢
  obtain ⟨hp, hd⟩ := h
  obtain ⟨rp, rs⟩ := run_spec d a vs
  unfold Sparse.setRun
  rw [List.pairwise_append, List.pairwise_append]
  refine ⟨⟨⟨hp.filter _, rp, ?_⟩, hp.filter _, ?_⟩, ?_⟩
  · intro p h1 q h2
    have := (List.mem_filter.mp h1).2
    have := (rs q h2).1
    simp only [decide_eq_true_eq] at *
    omega
  · intro p h1 q h2
    have h3 := (List.mem_filter.mp h2).2
    simp only [decide_eq_true_eq] at h3
    rcases List.mem_append.mp h1 with h1 | h1
    · have := (List.mem_filter.mp h1).2
      simp only [decide_eq_true_eq] at this
      omega
    · have := (rs p h1).2.1
      omega
  · intro p h1
    rcases List.mem_append.mp h1 with h1 | h1
    · rcases List.mem_append.mp h1 with h1 | h1
      · exact hd p (List.mem_filter.mp h1).1
      · exact (rs p h1).2.2
    · exact hd p (List.mem_filter.mp h1).1

/-- Setting one key is writing a run of one value. -/
theorem set_eq_setRun (d : α) (m : SMap α) (k : Nat) (v : α) : Sparse.set d m k v = Sparse.setRun d m k [v] := by
  unfold Sparse.set Sparse.setRun Sparse.run
  simp only [Sparse.run, List.length_singleton, Nat.add_one_le_iff]

/-- Setting a key keeps the canonical form. -/
theorem wf_set (d : α) (m : SMap α) (k : Nat) (v : α) (h : Sparse.wf d m = true) :
    Sparse.wf d (Sparse.set d m k v) = true := by
  rw [set_eq_setRun]
  exact wf_setRun d m k [v] h

/-- Changing a key keeps the canonical form. -/
theorem wf_modify (d : α) (m : SMap α) (k : Nat) (g : α → α) (h : Sparse.wf d m = true) :
    Sparse.wf d (Sparse.modify d m k g) = true := wf_set d m k _ h

/-- Changing every value keeps the canonical form. -/
theorem wf_mapVals (d : α) (g : α → α) (m : SMap α) (h : Sparse.wf d m = true) :
    Sparse.wf d (Sparse.mapVals d g m) = true := by
  rw [wf_iff] at h ⊢
  unfold Sparse.mapVals
  refine ⟨List.Pairwise.filter _ (List.Pairwise.map _ (fun a b h => h) h.1), ?_⟩
  intro p hp
  simpa using (List.mem_filter.mp hp).2

/-- A part of a map keeps the canonical form. -/
theorem wf_filter (d : α) (m : SMap α) (f : Nat × α → Bool) (h : Sparse.wf d m = true) :
    Sparse.wf d (m.filter f) = true := by
  rw [wf_iff] at h ⊢
  exact ⟨h.1.filter _, fun p hp => h.2 p (List.mem_filter.mp hp).1⟩

/-- Bytes written to a memory keep its canonical form. -/
theorem Mem.wf_writes (m : Mem) (a : Nat) (bs : List (BitVec 8)) (h : Mem.wf m = true) :
    Mem.wf (Mem.writes m a bs) = true := wf_setRun 0 m a bs h

/-- A write of host memory keeps its canonical form. -/
theorem hostWrite_wf (s : State) (f a : Nat) (bs : List (BitVec 8)) (h : Mem.wf s.host.mem = true) :
    Mem.wf (s.hostWrite f a bs).host.mem = true := by
  unfold State.hostWrite
  split
  · exact Mem.wf_writes _ _ _ h
  · exact h

/-- A directory entry that takes a value, freed or not, writes no byte of a tier. -/
@[simp] theorem Memory.putEntry_bytes (tier slot : Nat) (e : DirEntry) (m : Memory) :
    (m.putEntry tier slot e).t1 = m.t1 ∧ (m.putEntry tier slot e).t2 = m.t2 ∧ (m.putEntry tier slot e).t3 = m.t3 := by
  unfold Memory.putEntry Memory.pageGone
  by_cases h : e.state = .free <;> simp only [h, if_true, if_false] <;> split <;> simp only [and_self]

/-- An entry of tier 1 that takes a value leaves the directories of the other tiers. -/
@[simp] theorem Memory.putEntry_one_dirs (slot : Nat) (e : DirEntry) (m : Memory) :
    (m.putEntry 1 slot e).dir2 = m.dir2 ∧ (m.putEntry 1 slot e).dir3 = m.dir3 := by
  unfold Memory.putEntry Memory.pageGone
  by_cases h : e.state = .free <;> simp only [h, if_true, if_false] <;> simp only [and_self]

/-- A write of tier 1 keeps its canonical form. -/
theorem t1Write_wf (s : State) (a : Nat) (bs : List (BitVec 8)) (h : Mem.wf s.mem.t1 = true) :
    Mem.wf (s.t1Write a bs).mem.t1 = true := by
  unfold State.t1Write
  dsimp only
  refine Mem.wf_writes _ _ _ ?_
  have e : ∀ (c : Bool) (g : DirEntry → DirEntry),
      (if c = true then s.onDir 1 (a / pageBytes) g else s).mem.t1 = s.mem.t1 := by
    intro c g
    cases c
    · rfl
    · exact (Memory.putEntry_bytes 1 _ _ (Memory.record _ _)).1
  rw [e]
  split
  · exact wf_filter _ _ _ h
  · exact h

/-- A write of a cell's SRAM keeps its canonical form. -/
theorem sramWrite_wf (c : Cell) (a : Nat) (bs : List (BitVec 8)) (p : Bool) (h : Mem.wf c.sram = true) :
    Mem.wf (c.sramWrite a bs p).sram = true := by
  unfold Cell.sramWrite
  split
  · exact Mem.wf_writes _ _ _ h
  · exact h

omit [DecidableEq α] in
/-- A key that the first part does not list is looked up in the second. -/
theorem get_append (d : α) (m n : SMap α) (j : Nat) (h : ∀ p ∈ m, p.1 ≠ j) :
    Sparse.get d (m ++ n) j = Sparse.get d n j := by
  induction m with
  | nil => rfl
  | cons x r ih =>
    obtain ⟨k, v⟩ := x
    have hk : k ≠ j := h (k, v) (List.mem_cons_self ..)
    simp only [List.cons_append, Sparse.get, hk, if_false]
    exact ih fun p hp => h p (List.mem_cons_of_mem _ hp)

omit [DecidableEq α] in
/-- A key that the second part does not list is looked up in the first. -/
theorem get_append_left (d : α) (m n : SMap α) (j : Nat) (h : ∀ p ∈ n, p.1 ≠ j) :
    Sparse.get d (m ++ n) j = Sparse.get d m j := by
  induction m with
  | nil => simpa [Sparse.get] using get_append d n [] j h
  | cons x r ih =>
    obtain ⟨k, v⟩ := x
    simp only [List.cons_append, Sparse.get, ih]

omit [DecidableEq α] in
/-- A selection by key leaves what it selects as it was and lists nothing else. -/
theorem get_filter (d : α) (m : SMap α) (f : Nat → Bool) (j : Nat) :
    Sparse.get d (m.filter fun p => f p.1) j = if f j then Sparse.get d m j else d := by
  induction m with
  | nil => simp [Sparse.get]
  | cons x r ih =>
    obtain ⟨k, v⟩ := x
    by_cases hk : k = j
    · subst hk
      by_cases hf : f k = true <;> simp [Sparse.get, hf, ih]
    · by_cases hf : f k = true <;> simp [Sparse.get, hf, hk, ih]

/-- What a map gives after a key was set. -/
theorem get_set (d : α) (m : SMap α) (k j : Nat) (v : α) :
    Sparse.get d (Sparse.set d m k v) j = if j = k then v else Sparse.get d m j := by
  unfold Sparse.set
  by_cases hlt : j < k
  · rw [List.append_assoc, get_append_left, get_filter d m (fun n => decide (n < k))]
    · simp [hlt, Nat.ne_of_lt hlt]
    · intro p hp
      rcases List.mem_append.mp hp with hp | hp
      · split at hp
        · simp at hp
        · simp only [List.mem_singleton] at hp
          subst hp
          exact fun e => by simp at e; omega
      · have := (List.mem_filter.mp hp).2
        simp only [decide_eq_true_eq] at this
        omega
  · rw [List.append_assoc, get_append]
    · by_cases hjk : j = k
      · subst hjk
        rw [get_append_left]
        · by_cases hv : v = d <;> simp [hv, Sparse.get]
        · intro p hp
          have := (List.mem_filter.mp hp).2
          simp only [decide_eq_true_eq] at this
          omega
      · rw [get_append, get_filter d m (fun n => decide (k < n))]
        · have : k < j := by omega
          simp [this, hjk]
        · intro p hp
          split at hp
          · simp at hp
          · simp only [List.mem_singleton] at hp
            subst hp
            exact fun e => hjk e.symm
    · intro p hp
      have := (List.mem_filter.mp hp).2
      simp only [decide_eq_true_eq] at this
      omega

end Sys2Proof.Machine
end

