-- ==== Sys2Proof/Laws/Issue.lean ====
section
/-!
SUPPORT. What an issue of a sub-slot can do to the state, said once: what it keeps, and which pending accesses it leaves in
its cell. Each lemma speaks of one shared operation; a proof about a sub-slot cites them.
-/
namespace Sys2Proof.Machine

/-- What no issue of a sub-slot changes, the rest of the state blanked out. -/
def State.kept (s : State) : State := { State.reset with
  cad := { s.cad with tb := 0 }, cyl := s.cyl, wgt := s.wgt, srv := s.srv, cmd := s.cmd, hlt := s.hlt, fab := s.fab
  pwr := s.pwr, store := s.store, sys := s.sys, dma := s.dma, mgt := { s.mgt with coreState := [] }, cfg := s.cfg
  pins := s.pins, pending := s.pending, host := { HostSide.reset with mem := s.host.mem }
  mem := { Memory.reset with t2 := s.mem.t2, t3 := s.mem.t3, dir2 := s.mem.dir2, dir3 := s.mem.dir3 }
  grid := { Grid.reset with fence := s.grid.fence, repairs := s.grid.repairs } }

/-- The step from `s` to `t` keeps what no issue changes, and every cell but the one that hosts `k`. -/
structure State.Keeps (k : Nat) (s t : State) : Prop where
  kept : t.kept = s.kept
  phys : ∀ j, j ≠ s.hostOf k → t.phys j = s.phys j

/-- What keeps the fence map and the repairs keeps the hosts. -/
theorem kept_hostOf {s t : State} (h : t.kept = s.kept) (k : Nat) : t.hostOf k = s.hostOf k := by
  have f : t.grid.fence = s.grid.fence := by have := congrArg (fun x : State => x.grid.fence) h; exact this
  have r : t.grid.repairs = s.grid.repairs := by have := congrArg (fun x : State => x.grid.repairs) h; exact this
  simp only [State.hostOf, State.heldMap, f, r]

/-- Nothing done keeps everything. -/
theorem State.Keeps.refl (k : Nat) (s : State) : s.Keeps k s := ⟨rfl, fun _ _ => rfl⟩

/-- One step after another. -/
theorem State.Keeps.trans {k : Nat} {s t u : State} (h : s.Keeps k t) (g : t.Keeps k u) : s.Keeps k u :=
  ⟨g.kept.trans h.kept, fun j hj => (g.phys j (by rw [kept_hostOf h.kept]; exact hj)).trans (h.phys j hj)⟩

/-- A change that no cell sees. -/
theorem keeps_of {k : Nat} {s t : State} (h : t.kept = s.kept) (c : t.grid.cells = s.grid.cells) : s.Keeps k t :=
  ⟨h, fun j _ => by rw [State.phys, State.phys, c]⟩

/-- The cells after a change of one. -/
theorem phys_onPhys (s : State) (k j : Nat) (g : Cell → Cell) :
    (s.onPhys k g).phys j = if j = k then g (s.phys k) else s.phys j := by
  show Sparse.get Cell.reset (Sparse.modify Cell.reset s.grid.cells k g) j = _
  rw [Sparse.modify, get_set]; rfl

/-- A change of the cell. -/
theorem keeps_onCell (k : Nat) (g : Cell → Cell) (s : State) : s.Keeps k (s.onCell k g) :=
  ⟨rfl, fun j hj => by rw [State.onCell, phys_onPhys, if_neg hj]⟩

/-- Operations one after another. -/
theorem keeps_foldl {α : Type} {k : Nat} (f : State → α → State) (h : ∀ (s : State) a, s.Keeps k (f s a))
    (as : List α) (s : State) : s.Keeps k (as.foldl f s) := by
  induction as generalizing s with
  | nil => exact .refl k s
  | cons a r ih => exact (h s a).trans (ih _)

/-- A barrier fault. -/
theorem keeps_barrierFault (k : Nat) (own : Bool) (s : State) : s.Keeps k (s.barrierFault k own) := by
  refine (keeps_onCell k (fun c => { c with fltBarrier := satInc c.fltBarrier }) s).trans ?_
  unfold State.barrierFault
  cases own <;> exact keeps_of rfl rfl

/-- A checksum failure. -/
theorem keeps_checksumFault (k : Nat) (s : State) : s.Keeps k (s.checksumFault k) :=
  (keeps_onCell k _ s).trans (keeps_of rfl rfl)

/-- A failure at landing. -/
theorem keeps_landingFault (k : Nat) (s : State) : s.Keeps k (s.landingFault k) :=
  (keeps_onCell k _ s).trans (keeps_of rfl rfl)

/-- A change of a home directory entry of tier 1. -/
theorem keeps_onDir (k slot : Nat) (g : DirEntry → DirEntry) (s : State) : s.Keeps k (s.onDir 1 slot g) := by
  let m := s.mem.record { tier := 1, slot := slot, entry := g (s.dirEntry 1 slot), commit := none }
  have b := Memory.putEntry_bytes 1 slot (g (s.dirEntry 1 slot)) m
  have d := Memory.putEntry_one_dirs slot (g (s.dirEntry 1 slot)) m
  refine keeps_of ?_ rfl
  show State.kept (s.onMem fun _ => m.putEntry 1 slot (g (s.dirEntry 1 slot))) = s.kept
  simp only [State.kept, State.onMem, b.2.1, b.2.2, d.1, d.2]
  rfl

/-- A write of tier 1. -/
theorem keeps_t1Write (k a : Nat) (bs : List (BitVec 8)) (s : State) : s.Keeps k (s.t1Write a bs) := by
  unfold State.t1Write
  extract_lets f e u
  have h : s.Keeps k u := by
    show s.Keeps k (if _ then _ else _)
    split
    · exact keeps_onDir ..
    · exact .refl k s
  exact h.trans (keeps_of rfl rfl)

/-- A store of a cell in tier 1. -/
theorem keeps_t1Store (k a : Nat) (d : BitVec 1024) (p : Bool) (s : State) : s.Keeps k (s.t1Store a d p) := by
  refine (keeps_t1Write k a (bvBytes 128 d) s).trans ?_
  unfold State.t1Store
  split
  · exact keeps_of rfl rfl
  · exact .refl _ _

/-- A write of the carried mirrors. -/
theorem keeps_putMirror (k o : Nat) (bs : List (BitVec 8)) (s : State) : s.Keeps k (s.putMirror o bs) := by
  refine keeps_foldl _ (fun (s : State) x => ?_) _ _
  split
  · exact .refl _ _
  · exact keeps_t1Write ..

/-- A write through to a mirror. -/
theorem keeps_carriedWrite (k a : Nat) (old new : List (BitVec 8)) (p : Bool) (s : State) :
    s.Keeps k (s.carriedWrite k a old new p) :=
  keeps_foldl _ (fun (s : State) _ => (keeps_of rfl rfl : s.Keeps k (s.onStep _)).trans (keeps_putMirror ..)) _ _

/-- A request of a piece. -/
theorem keeps_requestPiece (k : Nat) (e b : BitVec 32) (d c : Nat) (l : Bool) (sg : Option (BitVec 4)) (bad : Bool) (s : State) :
    s.Keeps k (s.requestPiece k e b d c l sg bad) := by
  unfold State.requestPiece
  split
  · exact keeps_of rfl rfl
  · split
    · exact (keeps_of rfl rfl : s.Keeps k (s.onGrid _)).trans (keeps_barrierFault ..)
    · dsimp only
      split
      · exact keeps_of rfl rfl
      · exact keeps_of rfl rfl
      · exact (keeps_of rfl rfl : s.Keeps k (s.onGrid _)).trans (keeps_barrierFault ..)

/-- What a settled cell does beyond itself. -/
theorem keeps_emit (k : Nat) (o : CellOut) (s : State) : s.Keeps k (s.emit k o) := by
  cases o with
  | flit f => exact keeps_of rfl rfl
  | t1 a d p => exact keeps_t1Store ..
  | request => exact keeps_requestPiece ..
  | fault => exact keeps_barrierFault k false s
  | checksum => exact keeps_checksumFault ..
  | landingFault => exact keeps_landingFault ..
  | wrote => exact keeps_carriedWrite ..

/-- A cell brought to a cycle. -/
theorem keeps_settleCell (k t : Nat) (s : State) : s.Keeps k (s.settleCell k t) :=
  (keeps_onCell k _ s).trans (keeps_foldl _ (fun s o => keeps_emit k o s) _ _)

/-- The state that an issue sees. -/
theorem keeps_atBeat (p : At) (s : State) : s.Keeps p.cell (s.atBeat p) :=
  ((keeps_of rfl rfl : s.Keeps p.cell (s.at_ _)).trans (keeps_settleCell ..)).trans (keeps_onCell ..)

/-! ### The interrupt controller -/

/-- What bringing the interrupt controller up to date changes. -/
structure State.Quiet (s t : State) : Prop where
  kept : t.kept = s.kept
  grid : t.grid = s.grid
  mem : t.mem = s.mem

/-- Nothing done is quiet. -/
theorem State.Quiet.refl (s : State) : s.Quiet s := ⟨rfl, rfl, rfl⟩

/-- One change after another. -/
theorem State.Quiet.trans {s t u : State} (h : s.Quiet t) (g : t.Quiet u) : s.Quiet u :=
  ⟨g.kept.trans h.kept, g.grid.trans h.grid, g.mem.trans h.mem⟩

/-- Changes one after another. -/
theorem quiet_foldl {α : Type} (f : State → α → State) (h : ∀ (s : State) a, s.Quiet (f s a)) (as : List α) (s : State) :
    s.Quiet (as.foldl f s) := by
  induction as generalizing s with
  | nil => exact .refl s
  | cons a r ih => exact (h s a).trans (ih _)

/-- A notification line. -/
theorem quiet_line (t : Nat) (s : State) : s.Quiet (s.line t) := by
  unfold State.line
  dsimp only
  repeat' split
  all_goals exact ⟨rfl, rfl, rfl⟩

/-- A message on a vector. -/
theorem quiet_sendVector (g : Nat) (s : State) : s.Quiet (s.sendVector g) := by
  unfold State.sendVector
  dsimp only
  repeat' split
  all_goals exact ⟨rfl, rfl, rfl⟩

/-- An event on a vector. -/
theorem quiet_vectorEvent (g : Nat) (s : State) : s.Quiet (s.vectorEvent g) := by
  unfold State.vectorEvent
  extract_lets v idle
  split
  · exact quiet_sendVector ..
  · exact ⟨rfl, rfl, rfl⟩

/-- The gateway. -/
theorem quiet_gateway (s : State) : s.Quiet s.gateway := by
  refine quiet_foldl _ (fun (s : State) n => ?_) _ _
  dsimp only
  split
  · exact (⟨rfl, rfl, rfl⟩ : s.Quiet (s.onIc _)).trans (quiet_vectorEvent ..)
  · exact ⟨rfl, rfl, rfl⟩

/-- A change of the sources. -/
theorem quiet_icChange (f : Ic → Ic) (s : State) : s.Quiet (s.icChange f) := by
  unfold State.icChange
  have l (s : State) : s.Quiet s.lines := quiet_foldl _ (fun s t => quiet_line t s) _ _
  have a (g : Ic → Ic) : s.Quiet (((s.onIc g).lines).gateway).lines :=
    State.Quiet.trans (t := s.onIc g) ⟨rfl, rfl, rfl⟩ ((l _).trans ((quiet_gateway _).trans (l _)))
  exact a _

/-- An event of the interrupt controller. -/
theorem quiet_raiseIc (b : Nat) (s : State) : s.Quiet (s.raiseIc b) := ⟨rfl, rfl, rfl⟩

/-- An assertion. -/
theorem quiet_asserted (n : Nat) (s : State) : s.Quiet (s.asserted n) := by
  unfold State.asserted
  extract_lets c w
  split
  · exact (quiet_icChange ..).trans (quiet_raiseIc ..)
  · exact ⟨rfl, rfl, rfl⟩

/-- A wired signal. -/
theorem quiet_signal (n : Nat) (l : Bool) (s : State) : s.Quiet (s.signal n l) := by
  unfold State.signal
  dsimp only
  split
  · exact .refl _
  · split
    · exact (quiet_icChange ..).trans (quiet_asserted ..)
    · exact quiet_icChange ..

/-- The wired signals follow the events registers. -/
theorem quiet_settle (s : State) : s.Quiet s.settle :=
  (quiet_foldl _ (fun s n => quiet_signal n _ s) _ _).trans (quiet_foldl _ (fun s n => quiet_signal n _ s) _ _)

/-! ### What an issue leaves in its cell -/

/-- A pending access that can write bytes of SRAM or tier 1. -/
def Landing.writes : Landing → Bool
  | .sram .. | .copy .. | .toT1 .. | .indexBlock .. | .piece .. => true
  | _ => false

/-- The bytes of a cell are as before, and so are its pending accesses but for some. -/
structure Cell.Leaves (P : Nat × Landing → Prop) (c d : Cell) : Prop where
  sram : d.sram = c.sram
  poisoned : d.poisoned = c.poisoned
  landings : ∀ l ∈ d.landings, l ∈ c.landings ∨ P l

/-- Nothing done leaves nothing. -/
theorem Cell.Leaves.refl (P : Nat × Landing → Prop) (c : Cell) : c.Leaves P c := ⟨rfl, rfl, fun _ h => .inl h⟩

/-- One change after another. -/
theorem Cell.Leaves.trans {P : Nat × Landing → Prop} {c d e : Cell} (h : c.Leaves P d) (g : d.Leaves P e) : c.Leaves P e :=
  ⟨g.sram.trans h.sram, g.poisoned.trans h.poisoned, fun l hl => (g.landings l hl).elim (h.landings l) .inr⟩

/-- A change that leaves nothing. -/
theorem cell_same {P : Nat × Landing → Prop} {c d : Cell} (a : d.sram = c.sram) (b : d.poisoned = c.poisoned)
    (e : d.landings = c.landings) : c.Leaves P d := ⟨a, b, fun _ h => .inl (e ▸ h)⟩

/-- A pending access more. -/
theorem cell_land {P : Nat × Landing → Prop} (c : Cell) (v : Nat) (l : Landing) (h : P (v, l)) : c.Leaves P (c.land v l) :=
  ⟨rfl, rfl, fun x hx => (List.mem_append.1 hx).elim .inl fun hx => .inr (by rw [List.mem_singleton.1 hx]; exact h)⟩

/-- Some pending accesses more. -/
theorem cell_lands {P : Nat × Landing → Prop} (c : Cell) (ls : List (Nat × Landing)) (h : ∀ l ∈ ls, P l) :
    c.Leaves P { c with landings := c.landings ++ ls } :=
  ⟨rfl, rfl, fun x hx => (List.mem_append.1 hx).elim .inl fun hx => .inr (h x hx)⟩

/-- A signal. -/
theorem cell_signalAt {P : Nat × Landing → Prop} (hP : ∀ v l, Landing.writes l = false → P (v, l)) (c : Cell) (v : Nat)
    (k : Option (BitVec 4)) : c.Leaves P (c.signalAt v k) := by
  cases k with
  | none => exact .refl P c
  | some k => exact cell_land _ _ _ (hP _ _ rfl)

/-- An access of the banks only drops writes. -/
theorem cell_useBanks {P : Nat × Landing → Prop} (v : Nat) (bs : List Nat) (r : Nat) (c : Cell) :
    c.Leaves P (c.useBanks v bs r).2.2 := by
  unfold Cell.useBanks
  dsimp only
  split
  · exact .refl P c
  · exact ⟨rfl, rfl, fun l h => .inl (List.mem_filter.1 h).1⟩

/-- What an issue of a sub-slot of cell `k` may change of the state that it sees: what `Keeps` says; no byte of the cell's
SRAM or of a tier; and it leaves pending accesses and pieces, of some kind only. -/
structure State.Leaves (k : Nat) (P : Nat × Landing → Prop) (Q : T1Piece → Prop) (s t : State) : Prop where
  keeps : s.Keeps k t
  mem : t.mem = s.mem
  cell : (s.cell k).Leaves P (t.cell k)
  pieces : ∀ x ∈ t.grid.pieces, x ∈ s.grid.pieces ∨ Q x

variable {k : Nat} {P : Nat × Landing → Prop} {Q : T1Piece → Prop}

/-- Nothing done leaves nothing. -/
theorem State.Leaves.refl (s : State) : s.Leaves k P Q s := ⟨.refl k s, rfl, .refl P _, fun _ h => .inl h⟩

/-- One operation after another. -/
theorem State.Leaves.trans {s t u : State} (h : s.Leaves k P Q t) (g : t.Leaves k P Q u) : s.Leaves k P Q u :=
  ⟨h.keeps.trans g.keeps, g.mem.trans h.mem, h.cell.trans g.cell, fun x hx => (g.pieces x hx).elim (h.pieces x) .inr⟩

/-- The cell after its change. -/
theorem cell_onCell (k : Nat) (g : Cell → Cell) (s : State) : (s.onCell k g).cell k = g (s.cell k) := by
  show (s.onPhys (s.hostOf k) g).phys (s.hostOf k) = _
  rw [phys_onPhys, if_pos rfl]; rfl

/-- A change of the cell. -/
theorem leaves_onCell (g : Cell → Cell) (s : State) (h : (s.cell k).Leaves P (g (s.cell k))) : s.Leaves k P Q (s.onCell k g) :=
  ⟨keeps_onCell k g s, rfl, by rw [cell_onCell]; exact h, fun _ h => .inl h⟩

/-- A change of what is neither the cells nor memory. -/
theorem leaves_of {s t : State} (a : t.kept = s.kept) (b : t.grid = s.grid) (c : t.mem = s.mem) : s.Leaves k P Q t :=
  ⟨keeps_of a (by rw [b]), c, by rw [State.cell, State.cell, kept_hostOf a, State.phys, State.phys, b]; exact .refl P _,
    fun x h => .inl (b ▸ h)⟩

/-- Operations one after another. -/
theorem leaves_foldl {α : Type} (f : State → α → State) (as : List α)
    (h : ∀ (s : State), ∀ a ∈ as, s.Leaves k P Q (f s a)) (s : State) : s.Leaves k P Q (as.foldl f s) := by
  induction as generalizing s with
  | nil => exact .refl s
  | cons a r ih => exact (h s a (.head _)).trans (ih (fun s b hb => h s b (.tail _ hb)) _)

/-- A barrier fault. -/
theorem leaves_barrierFault (own : Bool) (s : State) : s.Leaves k P Q (s.barrierFault k own) := by
  refine (leaves_onCell (fun c => { c with fltBarrier := satInc c.fltBarrier }) s (cell_same rfl rfl rfl)).trans ?_
  unfold State.barrierFault
  cases own <;> exact leaves_of rfl rfl rfl

/-- A checksum failure. -/
theorem leaves_checksumFault (s : State) : s.Leaves k P Q (s.checksumFault k) :=
  (leaves_onCell (fun c => { c with fltChecksum := satInc c.fltChecksum }) s (cell_same rfl rfl rfl)).trans
    (leaves_of rfl rfl rfl)

/-- Barrier faults. -/
theorem leaves_faults (n : Nat) (s : State) : s.Leaves k P Q ((List.range n).foldl (fun s _ => s.barrierFault k false) s) :=
  leaves_foldl _ _ (fun s _ _ => leaves_barrierFault false s) s

/-- The count of a corrected read. -/
theorem leaves_countRead (e : Ecc) (s : State) : s.Leaves k P Q (s.countRead k e) := by
  unfold State.countRead
  split
  · exact leaves_onCell _ s (cell_same rfl rfl rfl)
  · exact .refl s

/-- A guard. -/
theorem leaves_guarded (g : Guard) (s : State) : s.Leaves k P Q (s.guarded k g).2 := by
  unfold State.guarded
  extract_lets c b skip claim u own w
  have h : s.Leaves k P Q u := leaves_onCell _ s (cell_same rfl rfl rfl)
  split
  · exact h
  · split
    · have g : u.Leaves k P Q w := by
        simp only [w]
        split
        · exact .refl _
        · exact leaves_onCell _ _ (cell_same rfl rfl rfl)
      exact h.trans (g.trans (leaves_barrierFault _ _))
    · exact h

/-- The registers that address what an issue leaves are not changed by its guard. -/
theorem guarded_cell (g : Guard) (s : State) :
    let c := s.cell k
    let d := (s.guarded k g).2.cell k
    d.da = c.da ∧ d.ma = c.ma ∧ d.sc = c.sc ∧ d.accSize = c.accSize ∧ d.stream = c.stream := by
  have f (own : Bool) (s : State) : let c := s.cell k
      let d := (s.barrierFault k own).cell k
      d.da = c.da ∧ d.ma = c.ma ∧ d.sc = c.sc ∧ d.accSize = c.accSize ∧ d.stream = c.stream := by
    have e : (s.barrierFault k own).cell k = (s.onCell k fun c => { c with fltBarrier := satInc c.fltBarrier }).cell k := by
      unfold State.barrierFault
      cases own <;> rfl
    simp only [e, cell_onCell, and_self]
  intro c d
  simp only [d]
  unfold State.guarded
  extract_lets b skip claim u own w
  have h : (u.cell k).da = c.da ∧ (u.cell k).ma = c.ma ∧ (u.cell k).sc = c.sc ∧ (u.cell k).accSize = c.accSize ∧
      (u.cell k).stream = c.stream := by simp only [u, cell_onCell, c, and_self]
  split
  · exact h
  · split
    · have g : (w.cell k).da = (u.cell k).da ∧ (w.cell k).ma = (u.cell k).ma ∧ (w.cell k).sc = (u.cell k).sc ∧
          (w.cell k).accSize = (u.cell k).accSize ∧ (w.cell k).stream = (u.cell k).stream := by
        simp only [w]
        split
        · simp
        · simp only [cell_onCell, and_self]
      have := f own w
      simp only [g, h] at this
      exact this
    · exact h

/-- A store of SRAM. -/
theorem leaves_sramStore (v a : Nat) (bs : List (BitVec 8)) (p : Bool) (r : Nat) (s : State) (h : P (v + 1, .sram a bs p r)) :
    s.Leaves k P Q (s.sramStore k v a bs p r) := by
  unfold State.sramStore
  have b := leaves_onCell (P := P) (Q := Q) (k := k) (fun _ => ((s.cell k).useBanks v (banksOf a bs.length) r).2.2) s
    (cell_useBanks ..)
  refine b.trans ((leaves_faults ((s.cell k).useBanks v (banksOf a bs.length) r).2.1 _).trans ?_)
  dsimp only
  split
  · exact leaves_onCell _ _ (cell_land _ _ _ h)
  · exact leaves_barrierFault ..

/-- An issue leaves what its body leaves. -/
theorem issue_leaves (p : At) (body : State → State) (s t : State) (hp : s.plays p = true)
    (h : (s.atBeat p).Leaves p.cell P Q (body (s.atBeat p))) (e : issue p body s = .next t) :
    (s.atBeat p).Leaves p.cell P Q t := by
  rw [issue_plays _ _ _ hp] at e
  injection e with e
  subst e
  have q := quiet_settle (if p.fetch = .uncorrectable then s.atBeat p else body (s.atBeat p))
  refine State.Leaves.trans ?_ (leaves_of q.kept q.grid q.mem)
  split
  · exact .refl _
  · exact h

/-- A vector issue leaves what its body, or that of its suppression, leaves. -/
theorem vecBody_leaves (hP : ∀ v l, Landing.writes l = false → P (v, l)) (p : At) (lat : Nat) (body skipped : State → State)
    (u : State) (h : ∀ g : Guard, (u.guarded p.cell g).2.Leaves p.cell P Q (body (u.guarded p.cell g).2))
    (h' : ∀ s : State, s.Leaves p.cell P Q (skipped s)) : u.Leaves p.cell P Q (State.vecBody p lat body skipped u) := by
  unfold State.vecBody
  extract_lets g
  have a := leaves_guarded (k := p.cell) (P := P) (Q := Q) g u
  cases hv : (u.guarded p.cell g).1 with
  | run => simp only [hv]; exact a.trans ((h g).trans (leaves_onCell _ _ (cell_signalAt hP _ _ _)))
  | skipped => simp only [hv]; exact a.trans ((h' _).trans (leaves_onCell _ _ (cell_signalAt hP _ _ _)))
  | failed => simp only [hv]; exact a

/-- A vector issue that changes its cell leaves what the change leaves. -/
theorem vecOp_leaves (hP : ∀ v l, Landing.writes l = false → P (v, l)) (p : At) (lat : Nat) (f : Cell → Cell)
    (h : ∀ c : Cell, c.Leaves P (f c)) (s t : State) (hp : s.plays p = true) (e : vecOp p lat f s = .next t) :
    (s.atBeat p).Leaves p.cell P Q t :=
  issue_leaves p _ s t hp (vecBody_leaves hP p lat _ _ _ (fun _ => leaves_onCell _ _ (h _)) fun s => .refl s) e

/-- A sub-slot that does nothing. -/
theorem idle_leaves (p : At) (s t : State) (hp : s.plays p = true) (e : issue p (fun s => s) s = .next t) :
    (s.atBeat p).Leaves p.cell P Q t := issue_leaves p _ s t hp (.refl _) e

/-- Arithmetic flags. -/
theorem cell_addFlags (f : AFlags) (c : Cell) : c.Leaves P (c.addFlags f) := cell_same rfl rfl rfl

/-- A vector result. -/
theorem cell_vecResult (hP : ∀ v l, Landing.writes l = false → P (v, l)) (t lat : Nat) (vd : BitVec 5) (mask : BitVec 64)
    (lanes : List (BitVec 32)) (fs : List AFlags) (poison : Bool) (c : Cell) :
    c.Leaves P (c.vecResult t lat vd mask lanes fs poison) := by
  unfold Cell.vecResult
  extract_lets g f c₁ c₂
  have a : c.Leaves P c₁ := cell_land _ _ _ (hP _ _ rfl)
  have b : c₁.Leaves P c₂ := by
    simp only [c₂]
    split
    · exact .refl P _
    · exact cell_land _ _ _ (hP _ _ rfl)
  exact (a.trans b).trans (cell_addFlags _ _)

/-- A converted result. -/
theorem cell_convResult (hP : ∀ v l, Landing.writes l = false → P (v, l)) (t lat : Nat) (vd : BitVec 5) (w : Nat)
    (rs : List (Nat × AFlags)) (poison : Bool) (c : Cell) : c.Leaves P (c.convResult t lat vd w rs poison) := by
  unfold Cell.convResult
  extract_lets g f c₁ c₂
  have a : c.Leaves P c₁ := cell_land _ _ _ (hP _ _ rfl)
  have b : c₁.Leaves P c₂ := by
    simp only [c₂]
    split
    · exact .refl P _
    · exact cell_land _ _ _ (hP _ _ rfl)
  exact (a.trans b).trans (cell_addFlags _ _)

/-- A post-increment. -/
theorem cell_postInc (hP : ∀ v l, Landing.writes l = false → P (v, l)) (t : Nat) (o : LOp) (c : Cell) :
    c.Leaves P (c.postInc t o) := by
  unfold Cell.postInc
  split
  · exact .refl P c
  · exact cell_land _ _ _ (hP _ _ rfl)
  · exact cell_land _ _ _ (hP _ _ rfl)

/-- A floating-point operation. -/
theorem fpOp_leaves (hP : ∀ v l, Landing.writes l = false → P (v, l)) (p : At) (o : VOp) (lat : Nat) (useD : Bool)
    (f : Fmt → Nat → Nat → Nat → Nat × AFlags) (s t : State) (hp : s.plays p = true) (e : fpOp p o lat useD f s = .next t) :
    (s.atBeat p).Leaves p.cell P Q t := by
  unfold fpOp at e
  split at e
  · exact idle_leaves p s t hp e
  · exact vecOp_leaves hP p lat _ (fun _ => cell_vecResult hP ..) s t hp e

/-- A function of one operand. -/
theorem fnOp_leaves (hP : ∀ v l, Landing.writes l = false → P (v, l)) (p : At) (o : VOp) (g : Fl → Fl) (z : Bool) (s t : State)
    (hp : s.plays p = true) (e : fnOp p o g z s = .next t) : (s.atBeat p).Leaves p.cell P Q t := by
  unfold fnOp at e
  split at e
  · exact idle_leaves p s t hp e
  · exact vecOp_leaves hP p 6 _ (fun _ => cell_vecResult hP ..) s t hp e

/-- A reduction. -/
theorem reduceOp_leaves (hP : ∀ v l, Landing.writes l = false → P (v, l)) (p : At) (o : VOp) (leaf : Nat → Nat) (ident : Nat)
    (g : Fl → Fl → Fl) (s t : State) (hp : s.plays p = true) (e : reduceOp p o leaf ident g s = .next t) :
    (s.atBeat p).Leaves p.cell P Q t := by
  unfold reduceOp at e
  split at e
  · exact idle_leaves p s t hp e
  · refine vecOp_leaves hP p 8 _ (fun c => ?_) s t hp e
    dsimp only
    refine Cell.Leaves.trans ?_ (cell_addFlags _ _)
    split
    · exact cell_land _ _ _ (hP _ _ rfl)
    · exact (cell_land _ _ _ (hP _ _ rfl)).trans (cell_land _ _ _ (hP _ _ rfl))

/-- An exact operation on the lanes. -/
theorem laneOp_leaves (hP : ∀ v l, Landing.writes l = false → P (v, l)) (p : At) (o : VOp) (lat : Nat) (ok : Bool)
    (g : Cell → Nat → BitVec 32) (s t : State) (hp : s.plays p = true) (e : laneOp p o lat ok g s = .next t) :
    (s.atBeat p).Leaves p.cell P Q t := by
  unfold laneOp at e
  split at e
  · exact idle_leaves p s t hp e
  · exact vecOp_leaves hP p lat _ (fun _ => cell_vecResult hP ..) s t hp e

/-- A conversion. -/
theorem convert_leaves (hP : ∀ v l, Landing.writes l = false → P (v, l)) (p : At) (o : COp) (f : Fmt) (n : Nat) (k : Bool)
    (s t : State) (hp : s.plays p = true) (e : convert p o f n k s = .next t) : (s.atBeat p).Leaves p.cell P Q t := by
  unfold convert at e
  refine vecOp_leaves hP p 3 _ (fun c => ?_) s t hp e
  dsimp only
  split
  · exact (cell_convResult hP ..).trans (cell_same rfl rfl rfl)
  · exact cell_convResult hP ..

/-- A scalar operation. -/
theorem scalarOp_leaves (hP : ∀ v l, Landing.writes l = false → P (v, l)) (p : At) (o : SOp) (f : Cell → BitVec 32) (s t : State)
    (hp : s.plays p = true) (e : scalarOp p o f s = .next t) : (s.atBeat p).Leaves p.cell P Q t :=
  vecOp_leaves hP p 1 _ (fun _ => cell_land _ _ _ (hP _ _ rfl)) s t hp e

/-- A control sub-slot leaves what its body leaves. -/
theorem ctl_leaves (p : At) (f : State → State) (h : ∀ u : State, u.Leaves p.cell P Q (f u)) (s t : State)
    (hp : s.plays p = true) (e : ctlIssue p f s = .next t) : (s.atBeat p).Leaves p.cell P Q t := by
  refine issue_leaves { p with fetch := .clean } _ s t hp ?_ e
  cases p.fetch with
  | clean => exact h _
  | corrected => exact (leaves_onCell _ _ (cell_same rfl rfl rfl)).trans (h _)
  | uncorrectable => exact leaves_checksumFault _

/-- A control sub-slot that changes its cell. -/
theorem ctlCell_leaves (p : At) (g : Cell → Cell) (h : ∀ c : Cell, c.Leaves P (g c)) (s t : State)
    (hp : s.plays p = true) (e : ctlIssue p (fun s => s.onCell p.cell g) s = .next t) : (s.atBeat p).Leaves p.cell P Q t :=
  ctl_leaves p _ (fun _ => leaves_onCell _ _ (h _)) s t hp e

/-- An issue that changes its cell. -/
theorem cellIssue_leaves (p : At) (g : Cell → Cell) (h : ∀ c : Cell, c.Leaves P (g c)) (s t : State)
    (hp : s.plays p = true) (e : issue p (fun s => s.onCell p.cell g) s = .next t) : (s.atBeat p).Leaves p.cell P Q t :=
  issue_leaves p _ s t hp (leaves_onCell _ _ (h _)) e

/-- A change of the mesh that no cell, piece, fence or repair sees. -/
theorem leaves_flits (g : Grid → Grid) (s : State) (a : (g s.grid).cells = s.grid.cells) (b : (g s.grid).pieces = s.grid.pieces)
    (f : (g s.grid).fence = s.grid.fence) (r : (g s.grid).repairs = s.grid.repairs) : s.Leaves k P Q (s.onGrid g) := by
  have kp : (s.onGrid g).kept = s.kept := by simp only [State.kept, State.onGrid, f, r]
  refine ⟨keeps_of kp a, rfl, ?_, fun x h => .inl (b ▸ h)⟩
  rw [State.cell, State.cell, kept_hostOf kp, State.phys, State.phys]
  show Cell.Leaves P _ (Sparse.get Cell.reset (g s.grid).cells _)
  rw [a]; exact .refl P _

/-- The advance of a transfer's registers. -/
theorem cell_step (o : DOp) (c : Cell) : c.Leaves P (c.stepPair o) := by
  unfold Cell.stepPair
  split <;> exact cell_same rfl rfl rfl

/-- A transfer leaves what its start, or what its suppression still does, leaves. -/
theorem transfer_leaves (hP : ∀ v l, Landing.writes l = false → P (v, l)) (p : At) (o : DOp) (sg : Bool) (fin : Cell → Nat)
    (run skipped : Cell → State → State) (s t : State)
    (h : let w := ((s.atBeat p).guarded p.cell o.guard).2; w.Leaves p.cell P Q (run (w.cell p.cell) w))
    (h' : ∀ (c : Cell) (s : State), s.Leaves p.cell P Q (skipped c s))
    (hp : s.plays p = true) (e : transfer p o sg fin run skipped s = .next t) : (s.atBeat p).Leaves p.cell P Q t := by
  refine issue_leaves p _ s t hp ?_ e
  have a := leaves_guarded (k := p.cell) (P := P) (Q := Q) o.guard (s.atBeat p)
  generalize (s.atBeat p).guarded p.cell o.guard = r at a h ⊢
  obtain ⟨v, w⟩ := r
  have st (u : State) (h : (s.atBeat p).Leaves p.cell P Q u) :
      (s.atBeat p).Leaves p.cell P Q (u.onCell p.cell (Cell.stepPair o)) :=
    h.trans (leaves_onCell _ _ (cell_step o _))
  have sig (u : State) (n : Nat) : u.Leaves p.cell P Q (u.onCell p.cell (Cell.signalAt n (Guard.signal o.guard))) :=
    leaves_onCell _ _ (cell_signalAt hP _ _ _)
  cases v with
  | run =>
    refine st _ (a.trans (State.Leaves.trans h ((leaves_countRead p.read _).trans ?_)))
    cases sg with
    | true => exact sig _ _
    | false => exact .refl _
  | skipped => exact st _ <| a.trans ((h' _ _).trans (sig _ _))
  | failed => exact st _ a

/-- One action for each flit. -/
theorem cell_perFlit (t n : Nat) (f : Nat → Landing) (c : Cell) (h : ∀ j < n, P (t + j, f j)) :
    c.Leaves P (c.perFlit t n f) :=
  cell_lands c _ fun l hl => by
    obtain ⟨j, hj, rfl⟩ := List.mem_map.1 hl
    exact h j (List.mem_range.1 hj)

/-- The bytes of a value. -/
theorem bvBytes_len (n : Nat) {w : Nat} (y : BitVec w) : (bvBytes n y).length = n := by
  unfold bvBytes
  generalize y.toNat = z
  induction n generalizing z with
  | zero => rfl
  | succ n ih => simp [leBytes, ih]

/-- An access of the banks, with the faults of what it drops. -/
theorem leaves_useBanks (v : Nat) (bs : List Nat) (r : Nat) (s : State) :
    s.Leaves k P Q ((List.range ((s.cell k).useBanks v bs r).2.1).foldl (fun s _ => s.barrierFault k false)
      (s.onCell k fun _ => ((s.cell k).useBanks v bs r).2.2)) :=
  (leaves_onCell _ s (cell_useBanks ..)).trans (leaves_faults _ _)

/-- The stores of lanes lie within 256 bytes. -/
theorem leaves_storeLanes (v a : Nat) (m : BitVec 64) (x : BitVec 2048) (poison : Bool) (s : State)
    (h : ∀ b bs q r, a ≤ b → b + bs.length ≤ a + 256 → P (v + 1, .sram b bs q r)) :
    s.Leaves k P Q (s.storeLanes k v a m x poison) := by
  unfold State.storeLanes
  split
  · exact leaves_sramStore _ _ _ _ _ _ (h _ _ _ _ (Nat.le_refl _) (by rw [bvBytes_len]))
  · have b := leaves_onCell (P := P) (Q := Q) (k := k) (fun _ => ((s.cell k).useBanks v (banksOf a 256) 1).2.2) s
      (cell_useBanks ..)
    refine b.trans ((leaves_faults ((s.cell k).useBanks v (banksOf a 256) 1).2.1 _).trans ?_)
    dsimp only
    split
    · exact leaves_barrierFault ..
    · refine leaves_foldl _ _ (fun s i hi => ?_) _
      split
      · exact leaves_onCell _ _ (cell_land _ _ _ (h _ _ _ _ (by omega)
          (by rw [bvBytes_len]; have := List.mem_range.1 hi; omega)))
      · exact .refl _

/-- The stores of a drain lie within its bytes. -/
theorem leaves_drain (p : Bool) (n : Nat) : ∀ (a cycle : Nat) (bs : List (BitVec 8)) (s : State),
    256 * (n - 1) < bs.length ∨ n = 0 →
    (∀ v b cs q r, a ≤ b → b + cs.length ≤ a + bs.length → P (v, .sram b cs q r)) →
    s.Leaves k P Q (s.drainStores k a p n cycle bs) := by
  induction n with
  | zero => intro a cycle bs s _ _; exact .refl s
  | succ n ih =>
    intro a cycle bs s hl h
    unfold State.drainStores
    refine State.Leaves.trans (t := if a + 256 ≤ sramBytes then s.sramStore k (cycle + 2) a (bs.take 256) p 0
      else s.barrierFault k false) ?_ ?_
    · split
      · exact leaves_sramStore _ _ _ _ _ _ (h _ _ _ _ _ (Nat.le_refl _) (by rw [List.length_take]; omega))
      · exact leaves_barrierFault ..
    · by_cases hn : n = 0
      · subst hn; exact .refl _
      · refine ih _ _ _ _ (by rw [List.length_drop]; omega) fun v b cs q r h1 h2 => h v b cs q r (by omega) ?_
        rw [List.length_drop] at h2; omega

/-- Where a flit lies in tier 1 depends on nothing that an issue changes. -/
theorem t1Flits_kept {s t : State} (h : t.kept = s.kept) (a : BitVec 32) (j : Nat) : t.t1Flits a j = s.t1Flits a j := by
  have e (s : State) : s.t1Flits a j = s.kept.t1Flits a j := rfl
  rw [e, h, ← e]

/-- A vector issue leaves what its body, or that of its suppression, leaves. -/
theorem vecIssue_leaves (hP : ∀ v l, Landing.writes l = false → P (v, l)) (p : At) (lat : Nat) (body skipped : State → State)
    (s t : State) (hp : s.plays p = true) (e : vecIssue p lat body skipped s = .next t)
    (h : ∀ g : Guard, ((s.atBeat p).guarded p.cell g).2.Leaves p.cell P Q (body ((s.atBeat p).guarded p.cell g).2))
    (h' : ∀ s : State, s.Leaves p.cell P Q (skipped s)) : (s.atBeat p).Leaves p.cell P Q t :=
  issue_leaves p _ s t hp (vecBody_leaves hP p lat body skipped _ h h') e

end Sys2Proof.Machine
end

