-- ==== Sys2Proof/Laws/PerInstr.lean ====
section
/-!
SUPPORT. Facts about every command, one lemma per command: a well-formed command that is issued in a sub-slot is issued in
a cell of the grid.
-/
namespace Sys2Proof.Laws.WellPlaced

/-- R41: a well-formed command that has a place of issue is issued in one of the 1,536 logical cells. -/
def Statement (i : Instr) : Prop := i.wf = true → ∀ p, i.issuedAt = some p → p.cell < 1536

/-- A command whose place of issue is `p` and whose well-formedness is that of `p`. -/
theorem of_ok {i : Instr} {p : At} (hp : i.issuedAt = some p) (h : i.wf = p.ok) : Statement i := by
  intro hw q hq
  rw [hp, Option.some.injEq] at hq
  subst hq
  exact of_decide_eq_true (h.symm.trans hw)

/-- A command whose place of issue is `p` and whose well-formedness asks for that of `p` and for more. -/
theorem of_ok_and {i : Instr} {p : At} {b : Bool} (hp : i.issuedAt = some p) (h : i.wf = (p.ok && b)) : Statement i := by
  intro hw q hq
  rw [hp, Option.some.injEq] at hq
  subst hq
  exact of_decide_eq_true ((Bool.and_eq_true_iff.mp (h.symm.trans hw)).1)

/-- A command that is no sub-slot. -/
theorem of_none {i : Instr} (h : i.issuedAt = none) : Statement i := by
  intro _ q hq
  simp [h] at hq

theorem boundary (vrWest vrEast : Bool) : Statement (.boundary vrWest vrEast) := of_none rfl

theorem lastBeat : Statement .lastBeat := of_none rfl

theorem cadenceMarker (tick : Nat) : Statement (.cadenceMarker tick) := of_none rfl

theorem cadenceFrame (hdr : FrameHdr) (body : CadenceBody) : Statement (.cadenceFrame hdr body) := of_none rfl

theorem associationWindowClose : Statement .associationWindowClose := of_none rfl

theorem armTimeout : Statement .armTimeout := of_none rfl

theorem leaderFrameTimeout : Statement .leaderFrameTimeout := of_none rfl

theorem mpass (p : At) (shape : Shape) (add : Bool) (bank : Bool) (a b : BitVec 3) (guard : Guard) :
    Statement (.mpass p shape add bank a b guard) :=
  of_ok rfl rfl

theorem mdrain (p : At) (bf16 : Bool) (bank : Bool) (d : BitVec 3) (guard : Guard) :
    Statement (.mdrain p bf16 bank d guard) :=
  of_ok rfl rfl

theorem mseta (p : At) (reg : BitVec 3) (addr : BitVec 14) : Statement (.mseta p reg addr) := of_ok rfl rfl

theorem msets (p : At) (reg : BitVec 3) (stride : BitVec 14) : Statement (.msets p reg stride) := of_ok rfl rfl

theorem mnop (p : At) : Statement (.mnop p) := of_ok rfl rfl

theorem copy (p : At) (o : DOp) : Statement (.copy p o) := of_ok rfl rfl

theorem send (p : At) (o : DOp) : Statement (.send p o) := of_ok rfl rfl

theorem gather (p : At) (o : DOp) : Statement (.gather p o) := of_ok_and rfl rfl

theorem readT1 (p : At) (o : DOp) : Statement (.readT1 p o) := of_ok rfl rfl

theorem writeT1 (p : At) (o : DOp) : Statement (.writeT1 p o) := of_ok rfl rfl

theorem steer (p : At) (o : DOp) : Statement (.steer p o) := of_ok_and rfl rfl

theorem dseta (p : At) (reg : BitVec 3) (high : Bool) (imm : BitVec 16) :
    Statement (.dseta p reg high imm) :=
  of_ok rfl rfl

theorem dsets (p : At) (reg : BitVec 3) (stride : BitVec 16) : Statement (.dsets p reg stride) := of_ok rfl rfl

theorem dnop (p : At) : Statement (.dnop p) := of_ok rfl rfl

theorem cnop (p : At) : Statement (.cnop p) := of_ok rfl rfl

theorem vguard (p : At) (guard : Guard) : Statement (.vguard p guard) := of_ok rfl rfl

theorem endloop (p : At) (trip : BitVec 16) (body : BitVec 12) :
    Statement (.endloop p trip body) :=
  of_ok_and rfl (Bool.and_assoc ..)

theorem idle (p : At) (beats : BitVec 16) : Statement (.idle p beats) := of_ok_and rfl rfl

theorem string (p : At) (template : BitVec 6) (scalar : BitVec 4) :
    Statement (.string p template scalar) :=
  of_ok rfl rfl

theorem setskip (p : At) (binding : BitVec 3) (vl : BitVec 4) (origin : BitVec 12) (stride : BitVec 4) :
    Statement (.setskip p binding vl origin stride) :=
  of_ok_and rfl rfl

theorem steersel (p : At) (stream : BitVec 4) : Statement (.steersel p stream) := of_ok rfl rfl

theorem vnop (p : At) : Statement (.vnop p) := of_ok rfl rfl

theorem vadd (p : At) (o : VOp) : Statement (.vadd p o) := of_ok_and rfl rfl

theorem vsub (p : At) (o : VOp) : Statement (.vsub p o) := of_ok_and rfl rfl

theorem vmul (p : At) (o : VOp) : Statement (.vmul p o) := of_ok_and rfl rfl

theorem vfma (p : At) (o : VOp) : Statement (.vfma p o) := of_ok_and rfl rfl

theorem vmax (p : At) (o : VOp) : Statement (.vmax p o) := of_ok_and rfl rfl

theorem vmin (p : At) (o : VOp) : Statement (.vmin p o) := of_ok_and rfl rfl

theorem vabs (p : At) (o : VOp) : Statement (.vabs p o) := of_ok_and rfl rfl

theorem vneg (p : At) (o : VOp) : Statement (.vneg p o) := of_ok_and rfl rfl

theorem exp2 (p : At) (o : VOp) : Statement (.exp2 p o) := of_ok_and rfl rfl

theorem log2 (p : At) (o : VOp) : Statement (.log2 p o) := of_ok_and rfl rfl

theorem rcp (p : At) (o : VOp) : Statement (.rcp p o) := of_ok_and rfl rfl

theorem rsqrt (p : At) (o : VOp) : Statement (.rsqrt p o) := of_ok_and rfl rfl

theorem sigm (p : At) (o : VOp) : Statement (.sigm p o) := of_ok_and rfl rfl

theorem tanh (p : At) (o : VOp) : Statement (.tanh p o) := of_ok_and rfl rfl

theorem rsum (p : At) (o : VOp) : Statement (.rsum p o) := of_ok_and rfl rfl

theorem rmax (p : At) (o : VOp) : Statement (.rmax p o) := of_ok_and rfl rfl

theorem rmin (p : At) (o : VOp) : Statement (.rmin p o) := of_ok_and rfl rfl

theorem ramax (p : At) (o : VOp) : Statement (.ramax p o) := of_ok_and rfl rfl

theorem iadd (p : At) (o : VOp) : Statement (.iadd p o) := of_ok_and rfl rfl

theorem isub (p : At) (o : VOp) : Statement (.isub p o) := of_ok_and rfl rfl

theorem vand (p : At) (o : VOp) : Statement (.vand p o) := of_ok_and rfl rfl

theorem vor (p : At) (o : VOp) : Statement (.vor p o) := of_ok_and rfl rfl

theorem vxor (p : At) (o : VOp) : Statement (.vxor p o) := of_ok_and rfl rfl

theorem vshl (p : At) (o : VOp) : Statement (.vshl p o) := of_ok_and rfl rfl

theorem vshr (p : At) (o : VOp) : Statement (.vshr p o) := of_ok_and rfl rfl

theorem vsel (p : At) (o : VOp) : Statement (.vsel p o) := of_ok rfl rfl

theorem vmov (p : At) (o : VOp) : Statement (.vmov p o) := of_ok rfl rfl

theorem vbcast (p : At) (o : VOp) : Statement (.vbcast p o) := of_ok_and rfl rfl

theorem vperm (p : At) (o : VOp) : Statement (.vperm p o) := of_ok_and rfl rfl

theorem viota (p : At) (o : VOp) : Statement (.viota p o) := of_ok_and rfl rfl

theorem vcmp (p : At) (o : VOp) : Statement (.vcmp p o) := of_ok_and rfl rfl

theorem mlog (p : At) (o : VOp) : Statement (.mlog p o) := of_ok_and rfl rfl

theorem mvl (p : At) (o : VOp) : Statement (.mvl p o) := of_ok rfl rfl

theorem mflg (p : At) (o : VOp) : Statement (.mflg p o) := of_ok rfl rfl

theorem vcvtBf16 (p : At) (o : COp) : Statement (.vcvtBf16 p o) := of_ok_and rfl rfl

theorem vcvtFp16 (p : At) (o : COp) : Statement (.vcvtFp16 p o) := of_ok_and rfl rfl

theorem vcvtFp8 (p : At) (o : COp) : Statement (.vcvtFp8 p o) := of_ok_and rfl rfl

theorem vcvtFp4 (p : At) (o : COp) : Statement (.vcvtFp4 p o) := of_ok_and rfl rfl

theorem vqblk (p : At) (o : COp) : Statement (.vqblk p o) := of_ok_and rfl rfl

theorem vunpk (p : At) (o : COp) : Statement (.vunpk p o) := of_ok_and rfl rfl

theorem vld (p : At) (o : LOp) : Statement (.vld p o) := of_ok rfl rfl

theorem vst (p : At) (o : LOp) : Statement (.vst p o) := of_ok rfl rfl

theorem vsthOpen (p : At) (o : HOp) : Statement (.vsthOpen p o) := of_ok rfl rfl

theorem vsthClose (p : At) (o : HOp) : Statement (.vsthClose p o) := of_ok rfl rfl

theorem slui (p : At) (o : SOp) : Statement (.slui p o) := of_ok rfl rfl

theorem slli (p : At) (o : SOp) : Statement (.slli p o) := of_ok rfl rfl

theorem smov (p : At) (o : SOp) : Statement (.smov p o) := of_ok_and rfl rfl

theorem sadd (p : At) (o : SOp) : Statement (.sadd p o) := of_ok rfl rfl

theorem landingFlit (dest cycle : Nat) (bridgeBad : Bool) :
    Statement (.landingFlit dest cycle bridgeBad) :=
  of_none rfl

theorem emptyFlit (dest cycle : Nat) (bridgeBad : Bool) : Statement (.emptyFlit dest cycle bridgeBad) := of_none rfl

theorem t1PieceArrival (cell cycle : Nat) (uncorrectable : Bool) :
    Statement (.t1PieceArrival cell cycle uncorrectable) :=
  of_none rfl

theorem t1WriteAck (cell cycle : Nat) : Statement (.t1WriteAck cell cycle) := of_none rfl

theorem validLengthToken (cell cycle : Nat) (bridgeBad : Bool) :
    Statement (.validLengthToken cell cycle bridgeBad) :=
  of_none rfl

theorem steeringControlToken (cell cycle : Nat) (bridgeBad : Bool) :
    Statement (.steeringControlToken cell cycle bridgeBad) :=
  of_none rfl

theorem remoteBarrierToken (cell cycle : Nat) (bridgeBad : Bool) :
    Statement (.remoteBarrierToken cell cycle bridgeBad) :=
  of_none rfl

theorem zeroLengthHeaderToken (cell cycle : Nat) (bridgeBad : Bool) :
    Statement (.zeroLengthHeaderToken cell cycle bridgeBad) :=
  of_none rfl

theorem steerFlitArrival (cell cycle : Nat) : Statement (.steerFlitArrival cell cycle) := of_none rfl

theorem steerWindowExpiry (cell cycle : Nat) : Statement (.steerWindowExpiry cell cycle) := of_none rfl

theorem hubStringInject (entry : Nat) : Statement (.hubStringInject entry) := of_none rfl

theorem repairStart (sourceBad : Bool) : Statement (.repairStart sourceBad) := of_none rfl

theorem repairDone (cycles : Nat) : Statement (.repairDone cycles) := of_none rfl

theorem stagingComplete (cycles : Nat) : Statement (.stagingComplete cycles) := of_none rfl

theorem switchFillStart : Statement .switchFillStart := of_none rfl

theorem switchFillDone (cycles : Nat) : Statement (.switchFillDone cycles) := of_none rfl

theorem dataFrame (hdr : FrameHdr) (cycle : Nat) (flits : List (BitVec 1024)) :
    Statement (.dataFrame hdr cycle flits) :=
  of_none rfl

theorem streamWindowEnd (stream : Nat) : Statement (.streamWindowEnd stream) := of_none rfl

theorem slotTransmit (port : Nat) (tick : Nat) : Statement (.slotTransmit port tick) := of_none rfl

theorem verdictFrame (hdr : FrameHdr) (body : VerdictBody) : Statement (.verdictFrame hdr body) := of_none rfl

theorem leaveNotice (hdr : FrameHdr) (cause : BitVec 8) (lastStep : BitVec 64) :
    Statement (.leaveNotice hdr cause lastStep) :=
  of_none rfl

theorem remoteRequest (hdr : FrameHdr) (id : BitVec 32) (write : Bool) (addr : BitVec 64) (len : Nat) (data : List (BitVec 8)) :
    Statement (.remoteRequest hdr id write addr len data) :=
  of_none rfl

theorem remoteResponse (hdr : FrameHdr) (id : BitVec 32) (status : BitVec 8) (data : List (BitVec 8)) :
    Statement (.remoteResponse hdr id status data) :=
  of_none rfl

theorem remoteRequestTimeout (id : BitVec 32) (tick : Nat) : Statement (.remoteRequestTimeout id tick) := of_none rfl

theorem moveOffer (hdr : FrameHdr) (body : MoveBody) : Statement (.moveOffer hdr body) := of_none rfl

theorem moveAccept (hdr : FrameHdr) (body : MoveBody) : Statement (.moveAccept hdr body) := of_none rfl

theorem moveRefuse (hdr : FrameHdr) (body : MoveBody) : Statement (.moveRefuse hdr body) := of_none rfl

theorem moveData (hdr : FrameHdr) (body : MoveBody) : Statement (.moveData hdr body) := of_none rfl

theorem moveReady (hdr : FrameHdr) (body : MoveBody) : Statement (.moveReady hdr body) := of_none rfl

theorem moveCommit (hdr : FrameHdr) (body : MoveBody) : Statement (.moveCommit hdr body) := of_none rfl

theorem moveAbort (hdr : FrameHdr) (body : MoveBody) : Statement (.moveAbort hdr body) := of_none rfl

theorem moveAck (hdr : FrameHdr) (body : MoveBody) : Statement (.moveAck hdr body) := of_none rfl

theorem moveReadyTimeout (move : BitVec 32) (tick : Nat) : Statement (.moveReadyTimeout move tick) := of_none rfl

theorem moveCommitResend (move : BitVec 32) (tick : Nat) : Statement (.moveCommitResend move tick) := of_none rfl

theorem moveAbortResend (move : BitVec 32) (tick : Nat) : Statement (.moveAbortResend move tick) := of_none rfl

theorem localMoveComplete (move : BitVec 32) (tick : Nat) (mismatch uncorrectable : Bool) :
    Statement (.localMoveComplete move tick mismatch uncorrectable) :=
  of_none rfl

theorem writeBackComplete (frame : Nat) (tick : Nat) : Statement (.writeBackComplete frame tick) := of_none rfl

theorem conversionPassDone : Statement .conversionPassDone := of_none rfl

theorem ttl2Expiry (ctx : Nat) : Statement (.ttl2Expiry ctx) := of_none rfl

theorem ttl3Expiry (ctx : Nat) : Statement (.ttl3Expiry ctx) := of_none rfl

theorem shardIngestDone (handle : BitVec 32) (tick : Nat) : Statement (.shardIngestDone handle tick) := of_none rfl

theorem shardDeadlineExpiry (model : BitVec 28) (version : BitVec 8) (tick : Nat) :
    Statement (.shardDeadlineExpiry model version tick) :=
  of_none rfl

theorem scrubDue (model : BitVec 28) (version : BitVec 8) : Statement (.scrubDue model version) := of_none rfl

theorem scrubPageRead (model : BitVec 28) (version : BitVec 8) (page : Nat) :
    Statement (.scrubPageRead model version page) :=
  of_none rfl

theorem uncorrectableRead (tier : BitVec 4) (slot unit : Nat) (tick : Nat) :
    Statement (.uncorrectableRead tier slot unit tick) :=
  of_none rfl

theorem hbmStackFailure (stack : Nat) : Statement (.hbmStackFailure stack) := of_none rfl

theorem ddrChannelFailure (channel : Nat) : Statement (.ddrChannelFailure channel) := of_none rfl

theorem flashDriveTimeout (port : Nat) : Statement (.flashDriveTimeout port) := of_none rfl

theorem nvmeCompletion (port : Nat) (command : Nat) (status : NvmeStatus) :
    Statement (.nvmeCompletion port command status) :=
  of_none rfl

theorem pcieLinkDown : Statement .pcieLinkDown := of_none rfl

theorem hostPerst (high : Bool) : Statement (.hostPerst high) := of_none rfl

theorem pcieConfigRequest (req : ConfigRequest) : Statement (.pcieConfigRequest req) := of_none rfl

theorem functionLevelReset (func : BitVec 4) (tick : Nat) : Statement (.functionLevelReset func tick) := of_none rfl

theorem bar4Access (func : BitVec 4) (off : Nat) (op : Bar4Op) : Statement (.bar4Access func off op) := of_none rfl

theorem funcSetupDone (func : BitVec 4) : Statement (.funcSetupDone func) := of_none rfl

theorem funcStopComplete (func : BitVec 4) : Statement (.funcStopComplete func) := of_none rfl

theorem funcWedgeTimeout (func : BitVec 4) (tick : Nat) : Statement (.funcWedgeTimeout func tick) := of_none rfl

theorem portStateDone (port : Nat) (good : BitVec 8) : Statement (.portStateDone port good) := of_none rfl

theorem portStateTimeout (port : Nat) (miss : TrainMiss) : Statement (.portStateTimeout port miss) := of_none rfl

theorem portRetryTimer (port : Nat) (tick : Nat) : Statement (.portRetryTimer port tick) := of_none rfl

theorem identFrame (hdr : FrameHdr) (plane : BitVec 8) (switchPort : BitVec 16) :
    Statement (.identFrame hdr plane switchPort) :=
  of_none rfl

theorem echoFrame (hdr : FrameHdr) (departure arrival turnaround : Nat) :
    Statement (.echoFrame hdr departure arrival turnaround) :=
  of_none rfl

theorem laneFailure (port : Nat) (fault : LaneFault) : Statement (.laneFailure port fault) :=
  of_none rfl

theorem powerOn (tick : Nat) : Statement (.powerOn tick) := of_none rfl

theorem resetNAssert (tick : Nat) : Statement (.resetNAssert tick) := of_none rfl

theorem pwrfail (tick : Nat) : Statement (.pwrfail tick) := of_none rfl

theorem thermalScan (tick : Nat) (hottest coolest : Int) (power : BitVec 32) :
    Statement (.thermalScan tick hottest coolest power) :=
  of_none rfl

theorem thermalCapRaise (tick : Nat) : Statement (.thermalCapRaise tick) := of_none rfl

theorem railCurrentRead (west east : BitVec 32) : Statement (.railCurrentRead west east) := of_none rfl

theorem marginTrip (west east : Bool) : Statement (.marginTrip west east) := of_none rfl

theorem stretchEnd (cycles : Nat) : Statement (.stretchEnd cycles) := of_none rfl

theorem pllLock (pll : Pll) : Statement (.pllLock pll) := of_none rfl

theorem pllSlip (pll : Pll) : Statement (.pllSlip pll) := of_none rfl

theorem clockQualification (src : ClockSrc) (count : Nat) : Statement (.clockQualification src count) := of_none rfl

theorem unarmedOpTick (vrWest vrEast : Bool) (tick : Nat) :
    Statement (.unarmedOpTick vrWest vrEast tick) :=
  of_none rfl

theorem voteScan (upsets : List Upset) : Statement (.voteScan upsets) := of_none rfl

theorem heartbeatInterval : Statement .heartbeatInterval := of_none rfl

theorem bootStageDone (report : BootReport) : Statement (.bootStageDone report) := of_none rfl

theorem bootStageRetry : Statement .bootStageRetry := of_none rfl

theorem sourceAssert (source : Nat) (level : Bool) : Statement (.sourceAssert source level) := of_none rfl

theorem notifyModerationTimeout (target : Fin 5) (tick : Nat) :
    Statement (.notifyModerationTimeout target tick) :=
  of_none rfl

theorem stormWindow : Statement .stormWindow := of_none rfl

theorem vectorModerationTimeout (vector : Nat) (tick : Nat) :
    Statement (.vectorModerationTimeout vector tick) :=
  of_none rfl

theorem msixVectorUnmask (vector : Nat) : Statement (.msixVectorUnmask vector) := of_none rfl

theorem dmaReadComplete (channel : Fin 16) (uncorrectable : Bool) :
    Statement (.dmaReadComplete channel uncorrectable) :=
  of_none rfl

theorem dmaWriteResponse (channel : Fin 16) : Statement (.dmaWriteResponse channel) := of_none rfl

theorem icClaimRead (req : Requester) (target : Fin 5) : Statement (.icClaimRead req target) := of_none rfl

theorem icCompleteWrite (req : Requester) (target : Fin 5) (value : BitVec 32) :
    Statement (.icCompleteWrite req target value) :=
  of_none rfl

theorem icGwAckWrite (req : Requester) (value : BitVec 32) : Statement (.icGwAckWrite req value) := of_none rfl

theorem icPendRead (req : Requester) (word : Fin 32) : Statement (.icPendRead req word) := of_none rfl

theorem icDoorbellWrite (req : Requester) (high : Bool) (value : BitVec 32) :
    Statement (.icDoorbellWrite req high value) :=
  of_none rfl

theorem icStormUnmask (req : Requester) (source : Nat) (value : BitVec 32) :
    Statement (.icStormUnmask req source value) :=
  of_none rfl

theorem dmaGo (req : Requester) (channel : Fin 16) (value : BitVec 32) :
    Statement (.dmaGo req channel value) :=
  of_none rfl

theorem dmaAbort (req : Requester) (channel : Fin 16) (value : BitVec 32) :
    Statement (.dmaAbort req channel value) :=
  of_none rfl

theorem queueEnable (func : BitVec 4) (queue : Fin 8) (value : BitVec 32) :
    Statement (.queueEnable func queue value) :=
  of_none rfl

theorem queueDisable (func : BitVec 4) (queue : Fin 8) (value : BitVec 32) :
    Statement (.queueDisable func queue value) :=
  of_none rfl

theorem cmdTailDoorbell (func : BitVec 4) (queue : Fin 8) (value : BitVec 32) (tick : Nat) :
    Statement (.cmdTailDoorbell func queue value tick) :=
  of_none rfl

theorem rspHeadDoorbell (func : BitVec 4) (queue : Fin 8) (value : BitVec 32) (tick : Nat) :
    Statement (.rspHeadDoorbell func queue value tick) :=
  of_none rfl

theorem srHeadDoorbell (value : BitVec 32) : Statement (.srHeadDoorbell value) := of_none rfl

theorem tokenDoorbell (func : BitVec 4) (ctx : Fin 1024) (value : BitVec 32) :
    Statement (.tokenDoorbell func ctx value) :=
  of_none rfl

theorem gridPendWrite (req : Requester) (reg : Fin 12) (value : BitVec 32) :
    Statement (.gridPendWrite req reg value) :=
  of_none rfl

theorem gridCellSelWrite (req : Requester) (value : BitVec 32) :
    Statement (.gridCellSelWrite req value) :=
  of_none rfl

theorem gridLockWrite (req : Requester) (value : BitVec 32) : Statement (.gridLockWrite req value) := of_none rfl

theorem arithCtrlWrite (req : Requester) (value : BitVec 32) : Statement (.arithCtrlWrite req value) := of_none rfl

theorem sysClkEnWrite (req : Requester) (value : BitVec 32) : Statement (.sysClkEnWrite req value) := of_none rfl

theorem sysLockWrite (req : Requester) (value : BitVec 32) : Statement (.sysLockWrite req value) := of_none rfl

theorem pwrOpReqWrite (req : Requester) (value : BitVec 32) : Statement (.pwrOpReqWrite req value) := of_none rfl

theorem pwrOpLimitsWrite (req : Requester) (value : BitVec 32) :
    Statement (.pwrOpLimitsWrite req value) :=
  of_none rfl

theorem mgtFwFloorWrite (req : Requester) (value : BitVec 32) : Statement (.mgtFwFloorWrite req value) := of_none rfl

theorem heartbeatWrite (req : Requester) (core : Fin 5) (value : BitVec 32) :
    Statement (.heartbeatWrite req core value) :=
  of_none rfl

theorem rstCtrlReset (req : Requester) (value : BitVec 32) : Statement (.rstCtrlReset req value) := of_none rfl

theorem rcRegisterRead (acc : Access) : Statement (.rcRegisterRead acc) := of_none rfl

theorem latchedLowRead (acc : Access) : Statement (.latchedLowRead acc) := of_none rfl

theorem registerWrite (acc : Access) (value : BitVec 32) : Statement (.registerWrite acc value) := of_none rfl

theorem sbRegisterRead (request : SbRequest) : Statement (.sbRegisterRead request) := of_none rfl

theorem sbRegisterWrite (request : SbRequest) : Statement (.sbRegisterWrite request) := of_none rfl

theorem sbReset (request : SbRequest) : Statement (.sbReset request) := of_none rfl

theorem sbMailboxWrite (request : SbRequest) : Statement (.sbMailboxWrite request) := of_none rfl

theorem sbMailboxRead (request : SbRequest) : Statement (.sbMailboxRead request) := of_none rfl

theorem jtagInstruction (instr : JtagInstr) : Statement (.jtagInstruction instr) := of_none rfl

theorem identify (handle : BitVec 32) : Statement (.identify handle) := of_none rfl

theorem deviceReset (handle : BitVec 32) : Statement (.deviceReset handle) := of_none rfl

theorem telemetry (handle : BitVec 32) : Statement (.telemetry handle) := of_none rfl

theorem handleQuery (handle : BitVec 32) : Statement (.handleQuery handle) := of_none rfl

theorem cfgWrite (handle : BitVec 32) : Statement (.cfgWrite handle) := of_none rfl

theorem cfgCommit (handle : BitVec 32) : Statement (.cfgCommit handle) := of_none rfl

theorem cadenceSet (handle : BitVec 32) : Statement (.cadenceSet handle) := of_none rfl

theorem cadenceStatus (handle : BitVec 32) : Statement (.cadenceStatus handle) := of_none rfl

theorem roleSet (handle : BitVec 32) : Statement (.roleSet handle) := of_none rfl

theorem alloc (handle : BitVec 32) : Statement (.alloc handle) := of_none rfl

theorem free (handle : BitVec 32) : Statement (.free handle) := of_none rfl

theorem move (handle : BitVec 32) : Statement (.move handle) := of_none rfl

theorem pageQuery (handle : BitVec 32) : Statement (.pageQuery handle) := of_none rfl

theorem memMode (handle : BitVec 32) : Statement (.memMode handle) := of_none rfl

theorem modelDeclare (handle : BitVec 32) : Statement (.modelDeclare handle) := of_none rfl

theorem shardLoad (handle : BitVec 32) : Statement (.shardLoad handle) := of_none rfl

theorem shardFromFlash (handle : BitVec 32) : Statement (.shardFromFlash handle) := of_none rfl

theorem modelActivate (handle : BitVec 32) : Statement (.modelActivate handle) := of_none rfl

theorem modelRetire (handle : BitVec 32) : Statement (.modelRetire handle) := of_none rfl

theorem adapterLoad (handle : BitVec 32) : Statement (.adapterLoad handle) := of_none rfl

theorem adapterReplace (handle : BitVec 32) : Statement (.adapterReplace handle) := of_none rfl

theorem modelReplace (handle : BitVec 32) : Statement (.modelReplace handle) := of_none rfl

theorem scrubSet (handle : BitVec 32) : Statement (.scrubSet handle) := of_none rfl

theorem modelStatus (handle : BitVec 32) : Statement (.modelStatus handle) := of_none rfl

theorem cylLoad (handle : BitVec 32) : Statement (.cylLoad handle) := of_none rfl

theorem cylVerify (handle : BitVec 32) : Statement (.cylVerify handle) := of_none rfl

theorem drain (handle : BitVec 32) : Statement (.drain handle) := of_none rfl

theorem cylSwitch (handle : BitVec 32) : Statement (.cylSwitch handle) := of_none rfl

theorem cylUnload (handle : BitVec 32) : Statement (.cylUnload handle) := of_none rfl

theorem ctxOpen (handle : BitVec 32) : Statement (.ctxOpen handle) := of_none rfl

theorem promptSubmit (handle : BitVec 32) : Statement (.promptSubmit handle) := of_none rfl

theorem append (handle : BitVec 32) : Statement (.append handle) := of_none rfl

theorem cancel (handle : BitVec 32) : Statement (.cancel handle) := of_none rfl

theorem ctxClose (handle : BitVec 32) : Statement (.ctxClose handle) := of_none rfl

theorem ctxPark (handle : BitVec 32) : Statement (.ctxPark handle) := of_none rfl

theorem ctxResume (handle : BitVec 32) : Statement (.ctxResume handle) := of_none rfl

theorem fallbackBind (handle : BitVec 32) : Statement (.fallbackBind handle) := of_none rfl

theorem kvExport (handle : BitVec 32) : Statement (.kvExport handle) := of_none rfl

theorem kvImport (handle : BitVec 32) : Statement (.kvImport handle) := of_none rfl

theorem batchStep (handle : BitVec 32) : Statement (.batchStep handle) := of_none rfl

theorem deadlineSet (handle : BitVec 32) : Statement (.deadlineSet handle) := of_none rfl

theorem linkStatus (handle : BitVec 32) : Statement (.linkStatus handle) := of_none rfl

theorem routeSet (handle : BitVec 32) : Statement (.routeSet handle) := of_none rfl

theorem planeMask (handle : BitVec 32) : Statement (.planeMask handle) := of_none rfl

theorem fenceCell (handle : BitVec 32) : Statement (.fenceCell handle) := of_none rfl

theorem unfenceCell (handle : BitVec 32) : Statement (.unfenceCell handle) := of_none rfl

theorem calibrate (handle : BitVec 32) : Statement (.calibrate handle) := of_none rfl

theorem calStatus (handle : BitVec 32) : Statement (.calStatus handle) := of_none rfl

theorem healthRead (handle : BitVec 32) : Statement (.healthRead handle) := of_none rfl

theorem funcEnable (handle : BitVec 32) : Statement (.funcEnable handle) := of_none rfl

theorem funcDisable (handle : BitVec 32) : Statement (.funcDisable handle) := of_none rfl

theorem funcStatus (handle : BitVec 32) : Statement (.funcStatus handle) := of_none rfl

theorem diagNop (handle : BitVec 32) : Statement (.diagNop handle) := of_none rfl

theorem manufacturingTest (handle : BitVec 32) : Statement (.manufacturingTest handle) := of_none rfl

theorem powerRemoved : Statement .powerRemoved := of_none rfl

theorem resetNRelease (strap : BitVec 8) (tick : Nat) : Statement (.resetNRelease strap tick) := of_none rfl

theorem resetPulseEnd (tick : Nat) : Statement (.resetPulseEnd tick) := of_none rfl

theorem pcieLinkUp : Statement .pcieLinkUp := of_none rfl

theorem firmwareSramUncorrectable : Statement .firmwareSramUncorrectable := of_none rfl

theorem calibrationStoreWriteDone (record : StoreRec) (ok : Bool) :
    Statement (.calibrationStoreWriteDone record ok) :=
  of_none rfl

theorem cylLoadChecked (handle : BitVec 32) : Statement (.cylLoadChecked handle) := of_none rfl

theorem kvImageTransferDone (handle : BitVec 32) (tick : Nat) :
    Statement (.kvImageTransferDone handle tick) :=
  of_none rfl

theorem i3cAddressAssignment (cmd : I3cCommand) : Statement (.i3cAddressAssignment cmd) := of_none rfl

theorem memoryPatrolScrub (tier : BitVec 4) (unit : Nat) (corrected : Nat) (row : Option Nat) (tick : Nat) :
    Statement (.memoryPatrolScrub tier unit corrected row tick) :=
  of_none rfl

end Sys2Proof.Laws.WellPlaced
end

