-- ==== Sys2Proof/Laws/Protocol.lean ====
section
/-!
SUPPORT. What the shared forms of a command do, said once: a host command that may be carried out, a frame that is
received, an arrival while the cells play, and a register access.
-/
namespace Sys2Proof.Machine

/-- A frame that its receiver listens to and keeps acts at its tick, its codewords counted, and the step ends. -/
theorem receiveIf_kept (service : State → Bool) (h : FrameHdr) (body : State → State) (s : State)
    (hs : service s = true) (hf : (s.heard h).frameOk h = true) :
    receiveIf service h body s = .next (body (s.heard h)).stepEnd := by simp [receiveIf, hs, hf, finish]

/-- A frame on a port that does not listen changes only the time. -/
theorem receiveIf_deaf (service : State → Bool) (h : FrameHdr) (body : State → State) (s : State)
    (hs : service s = false) : receiveIf service h body s = .next (s.at_ h.tick).stepEnd := by
  simp [receiveIf, hs, finish]

/-- A frame that a test discards is counted, and does nothing else (R313). -/
theorem receiveIf_discarded (service : State → Bool) (h : FrameHdr) (body : State → State) (s : State)
    (hs : service s = true) (hf : (s.heard h).frameOk h = false) :
    receiveIf service h body s =
      .next ((s.heard h).onFab fun f => { f with frameErr := satInc f.frameErr }).stepEnd := by
  simp [receiveIf, hs, hf, finish]

/-- A frame that is received acts at its tick, and the step ends. -/
theorem receive_ok (h : FrameHdr) (body : State → State) (s : State) (hr : s.receives h) :
    receive h body s = .next (body (s.heard h)).stepEnd := receiveIf_kept _ h body s hr.1 hr.2

/-- A frame that is received and starts work. -/
theorem receiveWork_ok (h : FrameHdr) (body : State → State) (s : State) (hr : s.receives h) :
    receiveWork h body s = .next (body (s.heard h)).settleWork.stepEnd := receive_ok h _ s hr

/-- An arrival while the cells play. -/
theorem arrive_plays (cycle : Nat) (body : State → State) (s : State) (h : s.step.playing = true) :
    arrive cycle body s = .next (body ((s.at_ (s.cycleTick cycle)).settleAll cycle)).settle := by
  unfold arrive
  rw [if_pos h]

/-- A host command that may be carried out. -/
theorem carry_ready (op : BitVec 8) (o : Bool) (h : BitVec 32) (body : Live → State → State) (s : State) (l : Live)
    (hr : s.ready h op l) : carry op o h body s = .next (body l s).workEnd := by
  obtain ⟨h1, h2, h3, h4⟩ := hr
  unfold carry carryOut
  simp only [h1, h2, h3, h4, and_self, if_true, Bool.true_or]
  rfl

/-- A host command that may be carried out without a committed configuration. -/
theorem carry_open (op : BitVec 8) (h : BitVec 32) (body : Live → State → State) (s : State) (l : Live)
    (h1 : s.liveOf h = some l) (h2 : l.opcode = op) (h3 : l.phase = .accepted) :
    carry op true h body s = .next (body l s).workEnd := by
  unfold carry carryOut
  simp only [h1, h2, h3, and_self, if_true, Bool.or_true]
  rfl

/-- A serving command whose parameters and context pass their examination. -/
theorem ctxCommand_ready (op : BitVec 8) (h : BitVec 32) (bad : Live → Option Nat) (body : Live → Nat → State → State)
    (s : State) (l : Live) (hr : s.ready h op l) (hb : bad l = none) (hc : s.ctxBar l = none) :
    ctxCommand op h bad body s = .next (body l (l.param 8 4 % 1024) s).workEnd := by
  unfold ctxCommand
  rw [carry_ready op false h _ s l hr]
  have hi : identFault 8 (BitVec.ofNat 32 (l.param 8 4)) = none := by
    unfold State.ctxBar at hc
    dsimp only at hc
    split at hc
    · cases hc
    · assumption
  simp only [hi, Option.orElse, hb, hc]

/-- A function command whose target is 1 to 15. -/
theorem funcCommand_ready (op : BitVec 8) (h : BitVec 32) (body : Live → Nat → State → State) (s : State) (l : Live)
    (hr : s.ready h op l) (h1 : 1 ≤ l.param 8 1) (h2 : l.param 8 1 ≤ 15) :
    funcCommand op h body s = .next (body l (l.param 8 1) s).workEnd := by
  unfold funcCommand
  rw [carry_ready op false h _ s l hr]
  dsimp only
  rw [if_neg (by omega)]

/-- Without a committed configuration another command completes with `CONFIG_INVALID` (R379). -/
theorem carry_unconfigured (op : BitVec 8) (h : BitVec 32) (body : Live → State → State) (s : State) (l : Live)
    (h1 : s.liveOf h = some l) (h2 : l.opcode = op) (h3 : l.phase = .accepted) (h4 : s.configured = false) :
    carry op false h body s = .next (s.complete h stConfigInvalid 0).stepEnd := by
  unfold carry carryOut
  simp only [h1, h2, h3, h4, and_self, if_true, Bool.or_false, Bool.false_eq_true, if_false]
  rfl

/-- A register read answers its requester. -/
theorem readRow_next (a : Access) (s : State) :
    readRow a s = .next ((((s.requested a.req).regRead a).2.onHost fun h => { h with
      answer := ((s.requested a.req).regRead a).1, aborted := ((s.requested a.req).regRead a).1.isNone }).stepEnd) := rfl

/-- A register write. -/
theorem writeRow_next (a : Access) (v : BitVec 32) (s : State) :
    writeRow a v s = .next ((((s.requested a.req).regWrite a v).2.onHost fun h => { h with
      aborted := !((s.requested a.req).regWrite a v).1 }).stepEnd) := rfl

/-- A tick that may be absent, and is there and long enough ago. -/
theorem any_due {o : Option Nat} {t c n : Nat} (h : o = some t) (hn : t + c ≤ n) :
    (o.any fun t => decide (t + c ≤ n)) = true := by
  subst h
  exact decide_eq_true hn

/-- A tick that is absent or long enough ago. -/
theorem all_due {o : Option Nat} {c n : Nat} (h : ∀ t, o = some t → t + c ≤ n) :
    (o.all fun t => decide (t + c ≤ n)) = true := by
  cases o with
  | none => rfl
  | some t => exact decide_eq_true (h t rfl)

end Sys2Proof.Machine
end

