-- ==== Sys2Proof/Laws/State.lean ====
section
/-!
SUPPORT. One lemma for each field of the state and each update of a block: the changed block is the
updated one and every other block is as before.
-/
namespace Sys2Proof.Machine

@[simp] theorem State.onCad_cad (h : Cadence → Cadence) (s : State) :
    (s.onCad h).cad = h s.cad := rfl
@[simp] theorem State.onCad_step (h : Cadence → Cadence) (s : State) :
    (s.onCad h).step = s.step := rfl
@[simp] theorem State.onCad_grid (h : Cadence → Cadence) (s : State) :
    (s.onCad h).grid = s.grid := rfl
@[simp] theorem State.onCad_arith (h : Cadence → Cadence) (s : State) :
    (s.onCad h).arith = s.arith := rfl
@[simp] theorem State.onCad_cyl (h : Cadence → Cadence) (s : State) :
    (s.onCad h).cyl = s.cyl := rfl
@[simp] theorem State.onCad_mem (h : Cadence → Cadence) (s : State) :
    (s.onCad h).mem = s.mem := rfl
@[simp] theorem State.onCad_wgt (h : Cadence → Cadence) (s : State) :
    (s.onCad h).wgt = s.wgt := rfl
@[simp] theorem State.onCad_srv (h : Cadence → Cadence) (s : State) :
    (s.onCad h).srv = s.srv := rfl
@[simp] theorem State.onCad_cmd (h : Cadence → Cadence) (s : State) :
    (s.onCad h).cmd = s.cmd := rfl
@[simp] theorem State.onCad_hlt (h : Cadence → Cadence) (s : State) :
    (s.onCad h).hlt = s.hlt := rfl
@[simp] theorem State.onCad_fab (h : Cadence → Cadence) (s : State) :
    (s.onCad h).fab = s.fab := rfl
@[simp] theorem State.onCad_pwr (h : Cadence → Cadence) (s : State) :
    (s.onCad h).pwr = s.pwr := rfl
@[simp] theorem State.onCad_store (h : Cadence → Cadence) (s : State) :
    (s.onCad h).store = s.store := rfl
@[simp] theorem State.onCad_sys (h : Cadence → Cadence) (s : State) :
    (s.onCad h).sys = s.sys := rfl
@[simp] theorem State.onCad_ic (h : Cadence → Cadence) (s : State) :
    (s.onCad h).ic = s.ic := rfl
@[simp] theorem State.onCad_dma (h : Cadence → Cadence) (s : State) :
    (s.onCad h).dma = s.dma := rfl
@[simp] theorem State.onCad_mgt (h : Cadence → Cadence) (s : State) :
    (s.onCad h).mgt = s.mgt := rfl
@[simp] theorem State.onCad_cfg (h : Cadence → Cadence) (s : State) :
    (s.onCad h).cfg = s.cfg := rfl
@[simp] theorem State.onCad_pins (h : Cadence → Cadence) (s : State) :
    (s.onCad h).pins = s.pins := rfl
@[simp] theorem State.onCad_host (h : Cadence → Cadence) (s : State) :
    (s.onCad h).host = s.host := rfl
@[simp] theorem State.onCad_freeCount (h : Cadence → Cadence) (s : State) :
    (s.onCad h).freeCount = s.freeCount := rfl
@[simp] theorem State.onCad_pending (h : Cadence → Cadence) (s : State) :
    (s.onCad h).pending = s.pending := rfl
@[simp] theorem State.onStep_cad (h : Step → Step) (s : State) :
    (s.onStep h).cad = s.cad := rfl
@[simp] theorem State.onStep_step (h : Step → Step) (s : State) :
    (s.onStep h).step = h s.step := rfl
@[simp] theorem State.onStep_grid (h : Step → Step) (s : State) :
    (s.onStep h).grid = s.grid := rfl
@[simp] theorem State.onStep_arith (h : Step → Step) (s : State) :
    (s.onStep h).arith = s.arith := rfl
@[simp] theorem State.onStep_cyl (h : Step → Step) (s : State) :
    (s.onStep h).cyl = s.cyl := rfl
@[simp] theorem State.onStep_mem (h : Step → Step) (s : State) :
    (s.onStep h).mem = s.mem := rfl
@[simp] theorem State.onStep_wgt (h : Step → Step) (s : State) :
    (s.onStep h).wgt = s.wgt := rfl
@[simp] theorem State.onStep_srv (h : Step → Step) (s : State) :
    (s.onStep h).srv = s.srv := rfl
@[simp] theorem State.onStep_cmd (h : Step → Step) (s : State) :
    (s.onStep h).cmd = s.cmd := rfl
@[simp] theorem State.onStep_hlt (h : Step → Step) (s : State) :
    (s.onStep h).hlt = s.hlt := rfl
@[simp] theorem State.onStep_fab (h : Step → Step) (s : State) :
    (s.onStep h).fab = s.fab := rfl
@[simp] theorem State.onStep_pwr (h : Step → Step) (s : State) :
    (s.onStep h).pwr = s.pwr := rfl
@[simp] theorem State.onStep_store (h : Step → Step) (s : State) :
    (s.onStep h).store = s.store := rfl
@[simp] theorem State.onStep_sys (h : Step → Step) (s : State) :
    (s.onStep h).sys = s.sys := rfl
@[simp] theorem State.onStep_ic (h : Step → Step) (s : State) :
    (s.onStep h).ic = s.ic := rfl
@[simp] theorem State.onStep_dma (h : Step → Step) (s : State) :
    (s.onStep h).dma = s.dma := rfl
@[simp] theorem State.onStep_mgt (h : Step → Step) (s : State) :
    (s.onStep h).mgt = s.mgt := rfl
@[simp] theorem State.onStep_cfg (h : Step → Step) (s : State) :
    (s.onStep h).cfg = s.cfg := rfl
@[simp] theorem State.onStep_pins (h : Step → Step) (s : State) :
    (s.onStep h).pins = s.pins := rfl
@[simp] theorem State.onStep_host (h : Step → Step) (s : State) :
    (s.onStep h).host = s.host := rfl
@[simp] theorem State.onStep_freeCount (h : Step → Step) (s : State) :
    (s.onStep h).freeCount = s.freeCount := rfl
@[simp] theorem State.onStep_pending (h : Step → Step) (s : State) :
    (s.onStep h).pending = s.pending := rfl
@[simp] theorem State.onGrid_cad (h : Grid → Grid) (s : State) :
    (s.onGrid h).cad = s.cad := rfl
@[simp] theorem State.onGrid_step (h : Grid → Grid) (s : State) :
    (s.onGrid h).step = s.step := rfl
@[simp] theorem State.onGrid_grid (h : Grid → Grid) (s : State) :
    (s.onGrid h).grid = h s.grid := rfl
@[simp] theorem State.onGrid_arith (h : Grid → Grid) (s : State) :
    (s.onGrid h).arith = s.arith := rfl
@[simp] theorem State.onGrid_cyl (h : Grid → Grid) (s : State) :
    (s.onGrid h).cyl = s.cyl := rfl
@[simp] theorem State.onGrid_mem (h : Grid → Grid) (s : State) :
    (s.onGrid h).mem = s.mem := rfl
@[simp] theorem State.onGrid_wgt (h : Grid → Grid) (s : State) :
    (s.onGrid h).wgt = s.wgt := rfl
@[simp] theorem State.onGrid_srv (h : Grid → Grid) (s : State) :
    (s.onGrid h).srv = s.srv := rfl
@[simp] theorem State.onGrid_cmd (h : Grid → Grid) (s : State) :
    (s.onGrid h).cmd = s.cmd := rfl
@[simp] theorem State.onGrid_hlt (h : Grid → Grid) (s : State) :
    (s.onGrid h).hlt = s.hlt := rfl
@[simp] theorem State.onGrid_fab (h : Grid → Grid) (s : State) :
    (s.onGrid h).fab = s.fab := rfl
@[simp] theorem State.onGrid_pwr (h : Grid → Grid) (s : State) :
    (s.onGrid h).pwr = s.pwr := rfl
@[simp] theorem State.onGrid_store (h : Grid → Grid) (s : State) :
    (s.onGrid h).store = s.store := rfl
@[simp] theorem State.onGrid_sys (h : Grid → Grid) (s : State) :
    (s.onGrid h).sys = s.sys := rfl
@[simp] theorem State.onGrid_ic (h : Grid → Grid) (s : State) :
    (s.onGrid h).ic = s.ic := rfl
@[simp] theorem State.onGrid_dma (h : Grid → Grid) (s : State) :
    (s.onGrid h).dma = s.dma := rfl
@[simp] theorem State.onGrid_mgt (h : Grid → Grid) (s : State) :
    (s.onGrid h).mgt = s.mgt := rfl
@[simp] theorem State.onGrid_cfg (h : Grid → Grid) (s : State) :
    (s.onGrid h).cfg = s.cfg := rfl
@[simp] theorem State.onGrid_pins (h : Grid → Grid) (s : State) :
    (s.onGrid h).pins = s.pins := rfl
@[simp] theorem State.onGrid_host (h : Grid → Grid) (s : State) :
    (s.onGrid h).host = s.host := rfl
@[simp] theorem State.onGrid_freeCount (h : Grid → Grid) (s : State) :
    (s.onGrid h).freeCount = s.freeCount := rfl
@[simp] theorem State.onGrid_pending (h : Grid → Grid) (s : State) :
    (s.onGrid h).pending = s.pending := rfl
@[simp] theorem State.onArith_cad (h : Arith → Arith) (s : State) :
    (s.onArith h).cad = s.cad := rfl
@[simp] theorem State.onArith_step (h : Arith → Arith) (s : State) :
    (s.onArith h).step = s.step := rfl
@[simp] theorem State.onArith_grid (h : Arith → Arith) (s : State) :
    (s.onArith h).grid = s.grid := rfl
@[simp] theorem State.onArith_arith (h : Arith → Arith) (s : State) :
    (s.onArith h).arith = h s.arith := rfl
@[simp] theorem State.onArith_cyl (h : Arith → Arith) (s : State) :
    (s.onArith h).cyl = s.cyl := rfl
@[simp] theorem State.onArith_mem (h : Arith → Arith) (s : State) :
    (s.onArith h).mem = s.mem := rfl
@[simp] theorem State.onArith_wgt (h : Arith → Arith) (s : State) :
    (s.onArith h).wgt = s.wgt := rfl
@[simp] theorem State.onArith_srv (h : Arith → Arith) (s : State) :
    (s.onArith h).srv = s.srv := rfl
@[simp] theorem State.onArith_cmd (h : Arith → Arith) (s : State) :
    (s.onArith h).cmd = s.cmd := rfl
@[simp] theorem State.onArith_hlt (h : Arith → Arith) (s : State) :
    (s.onArith h).hlt = s.hlt := rfl
@[simp] theorem State.onArith_fab (h : Arith → Arith) (s : State) :
    (s.onArith h).fab = s.fab := rfl
@[simp] theorem State.onArith_pwr (h : Arith → Arith) (s : State) :
    (s.onArith h).pwr = s.pwr := rfl
@[simp] theorem State.onArith_store (h : Arith → Arith) (s : State) :
    (s.onArith h).store = s.store := rfl
@[simp] theorem State.onArith_sys (h : Arith → Arith) (s : State) :
    (s.onArith h).sys = s.sys := rfl
@[simp] theorem State.onArith_ic (h : Arith → Arith) (s : State) :
    (s.onArith h).ic = s.ic := rfl
@[simp] theorem State.onArith_dma (h : Arith → Arith) (s : State) :
    (s.onArith h).dma = s.dma := rfl
@[simp] theorem State.onArith_mgt (h : Arith → Arith) (s : State) :
    (s.onArith h).mgt = s.mgt := rfl
@[simp] theorem State.onArith_cfg (h : Arith → Arith) (s : State) :
    (s.onArith h).cfg = s.cfg := rfl
@[simp] theorem State.onArith_pins (h : Arith → Arith) (s : State) :
    (s.onArith h).pins = s.pins := rfl
@[simp] theorem State.onArith_host (h : Arith → Arith) (s : State) :
    (s.onArith h).host = s.host := rfl
@[simp] theorem State.onArith_freeCount (h : Arith → Arith) (s : State) :
    (s.onArith h).freeCount = s.freeCount := rfl
@[simp] theorem State.onArith_pending (h : Arith → Arith) (s : State) :
    (s.onArith h).pending = s.pending := rfl
@[simp] theorem State.onCyl_cad (h : Cylinder → Cylinder) (s : State) :
    (s.onCyl h).cad = s.cad := rfl
@[simp] theorem State.onCyl_step (h : Cylinder → Cylinder) (s : State) :
    (s.onCyl h).step = s.step := rfl
@[simp] theorem State.onCyl_grid (h : Cylinder → Cylinder) (s : State) :
    (s.onCyl h).grid = s.grid := rfl
@[simp] theorem State.onCyl_arith (h : Cylinder → Cylinder) (s : State) :
    (s.onCyl h).arith = s.arith := rfl
@[simp] theorem State.onCyl_cyl (h : Cylinder → Cylinder) (s : State) :
    (s.onCyl h).cyl = h s.cyl := rfl
@[simp] theorem State.onCyl_mem (h : Cylinder → Cylinder) (s : State) :
    (s.onCyl h).mem = s.mem := rfl
@[simp] theorem State.onCyl_wgt (h : Cylinder → Cylinder) (s : State) :
    (s.onCyl h).wgt = s.wgt := rfl
@[simp] theorem State.onCyl_srv (h : Cylinder → Cylinder) (s : State) :
    (s.onCyl h).srv = s.srv := rfl
@[simp] theorem State.onCyl_cmd (h : Cylinder → Cylinder) (s : State) :
    (s.onCyl h).cmd = s.cmd := rfl
@[simp] theorem State.onCyl_hlt (h : Cylinder → Cylinder) (s : State) :
    (s.onCyl h).hlt = s.hlt := rfl
@[simp] theorem State.onCyl_fab (h : Cylinder → Cylinder) (s : State) :
    (s.onCyl h).fab = s.fab := rfl
@[simp] theorem State.onCyl_pwr (h : Cylinder → Cylinder) (s : State) :
    (s.onCyl h).pwr = s.pwr := rfl
@[simp] theorem State.onCyl_store (h : Cylinder → Cylinder) (s : State) :
    (s.onCyl h).store = s.store := rfl
@[simp] theorem State.onCyl_sys (h : Cylinder → Cylinder) (s : State) :
    (s.onCyl h).sys = s.sys := rfl
@[simp] theorem State.onCyl_ic (h : Cylinder → Cylinder) (s : State) :
    (s.onCyl h).ic = s.ic := rfl
@[simp] theorem State.onCyl_dma (h : Cylinder → Cylinder) (s : State) :
    (s.onCyl h).dma = s.dma := rfl
@[simp] theorem State.onCyl_mgt (h : Cylinder → Cylinder) (s : State) :
    (s.onCyl h).mgt = s.mgt := rfl
@[simp] theorem State.onCyl_cfg (h : Cylinder → Cylinder) (s : State) :
    (s.onCyl h).cfg = s.cfg := rfl
@[simp] theorem State.onCyl_pins (h : Cylinder → Cylinder) (s : State) :
    (s.onCyl h).pins = s.pins := rfl
@[simp] theorem State.onCyl_host (h : Cylinder → Cylinder) (s : State) :
    (s.onCyl h).host = s.host := rfl
@[simp] theorem State.onCyl_freeCount (h : Cylinder → Cylinder) (s : State) :
    (s.onCyl h).freeCount = s.freeCount := rfl
@[simp] theorem State.onCyl_pending (h : Cylinder → Cylinder) (s : State) :
    (s.onCyl h).pending = s.pending := rfl
@[simp] theorem State.onMem_cad (h : Memory → Memory) (s : State) :
    (s.onMem h).cad = s.cad := rfl
@[simp] theorem State.onMem_step (h : Memory → Memory) (s : State) :
    (s.onMem h).step = s.step := rfl
@[simp] theorem State.onMem_grid (h : Memory → Memory) (s : State) :
    (s.onMem h).grid = s.grid := rfl
@[simp] theorem State.onMem_arith (h : Memory → Memory) (s : State) :
    (s.onMem h).arith = s.arith := rfl
@[simp] theorem State.onMem_cyl (h : Memory → Memory) (s : State) :
    (s.onMem h).cyl = s.cyl := rfl
@[simp] theorem State.onMem_mem (h : Memory → Memory) (s : State) :
    (s.onMem h).mem = h s.mem := rfl
@[simp] theorem State.onMem_wgt (h : Memory → Memory) (s : State) :
    (s.onMem h).wgt = s.wgt := rfl
@[simp] theorem State.onMem_srv (h : Memory → Memory) (s : State) :
    (s.onMem h).srv = s.srv := rfl
@[simp] theorem State.onMem_cmd (h : Memory → Memory) (s : State) :
    (s.onMem h).cmd = s.cmd := rfl
@[simp] theorem State.onMem_hlt (h : Memory → Memory) (s : State) :
    (s.onMem h).hlt = s.hlt := rfl
@[simp] theorem State.onMem_fab (h : Memory → Memory) (s : State) :
    (s.onMem h).fab = s.fab := rfl
@[simp] theorem State.onMem_pwr (h : Memory → Memory) (s : State) :
    (s.onMem h).pwr = s.pwr := rfl
@[simp] theorem State.onMem_store (h : Memory → Memory) (s : State) :
    (s.onMem h).store = s.store := rfl
@[simp] theorem State.onMem_sys (h : Memory → Memory) (s : State) :
    (s.onMem h).sys = s.sys := rfl
@[simp] theorem State.onMem_ic (h : Memory → Memory) (s : State) :
    (s.onMem h).ic = s.ic := rfl
@[simp] theorem State.onMem_dma (h : Memory → Memory) (s : State) :
    (s.onMem h).dma = s.dma := rfl
@[simp] theorem State.onMem_mgt (h : Memory → Memory) (s : State) :
    (s.onMem h).mgt = s.mgt := rfl
@[simp] theorem State.onMem_cfg (h : Memory → Memory) (s : State) :
    (s.onMem h).cfg = s.cfg := rfl
@[simp] theorem State.onMem_pins (h : Memory → Memory) (s : State) :
    (s.onMem h).pins = s.pins := rfl
@[simp] theorem State.onMem_host (h : Memory → Memory) (s : State) :
    (s.onMem h).host = s.host := rfl
@[simp] theorem State.onMem_freeCount (h : Memory → Memory) (s : State) :
    (s.onMem h).freeCount = s.freeCount := rfl
@[simp] theorem State.onMem_pending (h : Memory → Memory) (s : State) :
    (s.onMem h).pending = s.pending := rfl
@[simp] theorem State.onWgt_cad (h : Weights → Weights) (s : State) :
    (s.onWgt h).cad = s.cad := rfl
@[simp] theorem State.onWgt_step (h : Weights → Weights) (s : State) :
    (s.onWgt h).step = s.step := rfl
@[simp] theorem State.onWgt_grid (h : Weights → Weights) (s : State) :
    (s.onWgt h).grid = s.grid := rfl
@[simp] theorem State.onWgt_arith (h : Weights → Weights) (s : State) :
    (s.onWgt h).arith = s.arith := rfl
@[simp] theorem State.onWgt_cyl (h : Weights → Weights) (s : State) :
    (s.onWgt h).cyl = s.cyl := rfl
@[simp] theorem State.onWgt_mem (h : Weights → Weights) (s : State) :
    (s.onWgt h).mem = s.mem := rfl
@[simp] theorem State.onWgt_wgt (h : Weights → Weights) (s : State) :
    (s.onWgt h).wgt = h s.wgt := rfl
@[simp] theorem State.onWgt_srv (h : Weights → Weights) (s : State) :
    (s.onWgt h).srv = s.srv := rfl
@[simp] theorem State.onWgt_cmd (h : Weights → Weights) (s : State) :
    (s.onWgt h).cmd = s.cmd := rfl
@[simp] theorem State.onWgt_hlt (h : Weights → Weights) (s : State) :
    (s.onWgt h).hlt = s.hlt := rfl
@[simp] theorem State.onWgt_fab (h : Weights → Weights) (s : State) :
    (s.onWgt h).fab = s.fab := rfl
@[simp] theorem State.onWgt_pwr (h : Weights → Weights) (s : State) :
    (s.onWgt h).pwr = s.pwr := rfl
@[simp] theorem State.onWgt_store (h : Weights → Weights) (s : State) :
    (s.onWgt h).store = s.store := rfl
@[simp] theorem State.onWgt_sys (h : Weights → Weights) (s : State) :
    (s.onWgt h).sys = s.sys := rfl
@[simp] theorem State.onWgt_ic (h : Weights → Weights) (s : State) :
    (s.onWgt h).ic = s.ic := rfl
@[simp] theorem State.onWgt_dma (h : Weights → Weights) (s : State) :
    (s.onWgt h).dma = s.dma := rfl
@[simp] theorem State.onWgt_mgt (h : Weights → Weights) (s : State) :
    (s.onWgt h).mgt = s.mgt := rfl
@[simp] theorem State.onWgt_cfg (h : Weights → Weights) (s : State) :
    (s.onWgt h).cfg = s.cfg := rfl
@[simp] theorem State.onWgt_pins (h : Weights → Weights) (s : State) :
    (s.onWgt h).pins = s.pins := rfl
@[simp] theorem State.onWgt_host (h : Weights → Weights) (s : State) :
    (s.onWgt h).host = s.host := rfl
@[simp] theorem State.onWgt_freeCount (h : Weights → Weights) (s : State) :
    (s.onWgt h).freeCount = s.freeCount := rfl
@[simp] theorem State.onWgt_pending (h : Weights → Weights) (s : State) :
    (s.onWgt h).pending = s.pending := rfl
@[simp] theorem State.onSrv_cad (h : Serving → Serving) (s : State) :
    (s.onSrv h).cad = s.cad := rfl
@[simp] theorem State.onSrv_step (h : Serving → Serving) (s : State) :
    (s.onSrv h).step = s.step := rfl
@[simp] theorem State.onSrv_grid (h : Serving → Serving) (s : State) :
    (s.onSrv h).grid = s.grid := rfl
@[simp] theorem State.onSrv_arith (h : Serving → Serving) (s : State) :
    (s.onSrv h).arith = s.arith := rfl
@[simp] theorem State.onSrv_cyl (h : Serving → Serving) (s : State) :
    (s.onSrv h).cyl = s.cyl := rfl
@[simp] theorem State.onSrv_mem (h : Serving → Serving) (s : State) :
    (s.onSrv h).mem = s.mem := rfl
@[simp] theorem State.onSrv_wgt (h : Serving → Serving) (s : State) :
    (s.onSrv h).wgt = s.wgt := rfl
@[simp] theorem State.onSrv_srv (h : Serving → Serving) (s : State) :
    (s.onSrv h).srv = h s.srv := rfl
@[simp] theorem State.onSrv_cmd (h : Serving → Serving) (s : State) :
    (s.onSrv h).cmd = s.cmd := rfl
@[simp] theorem State.onSrv_hlt (h : Serving → Serving) (s : State) :
    (s.onSrv h).hlt = s.hlt := rfl
@[simp] theorem State.onSrv_fab (h : Serving → Serving) (s : State) :
    (s.onSrv h).fab = s.fab := rfl
@[simp] theorem State.onSrv_pwr (h : Serving → Serving) (s : State) :
    (s.onSrv h).pwr = s.pwr := rfl
@[simp] theorem State.onSrv_store (h : Serving → Serving) (s : State) :
    (s.onSrv h).store = s.store := rfl
@[simp] theorem State.onSrv_sys (h : Serving → Serving) (s : State) :
    (s.onSrv h).sys = s.sys := rfl
@[simp] theorem State.onSrv_ic (h : Serving → Serving) (s : State) :
    (s.onSrv h).ic = s.ic := rfl
@[simp] theorem State.onSrv_dma (h : Serving → Serving) (s : State) :
    (s.onSrv h).dma = s.dma := rfl
@[simp] theorem State.onSrv_mgt (h : Serving → Serving) (s : State) :
    (s.onSrv h).mgt = s.mgt := rfl
@[simp] theorem State.onSrv_cfg (h : Serving → Serving) (s : State) :
    (s.onSrv h).cfg = s.cfg := rfl
@[simp] theorem State.onSrv_pins (h : Serving → Serving) (s : State) :
    (s.onSrv h).pins = s.pins := rfl
@[simp] theorem State.onSrv_host (h : Serving → Serving) (s : State) :
    (s.onSrv h).host = s.host := rfl
@[simp] theorem State.onSrv_freeCount (h : Serving → Serving) (s : State) :
    (s.onSrv h).freeCount = s.freeCount := rfl
@[simp] theorem State.onSrv_pending (h : Serving → Serving) (s : State) :
    (s.onSrv h).pending = s.pending := rfl
@[simp] theorem State.onCmd_cad (h : Command → Command) (s : State) :
    (s.onCmd h).cad = s.cad := rfl
@[simp] theorem State.onCmd_step (h : Command → Command) (s : State) :
    (s.onCmd h).step = s.step := rfl
@[simp] theorem State.onCmd_grid (h : Command → Command) (s : State) :
    (s.onCmd h).grid = s.grid := rfl
@[simp] theorem State.onCmd_arith (h : Command → Command) (s : State) :
    (s.onCmd h).arith = s.arith := rfl
@[simp] theorem State.onCmd_cyl (h : Command → Command) (s : State) :
    (s.onCmd h).cyl = s.cyl := rfl
@[simp] theorem State.onCmd_mem (h : Command → Command) (s : State) :
    (s.onCmd h).mem = s.mem := rfl
@[simp] theorem State.onCmd_wgt (h : Command → Command) (s : State) :
    (s.onCmd h).wgt = s.wgt := rfl
@[simp] theorem State.onCmd_srv (h : Command → Command) (s : State) :
    (s.onCmd h).srv = s.srv := rfl
@[simp] theorem State.onCmd_cmd (h : Command → Command) (s : State) :
    (s.onCmd h).cmd = h s.cmd := rfl
@[simp] theorem State.onCmd_hlt (h : Command → Command) (s : State) :
    (s.onCmd h).hlt = s.hlt := rfl
@[simp] theorem State.onCmd_fab (h : Command → Command) (s : State) :
    (s.onCmd h).fab = s.fab := rfl
@[simp] theorem State.onCmd_pwr (h : Command → Command) (s : State) :
    (s.onCmd h).pwr = s.pwr := rfl
@[simp] theorem State.onCmd_store (h : Command → Command) (s : State) :
    (s.onCmd h).store = s.store := rfl
@[simp] theorem State.onCmd_sys (h : Command → Command) (s : State) :
    (s.onCmd h).sys = s.sys := rfl
@[simp] theorem State.onCmd_ic (h : Command → Command) (s : State) :
    (s.onCmd h).ic = s.ic := rfl
@[simp] theorem State.onCmd_dma (h : Command → Command) (s : State) :
    (s.onCmd h).dma = s.dma := rfl
@[simp] theorem State.onCmd_mgt (h : Command → Command) (s : State) :
    (s.onCmd h).mgt = s.mgt := rfl
@[simp] theorem State.onCmd_cfg (h : Command → Command) (s : State) :
    (s.onCmd h).cfg = s.cfg := rfl
@[simp] theorem State.onCmd_pins (h : Command → Command) (s : State) :
    (s.onCmd h).pins = s.pins := rfl
@[simp] theorem State.onCmd_host (h : Command → Command) (s : State) :
    (s.onCmd h).host = s.host := rfl
@[simp] theorem State.onCmd_freeCount (h : Command → Command) (s : State) :
    (s.onCmd h).freeCount = s.freeCount := rfl
@[simp] theorem State.onCmd_pending (h : Command → Command) (s : State) :
    (s.onCmd h).pending = s.pending := rfl
@[simp] theorem State.onHlt_cad (h : Health → Health) (s : State) :
    (s.onHlt h).cad = s.cad := rfl
@[simp] theorem State.onHlt_step (h : Health → Health) (s : State) :
    (s.onHlt h).step = s.step := rfl
@[simp] theorem State.onHlt_grid (h : Health → Health) (s : State) :
    (s.onHlt h).grid = s.grid := rfl
@[simp] theorem State.onHlt_arith (h : Health → Health) (s : State) :
    (s.onHlt h).arith = s.arith := rfl
@[simp] theorem State.onHlt_cyl (h : Health → Health) (s : State) :
    (s.onHlt h).cyl = s.cyl := rfl
@[simp] theorem State.onHlt_mem (h : Health → Health) (s : State) :
    (s.onHlt h).mem = s.mem := rfl
@[simp] theorem State.onHlt_wgt (h : Health → Health) (s : State) :
    (s.onHlt h).wgt = s.wgt := rfl
@[simp] theorem State.onHlt_srv (h : Health → Health) (s : State) :
    (s.onHlt h).srv = s.srv := rfl
@[simp] theorem State.onHlt_cmd (h : Health → Health) (s : State) :
    (s.onHlt h).cmd = s.cmd := rfl
@[simp] theorem State.onHlt_hlt (h : Health → Health) (s : State) :
    (s.onHlt h).hlt = h s.hlt := rfl
@[simp] theorem State.onHlt_fab (h : Health → Health) (s : State) :
    (s.onHlt h).fab = s.fab := rfl
@[simp] theorem State.onHlt_pwr (h : Health → Health) (s : State) :
    (s.onHlt h).pwr = s.pwr := rfl
@[simp] theorem State.onHlt_store (h : Health → Health) (s : State) :
    (s.onHlt h).store = s.store := rfl
@[simp] theorem State.onHlt_sys (h : Health → Health) (s : State) :
    (s.onHlt h).sys = s.sys := rfl
@[simp] theorem State.onHlt_ic (h : Health → Health) (s : State) :
    (s.onHlt h).ic = s.ic := rfl
@[simp] theorem State.onHlt_dma (h : Health → Health) (s : State) :
    (s.onHlt h).dma = s.dma := rfl
@[simp] theorem State.onHlt_mgt (h : Health → Health) (s : State) :
    (s.onHlt h).mgt = s.mgt := rfl
@[simp] theorem State.onHlt_cfg (h : Health → Health) (s : State) :
    (s.onHlt h).cfg = s.cfg := rfl
@[simp] theorem State.onHlt_pins (h : Health → Health) (s : State) :
    (s.onHlt h).pins = s.pins := rfl
@[simp] theorem State.onHlt_host (h : Health → Health) (s : State) :
    (s.onHlt h).host = s.host := rfl
@[simp] theorem State.onHlt_freeCount (h : Health → Health) (s : State) :
    (s.onHlt h).freeCount = s.freeCount := rfl
@[simp] theorem State.onHlt_pending (h : Health → Health) (s : State) :
    (s.onHlt h).pending = s.pending := rfl
@[simp] theorem State.onFab_cad (h : Fabric → Fabric) (s : State) :
    (s.onFab h).cad = s.cad := rfl
@[simp] theorem State.onFab_step (h : Fabric → Fabric) (s : State) :
    (s.onFab h).step = s.step := rfl
@[simp] theorem State.onFab_grid (h : Fabric → Fabric) (s : State) :
    (s.onFab h).grid = s.grid := rfl
@[simp] theorem State.onFab_arith (h : Fabric → Fabric) (s : State) :
    (s.onFab h).arith = s.arith := rfl
@[simp] theorem State.onFab_cyl (h : Fabric → Fabric) (s : State) :
    (s.onFab h).cyl = s.cyl := rfl
@[simp] theorem State.onFab_mem (h : Fabric → Fabric) (s : State) :
    (s.onFab h).mem = s.mem := rfl
@[simp] theorem State.onFab_wgt (h : Fabric → Fabric) (s : State) :
    (s.onFab h).wgt = s.wgt := rfl
@[simp] theorem State.onFab_srv (h : Fabric → Fabric) (s : State) :
    (s.onFab h).srv = s.srv := rfl
@[simp] theorem State.onFab_cmd (h : Fabric → Fabric) (s : State) :
    (s.onFab h).cmd = s.cmd := rfl
@[simp] theorem State.onFab_hlt (h : Fabric → Fabric) (s : State) :
    (s.onFab h).hlt = s.hlt := rfl
@[simp] theorem State.onFab_fab (h : Fabric → Fabric) (s : State) :
    (s.onFab h).fab = h s.fab := rfl
@[simp] theorem State.onFab_pwr (h : Fabric → Fabric) (s : State) :
    (s.onFab h).pwr = s.pwr := rfl
@[simp] theorem State.onFab_store (h : Fabric → Fabric) (s : State) :
    (s.onFab h).store = s.store := rfl
@[simp] theorem State.onFab_sys (h : Fabric → Fabric) (s : State) :
    (s.onFab h).sys = s.sys := rfl
@[simp] theorem State.onFab_ic (h : Fabric → Fabric) (s : State) :
    (s.onFab h).ic = s.ic := rfl
@[simp] theorem State.onFab_dma (h : Fabric → Fabric) (s : State) :
    (s.onFab h).dma = s.dma := rfl
@[simp] theorem State.onFab_mgt (h : Fabric → Fabric) (s : State) :
    (s.onFab h).mgt = s.mgt := rfl
@[simp] theorem State.onFab_cfg (h : Fabric → Fabric) (s : State) :
    (s.onFab h).cfg = s.cfg := rfl
@[simp] theorem State.onFab_pins (h : Fabric → Fabric) (s : State) :
    (s.onFab h).pins = s.pins := rfl
@[simp] theorem State.onFab_host (h : Fabric → Fabric) (s : State) :
    (s.onFab h).host = s.host := rfl
@[simp] theorem State.onFab_freeCount (h : Fabric → Fabric) (s : State) :
    (s.onFab h).freeCount = s.freeCount := rfl
@[simp] theorem State.onFab_pending (h : Fabric → Fabric) (s : State) :
    (s.onFab h).pending = s.pending := rfl
@[simp] theorem State.onPwr_cad (h : Power → Power) (s : State) :
    (s.onPwr h).cad = s.cad := rfl
@[simp] theorem State.onPwr_step (h : Power → Power) (s : State) :
    (s.onPwr h).step = s.step := rfl
@[simp] theorem State.onPwr_grid (h : Power → Power) (s : State) :
    (s.onPwr h).grid = s.grid := rfl
@[simp] theorem State.onPwr_arith (h : Power → Power) (s : State) :
    (s.onPwr h).arith = s.arith := rfl
@[simp] theorem State.onPwr_cyl (h : Power → Power) (s : State) :
    (s.onPwr h).cyl = s.cyl := rfl
@[simp] theorem State.onPwr_mem (h : Power → Power) (s : State) :
    (s.onPwr h).mem = s.mem := rfl
@[simp] theorem State.onPwr_wgt (h : Power → Power) (s : State) :
    (s.onPwr h).wgt = s.wgt := rfl
@[simp] theorem State.onPwr_srv (h : Power → Power) (s : State) :
    (s.onPwr h).srv = s.srv := rfl
@[simp] theorem State.onPwr_cmd (h : Power → Power) (s : State) :
    (s.onPwr h).cmd = s.cmd := rfl
@[simp] theorem State.onPwr_hlt (h : Power → Power) (s : State) :
    (s.onPwr h).hlt = s.hlt := rfl
@[simp] theorem State.onPwr_fab (h : Power → Power) (s : State) :
    (s.onPwr h).fab = s.fab := rfl
@[simp] theorem State.onPwr_pwr (h : Power → Power) (s : State) :
    (s.onPwr h).pwr = h s.pwr := rfl
@[simp] theorem State.onPwr_store (h : Power → Power) (s : State) :
    (s.onPwr h).store = s.store := rfl
@[simp] theorem State.onPwr_sys (h : Power → Power) (s : State) :
    (s.onPwr h).sys = s.sys := rfl
@[simp] theorem State.onPwr_ic (h : Power → Power) (s : State) :
    (s.onPwr h).ic = s.ic := rfl
@[simp] theorem State.onPwr_dma (h : Power → Power) (s : State) :
    (s.onPwr h).dma = s.dma := rfl
@[simp] theorem State.onPwr_mgt (h : Power → Power) (s : State) :
    (s.onPwr h).mgt = s.mgt := rfl
@[simp] theorem State.onPwr_cfg (h : Power → Power) (s : State) :
    (s.onPwr h).cfg = s.cfg := rfl
@[simp] theorem State.onPwr_pins (h : Power → Power) (s : State) :
    (s.onPwr h).pins = s.pins := rfl
@[simp] theorem State.onPwr_host (h : Power → Power) (s : State) :
    (s.onPwr h).host = s.host := rfl
@[simp] theorem State.onPwr_freeCount (h : Power → Power) (s : State) :
    (s.onPwr h).freeCount = s.freeCount := rfl
@[simp] theorem State.onPwr_pending (h : Power → Power) (s : State) :
    (s.onPwr h).pending = s.pending := rfl
@[simp] theorem State.onStore_cad (h : Store → Store) (s : State) :
    (s.onStore h).cad = s.cad := rfl
@[simp] theorem State.onStore_step (h : Store → Store) (s : State) :
    (s.onStore h).step = s.step := rfl
@[simp] theorem State.onStore_grid (h : Store → Store) (s : State) :
    (s.onStore h).grid = s.grid := rfl
@[simp] theorem State.onStore_arith (h : Store → Store) (s : State) :
    (s.onStore h).arith = s.arith := rfl
@[simp] theorem State.onStore_cyl (h : Store → Store) (s : State) :
    (s.onStore h).cyl = s.cyl := rfl
@[simp] theorem State.onStore_mem (h : Store → Store) (s : State) :
    (s.onStore h).mem = s.mem := rfl
@[simp] theorem State.onStore_wgt (h : Store → Store) (s : State) :
    (s.onStore h).wgt = s.wgt := rfl
@[simp] theorem State.onStore_srv (h : Store → Store) (s : State) :
    (s.onStore h).srv = s.srv := rfl
@[simp] theorem State.onStore_cmd (h : Store → Store) (s : State) :
    (s.onStore h).cmd = s.cmd := rfl
@[simp] theorem State.onStore_hlt (h : Store → Store) (s : State) :
    (s.onStore h).hlt = s.hlt := rfl
@[simp] theorem State.onStore_fab (h : Store → Store) (s : State) :
    (s.onStore h).fab = s.fab := rfl
@[simp] theorem State.onStore_pwr (h : Store → Store) (s : State) :
    (s.onStore h).pwr = s.pwr := rfl
@[simp] theorem State.onStore_store (h : Store → Store) (s : State) :
    (s.onStore h).store = h s.store := rfl
@[simp] theorem State.onStore_sys (h : Store → Store) (s : State) :
    (s.onStore h).sys = s.sys := rfl
@[simp] theorem State.onStore_ic (h : Store → Store) (s : State) :
    (s.onStore h).ic = s.ic := rfl
@[simp] theorem State.onStore_dma (h : Store → Store) (s : State) :
    (s.onStore h).dma = s.dma := rfl
@[simp] theorem State.onStore_mgt (h : Store → Store) (s : State) :
    (s.onStore h).mgt = s.mgt := rfl
@[simp] theorem State.onStore_cfg (h : Store → Store) (s : State) :
    (s.onStore h).cfg = s.cfg := rfl
@[simp] theorem State.onStore_pins (h : Store → Store) (s : State) :
    (s.onStore h).pins = s.pins := rfl
@[simp] theorem State.onStore_host (h : Store → Store) (s : State) :
    (s.onStore h).host = s.host := rfl
@[simp] theorem State.onStore_freeCount (h : Store → Store) (s : State) :
    (s.onStore h).freeCount = s.freeCount := rfl
@[simp] theorem State.onStore_pending (h : Store → Store) (s : State) :
    (s.onStore h).pending = s.pending := rfl
@[simp] theorem State.onSys_cad (h : Sys → Sys) (s : State) :
    (s.onSys h).cad = s.cad := rfl
@[simp] theorem State.onSys_step (h : Sys → Sys) (s : State) :
    (s.onSys h).step = s.step := rfl
@[simp] theorem State.onSys_grid (h : Sys → Sys) (s : State) :
    (s.onSys h).grid = s.grid := rfl
@[simp] theorem State.onSys_arith (h : Sys → Sys) (s : State) :
    (s.onSys h).arith = s.arith := rfl
@[simp] theorem State.onSys_cyl (h : Sys → Sys) (s : State) :
    (s.onSys h).cyl = s.cyl := rfl
@[simp] theorem State.onSys_mem (h : Sys → Sys) (s : State) :
    (s.onSys h).mem = s.mem := rfl
@[simp] theorem State.onSys_wgt (h : Sys → Sys) (s : State) :
    (s.onSys h).wgt = s.wgt := rfl
@[simp] theorem State.onSys_srv (h : Sys → Sys) (s : State) :
    (s.onSys h).srv = s.srv := rfl
@[simp] theorem State.onSys_cmd (h : Sys → Sys) (s : State) :
    (s.onSys h).cmd = s.cmd := rfl
@[simp] theorem State.onSys_hlt (h : Sys → Sys) (s : State) :
    (s.onSys h).hlt = s.hlt := rfl
@[simp] theorem State.onSys_fab (h : Sys → Sys) (s : State) :
    (s.onSys h).fab = s.fab := rfl
@[simp] theorem State.onSys_pwr (h : Sys → Sys) (s : State) :
    (s.onSys h).pwr = s.pwr := rfl
@[simp] theorem State.onSys_store (h : Sys → Sys) (s : State) :
    (s.onSys h).store = s.store := rfl
@[simp] theorem State.onSys_sys (h : Sys → Sys) (s : State) :
    (s.onSys h).sys = h s.sys := rfl
@[simp] theorem State.onSys_ic (h : Sys → Sys) (s : State) :
    (s.onSys h).ic = s.ic := rfl
@[simp] theorem State.onSys_dma (h : Sys → Sys) (s : State) :
    (s.onSys h).dma = s.dma := rfl
@[simp] theorem State.onSys_mgt (h : Sys → Sys) (s : State) :
    (s.onSys h).mgt = s.mgt := rfl
@[simp] theorem State.onSys_cfg (h : Sys → Sys) (s : State) :
    (s.onSys h).cfg = s.cfg := rfl
@[simp] theorem State.onSys_pins (h : Sys → Sys) (s : State) :
    (s.onSys h).pins = s.pins := rfl
@[simp] theorem State.onSys_host (h : Sys → Sys) (s : State) :
    (s.onSys h).host = s.host := rfl
@[simp] theorem State.onSys_freeCount (h : Sys → Sys) (s : State) :
    (s.onSys h).freeCount = s.freeCount := rfl
@[simp] theorem State.onSys_pending (h : Sys → Sys) (s : State) :
    (s.onSys h).pending = s.pending := rfl
@[simp] theorem State.onIc_cad (h : Ic → Ic) (s : State) :
    (s.onIc h).cad = s.cad := rfl
@[simp] theorem State.onIc_step (h : Ic → Ic) (s : State) :
    (s.onIc h).step = s.step := rfl
@[simp] theorem State.onIc_grid (h : Ic → Ic) (s : State) :
    (s.onIc h).grid = s.grid := rfl
@[simp] theorem State.onIc_arith (h : Ic → Ic) (s : State) :
    (s.onIc h).arith = s.arith := rfl
@[simp] theorem State.onIc_cyl (h : Ic → Ic) (s : State) :
    (s.onIc h).cyl = s.cyl := rfl
@[simp] theorem State.onIc_mem (h : Ic → Ic) (s : State) :
    (s.onIc h).mem = s.mem := rfl
@[simp] theorem State.onIc_wgt (h : Ic → Ic) (s : State) :
    (s.onIc h).wgt = s.wgt := rfl
@[simp] theorem State.onIc_srv (h : Ic → Ic) (s : State) :
    (s.onIc h).srv = s.srv := rfl
@[simp] theorem State.onIc_cmd (h : Ic → Ic) (s : State) :
    (s.onIc h).cmd = s.cmd := rfl
@[simp] theorem State.onIc_hlt (h : Ic → Ic) (s : State) :
    (s.onIc h).hlt = s.hlt := rfl
@[simp] theorem State.onIc_fab (h : Ic → Ic) (s : State) :
    (s.onIc h).fab = s.fab := rfl
@[simp] theorem State.onIc_pwr (h : Ic → Ic) (s : State) :
    (s.onIc h).pwr = s.pwr := rfl
@[simp] theorem State.onIc_store (h : Ic → Ic) (s : State) :
    (s.onIc h).store = s.store := rfl
@[simp] theorem State.onIc_sys (h : Ic → Ic) (s : State) :
    (s.onIc h).sys = s.sys := rfl
@[simp] theorem State.onIc_ic (h : Ic → Ic) (s : State) :
    (s.onIc h).ic = h s.ic := rfl
@[simp] theorem State.onIc_dma (h : Ic → Ic) (s : State) :
    (s.onIc h).dma = s.dma := rfl
@[simp] theorem State.onIc_mgt (h : Ic → Ic) (s : State) :
    (s.onIc h).mgt = s.mgt := rfl
@[simp] theorem State.onIc_cfg (h : Ic → Ic) (s : State) :
    (s.onIc h).cfg = s.cfg := rfl
@[simp] theorem State.onIc_pins (h : Ic → Ic) (s : State) :
    (s.onIc h).pins = s.pins := rfl
@[simp] theorem State.onIc_host (h : Ic → Ic) (s : State) :
    (s.onIc h).host = s.host := rfl
@[simp] theorem State.onIc_freeCount (h : Ic → Ic) (s : State) :
    (s.onIc h).freeCount = s.freeCount := rfl
@[simp] theorem State.onIc_pending (h : Ic → Ic) (s : State) :
    (s.onIc h).pending = s.pending := rfl
@[simp] theorem State.onDma_cad (h : Dma → Dma) (s : State) :
    (s.onDma h).cad = s.cad := rfl
@[simp] theorem State.onDma_step (h : Dma → Dma) (s : State) :
    (s.onDma h).step = s.step := rfl
@[simp] theorem State.onDma_grid (h : Dma → Dma) (s : State) :
    (s.onDma h).grid = s.grid := rfl
@[simp] theorem State.onDma_arith (h : Dma → Dma) (s : State) :
    (s.onDma h).arith = s.arith := rfl
@[simp] theorem State.onDma_cyl (h : Dma → Dma) (s : State) :
    (s.onDma h).cyl = s.cyl := rfl
@[simp] theorem State.onDma_mem (h : Dma → Dma) (s : State) :
    (s.onDma h).mem = s.mem := rfl
@[simp] theorem State.onDma_wgt (h : Dma → Dma) (s : State) :
    (s.onDma h).wgt = s.wgt := rfl
@[simp] theorem State.onDma_srv (h : Dma → Dma) (s : State) :
    (s.onDma h).srv = s.srv := rfl
@[simp] theorem State.onDma_cmd (h : Dma → Dma) (s : State) :
    (s.onDma h).cmd = s.cmd := rfl
@[simp] theorem State.onDma_hlt (h : Dma → Dma) (s : State) :
    (s.onDma h).hlt = s.hlt := rfl
@[simp] theorem State.onDma_fab (h : Dma → Dma) (s : State) :
    (s.onDma h).fab = s.fab := rfl
@[simp] theorem State.onDma_pwr (h : Dma → Dma) (s : State) :
    (s.onDma h).pwr = s.pwr := rfl
@[simp] theorem State.onDma_store (h : Dma → Dma) (s : State) :
    (s.onDma h).store = s.store := rfl
@[simp] theorem State.onDma_sys (h : Dma → Dma) (s : State) :
    (s.onDma h).sys = s.sys := rfl
@[simp] theorem State.onDma_ic (h : Dma → Dma) (s : State) :
    (s.onDma h).ic = s.ic := rfl
@[simp] theorem State.onDma_dma (h : Dma → Dma) (s : State) :
    (s.onDma h).dma = h s.dma := rfl
@[simp] theorem State.onDma_mgt (h : Dma → Dma) (s : State) :
    (s.onDma h).mgt = s.mgt := rfl
@[simp] theorem State.onDma_cfg (h : Dma → Dma) (s : State) :
    (s.onDma h).cfg = s.cfg := rfl
@[simp] theorem State.onDma_pins (h : Dma → Dma) (s : State) :
    (s.onDma h).pins = s.pins := rfl
@[simp] theorem State.onDma_host (h : Dma → Dma) (s : State) :
    (s.onDma h).host = s.host := rfl
@[simp] theorem State.onDma_freeCount (h : Dma → Dma) (s : State) :
    (s.onDma h).freeCount = s.freeCount := rfl
@[simp] theorem State.onDma_pending (h : Dma → Dma) (s : State) :
    (s.onDma h).pending = s.pending := rfl
@[simp] theorem State.onMgt_cad (h : Mgt → Mgt) (s : State) :
    (s.onMgt h).cad = s.cad := rfl
@[simp] theorem State.onMgt_step (h : Mgt → Mgt) (s : State) :
    (s.onMgt h).step = s.step := rfl
@[simp] theorem State.onMgt_grid (h : Mgt → Mgt) (s : State) :
    (s.onMgt h).grid = s.grid := rfl
@[simp] theorem State.onMgt_arith (h : Mgt → Mgt) (s : State) :
    (s.onMgt h).arith = s.arith := rfl
@[simp] theorem State.onMgt_cyl (h : Mgt → Mgt) (s : State) :
    (s.onMgt h).cyl = s.cyl := rfl
@[simp] theorem State.onMgt_mem (h : Mgt → Mgt) (s : State) :
    (s.onMgt h).mem = s.mem := rfl
@[simp] theorem State.onMgt_wgt (h : Mgt → Mgt) (s : State) :
    (s.onMgt h).wgt = s.wgt := rfl
@[simp] theorem State.onMgt_srv (h : Mgt → Mgt) (s : State) :
    (s.onMgt h).srv = s.srv := rfl
@[simp] theorem State.onMgt_cmd (h : Mgt → Mgt) (s : State) :
    (s.onMgt h).cmd = s.cmd := rfl
@[simp] theorem State.onMgt_hlt (h : Mgt → Mgt) (s : State) :
    (s.onMgt h).hlt = s.hlt := rfl
@[simp] theorem State.onMgt_fab (h : Mgt → Mgt) (s : State) :
    (s.onMgt h).fab = s.fab := rfl
@[simp] theorem State.onMgt_pwr (h : Mgt → Mgt) (s : State) :
    (s.onMgt h).pwr = s.pwr := rfl
@[simp] theorem State.onMgt_store (h : Mgt → Mgt) (s : State) :
    (s.onMgt h).store = s.store := rfl
@[simp] theorem State.onMgt_sys (h : Mgt → Mgt) (s : State) :
    (s.onMgt h).sys = s.sys := rfl
@[simp] theorem State.onMgt_ic (h : Mgt → Mgt) (s : State) :
    (s.onMgt h).ic = s.ic := rfl
@[simp] theorem State.onMgt_dma (h : Mgt → Mgt) (s : State) :
    (s.onMgt h).dma = s.dma := rfl
@[simp] theorem State.onMgt_mgt (h : Mgt → Mgt) (s : State) :
    (s.onMgt h).mgt = h s.mgt := rfl
@[simp] theorem State.onMgt_cfg (h : Mgt → Mgt) (s : State) :
    (s.onMgt h).cfg = s.cfg := rfl
@[simp] theorem State.onMgt_pins (h : Mgt → Mgt) (s : State) :
    (s.onMgt h).pins = s.pins := rfl
@[simp] theorem State.onMgt_host (h : Mgt → Mgt) (s : State) :
    (s.onMgt h).host = s.host := rfl
@[simp] theorem State.onMgt_freeCount (h : Mgt → Mgt) (s : State) :
    (s.onMgt h).freeCount = s.freeCount := rfl
@[simp] theorem State.onMgt_pending (h : Mgt → Mgt) (s : State) :
    (s.onMgt h).pending = s.pending := rfl
@[simp] theorem State.onCfg_cad (h : Config_ → Config_) (s : State) :
    (s.onCfg h).cad = s.cad := rfl
@[simp] theorem State.onCfg_step (h : Config_ → Config_) (s : State) :
    (s.onCfg h).step = s.step := rfl
@[simp] theorem State.onCfg_grid (h : Config_ → Config_) (s : State) :
    (s.onCfg h).grid = s.grid := rfl
@[simp] theorem State.onCfg_arith (h : Config_ → Config_) (s : State) :
    (s.onCfg h).arith = s.arith := rfl
@[simp] theorem State.onCfg_cyl (h : Config_ → Config_) (s : State) :
    (s.onCfg h).cyl = s.cyl := rfl
@[simp] theorem State.onCfg_mem (h : Config_ → Config_) (s : State) :
    (s.onCfg h).mem = s.mem := rfl
@[simp] theorem State.onCfg_wgt (h : Config_ → Config_) (s : State) :
    (s.onCfg h).wgt = s.wgt := rfl
@[simp] theorem State.onCfg_srv (h : Config_ → Config_) (s : State) :
    (s.onCfg h).srv = s.srv := rfl
@[simp] theorem State.onCfg_cmd (h : Config_ → Config_) (s : State) :
    (s.onCfg h).cmd = s.cmd := rfl
@[simp] theorem State.onCfg_hlt (h : Config_ → Config_) (s : State) :
    (s.onCfg h).hlt = s.hlt := rfl
@[simp] theorem State.onCfg_fab (h : Config_ → Config_) (s : State) :
    (s.onCfg h).fab = s.fab := rfl
@[simp] theorem State.onCfg_pwr (h : Config_ → Config_) (s : State) :
    (s.onCfg h).pwr = s.pwr := rfl
@[simp] theorem State.onCfg_store (h : Config_ → Config_) (s : State) :
    (s.onCfg h).store = s.store := rfl
@[simp] theorem State.onCfg_sys (h : Config_ → Config_) (s : State) :
    (s.onCfg h).sys = s.sys := rfl
@[simp] theorem State.onCfg_ic (h : Config_ → Config_) (s : State) :
    (s.onCfg h).ic = s.ic := rfl
@[simp] theorem State.onCfg_dma (h : Config_ → Config_) (s : State) :
    (s.onCfg h).dma = s.dma := rfl
@[simp] theorem State.onCfg_mgt (h : Config_ → Config_) (s : State) :
    (s.onCfg h).mgt = s.mgt := rfl
@[simp] theorem State.onCfg_cfg (h : Config_ → Config_) (s : State) :
    (s.onCfg h).cfg = h s.cfg := rfl
@[simp] theorem State.onCfg_pins (h : Config_ → Config_) (s : State) :
    (s.onCfg h).pins = s.pins := rfl
@[simp] theorem State.onCfg_host (h : Config_ → Config_) (s : State) :
    (s.onCfg h).host = s.host := rfl
@[simp] theorem State.onCfg_freeCount (h : Config_ → Config_) (s : State) :
    (s.onCfg h).freeCount = s.freeCount := rfl
@[simp] theorem State.onCfg_pending (h : Config_ → Config_) (s : State) :
    (s.onCfg h).pending = s.pending := rfl
@[simp] theorem State.onPins_cad (h : Pins → Pins) (s : State) :
    (s.onPins h).cad = s.cad := rfl
@[simp] theorem State.onPins_step (h : Pins → Pins) (s : State) :
    (s.onPins h).step = s.step := rfl
@[simp] theorem State.onPins_grid (h : Pins → Pins) (s : State) :
    (s.onPins h).grid = s.grid := rfl
@[simp] theorem State.onPins_arith (h : Pins → Pins) (s : State) :
    (s.onPins h).arith = s.arith := rfl
@[simp] theorem State.onPins_cyl (h : Pins → Pins) (s : State) :
    (s.onPins h).cyl = s.cyl := rfl
@[simp] theorem State.onPins_mem (h : Pins → Pins) (s : State) :
    (s.onPins h).mem = s.mem := rfl
@[simp] theorem State.onPins_wgt (h : Pins → Pins) (s : State) :
    (s.onPins h).wgt = s.wgt := rfl
@[simp] theorem State.onPins_srv (h : Pins → Pins) (s : State) :
    (s.onPins h).srv = s.srv := rfl
@[simp] theorem State.onPins_cmd (h : Pins → Pins) (s : State) :
    (s.onPins h).cmd = s.cmd := rfl
@[simp] theorem State.onPins_hlt (h : Pins → Pins) (s : State) :
    (s.onPins h).hlt = s.hlt := rfl
@[simp] theorem State.onPins_fab (h : Pins → Pins) (s : State) :
    (s.onPins h).fab = s.fab := rfl
@[simp] theorem State.onPins_pwr (h : Pins → Pins) (s : State) :
    (s.onPins h).pwr = s.pwr := rfl
@[simp] theorem State.onPins_store (h : Pins → Pins) (s : State) :
    (s.onPins h).store = s.store := rfl
@[simp] theorem State.onPins_sys (h : Pins → Pins) (s : State) :
    (s.onPins h).sys = s.sys := rfl
@[simp] theorem State.onPins_ic (h : Pins → Pins) (s : State) :
    (s.onPins h).ic = s.ic := rfl
@[simp] theorem State.onPins_dma (h : Pins → Pins) (s : State) :
    (s.onPins h).dma = s.dma := rfl
@[simp] theorem State.onPins_mgt (h : Pins → Pins) (s : State) :
    (s.onPins h).mgt = s.mgt := rfl
@[simp] theorem State.onPins_cfg (h : Pins → Pins) (s : State) :
    (s.onPins h).cfg = s.cfg := rfl
@[simp] theorem State.onPins_pins (h : Pins → Pins) (s : State) :
    (s.onPins h).pins = h s.pins := rfl
@[simp] theorem State.onPins_host (h : Pins → Pins) (s : State) :
    (s.onPins h).host = s.host := rfl
@[simp] theorem State.onPins_freeCount (h : Pins → Pins) (s : State) :
    (s.onPins h).freeCount = s.freeCount := rfl
@[simp] theorem State.onPins_pending (h : Pins → Pins) (s : State) :
    (s.onPins h).pending = s.pending := rfl
@[simp] theorem State.onHost_cad (h : HostSide → HostSide) (s : State) :
    (s.onHost h).cad = s.cad := rfl
@[simp] theorem State.onHost_step (h : HostSide → HostSide) (s : State) :
    (s.onHost h).step = s.step := rfl
@[simp] theorem State.onHost_grid (h : HostSide → HostSide) (s : State) :
    (s.onHost h).grid = s.grid := rfl
@[simp] theorem State.onHost_arith (h : HostSide → HostSide) (s : State) :
    (s.onHost h).arith = s.arith := rfl
@[simp] theorem State.onHost_cyl (h : HostSide → HostSide) (s : State) :
    (s.onHost h).cyl = s.cyl := rfl
@[simp] theorem State.onHost_mem (h : HostSide → HostSide) (s : State) :
    (s.onHost h).mem = s.mem := rfl
@[simp] theorem State.onHost_wgt (h : HostSide → HostSide) (s : State) :
    (s.onHost h).wgt = s.wgt := rfl
@[simp] theorem State.onHost_srv (h : HostSide → HostSide) (s : State) :
    (s.onHost h).srv = s.srv := rfl
@[simp] theorem State.onHost_cmd (h : HostSide → HostSide) (s : State) :
    (s.onHost h).cmd = s.cmd := rfl
@[simp] theorem State.onHost_hlt (h : HostSide → HostSide) (s : State) :
    (s.onHost h).hlt = s.hlt := rfl
@[simp] theorem State.onHost_fab (h : HostSide → HostSide) (s : State) :
    (s.onHost h).fab = s.fab := rfl
@[simp] theorem State.onHost_pwr (h : HostSide → HostSide) (s : State) :
    (s.onHost h).pwr = s.pwr := rfl
@[simp] theorem State.onHost_store (h : HostSide → HostSide) (s : State) :
    (s.onHost h).store = s.store := rfl
@[simp] theorem State.onHost_sys (h : HostSide → HostSide) (s : State) :
    (s.onHost h).sys = s.sys := rfl
@[simp] theorem State.onHost_ic (h : HostSide → HostSide) (s : State) :
    (s.onHost h).ic = s.ic := rfl
@[simp] theorem State.onHost_dma (h : HostSide → HostSide) (s : State) :
    (s.onHost h).dma = s.dma := rfl
@[simp] theorem State.onHost_mgt (h : HostSide → HostSide) (s : State) :
    (s.onHost h).mgt = s.mgt := rfl
@[simp] theorem State.onHost_cfg (h : HostSide → HostSide) (s : State) :
    (s.onHost h).cfg = s.cfg := rfl
@[simp] theorem State.onHost_pins (h : HostSide → HostSide) (s : State) :
    (s.onHost h).pins = s.pins := rfl
@[simp] theorem State.onHost_host (h : HostSide → HostSide) (s : State) :
    (s.onHost h).host = h s.host := rfl
@[simp] theorem State.onHost_freeCount (h : HostSide → HostSide) (s : State) :
    (s.onHost h).freeCount = s.freeCount := rfl
@[simp] theorem State.onHost_pending (h : HostSide → HostSide) (s : State) :
    (s.onHost h).pending = s.pending := rfl
@[simp] theorem State.onFreeCount_cad (h : Nat → Nat) (s : State) :
    (s.onFreeCount h).cad = s.cad := rfl
@[simp] theorem State.onFreeCount_step (h : Nat → Nat) (s : State) :
    (s.onFreeCount h).step = s.step := rfl
@[simp] theorem State.onFreeCount_grid (h : Nat → Nat) (s : State) :
    (s.onFreeCount h).grid = s.grid := rfl
@[simp] theorem State.onFreeCount_arith (h : Nat → Nat) (s : State) :
    (s.onFreeCount h).arith = s.arith := rfl
@[simp] theorem State.onFreeCount_cyl (h : Nat → Nat) (s : State) :
    (s.onFreeCount h).cyl = s.cyl := rfl
@[simp] theorem State.onFreeCount_mem (h : Nat → Nat) (s : State) :
    (s.onFreeCount h).mem = s.mem := rfl
@[simp] theorem State.onFreeCount_wgt (h : Nat → Nat) (s : State) :
    (s.onFreeCount h).wgt = s.wgt := rfl
@[simp] theorem State.onFreeCount_srv (h : Nat → Nat) (s : State) :
    (s.onFreeCount h).srv = s.srv := rfl
@[simp] theorem State.onFreeCount_cmd (h : Nat → Nat) (s : State) :
    (s.onFreeCount h).cmd = s.cmd := rfl
@[simp] theorem State.onFreeCount_hlt (h : Nat → Nat) (s : State) :
    (s.onFreeCount h).hlt = s.hlt := rfl
@[simp] theorem State.onFreeCount_fab (h : Nat → Nat) (s : State) :
    (s.onFreeCount h).fab = s.fab := rfl
@[simp] theorem State.onFreeCount_pwr (h : Nat → Nat) (s : State) :
    (s.onFreeCount h).pwr = s.pwr := rfl
@[simp] theorem State.onFreeCount_store (h : Nat → Nat) (s : State) :
    (s.onFreeCount h).store = s.store := rfl
@[simp] theorem State.onFreeCount_sys (h : Nat → Nat) (s : State) :
    (s.onFreeCount h).sys = s.sys := rfl
@[simp] theorem State.onFreeCount_ic (h : Nat → Nat) (s : State) :
    (s.onFreeCount h).ic = s.ic := rfl
@[simp] theorem State.onFreeCount_dma (h : Nat → Nat) (s : State) :
    (s.onFreeCount h).dma = s.dma := rfl
@[simp] theorem State.onFreeCount_mgt (h : Nat → Nat) (s : State) :
    (s.onFreeCount h).mgt = s.mgt := rfl
@[simp] theorem State.onFreeCount_cfg (h : Nat → Nat) (s : State) :
    (s.onFreeCount h).cfg = s.cfg := rfl
@[simp] theorem State.onFreeCount_pins (h : Nat → Nat) (s : State) :
    (s.onFreeCount h).pins = s.pins := rfl
@[simp] theorem State.onFreeCount_host (h : Nat → Nat) (s : State) :
    (s.onFreeCount h).host = s.host := rfl
@[simp] theorem State.onFreeCount_freeCount (h : Nat → Nat) (s : State) :
    (s.onFreeCount h).freeCount = h s.freeCount := rfl
@[simp] theorem State.onFreeCount_pending (h : Nat → Nat) (s : State) :
    (s.onFreeCount h).pending = s.pending := rfl
@[simp] theorem State.onPending_cad (h : List Instr → List Instr) (s : State) :
    (s.onPending h).cad = s.cad := rfl
@[simp] theorem State.onPending_step (h : List Instr → List Instr) (s : State) :
    (s.onPending h).step = s.step := rfl
@[simp] theorem State.onPending_grid (h : List Instr → List Instr) (s : State) :
    (s.onPending h).grid = s.grid := rfl
@[simp] theorem State.onPending_arith (h : List Instr → List Instr) (s : State) :
    (s.onPending h).arith = s.arith := rfl
@[simp] theorem State.onPending_cyl (h : List Instr → List Instr) (s : State) :
    (s.onPending h).cyl = s.cyl := rfl
@[simp] theorem State.onPending_mem (h : List Instr → List Instr) (s : State) :
    (s.onPending h).mem = s.mem := rfl
@[simp] theorem State.onPending_wgt (h : List Instr → List Instr) (s : State) :
    (s.onPending h).wgt = s.wgt := rfl
@[simp] theorem State.onPending_srv (h : List Instr → List Instr) (s : State) :
    (s.onPending h).srv = s.srv := rfl
@[simp] theorem State.onPending_cmd (h : List Instr → List Instr) (s : State) :
    (s.onPending h).cmd = s.cmd := rfl
@[simp] theorem State.onPending_hlt (h : List Instr → List Instr) (s : State) :
    (s.onPending h).hlt = s.hlt := rfl
@[simp] theorem State.onPending_fab (h : List Instr → List Instr) (s : State) :
    (s.onPending h).fab = s.fab := rfl
@[simp] theorem State.onPending_pwr (h : List Instr → List Instr) (s : State) :
    (s.onPending h).pwr = s.pwr := rfl
@[simp] theorem State.onPending_store (h : List Instr → List Instr) (s : State) :
    (s.onPending h).store = s.store := rfl
@[simp] theorem State.onPending_sys (h : List Instr → List Instr) (s : State) :
    (s.onPending h).sys = s.sys := rfl
@[simp] theorem State.onPending_ic (h : List Instr → List Instr) (s : State) :
    (s.onPending h).ic = s.ic := rfl
@[simp] theorem State.onPending_dma (h : List Instr → List Instr) (s : State) :
    (s.onPending h).dma = s.dma := rfl
@[simp] theorem State.onPending_mgt (h : List Instr → List Instr) (s : State) :
    (s.onPending h).mgt = s.mgt := rfl
@[simp] theorem State.onPending_cfg (h : List Instr → List Instr) (s : State) :
    (s.onPending h).cfg = s.cfg := rfl
@[simp] theorem State.onPending_pins (h : List Instr → List Instr) (s : State) :
    (s.onPending h).pins = s.pins := rfl
@[simp] theorem State.onPending_host (h : List Instr → List Instr) (s : State) :
    (s.onPending h).host = s.host := rfl
@[simp] theorem State.onPending_freeCount (h : List Instr → List Instr) (s : State) :
    (s.onPending h).freeCount = s.freeCount := rfl
@[simp] theorem State.onPending_pending (h : List Instr → List Instr) (s : State) :
    (s.onPending h).pending = h s.pending := rfl

end Sys2Proof.Machine
end

