-- ==== Sys2Proof/Tests/Slice0.lean ====
section
/-!
SUPPORT. Tests of the model: words of the encodings written out, a term that each check of the well-formedness refuses,
single steps whose results the specification gives, and states that meet the hypotheses of the statements.
-/
open Sys2Proof Sys2Proof.Machine
namespace Sys2Proof.Tests

/-! ### Terms -/

/-- Beat 0 of logical cell 0. -/
def here : At := { cell := 0, beat := 0 }

/-- An issue of a cell past the last. -/
def beyond : At := { cell := 1536, beat := 0 }

/-- An issue without conditions. -/
def plain : Guard := { skip := 0, chkCtr := 0, chkAdd := 0, sigEn := false, sigCtr := 0 }

/-- A transfer of one flit. -/
def oneFlit : DOp := { src := 1, dst := 0, len := 1, guard := plain }

/-- A vector operation of a type on registers 1 and 2 into 3. -/
def vop (ty : VType) : VOp := { vd := 3, va := 1, b := .reg 2, mask := 0, ty := ty, mod := 0 }

/-- A conversion of registers 0 and on to a format. -/
def cop (fmt : BitVec 3) : COp := { vd := 8, va := 0, tracker := 0, tracked := false, fmt := fmt, part := 0 }

/-- A frame of a kind, from chip 1 to chip 0 on port 0. -/
def frame (kind : BitVec 8) : FrameHdr :=
  { inPort := 0, tick := 0, mark := 0x4C50, kind := kind, epoch := 0, last := false, multicast := false, source := 1
    dest := 0, partition := 0, step := 0, replay := 0, stream := 0, outPort := 0, sequence := 0, flits := 0, empties := 0
    endMap := 0, reservedZero := true, crcOk := true, symbolErrors := [] }

/-- A cadence body. -/
def cadBody : CadenceBody := { kind := 2, sender := 1, partition := 0, sequence := 0, period := 0, correction := 0 }

/-- The body of a message of a move. -/
def moveBody : MoveBody :=
  { move := 1, op := 0, acked := 0, chunk := 0, owner := 0, index := 0, crc := 0, offset := 0, data := [] }

/-! ### Decoding -/

/-- R138: the opcode in bits [31:28]; of `MPASS` the shape in [27:26], `ADD` [25], the bank [24], `a` and `b` in [23:18] and
the guard in [14:0]; 0x5 is reserved, and so is bit 15 of `MPASS`. -/
theorem test_decode_matrix :
    decodeMatrix here 0x12041000 = some (.mpass here .s16 true false 0 1 { plain with skip := 1 }) ∧
    decodeMatrix here 0x20400013 = some (.mdrain here false false 2 { plain with sigEn := true, sigCtr := 3 }) ∧
    decodeMatrix here 0x50000000 = none ∧ decodeMatrix here 0x12049000 = none := by decide

/-- R139: of a transfer `src` in [27:25], `dst` in [24:22], `len` in [21:15]; of `DSETA` the register in [27:25], the half in
[24], the immediate in [15:0]; a `STEER` with a nonzero `dst` is reserved. -/
theorem test_decode_mover :
    decodeMover here 0x22008000 = some (.send here oneFlit) ∧
    decodeMover here 0x7500ABCD = some (.dseta here 2 true 0xABCD) ∧
    decodeMover here 0x62408000 = none ∧ decodeMover here 0x90000000 = none := by decide

/-- R140: of `ENDLOOP` the trip count in [27:12] and the body in [11:0], neither of them 0. -/
theorem test_decode_control :
    decodeControl here 0x20003005 = some (.endloop here 3 5) ∧ decodeControl here 0x20003000 = none ∧
    decodeControl here 0x20000005 = none ∧ decodeControl here 0 = some (.cnop here) := by decide

/-- R113, R114: formats V and S; type 3 is reserved, and so is opcode 0x09. -/
theorem test_decode_vector :
    decodeVector here 0x04611000 = some (.vadd here (vop .fp32)) ∧
    decodeVector here 0xFC81FFFF = some (.sadd here { sd := 2, sel := 1, imm := 0xFFFF }) ∧
    decodeVector here 0x046110C0 = none ∧ decodeVector here 0x24000000 = none := by decide

/-! ### Well-formed commands -/

/-- A well-formed command of each family. -/
theorem test_wellFormed :
    ([.boundary false true, .cadenceFrame (frame 3) cadBody, .mpass here .sa true true 7 0 plain, .gather here oneFlit,
      .steer here oneFlit, .endloop here 1 1, .vadd here (vop .bf16), .vcvtFp8 here (cop 1), .landingFlit 1599 0 false,
      .dataFrame (frame 1) 0 [], .moveOffer (frame 7) moveBody, .streamWindowEnd 63, .ttl2Expiry 1023, .slotTransmit 15 0,
      .memoryPatrolScrub 2 11 0 none 0, .registerWrite (at32 .host 0) 0, .diagNop 0] : List Instr).all Instr.wf = true := by
  decide

/-- A sub-slot of a cell that does not exist, or of a form that R115, R139 or R140 refuses. -/
theorem test_illFormed_subSlots :
    ([.mpass beyond .s16 false false 0 0 plain, .dnop beyond, .cnop beyond, .vnop beyond,
      .gather here { oneFlit with src := 7 }, .steer here { oneFlit with dst := 1 }, .endloop here 0 1, .endloop here 1 0,
      .idle here 0, .setskip here 0 0 0 0] : List Instr).all (fun i => !i.wf) = true := by decide

/-- A vector operation with a type, an operand or a format that R114 and R115 do not permit it. -/
theorem test_illFormed_vector :
    ([.vadd here (vop .int32), .exp2 here (vop .bf16), .iadd here (vop .fp32), .vbcast here (vop .fp32),
      .viota here (vop .int32), .vcmp here (vop .bf16), .mlog here { vop .fp32 with b := .scalar 0 },
      .vcvtBf16 here { cop 0 with tracked := true }, .vcvtFp8 here { cop 0 with va := 29 }, .vqblk here (cop 0),
      .vunpk here { cop 0 with part := 7 }, .smov here { sd := 0, sel := 0x30, imm := 0 }] : List Instr).all
        (fun i => !i.wf) = true := by decide

/-- An arrival, a stream or a port that does not exist, or a frame of another kind than its command's. -/
theorem test_illFormed_arrivals :
    ([.landingFlit 1600 0 false, .emptyFlit 1600 0 false, .t1PieceArrival 1536 0 false, .streamWindowEnd 64,
      .dataFrame { frame 1 with inPort := 16 } 0 [], .dataFrame (frame 2) 0 [], .verdictFrame (frame 1) ⟨true, 0, false, false,
        false, 0, 0, [], []⟩, .dataFrame { frame 1 with flits := 1 } 0 [],
      .verdictFrame { frame 2 with symbolErrors := [545] } ⟨true, 0, false, false, false, 0, 0, [], []⟩,
      .dataFrame { frame 1 with flits := 40 } 0 (List.replicate 40 0), .slotTransmit 16 0, .portStateDone 16 0xFF,
      .laneFailure 16 ⟨0, 0⟩, .echoFrame (frame 9) 0 1 0, .cadenceFrame (frame 4) cadBody] : List Instr).all
        (fun i => !i.wf) = true := by decide

/-- A context, a unit of memory, a source or a window that does not exist, and an event of no die. -/
theorem test_illFormed_units :
    ([.ttl2Expiry 1024, .ttl3Expiry 1024, .uncorrectableRead 1 0 8 0, .uncorrectableRead 2 0 12 0, .uncorrectableRead 4 0 0 0,
      .hbmStackFailure 8, .ddrChannelFailure 12, .flashDriveTimeout 8, .nvmeCompletion 8 0 .success, .marginTrip false false,
      .sourceAssert 0 true, .sourceAssert 1020 true, .icStormUnmask .host 1020 0, .vectorModerationTimeout 1984 0,
      .msixVectorUnmask 1984, .memoryPatrolScrub 3 0 0 none 0,
      .registerWrite { req := .sideband, bar2 := some 0, off := 0 } 0,
      .rcRegisterRead { req := .host, bar2 := none, vf := some 0, off := 0 },
      .latchedLowRead { req := .supervisor, bar2 := none, vf := some 1, off := 0 }] : List Instr).all
        (fun i => !i.wf) = true := by decide

/-! ### Numbers -/

/-- R78, R86: an infinity stays one in E5M2, and becomes the largest finite value of E4M3 with `saturated` and `inexact`. -/
theorem test_round_infinity :
    Fmt.e5m2.round (Fmt.fp32.decode 0x7F800000) = (0x7C, 0) ∧ (Fmt.e4m3.round (Fmt.fp32.decode 0x7F800000)).1 = 0x7E := by
  decide

/-- R85: the exact sum of 1.0 and 2^-24 lies halfway between two FP32 numbers, and rounds to the even one, 1.0. -/
theorem test_round_half_even :
    (Fmt.fp32.round ((Fmt.fp32.decode 0x3F800000).add (Fmt.fp32.decode 0x33800000))).1 = 0x3F800000 := by decide

/-- R309: a codeword of 544 symbols of which 514 are data corrects up to 15 symbols. -/
theorem test_codewords : decodeCodewords [15, 0, 16, 2] = (17, 1) := by decide

/-! ### States -/

/-- A record of `n` bytes: each field's offset, length and value. -/
def record (n : Nat) (fs : List (Nat × Nat × Nat)) : List (BitVec 8) :=
  (List.range n).map fun k => BitVec.ofNat 8 (fs.foldl (fun a f =>
    if f.1 ≤ k ∧ k < f.1 + f.2.1 then f.2.2 >>> (8 * (k - f.1)) else a) 0)

/-- The machine after reset, in a step that plays. -/
def playing : State := State.reset.onStep fun g => { g with playing := true, running := true }

/-- The machine after reset with its clocks enabled and a configuration committed. -/
def configured : State :=
  { State.reset with
    cfg := { State.reset.cfg with block := some [], stage := 8, inReset := false }
    sys := { State.reset.sys with clkEn := 0x3FF } }

/-- The handle of slot 0 in its first generation. -/
def h0 : BitVec 32 := 0x01000000

/-- A command accepted from function 0. -/
def live (op : BitVec 8) (fs : List (Nat × Nat × Nat)) : Live :=
  { Live.reset with opcode := op, params := record 64 fs, phase := .accepted }

/-- A state in which a command has been accepted under `h0`. -/
def given (l : Live) (s : State) : State := s.onCmd fun c => { c with live := [(0, l)] }

/-- A configured machine with a command accepted. -/
def asked (op : BitVec 8) (fs : List (Nat × Nat × Nat)) : State := given (live op fs) configured

/-- A state with the cadence locked and the clocks of the blocks enabled. -/
def armed (s : State) : State :=
  (s.onCad fun c => { c with state := .locked, b0Fixed := true, begun := true }).onSys fun g => { g with clkEn := 0x3FF }

/-- The image of a cylinder of stage 1 of two: one region on model 1, a hub string, the edge streams 0 from the fabric
and 1 from tier 2, and a steering stream of cell 0 with tag 9. -/
def image : List (BitVec 8) :=
  record 456 [(8, 8, 456), (16, 4, 5), (20, 2, 4), (24, 4, 16), (32, 2, 1), (34, 1, 2), (35, 1, 1), (36, 1, 1),
    (256, 2, 1), (260, 4, 320), (264, 4, 16), (268, 4, 1), (272, 2, 7), (276, 4, 336), (280, 4, 16), (284, 4, 1),
    (288, 2, 9), (292, 4, 352), (296, 4, 96), (300, 4, 2), (304, 2, 8), (308, 4, 448), (312, 4, 8), (316, 4, 1),
    (324, 2, 1), (328, 4, 1), (332, 1, 1),
    (340, 1, 1), (341, 1, 1), (342, 1, 1), (353, 1, 2), (400, 1, 1), (401, 1, 3), (424, 4, 1), (428, 1, 1),
    (451, 1, 4), (452, 1, 9)]

/-- The cylinder of that image, in a state of its own. -/
def cylinder (st : CylStatus) : KnownCyl := { KnownCyl.reset with id := 5, image := image, status := st }

/-- A state of chip 0 as stage 1 of a partition with chip 1, with that cylinder active. -/
def member (s : State) : State :=
  ((s.onCyl fun y => { y with known := [cylinder .active] }).onFab fun f => { f with
    size := 2, stage := 1, memberChips := [1, 0]
    ports := (List.replicate 16 Port.reset).set 0 { Port.reset with state := .up } }).onSys fun g => { g with clkEn := 0x3FF }

/-- A state whose port 0 is in a state. -/
def withPort (st : PortState) (s : State) : State := s.onPort 0 fun x => { x with state := st }

/-- A state with context 3 in a state. -/
def withCtx (st : CtxState) (s : State) : State := s.onSrv fun v => { v with ctxs := [(3, { Context.reset with state := st })] }

/-- The identifier of context 3. -/
def ctx3 : Nat := 0x10003

/-! ### Single steps -/

/-- The state that a step ends in, that of reset where it ends in none. -/
def after : Host.Outcome State Fault Refusal → State
  | .next t => t
  | _ => State.reset

/-- R45, R140: `SETSKIP` binds, and the queue's rest stays. -/
theorem test_step_setskip :
    let t := after (step { playing with pending := [.setskip here 1 2 3 4, .lastBeat] })
    t.pending = [.lastBeat] ∧ Sparse.get SkipBinding.reset (t.cell 0).skips 1 = { vl := 2, origin := 3, stride := 4 } := by
  decide +kernel

/-- R403: a write of `SYS_LOCK` sets bits and clears none. -/
theorem test_step_lock :
    (after (exec (.sysLockWrite .host 1) (after (exec (.sysLockWrite .host 2) configured)))).sys.lock.value = 3 := by
  decide +kernel

/-! ### States and operands that meet the hypotheses of the statements -/

/-- That of `IdleStepCounts` on an answer of the sideband: one that becomes due at the tick counted, and one that does not. -/
theorem test_hyp_idle :
    let s (t : Nat) : State := State.reset.onPins fun p => { p with sbDue := some (t, [0]) }
    (s 1).pending = [] ∧ 1 ≤ ({ s 1 with cad := { (s 1).cad with tb := (s 1).cad.tb + 1 } } : State).uptime ∧
    ({ s 2 with cad := { (s 2).cad with tb := (s 2).cad.tb + 1 } } : State).uptime < 2 := by decide +kernel

/-- Those of the statements about every command, over a step that does something. -/
theorem test_hyp_machine :
    State.reset.pending = [] ∧ (∀ h, Instr.lastBeat ≠ .manufacturingTest h) ∧ Mem.wf State.reset.host.mem = true ∧
      Mem.wf State.reset.mgt.fwSram = true ∧ (∃ t, exec (.cnop here) playing = .next t) ∧
      (∃ t, step { playing with pending := [.cnop here] } = .next t) ∧ (Instr.cnop here).issuedAt = some here ∧
      playing.plays here = true ∧ State.reset.plays here = false :=
  ⟨rfl, nofun, rfl, rfl, ⟨_, rfl⟩, ⟨_, rfl⟩, rfl, rfl, rfl⟩

/-- Those of the invariants: the state of reset meets each. -/
theorem test_hyp_invariants :
    let s := State.reset
    (s.memWf && s.mem.remotes.all (fun r => Mem.wf r.bytes) && s.wgt.models.all (fun m => Mem.wf m.staged) &&
      s.wgt.saved.all fun m => Mem.wf m.staged) = true ∧
    (s.grid.fence.a ++ s.grid.fence.b ++ s.grid.fence.c).all (fun e => decide (e.toNat ≤ 0x20) || decide (e = 0x3F)) = true ∧
    s.cyl.known = [] ∧ ∀ us, Instr.lastBeat ≠ .voteScan us := ⟨by decide +kernel, by decide +kernel, rfl, nofun⟩

/-- Those of the encodings: a well-formed sub-slot of each kind with its word. -/
theorem test_hyp_encodings :
    (Instr.vadd here (vop .fp32)).wf = true ∧ encodeVector (.vadd here (vop .fp32)) = some 0x04611000 ∧
    (Instr.mseta here 0 0x200).wf = true ∧ encodeMatrix (.mseta here 0 0x200) = some 0x30000200 ∧
    (Instr.send here oneFlit).wf = true ∧ encodeMover (.send here oneFlit) = some 0x22008000 ∧
    (Instr.endloop here 3 5).wf = true ∧ encodeControl (.endloop here 3 5) = some 0x20003005 ∧
    (decodeSlot here 0x30000200000000000000000052004000).isSome = true ∧ plain.skip = 0 ∧ plain.chkAdd = 0 := by decide

/-- Those of the vector and scalar operations. -/
theorem test_hyp_vector :
    playing.plays here = true ∧ (vop .fp32).ty = .fp32 ∧ (vop .bf16).ty = .bf16 ∧ (vop .int32).ty = .int32 ∧
    ({ vop .int32 with b := .scalar 15 } : VOp).b = .scalar 15 ∧ (vop .fp32).b = .reg 2 ∧ (cop 0).tracked = false ∧
    ({ cop 1 with tracked := true } : COp).tracked = true ∧ (unpkFmt 0).isSome = true ∧ (1 : BitVec 3).toNat = 1 ∧
    (4 : BitVec 3).toNat = 4 ∧ ((0x1F : BitVec 6).extractLsb' 4 2 = 1) ∧ ((0x0F : BitVec 6).extractLsb' 4 2 = 0) ∧
    (encodeVector (.vadd here (vop .fp32))).isSome = true := by decide

/-- Those of `CanonicalNaNs`: a NaN, and what rounds to one. -/
theorem test_hyp_nan :
    (Fmt.fp32.decode 0x7FC00001).isNan = true ∧
    (Fmt.fp16.decode (Fmt.fp16.round (Fmt.fp32.decode 0xFF800001)).1).isNan = true := by decide

/-- Those of the data mover and of control: a cell that a register names, each verdict of a guard, and each state of the
word fetched. -/
theorem test_hyp_mover :
    playing.plays here = true ∧ here.fetch ≠ .uncorrectable ∧ ({ here with fetch := .uncorrectable } : At).fetch = .uncorrectable ∧
    meshCell ((((playing.atBeat here).guarded here.cell oneFlit.guard).2.cell here.cell).daReg oneFlit.dst) = some 0 ∧
    ((playing.atBeat here).guarded 0 plain).1 = .run ∧
    ((playing.atBeat here).guarded 0 { plain with skip := 7 }).1 = .skipped ∧
    ((playing.atBeat here).guarded 0 { plain with chkAdd := 7 }).1 = .failed ∧
    meshCell 0x01F00000 = some 1536 ∧ meshCell 0x01800000 = none ∧ (Instr.cnop here).issuedAt = some here ∧
    (encodeControl (.cnop here)).isSome = true ∧ (encodeControl (.dnop here)).isSome = false ∧
    baseInSram 0x3FFF = true ∧ baseInSram 0x4000 = false := by decide +kernel

/-- A read of the data mover gives its flit. -/
theorem test_hyp_moverRead : (Cell.reset.moverRead 0 0 false).1.isSome = true := by decide +kernel

/-- The header of an FP4 tile of shape S16 whose payload has `n` bytes and the CRC-32C `k`. -/
def fp4Header (role rows cols n : Nat) (k : BitVec 32) : List (BitVec 8) :=
  leBytes 2 0x4A54 ++ [1, 1, BitVec.ofNat 8 role, 0] ++ leBytes 2 rows ++ leBytes 2 cols ++ leBytes 2 0 ++
    leBytes 4 0x3F800000 ++ bvBytes 4 k ++ leBytes 4 n ++ List.replicate 40 0

/-- Bytes in memory from an address on. -/
def laid (a : Nat) (bs : List (BitVec 8)) : Mem := bs.mapIdx fun i b => (a + i, b)

/-- A cell with the header of an A tile at 0 and of a B tile at 0x2000, before payloads of zeros. -/
def tiles (k k' : BitVec 32) : Cell :=
  { Cell.reset with sram := laid 0 (fp4Header 1 16 512 4096 k) ++ laid 0x2000 (fp4Header 2 512 64 16384 k') }

/-- The keys of bytes laid from an address on. -/
theorem mem_laid (a : Nat) (bs : List (BitVec 8)) (p : Nat × BitVec 8) (h : p ∈ laid a bs) : a ≤ p.1 ∧ p.1 < a + bs.length := by
  simp only [laid, List.mem_mapIdx] at h
  obtain ⟨i, hi, rfl⟩ := h
  simp only
  omega

/-- A byte of those laid. -/
theorem get_laid (a : Nat) (bs : List (BitVec 8)) (m : Mem) (i : Nat) (h : i < bs.length) :
    Sparse.get 0 (laid a bs ++ m) (a + i) = bs[i] := by
  induction bs generalizing a i with
  | nil => exact absurd h (by simp)
  | cons b r ih =>
    have e : laid a (b :: r) = (a, b) :: laid (a + 1) r := by
      simp only [laid, List.mapIdx_cons, Nat.add_zero, Nat.add_assoc, Nat.add_comm 1]
    rw [e]
    cases i with
    | zero => simp [Sparse.get]
    | succ j =>
      have := ih (a + 1) j (by simpa using h)
      simp only [List.cons_append, Sparse.get, List.getElem_cons_succ]
      rw [if_neg (by omega), ← this]
      congr 1; omega

/-- Bytes laid after others below them are read back. -/
theorem reads_laid (l : Mem) (a : Nat) (bs : List (BitVec 8)) (m : Mem) (h : ∀ p ∈ l, p.1 < a) (n : Nat) (hn : n = bs.length) :
    Mem.reads (l ++ (laid a bs ++ m)) a n = bs := by
  subst hn
  apply List.ext_getElem
  · simp [Mem.reads, Sparse.getRun]
  · intro i h1 h2
    simp only [Mem.reads, Sparse.getRun, List.getElem_map, List.getElem_range]
    rw [get_filter (0 : BitVec 8) _ (fun k => decide (a ≤ k) && decide (k < a + bs.length)) (a + i), if_pos (by simp [h2]),
      get_append _ _ _ _ (fun p hp => by have := h p hp; omega), get_laid a bs m i h2]

/-- Where nothing is listed a memory reads zeros. -/
theorem reads_none (m : Mem) (a n : Nat) (h : ∀ p ∈ m, p.1 < a ∨ a + n ≤ p.1) : Mem.reads m a n = List.replicate n 0 := by
  have e : m.filter (fun p => decide (a ≤ p.1) && decide (p.1 < a + n)) = [] := by
    simp only [List.filter_eq_nil_iff, Bool.and_eq_true, decide_eq_true_eq]
    intro p hp; have := h p hp; omega
  simp [Mem.reads, Sparse.getRun, e, Sparse.get, List.map_const']

/-- The CRC field of a header. -/
theorem header_crc (role rows cols n : Nat) (k : BitVec 32) : fieldAt (fp4Header role rows cols n k) 16 4 = k.toNat := by
  simp only [fieldAt, fp4Header, bvBytes, leBytes, List.cons_append, List.nil_append, List.drop_succ_cons, List.drop_zero,
    List.take_succ_cons, List.take_zero, leNat, BitVec.toNat_ofNat]
  have := k.isLt
  omega

/-- A header has 64 bytes. -/
theorem header_length (role rows cols n : Nat) (k : BitVec 32) : (fp4Header role rows cols n k).length = 64 := rfl

/-- The format of a header is FP4. -/
theorem header_fmt (role rows cols n : Nat) (k : BitVec 32) : hdrFormat (fp4Header role rows cols n k) = 1 := by
  simp [hdrFormat, fp4Header, byteAt, leBytes]

/-- A tile from its header and its payload of zeros. -/
theorem tile_of (c : Cell) (a e n : Nat) (h : List (BitVec 8)) (hp : c.poisoned = []) (h1 : c.sramRead a 64 = h)
    (hf : hdrFormat h = 1) (he : payloadSize 1 e = n) (h2 : c.sramRead (a + 64) n = List.replicate n 0) :
    c.tileAt a e = ⟨h, List.replicate n 0, false⟩ := by
  have h3 : c.poisonedAt a (64 + n) = false := by simp [Cell.poisonedAt, hp]
  simp only [Cell.tileAt, h1, hf, he, h2, h3]

/-- The SRAM of the cell. -/
theorem tiles_sram (k k' : BitVec 32) : (tiles k k').sram =
    laid 0 (fp4Header 1 16 512 4096 k) ++ laid 0x2000 (fp4Header 2 512 64 16384 k') := by rw [tiles]

/-- Beside its headers the cell holds zeros. -/
theorem tiles_none (k k' : BitVec 32) (a n : Nat) (h : 64 ≤ a ∧ (a + n ≤ 0x2000 ∨ 0x2040 ≤ a)) :
    (tiles k k').sramRead a n = List.replicate n 0 := by
  rw [Cell.sramRead, tiles_sram]
  refine reads_none _ _ _ fun p hp => ?_
  rcases List.mem_append.mp hp with h | h <;> have := mem_laid _ _ _ h <;> rw [header_length] at this <;> omega

/-- The A tile of the cell. -/
theorem tiles_a (k k' : BitVec 32) :
    (tiles k k').tileAt 0 8192 = ⟨fp4Header 1 16 512 4096 k, List.replicate 4096 0, false⟩ := by
  refine tile_of _ _ _ _ _ rfl ?_ (header_fmt ..) (by decide) (tiles_none _ _ _ _ (by decide))
  rw [Cell.sramRead, tiles_sram]
  have := reads_laid [] 0 (fp4Header 1 16 512 4096 k) (laid 0x2000 (fp4Header 2 512 64 16384 k')) (by simp) 64
    (header_length ..).symm
  rwa [List.nil_append] at this

/-- The B tile of the cell. -/
theorem tiles_b (k k' : BitVec 32) :
    (tiles k k').tileAt 0x2000 32768 = ⟨fp4Header 2 512 64 16384 k', List.replicate 16384 0, false⟩ := by
  refine tile_of _ _ _ _ _ rfl ?_ (header_fmt ..) (by decide) (tiles_none _ _ _ _ (by decide))
  rw [Cell.sramRead, tiles_sram, ← List.append_nil (laid 0x2000 _)]
  exact reads_laid _ 0x2000 _ [] (fun p hp => by have := mem_laid _ _ _ hp; rw [header_length] at this; omega) 64
    (header_length ..).symm

/-- A tile with such a header passes the header check where its CRC is that of its payload. -/
theorem tile_ok (role rows cols n : Nat) (isB : Bool) (p : List (BitVec 8)) (hn : n = payloadSize 1 (rows * cols))
    (hr : rows = if isB then 512 else 16) (hc : cols = if isB then 64 else 512) (hro : role = if isB then 2 else 1) :
    tileOk .s16 isB ⟨fp4Header role rows cols n (crc32c p), p, false⟩ = true := by
  subst hn hr hc hro
  unfold tileOk
  simp only [header_crc, header_fmt]
  cases isB <;> simp [fp4Header, fieldAt, byteAt, leBytes, bvBytes, leNat, Shape.code, Shape.m, Shape.k, Shape.n, operandOk,
    operandFmt, sparseCode, metaOk, scaleOk] <;> decide

/-- Those of `MatrixCompletes`: two tiles of a pass of shape S16 that are readable and pass the header check. -/
theorem test_hyp_matrix : ∃ k k' : BitVec 32,
    let a := (tiles k k').tileAt 0 (Shape.s16.m * Shape.s16.k)
    let b := (tiles k k').tileAt 0x2000 (Shape.s16.k * Shape.s16.n)
    a.poison = false ∧ b.poison = false ∧ tileOk .s16 false a = true ∧ tileOk .s16 true b = true ∧
      operandOk (hdrFormat a.header) = true ∧ operandOk (hdrFormat b.header) = true := by
  refine ⟨crc32c (List.replicate 4096 0), crc32c (List.replicate 16384 0), ?_⟩
  rw [show Shape.s16.m * Shape.s16.k = 8192 from rfl, show Shape.s16.k * Shape.s16.n = 32768 from rfl, tiles_a, tiles_b]
  exact ⟨rfl, rfl, tile_ok 1 16 512 4096 false _ (by decide) rfl rfl rfl, tile_ok 2 512 64 16384 true _ (by decide) rfl rfl rfl,
    by rw [header_fmt]; rfl, by rw [header_fmt]; rfl⟩

/-- Those of `ArrivalsAtCells`: a flit, an empty flit and a token of each kind that are due in cycle 5. -/
theorem test_hyp_arrivals :
    let s := ((member playing).onGrid fun g => { g with
      flits := [{ Flit.reset with arrive := 5, cell := 0 }, { Flit.reset with arrive := 5, cell := 1, empty := true },
        { Flit.reset with cell := 1536 }]
      tokens := [1, 2, 3, 4].map fun k => { StrToken.reset with arrive := 5, kind := k, tag := 9, value := 65535 } })
    let w := (s.at_ (s.cycleTick 5)).settleAll 5
    s.step.playing = true ∧
    (w.takeFlit fun f => decide (f.cell = 0) && !f.empty && (decide (f.arrive = 5) || decide (1536 ≤ 0))).isSome = true ∧
    (w.takeFlit fun f => decide (f.cell = 1536) && !f.empty && (decide (f.arrive = 5) || decide (1536 ≤ 1536))).isSome = true ∧
    (w.takeFlit fun f => decide (f.cell = 1) && f.empty && (decide (f.arrive = 5) || decide (1536 ≤ 1))).isSome = true ∧
    ([1, 2, 3, 4] : List Nat).all (fun k => (w.takeToken 0 5 k).isSome) = true ∧
    ((w.cell 0).counter 0).toNat + 65535 ≤ 65535 ∧ (w.steerTag 0 9).isSome = true := by decide +kernel

/-- Those of `SteeringAndTierArrivals`: a flit fed to steering, a piece and an acknowledgment due, and a hub string. -/
theorem test_hyp_steering :
    let s := ((member playing).onGrid fun g => { g with
      cells := [(0, { Cell.reset with steerIn := [(5, 0, 0, false)] })]
      pieces := [T1Piece.reset], writes := [{ cell := 0, due := 5, signal := none }] })
    let u := (s.at_ (s.cycleTick 5)).settleAll 5
    s.step.playing = true ∧ ((u.cell 0).steerIn.find? fun x => decide (x.1 = 5)).isSome = true ∧
    (u.grid.pieces.find? fun y => decide (y.cell = 0)).isSome = true ∧
    (u.grid.writes.find? fun y => decide (y.cell = 0)).isSome = true ∧
    ((imgHubStrings s.active)[0]?.any fun h => decide (h.kind ≠ 0) && decide (h.row < 24) && decide (h.col < 64)) = true := by
  decide +kernel

/-- Those of `BeatBoundary`: an armed chip, before its first boundary and after, voting and alone. -/
theorem test_hyp_boundary :
    let s := armed playing
    let u := ((s.at_ s.cad.next).onStep fun g => { g with boundaries := g.boundaries + 1 }).voteAll
    s.unarmed = false ∧ s.cad.b0Fixed = true ∧ s.hlt.halted = false ∧ u.hlt.halted = false ∧ u.cad.begun = true ∧
    (s.onCad fun c => { c with begun := false }).voteAll.cad.begun = false ∧ s.step.playing = true ∧ s.step.lastBeat = false ∧
    s.votes = false ∧ (member s).votes = true := by decide +kernel

/-- Those of `CadenceEvents`: a window that closes, one of a follower that is the 16th without a frame, an edge too near
another, an edge in a window, the first edge after arming, one that loads the timebase, and an arming without one. -/
theorem test_hyp_cadence :
    let open_ := (armed State.reset).onCad fun c => { c with winOpen := true, heldPeriod := 4096, winEnd := 2048 }
    let follows := open_.onCad fun c => { c with state := .follower, electWindows := 15 }
    let near := open_.onCad fun c => { c with lastAccept := some 0 }
    let arms := State.reset.onCad fun c => { c with state := .acquiring }
    open_.cad.closable = true ∧ follows.cad.closable = true ∧ follows.cad.leaderMarker = none ∧
    open_.cad.source = false ∧ open_.cad.inputEnable = true ∧ open_.clocked 0 = true ∧ State.reset.clocked 0 = false ∧
    State.reset.inReset = true ∧ (open_.onCfg fun c => { c with inReset := false }).inReset = false ∧
    ((open_.onCad fun c => { c with closedWindows := [⟨10, 0, true, false⟩] }).cad.closedWindows.takeWhile fun x =>
      decide ((5 : Int) ≤ x.stop)).getLast? = some ⟨10, 0, true, false⟩ ∧
    (open_.onCad fun c => { c with state := .holdover, leaderMarker := some 3 }).cad.counted = some 3 ∧
    near.cad.lastAccept.any (fun a => decide (2 * (near.elapsed 2047 - a) < near.inForce)) = true ∧
    near.cad.lastAccept.any (fun a => decide (2 * (near.elapsed 2048 - a) < near.inForce)) = false ∧
    open_.cad.winOpen = true ∧ open_.cad.marker = none ∧ arms.cad.winOpen = false ∧ arms.cad.loadHandle = none ∧
    (arms.cad.armTick.toNat : Int) ≤ 0 ∧ arms.cad.b0Fixed = false ∧
    (State.reset.onCad fun c => { c with loadHandle := some h0 }).cad.winOpen = false := by decide +kernel

/-- Those of `RepairAndFill`: a repair that waits and one that runs, a staging, and a fill that is due and one that goes. -/
theorem test_hyp_repair :
    let waits := State.reset.onGrid fun g => { g with repairs := [RepairRec.reset] }
    let runs := State.reset.onGrid fun g => { g with repairs := [{ RepairRec.reset with running := true, spans := 1 }] }
    let stages := State.reset.onCyl fun y => { y with
      known := [cylinder .verified], staging := some { id := 5, handle := none, restart := [] }
      fillDue := some 5, fillActive := true }
    waits.grid.repairs ≠ [] ∧ waits.repairsRunning = false ∧ (runs.grid.repairs.filter (·.running)) ≠ [] ∧
    (stages.cyl.staging.any fun g => (stages.cylById g.id).isSome && decide (g.restart = [])) = true ∧
    stages.cyl.fillDue.isSome = true ∧ stages.cyl.fillActive = true := by decide +kernel

/-- Those of `FrameReception`: frames received by a member of a partition that plays, and frames that are not. -/
theorem test_hyp_frames :
    let s := armed (member playing)
    let u := s.heard (frame 1)
    s.listens false (frame 1) = true ∧ (s.heard (frame 1)).frameOk (frame 1) = true ∧ (frame 1).epoch = u.cyl.epoch ∧
    ((imgEdge u.active 0).any fun e => decide (e.kind = 2) && decide (u.stageChip e.peer = some (frame 1).source)) = true ∧
    u.step.playing = true ∧ (frame 1).step = u.cad.step.setWidth 32 ∧ (frame 1).replay = BitVec.ofNat 16 u.step.replay ∧
    ({ frame 1 with epoch := 1 } : FrameHdr).epoch ≠ u.cyl.epoch ∧ (frame 2).source ∈ u.peers ∧ u.unarmed = false ∧
    (frame 2).source ∉ u.hlt.lost ∧ (u.hlt.notices.any fun n => decide (n.1 = (frame 2).source)) = false ∧
    (u.step.verdicts.any fun r => decide (r.chip = (frame 2).source)) = false ∧ u.step.running = true ∧
    u.hlt.withdrawn = false ∧
    s.listens false { frame 3 with inPort := 1 } = false ∧ (s.heard { frame 3 with mark := 0 }).frameOk { frame 3 with mark := 0 } =
      false ∧ (cadBody.kind.toNat, cadBody.sequence.toNat) ∉ (s.heard (frame 3)).cad.framesSeen := by decide +kernel

/-- Those of `FrameReception` on leader frames: a follower of chip 1 with its window open. -/
theorem test_hyp_leader :
    let s := (armed (member playing)).onCad fun c => { c with
      state := .follower, leader := some 1, winOpen := true, winEnd := 2048, heldPeriod := 4096 }
    let u := s.heard (frame 3)
    let b : CadenceBody := { cadBody with period := 4096 }
    s.listens false (frame 3) = true ∧ u.frameOk (frame 3) = true ∧ u.cad.state = .follower ∧ u.cad.leader = some b.sender ∧
    b.partition = u.fab.partition ∧ u.cad.closable = true ∧ (0 : Int) ≤ u.cad.winEnd ∧ u.matchingStep 0 = some b.sequence ∧
    (u.cad.opened : Int) ≤ 0 ∧ u.cad.closedWindows.head? = none ∧
    b.period = BitVec.ofNat 32 u.inForce ∧ u.cad.leaderMarker = none ∧ u.cad.lastLeaderAccept = none ∧
    u.clocked 0 = true ∧ (2, 0) ∈ (u.onCad fun c => { c with framesSeen := [(2, 0)] }).cad.framesSeen ∧
    (u.onCad fun c => { c with state := .holdover }).cad.state.leaderless = true ∧
    (u.onCad fun c => { c with source := true }).cad.inputEnable = true := by decide +kernel

/-- Those of `FabricPorts`: a port in each state, with a message that waits for it and without. -/
theorem test_hyp_ports :
    let st (x : PortState) : PortState := ((withPort x State.reset).fab.ports.getD 0 Port.reset).state
    let queued := (member State.reset).sendMsg 4 1 false none (.leave 1 0)
    let silent := (withPort .training State.reset).onPort 0 fun x => { x with attempts := 2 }
    [PortState.up, .ident, .training, .aligning, .retraining, .down].all (fun x => decide (st x = x)) = true ∧
    (queued.nextMsg 0).isSome = true ∧ ((member State.reset).nextMsg 0).isNone = true ∧ queued.step.playing = false ∧
    (laneGroup 0xF0).isSome = true ∧ (laneGroup 0x88).isNone = true ∧
    2 ≤ ((silent.at_ 0).fab.ports.getD 0 Port.reset).attempts.toNat ∧ 0 < (withPort .retraining State.reset).fab.ports.length ∧
    (frame 8).inPort = 0 ∧ (withPort .ident (armed State.reset)).identifies (frame 8) = true ∧
    ((withPort .ident (armed State.reset)).heard (frame 8)).frameOk (frame 8) = true ∧
    (((withPort .ident (armed State.reset)).heard (frame 8)).fab.ports.getD 0 Port.reset).identDone = false ∧
    (member playing).step.playing = true ∧ ((member playing).inStream 0).ended = false ∧
    ((imgEdge (member playing).active 0).any fun e => decide (e.kind = 2)) = true ∧
    ((imgEdge (member playing).active 1).any fun e => decide (e.kind = 3)) = true ∧
    (((member playing).inStream 0).lastSeq.any fun q => decide (q + 1 = ((member playing).inStream 0).landed)) = false := by
  decide +kernel

/-- Those of `RemoteRequests`: a request of the peer, an answer of it, and one that is late, before and after three times. -/
theorem test_hyp_requests :
    let r : RemoteReq := { RemoteReq.reset with id := 7, dest := 1 }
    let s := (member State.reset).onFab fun f => { f with requests := [r] }
    s.listens false (frame 5) = true ∧ (s.heard (frame 5)).frameOk (frame 5) = true ∧
    ((s.heard (frame 6)).fab.requests.find? fun r => decide (r.id = 7) && decide (r.dest = (frame 6).source)) = some r ∧
    r.sentAt + 50000 ≤ (s.at_ 50000).uptime ∧ r.resent < 3 ∧ 3 ≤ ({ r with resent := 3 } : RemoteReq).resent := by decide +kernel

/-- Those of `PageMoves`: a move in each phase on either side, and an offer. -/
theorem test_hyp_moves :
    let r (p : RemotePhase) (out : Bool) : RemoteMove :=
      { RemoteMove.reset with seq := 1, outgoing := out, peer := 1, tier := 1, phase := p, sent := true }
    let s (p : RemotePhase) (out : Bool) : State := (member State.reset).onMem fun m => { m with remotes := [r p out] }
    let u (p : RemotePhase) (out : Bool) : State := (s p out).heard (frame 7)
    (s .offered true).listens false (frame 7) = true ∧ (u .offered true).frameOk (frame 7) = true ∧
    ([RemotePhase.offered, .sending, .committed, .aborting].all fun p =>
      decide ((u p true).remote 1 (frame 7).source true = some (r p true))) = true ∧
    (u .offered true).stillThere (r .offered true) = true ∧ ((u .offered true).content 1 0).isSome = true ∧
    ((u .offered true).onMem fun m => { m with poisonT1 := [0] }).content 1 0 = none ∧
    ((s .sending true).at_ 1000000000).waitingMove 1 1000000000 (fun p => decide (p = .sending) || decide (p = .offered)) =
      some (r .sending true) ∧
    ((s .committed true).at_ 1000000).waitingMove 1 1000000 (fun p => decide (p = .committed)) = some (r .committed true) ∧
    ((s .aborting true).at_ 1000000).waitingMove 1 1000000 (fun p => decide (p = .aborting)) = some (r .aborting true) ∧
    (u .receiving false).remote 1 (frame 7).source false = some (r .receiving false) ∧
    (u .receiving false).remote 2 (frame 7).source false = none ∧
    (moveBody.owner.extractLsb' 28 4 : BitVec 4) ≠ ownContext ∧
    (u .receiving false).importFor 1 0 = none := by decide +kernel

/-- Those of `TierAndMediaEvents`: a local move, a write-back, a conversion, timers, an access of BAR4 outside its pages, and
units in service. -/
theorem test_hyp_media :
    let s := State.reset.onMem fun m => { m with
      moves := [{ LocalMove.reset with seq := 1, srcTier := 1 }], wbRun := [(7, true)], channels := 0xFFF, hbmStacks := 0xFF
      drives := [{ Drive.reset with present := true }]
      driveDma := [{ port := 0, id := 4, op := .read, lba := 0, move := none }] }
    let c := State.reset.onMem fun m => { m with converting := true }
    let x := State.reset.onSrv fun v => { v with ctxs := [(3, { Context.reset with state := .parked, ttl2At := some 9, ttl3At := some 9 })] }
    let linked : State := { State.reset with pins := { State.reset.pins with linkUp := true } }
    ((s.at_ 0).mem.moves.find? fun m => decide (m.seq = 1)).isSome = true ∧ (s.content 1 0).isSome = true ∧
    ((s.at_ 0).mem.wbRun.find? fun w => decide (w.1 = 7)) = some (7, true) ∧ c.mem.converting = true ∧ c.movingShadows = [] ∧
    (x.ctx 3).ttl2At = some 9 ∧ (x.ctx 3).ttl3At = some 9 ∧ (x.ctx 3).state = .parked ∧ 9 ≤ (x.at_ 9).now ∧
    linked.pins.linkUp = true ∧ 2 ^ 37 < 2 ^ 37 + (1 : Nat) ∧
    ((gaPieces (mkGa linked.fab.chip 2 (linked.cfgField 32 8)) 1).all fun p =>
      (linked.dirEntry 2 (gaSlot p.1).2).hostVisible) = false ∧
    ((s.onMem fun m => { m with mounted := true }).at_ 0).unitUp 3 0 = true ∧
    64 < ((((7, 0) :: List.replicate 64 (7, 0) : List (BitVec 4 × Nat)).filter fun x => decide (x.1 = 7)).length) ∧
    (s.at_ 0).unitUp 2 11 = true ∧ s.unitUp 1 7 = true ∧ s.driveUp 0 = true ∧
    (s.mem.driveDma.find? fun x => decide (x.port = 0) && decide (x.id = 4)).any (fun c => decide (c.op = .read)) = true ∧
    (s.at_ 0).mem.channels.getLsbD 11 = true ∧ (s.at_ 0).mem.hbmStacks.getLsbD 7 = true ∧
    (0 : Nat) ∉ (s.at_ 0).mem.softRepairs := by decide +kernel

/-- Those of `TierAndMediaEvents` on BAR4: a page of the function that is visible to the host, at the window's first byte. -/
theorem test_hyp_bar4 :
    let s : State := { State.reset with
      pins := { State.reset.pins with linkUp := true }
      cfg := { State.reset.cfg with block := some (record 48 [(32, 8, 1073741824)]), inReset := false }
      mem := { State.reset.mem with dir2 := [(512, { DirEntry.reset with
        ownerKind := ownFunction, state := .home, hostVisible := true, raw := true, granule := 262144 })] } }
    let g := mkGa s.fab.chip 2 (s.cfgField 32 8)
    ((gaPieces g 4).all fun p => (s.dirEntry 2 (gaSlot p.1).2).hostVisible &&
      decide ((s.dirEntry 2 (gaSlot p.1).2).ownerKind = ownFunction) &&
      decide ((s.dirEntry 2 (gaSlot p.1).2).ownerId = (0 : BitVec 4).setWidth 28)) = true ∧
    (match s.readRun (some 0) g 4 with | .ok _ => true | _ => false) = true ∧
    s.pins.linkUp = true ∧ s.cfg.inReset = false ∧ s.cfg.error = 0 ∧ State.reset.cfg.inReset = true ∧
    (s.onCfg fun c => { c with error := 1 }).cfg.error ≠ 0 := by decide +kernel

/-- A version of model 1 in a state. -/
def version (st : ModelState) : ModelVer := { ModelVer.reset with id := 1, version := 1, state := st }

/-- A state that holds one version. -/
def holds (m : ModelVer) (s : State) : State := s.onWgt fun w => { w with models := [m] }

/-- Those of `WeightEvents`: a shard in flight, a version past its deadline with a shard missing, and one with a scrub due and
a page to read. -/
theorem test_hyp_weights :
    let f := (given (live 0x41 []) configured).onWgt fun w => { w with flight := [⟨h0, 1, 1, 0⟩] }
    let d := holds { version .loading with deadline := some 5, shards := [.outstanding] } State.reset
    let m := { version .active with nextScrub := 9, scrubLeft := [0] }
    let s := holds m State.reset
    (f.wgt.flight.find? fun x => decide (x.handle = h0)).isSome = true ∧ (f.liveOf h0).isSome = true ∧
    ((d.at_ 5).model 1 1).any (fun m => decide (m.state = .loading) && decide (m.deadline = some 5) &&
      decide (m.shards[0]? = some .outstanding) && !(d.at_ 5).shardAccepted m 0) = true ∧ 5 ≤ (d.at_ 5).now ∧
    s.model 1 1 = some m ∧ m.scrubs = true ∧ m.nextScrub ≠ 0 ∧ 0 ∈ m.scrubLeft := by decide +kernel

/-- A state with function 2 in a state. -/
def withFunc (st : FuncState) (s : State) : State := s.onFunc 2 fun x => { x with state := st }

/-- Those of `LinkAndFunctions`: the link up and down, in reset and out of it, and a function in each state. -/
theorem test_hyp_link :
    let up : State := { State.reset with pins := { State.reset.pins with linkUp := true } }
    let booted : State := { State.reset with cfg := { State.reset.cfg with stage := 2 } }
    up.pins.linkUp = true ∧ up.cfg.inReset = true ∧ up.cfg.error = 0 ∧ configured.cfg.inReset = false ∧
    State.reset.pins.linkUp = false ∧ booted.pins.perstN = true ∧ booted.cfg.inPulse = false ∧ 2 ≤ booted.cfg.stage.toNat ∧
    booted.pins.powered = true ∧ booted.pins.resetN = true ∧ booted.hlt.pwrfail = false ∧ booted.pins.thermtripN = true ∧
    State.reset.cfg.stage.toNat < 2 ∧
    [FuncState.off, .starting, .on, .stopping, .wedged].all (fun x => decide (((withFunc x State.reset).func 2).state = x)) =
      true ∧ ((withFunc .stopping State.reset).func 2).held = none ∧ (withFunc .stopping State.reset).stopped 2 = true ∧
    ((State.reset.onFunc 0 fun x => { x with state := .wedged }).func 0).state = .wedged ∧
    ((withFunc .stopping State.reset).func 2).stopAt + 2000000000 ≤ ((withFunc .stopping State.reset).at_ 2000000000).uptime := by
  decide +kernel

/-- Those of `LinkAndFunctions` on function level resets: a linked chip out of reset with a virtual function, and function 0,
in each state, and a function that starts with a disable, or a reset, held. -/
theorem test_hyp_flr :
    let s : State := { configured with pins := { configured.pins with linkUp := true } }
    let u (f : Nat) (st : FuncState) : State := ((s.onFunc f fun x => { x with state := st }).at_ 5).raiseCmd 3
    let x := (withFunc .starting s).func 2
    s.pins.linkUp = true ∧ s.cfg.inReset = false ∧
    ([.off, .starting, .on, .stopping, .wedged] : List FuncState).all (fun st => decide (((u 2 st).func 2).state = st) &&
      decide (((u 2 st).func 2).held = none) && decide (((u 0 st).func 0).state = st)) = true ∧
    x.state = .starting ∧ x.held = none ∧ x.again = false ∧ { x with held := some h0 }.held ≠ none ∧
    { x with again := true }.again = true := by decide +kernel

/-- Those of `InterruptDelivery`: the first and the last wired source, a vector held back, a channel that reads, and accesses
of each register by who may make it. -/
theorem test_hyp_interrupts :
    let s := configured
    let held := s.onIc fun ic => { ic with vectors := [(3, { Vector_.reset with coalesced := 1, time := 1 })] }
    let d : State := { s with dma := { s.dma with chans := [{ DmaCh.reset with state := 1, count := 64, waiting := [(0, 1)] }] } }
    1 ∉ levelSources ∧ 46 ∉ levelSources ∧ 61 ∉ levelSources ∧
    0 < ((held.at_ 1000).ic.vec 3).coalesced ∧ ((held.at_ 1000).ic.vec 3).time ≠ 0 ∧
    ((held.at_ 1000).ic.vec 3).firstAt + ((held.at_ 1000).ic.vec 3).time.toNat * 1000 ≤ (held.at_ 1000).uptime ∧
    (d.dmaCh 0).state = 1 ∧ (d.dmaCh 0).stop = none ∧ (d.dmaCh 0).block ≠ 0 ∧ gaChip (d.dmaCh 0).src = d.fab.chip ∧ gaSpace (d.dmaCh 0).dst ≠ 5 ∧
    (d.dmaCh 0).waiting = [(0, 1)] ∧
    ((List.range 16).map fun i => (d.dma.turn + 1 + i) % 16).find? (fun k => decide ((d.dmaCh k).state = 1) &&
      (d.dmaCh k).stop.isNone && (d.dmaCh k).asked.isNone && decide ((d.dmaCh k).block ≠ 0)) = some 0 ∧
    gaChip (mkGa 1 2 0) ≠ d.fab.chip ∧ (s.requested (.core 0)).voteAll.busError (at32 (.core 0) 0x10040) = none ∧
    (s.requested (.core 0)).busError (at32 (.core 0) 0x10060) = none ∧ s.requested .host = s ∧
    (s.requested (.core 3)).busError (at32 (.core 3) (0x20014 + 64 * 15)) = none ∧
    s.voteAll.busError (at32 (.core 0) 0x10040) = none ∧ s.busError (at32 (.core 0) 0x10060) = none ∧
    s.busError (at32 .host 0x100A0) = none ∧ s.voteAll.busError (at32 .host 0x1017C) = none ∧
    (s.voteAll.readIc (0x100 + 4 * 31)).isSome = true ∧ s.busError (at32 .host 0x10010) = none ∧
    s.busError (at32 .host 0x10014) = none ∧ s.busError (at32 .host (0x11000 + 4 * 1019)) = none ∧
    s.busError (at32 (.core 3) (0x20014 + 64 * 15)) = none := by decide +kernel

/-- Those of `ThermalAndClockEvents`. -/
theorem test_hyp_power :
    let s : State := { configured with pwr := { configured.pwr with clk := 0x1FF, belowSince := some 0 } }
    let e := s.onPwr fun p => { p with episode := some 1 }
    (s.at_ 0).pins.powered = true ∧ s.pins.thermtripN = true ∧ (s.at_ 100000000).pwr.belowSince = some 0 ∧
    0 + 100000000 ≤ (s.at_ 100000000).uptime ∧ (s.at_ 100000000).pwr.lastUp = none ∧
    (s.onPwr fun p => { p with cap := 6 }).pwr.cap < 7 ∧ s.coreRuns = true ∧ s.hlt.halted = false ∧ e.pwr.episode = some 1 ∧
    s.pwr.clk.getLsbD (pllBit .coreA) = true ∧ s.cfg.inPulse = false ∧ 2 < s.cfg.stage.toNat ∧
    qualified .xtal 36000 = true ∧ qualified .hostRef 262275 = true ∧ qualified .hostRef 262276 = false ∧
    qualified .xtal 35999 = false ∧ qualified .fabricRef 167857 = false ∧ s.pins.powered = true ∧
    State.reset.cfg.stage.toNat ≤ 2 ∧ (State.reset.onCfg fun c => { c with inPulse := false }).pins.powered = true ∧
    (s.at_ 0).unarmed = true ∧ (s.at_ 0).coreRuns = true ∧ (s.at_ 0).hlt.halted = false := by decide +kernel

/-- Those of `GuardRing`: a chip in service, a write of the store under way, and writes of its registers. -/
theorem test_hyp_guard :
    let s := configured
    let w := s.onStore fun t => { t with writing := [(.floor, [], none)] }
    s.cfg.inPulse = false ∧ 3 < s.cfg.stage.toNat ∧
    (w.store.writing.find? fun x => decide (x.1 = .floor)) = some (.floor, [], none) ∧ StoreRec.floor ≠ .calSet ∧
    (s.at_ 0).hlt.pwrfail = false ∧ (s.at_ 0).pins.powered = true ∧ (s.at_ 0).hlt.haltCause ≠ 2 ∧
    (s.at_ 0).cfg.stage = 8 ∧ (s.at_ 0).unarmed = true ∧
    ([0x1140 + 4 * 11, 0x1180, 0x1108, 0x1200, 0x04, 0x08, 0x2008, 0x2004, 0x21020, 0x21004 + 4 * 4, 0x3004] : List Nat).all
      (fun o => decide (s.busError (at32 .host o) = none)) = true ∧
    s.mgt.permits 4 1 (0x10000000 + 0x03FFFFFC) 4 = true ∧ 0x03FFFFFC + 4 ≤ 0x04000000 ∧
    s.sys.lock.value.getLsbD 3 = false ∧ s.mgt.fwFloor.toNat < (0xFFFFFFFF : BitVec 32).toNat := by decide +kernel

/-- What a boot stage finds on a board without faults. -/
def report : BootReport :=
  { tick := 0, crystal := 40000, hostRef := 262144, fabricRef := 167772, plls := true, sram := true, hbmStacks := 0xFF, channels := 0xFFF
    dimms := [], drives := [], rails := true, journal := true }

/-- Those of `ResetAndBoot`: a chip without power, one held in reset, one in its reset pulse, one that waits to repeat a stage,
and the stages of a boot. -/
theorem test_hyp_boot :
    let off := State.reset.onPins fun p => { p with powered := false }
    let held := State.reset.onPins fun p => { p with resetN := false }
    let pulse := State.reset.onCfg fun c => { c with inPulse := true }
    let at_ (n : BitVec 8) : State := State.reset.onCfg fun c => { c with stage := n }
    off.pins.powered = false ∧ off.pins.aux = true ∧ off.auxDown.pins.aux = false ∧ State.reset.pins.powered = true ∧ held.pins.resetN = false ∧ pulse.cfg.inPulse = true ∧
    (State.reset.onCfg fun c => { c with retryWait := true }).cfg.retryWait = true ∧
    ([1, 2, 3, 4, 5, 6, 7] : List (BitVec 8)).all (fun n => ((at_ n).at_ report.tick).booting &&
      decide (((at_ n).at_ report.tick).cfg.stage = n)) = true := by decide +kernel

/-- Those of `RegisterAccess`: registers of a block, of BAR2 and of the vectors of a virtual function, each end of a latched
pair, and a reserved offset. -/
theorem test_hyp_registers :
    let s := configured
    let u := s.voteAll
    let vf : Access := { req := .host, bar2 := none, vf := some 15, off := 0x3FC }
    s.busError (at32 .host 0x08) = none ∧ blockAt 0x08 = some (.sys, 8) ∧ s.busError vf = none ∧
    s.busError (bar2At 15 0x10) = none ∧ (s.busError (at32 .host 2)).isSome = true ∧ u.busError vf = none ∧
    u.busError (bar2At 15 0x10) = none ∧ (u.readBar2 15 0x10).isSome = true ∧ u.busError (at32 .host 0x08) = none ∧
    (u.readBlock .sys 8).isSome = true ∧
    (latchedPairs.find? fun x => decide (x.1 = Block.sys) && decide (x.2.1 = 8)).isNone = true ∧
    (latchedPairs.find? fun x => decide (x.1 = Block.sys) && decide (x.2.1 + 4 = 8)).isNone = true ∧
    (blockMap.find? fun x => decide (x.2.2 = Block.cad)).any (fun x =>
      decide (blockAt x.1 = some (.cad, 0)) && decide (blockAt (x.1 + 4) = some (.cad, 4)) &&
      decide (u.busError (at32 .host x.1) = none) && decide (u.busError (at32 .host (x.1 + 4)) = none)) = true ∧
    (u.readBlock .cad 0).isSome = true ∧ (u.busError (at32 .host 2)).isSome = true ∧ s.requested .host = s ∧
    (s.requested (.core 1)).busError (at32 (.core 1) 0x08) = none ∧
    (s.requested .supervisor).voteAll.busError (at32 .supervisor 0x08) = none := by decide +kernel

/-- Those of `QueuesAndSideband`: the registers of a function's queues, and each request of the sideband. -/
theorem test_hyp_sideband :
    let s := configured
    ([0x10, 0x110, 0x710] : List Nat).all (fun o => decide (s.busError (bar2At 0 o) = none)) = true ∧
    (s.at_ 0).busError (bar2At 1 0x18) = none ∧ (s.at_ 0).busError (bar2At 1 0x1C) = none ∧
    s.busError (bar2At 0 0x800) = none ∧ s.busError (bar2At 1 (0x1000 + 4 * 1023)) = none ∧
    s.pins.powered = true ∧ s.pins.aux = true ∧ s.auxDown.pins.aux = false ∧ s.pins.sbAddr.getD 0x30 ≠ 0x31 ∧
    s.pins.sbAddr = none ∧ (s.onPins fun p => { p with sbAddr := some 8 }).pins.sbAddr ≠ none ∧ (0x31 : BitVec 7) ≠ 0x30 ∧
    JtagInstr.idcode ≠ .sample ∧ byteAt [3, 0xA5, 1] 0 = 3 ∧ ([3, 0xA5, 1] : List (BitVec 8)).length = 3 ∧
    ((s.onPins fun p => { p with sbDue := some (2000, [0]) }).pins.sbDue.any fun d =>
      decide (s.uptime < d.1) && decide (d.1 ≤ (s.at_ 2000).uptime)) = true ∧ s.pins.sbDue = none ∧
    (s.onPins fun p => { p with sbIn := some [1] }).pins.sbIn.isSome = true ∧ byteAt [3, 0, 0] 1 ≠ 0xA5 ∧
    ¬ (([9] : List (BitVec 8)).length = 5 ∧ byteAt [9] 0 = 1) ∧
    (s.onPins fun p => { p with trstN := true, jtagInstr := JtagCode .debugModule }).pins.jtagInstr = JtagCode .debugModule ∧
    s.auxDown.pins.trstN = false ∧
    (s.onPins fun p => { p with trstN := true, resetN := false, jtagInstr := JtagCode .extestPulse }).jtagInForce =
      JtagCode .extestPulse ∧
    s.pins.sbIn = none ∧ s.pins.sbOut = none ∧
    ([1, 0, 0, 0, 0] : List (BitVec 8)).length = 5 ∧ byteAt [4, 1, 0xAA] 1 = 1 ∧
    ([4, 1, 0xAA] : List (BitVec 8)).length = (byteAt [4, 1, 0xAA] 1).toNat + 2 ∧ byteAt [3, 0xA5, 1] 1 = 0xA5 ∧
    (s.onPins fun p => { p with sbOut := some [1] }).pins.sbOut = some [1] ∧ JtagInstr.idcode ≠ .bypass := by decide +kernel

/-- A command that has been accepted on a configured device is ready, whatever its opcode. -/
theorem ready_given (l : Live) (s : State) (h : l.opcode ≠ 0) (hp : l.phase = .accepted) (hs : s.configured = true)
    (hg : s.cmd.gens = []) : (given l s).ready h0 l.opcode l := by
  refine ⟨?_, rfl, hp, hs⟩
  have e : (given l s).slotLive (handleSlot h0) = l := rfl
  have g : Sparse.get 1 (given l s).cmd.gens (handleSlot h0) = handleGen h0 := by
    rw [show (given l s).cmd.gens = [] from hg]; rfl
  simp only [State.liveOf, e, ne_eq, h, not_false_eq_true, g, and_self, if_true]

/-- So is any command of `asked`. -/
theorem ready_asked (op : BitVec 8) (fs : List (Nat × Nat × Nat)) (h : op ≠ 0) : (asked op fs).ready h0 op (live op fs) :=
  ready_given (live op fs) configured h rfl rfl rfl

/-- Those of `StagingCopy`, `UnconfiguredRefusesCommands`, `SystemCommands` and `ManufacturingStops`. -/
theorem test_hyp_system :
    let bare (op : BitVec 8) (fs : List (Nat × Nat × Nat)) : State := given (live op fs) State.reset
    (match configured.readRun (some 0) (mkGa 0 5 0) 64 with | .ok _ => true | _ => false) = true ∧
    ((asked 0x11 []).onCfg fun c => { c with commit := none }).cfgFault (asked 0x11 []).cfg.staging 0 = some (1, 0) ∧
    (bare 0x20 []).liveOf h0 = some (live 0x20 []) ∧ (bare 0x20 []).configured = false ∧
    (Instr.alloc h0).needsConfig = some (0x20, h0) ∧ (live 0x90 [(8, 1, 1)]).param 8 1 ≠ 0 ∧
    (bare 0x90 [(8, 1, 1)]).liveOf h0 = some (live 0x90 [(8, 1, 1)]) ∧ (bare 0xF1 []).liveOf h0 = some (live 0xF1 []) ∧
    (bare 0x01 []).liveOf h0 = some (live 0x01 []) ∧
    (bare 0x04 [(8, 4, 0x01000000)]).liveOf (BitVec.ofNat 32 ((live 0x04 [(8, 4, 0x01000000)]).param 8 4)) =
      some (live 0x04 [(8, 4, 0x01000000)]) ∧
    (bare 0x04 []).liveOf (BitVec.ofNat 32 ((live 0x04 []).param 8 4)) = none ∧
    ((bare 0x04 []).onCmd fun c => { c with live := c.live ++ [(1, { live 0x20 [] with func := 2 })] }).liveOf 0x01000001 =
      some { live 0x20 [] with func := 2 } ∧ ¬ ((live 0x02 []).param 8 1 = 1 ∨ (live 0x02 []).param 8 1 = 2) ∧ (live 0x02 [(8, 1, 2)]).param 8 1 = 2 ∧
    (asked 0xF1 []).liveOf h0 = some (live 0xF1 []) ∧ (asked 0xF1 []).configured = true ∧
    State.reset.liveOf h0 = none := by decide +kernel

/-- Those of `RouteSetReplacesGroups`, `PageQueryAnswers` and `CadenceCommands`; the command is ready by `ready_asked`. -/
theorem test_hyp_cadenceCommands :
    let r := live 0x91 [(8, 1, 1), (16, 2, 7)]
    let s := configured.onMem fun m => { m with dir2 := [(512, { DirEntry.reset with state := .home, ownerKind := ownFunction })] }
    let w := live 0x10 [(10, 2, 1024), (16, 8, 0x5000000000000)]
    let a := live 0x12 [(8, 1, 1), (10, 2, 256), (12, 4, 2048)]
    let role := live 0x14 [(8, 4, 1), (12, 1, 2), (13, 1, 1)]
    let host := configured.onHost fun h => { h with mem := [(0, 1)] }
    configured.unarmed = true ∧ (armed configured).unarmed = false ∧ r.param 8 1 = 1 ∧ r.param 16 2 < 4096 ∧
    ((List.range 8).all fun j => decide (r.param (18 + j) 1 = 0)) = true ∧ 5 < (live 0x91 [(8, 1, 6)]).param 8 1 ∧
    s.offsetOk (mkGa 0 2 0x40000000) = true ∧ (gaSlot (mkGa 0 2 0x40000000)).1 = 2 ∧ s.ownPage 0 (mkGa 0 2 0x40000000) = true ∧
    s.ownPage 1 (mkGa 0 2 0x40000000) = false ∧ (gaSlot (mkGa 0 4 0)).1 ∉ [1, 2, 3] ∧
    w.param 8 2 % 64 = 0 ∧ w.param 8 2 < 1024 ∧ w.param 10 2 % 64 = 0 ∧ 64 ≤ w.param 10 2 ∧ w.param 8 2 + w.param 10 2 ≤ 1024 ∧
    gaChip (BitVec.ofNat 64 (w.param 16 8)) = 0 ∧ gaSpace (BitVec.ofNat 64 (w.param 16 8)) ∈ [2, 5] ∧
    configured.cfg.commit = none ∧ a.param 8 1 = 1 ∧ configured.cad.loadHandle = none ∧ cadenceBad a = none ∧
    configured.periodFails a (fun k => decide (k.status ≠ .loaded)) = false ∧
    ([2, 3, 4, 5, 6] : List Nat).all (fun k => (cadenceBad (live 0x12 [(8, 1, k), (10, 2, 32), (12, 4, 0x4000000)])).isNone) = true ∧
    configured.srv.slots = [] ∧ configured.cylOf .active = none ∧ role.param 8 4 ≠ 0 ∧ role.param 13 1 < role.param 12 1 ∧
    (host.hostRead role.func.toNat (role.param 16 8) (2 * role.param 12 1)).any (fun bs =>
      let ms := (List.range (role.param 12 1)).map fun i => fieldAt bs (2 * i) 2
      !(ms.any fun m => decide (4096 ≤ m)) && decide (ms[role.param 13 1]? = some host.fab.chip.toNat) && decide ms.Nodup) =
        true := by decide +kernel

/-- Those of `MemoryCommands`. -/
theorem test_hyp_memoryCommands :
    let a := live 0x20 [(8, 1, 2), (9, 1, 7), (12, 4, 1)]
    let f := live 0x21 [(8, 1, 1), (16, 8, 0x2000040000000)]
    let m := live 0x22 [(8, 1, 3), (10, 2, 4095), (12, 4, 1)]
    let s := configured.onMem fun m => { m with dir2 := [(512, { DirEntry.reset with state := .home, ownerKind := ownFunction })] }
    let bad := configured.onHost fun h => { h with badReads := [(0, 7)] }
    let shadow := configured.onMem fun m => { m with moves := [{ LocalMove.reset with pair := some 512 }] }
    1 ≤ a.param 8 1 ∧ a.param 8 1 ≤ 3 ∧ (byteAt a.params 9).toNat < 8 ∧ (byteAt a.params 9).getLsbD 2 = true ∧ a.param 8 1 = 2 ∧
    1 ≤ a.param 12 4 ∧ a.param 12 4 ≤ 65536 ∧ f.param 8 1 = 1 ∧ s.pageBar 0 [BitVec.ofNat 64 (f.param 16 8)] = none ∧
    1 ≤ m.param 8 1 ∧ m.param 8 1 ≤ 3 ∧ m.param 9 1 ≤ 1 ∧ m.param 10 2 < 4096 ∧ 1 ≤ m.param 12 4 ∧
    bad.hostList m.func.toNat (m.param 16 8) (m.param 12 4) = none ∧ configured.hostList m.func.toNat (m.param 16 8) (m.param 12 4) = some [0] ∧
    configured.pageBar 0 [0] = some stBadHandle ∧ s.pageBar 0 [0x2000040000000] = none ∧
    (live 0x21 [(12, 4, 1)]).param 8 1 = 0 ∧ configured.hostList 0 0 1 = some [0] ∧
    configured.srv.slots = [] ∧ configured.mem.converting = false ∧ configured.shadowMoves = false ∧
    configured.mem.writeBack = true ∧ (configured.onMem fun m => { m with writeBack := false }).mem.writeBack = false ∧
    shadow.shadowMoves = true := by decide +kernel

/-- The manifest of version 2 of model 1: one tensor of 64 BF16 elements, and the shard that carries it. -/
def manifest : List (BitVec 8) :=
  record 256 [(0, 8, 0x5453464E414D584A), (8, 2, 1), (10, 1, 1), (11, 1, 2), (12, 4, 1), (22, 2, 1), (24, 2, 1), (36, 8, 256),
    (44, 8, 128), (52, 4, 256), (128, 4, 1), (132, 1, 4), (133, 1, 4), (135, 1, 4), (136, 4, 1), (140, 4, 64), (208, 4, 128),
    (212, 4, 128)]

/-- A declaration of that manifest, read from host address 0, with its digest. -/
def declares (op : BitVec 8) : Live :=
  { Live.reset with
    opcode := op
    params := (record 64 [(8, 8, 0x5000000000000), (16, 4, 256)]).take 24 ++
      leBytes 32 (digestBits (sha256 manifest)).toNat ++ List.replicate 8 0 }

/-- The bytes of a number spell it. -/
theorem leNat_leBytes (n x : Nat) (r : List (BitVec 8)) (h : x < 256 ^ n) : leNat ((leBytes n x ++ r).take n) = x := by
  induction n generalizing x with
  | zero => simp [leNat, leBytes] at *; omega
  | succ n ih =>
    have hx : x / 256 < 256 ^ n := by
      rw [Nat.pow_succ] at h; exact Nat.div_lt_of_lt_mul (by omega)
    simp only [leBytes, List.cons_append, List.take_succ_cons, leNat, ih (x / 256) hx, BitVec.toNat_ofNat]
    omega

/-- The digest of a declaration is that of its manifest. -/
theorem declares_digest (op : BitVec 8) : digestBits (sha256 manifest) = BitVec.ofNat 256 ((declares op).param 24 32) := by
  have e : (declares op).param 24 32 = leNat ((leBytes 32 (digestBits (sha256 manifest)).toNat ++ List.replicate 8 0).take 32) := by
    have l : ((record 64 [(8, 8, 0x5000000000000), (16, 4, 256)]).take 24).length = 24 := by decide +kernel
    rw [Live.param, fieldAt, declares]
    simp only [List.append_assoc]
    rw [List.drop_append_of_le_length (by omega), List.drop_of_length_le (by omega), List.nil_append]
  rw [e, leNat_leBytes _ _ _ (by have := (digestBits (sha256 manifest)).isLt; omega), BitVec.ofNat_toNat, BitVec.setWidth_eq]

/-- Those of `WeightCommands`. -/
theorem test_hyp_weightCommands :
    let l := declares 0x40
    let s := configured.onHost fun h => { h with mem := Mem.writes [] 0 manifest }
    let g := BitVec.ofNat 64 (l.param 8 8)
    let one := holds (version .active) s
    let sh := live 0x41 [(8, 4, 1), (12, 1, 1), (24, 8, 0x5000000000000)]
    let ml := { version .loading with manifest := manifest, shards := [.outstanding] }
    let at_ := holds ml configured
    gaChip g = s.fab.chip ∧ gaSpace g ∈ [2, 3, 5] ∧ byteAt l.params 20 ∈ [0, 2, 3] ∧
    (byteAt l.params 21).toNat < 4 ∧ (match s.readRun (some 0) g (l.param 16 4) with
      | .ok m => decide (m = manifest) | _ => false) = true ∧ l.param 56 8 % pageBytes = 0 ∧
    manifestFault manifest 256 false false = none ∧ s.versions (manModel manifest) = [] ∧ s.slotsUsed false < slotsOf false ∧
    (byteAt l.params 21).getLsbD 1 = false ∧ one.versions (manModel manifest) ≠ [] ∧
    ((one.versions (manModel manifest)).all fun m => !m.replace && m.rights 0 && !m.adapter &&
      decide (m.version < manVersion manifest)) = true ∧
    sh.param 8 4 < 2 ^ 28 ∧ at_.model sh.model.1 sh.model.2 = some ml ∧ ml.rights 0 = true ∧
    ml.shards[sh.param 16 4]? = some .outstanding ∧ ((manShards ml.manifest)[sh.param 16 4]?).isSome = true ∧
    gaChip (BitVec.ofNat 64 (sh.param 24 8)) = 0 ∧ gaSpace (BitVec.ofNat 64 (sh.param 24 8)) ∈ [2, 5] ∧
    (version .resting).waitRoom = false ∧ (version .active).retireHandle = none ∧
    byteAt (live 0x44 [(13, 1, 1)]).params 13 = 1 ∧ byteAt (live 0x44 []).params 13 = 0 ∧
    configured.mayRead 0 (BitVec.ofNat 64 (sh.param 24 8)) 128 = true ∧
    (holds (version .active) configured).refs 1 1 = 0 ∧ (live 0x48 []).model.2 = 0 ∧
    ((holds (version .active) configured).wgt.models.filter fun m => decide (m.id = (live 0x48 [(8, 4, 1), (12, 1, 1)]).model.1) &&
      (decide ((live 0x48 [(8, 4, 1), (12, 1, 1)]).model.2 = 0) ||
        decide (m.version = (live 0x48 [(8, 4, 1), (12, 1, 1)]).model.2))) = [version .active] ∧
    (version .active).rights 0 = true ∧ 0 < (live 0x48 [(8, 4, 1), (12, 1, 1)]).param 8 4 ∧
    60000000000 ≤ (live 0x48 [(16, 8, 60000000000)]).param 16 8 := by decide +kernel

/-- Those of `WeightCommands` on page lists: one of a page of the function on this chip, and one that chip 1 holds. -/
theorem test_hyp_pageList :
    let page := mkGa 0 2 (512 * pageBytes)
    let s := (configured.onHost fun h => { h with mem := Mem.writes [] 0 (bvBytes 8 page) }).onMem fun m => { m with
      dir2 := [(512, { DirEntry.reset with state := .home, ownerKind := ownFunction })] }
    let here := live 0x42 [(24, 8, 0x5000000000000), (32, 4, 1)]
    let there := live 0x42 [(24, 8, (mkGa 1 2 0).toNat), (32, 4, 1)]
    let g := BitVec.ofNat 64 (there.param 24 8)
    (match s.pageListOf here 128 with | some (.ok bs) => decide (bs = bvBytes 8 page) | _ => false) = true ∧
    gaChip g ≠ s.fab.chip ∧ gaSpace g ∈ [1, 2, 3, 4] ∧ 128 ≤ there.param 32 4 * pageBytes ∧
    there.work.length < 8 * there.param 32 4 := by decide +kernel

/-! ### An image that passes every check of the loader -/

/-- A round keeps the widths of the hash value. -/
theorem sha_wide (s : Sha) (h : s.front.length = 4 ∧ s.back.length = 4) (t : BitVec 32) :
    (s.round t).front.length = 4 ∧ (s.round t).back.length = 4 := by
  unfold Sha.round
  split
  · exact ⟨rfl, rfl⟩
  · exact h

/-- So do many. -/
theorem sha_rounds (ts : List (BitVec 32)) (s : Sha) (h : s.front.length = 4 ∧ s.back.length = 4) :
    (ts.foldl Sha.round s).front.length = 4 ∧ (ts.foldl Sha.round s).back.length = 4 := by
  induction ts generalizing s with
  | nil => exact h
  | cons t r ih => exact ih _ (sha_wide s h t)

/-- So do the blocks of a message. -/
theorem sha_blocks (bs : Nat → List (BitVec 8)) (is : List Nat) (s : Sha) (h : s.front.length = 4 ∧ s.back.length = 4) :
    let r := is.foldl (fun s i => s.absorb (bs i)) s
    r.front.length = 4 ∧ r.back.length = 4 := by
  induction is generalizing s with
  | nil => exact h
  | cons i r ih =>
    refine ih _ ?_
    have := sha_rounds (((((List.range 48).foldl (fun w _ => scheduleMore w) (bigEndianWords 16 (bs i)).reverse).reverse).zipWith (· + ·)
      shaRoundConstants)) s h
    simp only [Sha.absorb, List.length_zipWith, this.1, this.2, h.1, h.2, Nat.min_self, and_self]

/-- SHA-256 gives 32 bytes. -/
theorem sha_length (bs : List (BitVec 8)) : (sha256 bs).length = 32 := by
  have h := sha_blocks (fun i => ((shaMessage bs).drop (64 * i)).take 64) (List.range ((shaMessage bs).length / 64)) Sha.initial
    (by decide +kernel)
  simp only [sha256]
  generalize (List.range ((shaMessage bs).length / 64)).foldl _ Sha.initial = s at *
  have e : ∀ ws : List (BitVec 32), (ws.flatMap fun w => (bvBytes 4 w).reverse).length = 4 * ws.length := by
    intro ws
    induction ws with
    | nil => rfl
    | cons w r ih => rw [List.flatMap_cons, List.length_append, ih, List.length_cons]; simp only [bvBytes, leBytes, List.length_reverse, List.length_cons, List.length_nil]; omega
  simp only [e, List.length_append]
  have := h.1; have := h.2; omega

/-- The header and the section table of an image with a cell map, programs and buffers, and zeros to its first section. -/
def soundHead : List (BitVec 8) :=
  record 320 [(0, 4, 0x5943584A), (4, 2, 1), (6, 2, 256), (8, 8, 55712), (16, 4, 7), (20, 2, 3), (24, 4, 3), (28, 1, 1),
    (29, 1, 1), (30, 1, 24), (31, 1, 64), (34, 1, 1),
    (256, 2, 2), (260, 4, 320), (264, 4, 6144), (268, 4, 1536), (272, 2, 3), (276, 4, 6464), (280, 4, 64), (284, 4, 1),
    (288, 2, 4), (292, 4, 6528), (296, 4, 49152), (300, 4, 1536)]

/-- Its programs: one of the word `IDLE` 3. -/
def soundPrograms : List (BitVec 8) := record 64 [(0, 4, 1), (8, 4, 32), (12, 4, 1), (32, 4, 0x30000003)]

/-- The entry of a cell's only buffer: all its SRAM, as scratch. -/
def soundBuffer (c : Nat) : List (BitVec 8) := leBytes 2 c ++ record 30 [(0, 1, 3), (6, 4, 655360)]

/-- The image before its trailer: each cell plays program 0, with no token table. -/
def soundBody : List (BitVec 8) :=
  soundHead ++ ((List.range 1536).flatMap (fun _ => [0, 0, 0xFF, 0xFF]) ++
    (soundPrograms ++ (List.range 1536).flatMap soundBuffer))

/-- An image that passes every check. -/
def sound : List (BitVec 8) := soundBody ++ sha256 soundBody

/-- Equal parts laid one after another have the length of all. -/
theorem parts_length {f : Nat → List (BitVec 8)} {k : Nat} (h : ∀ i, (f i).length = k) (is : List Nat) :
    (is.flatMap f).length = k * is.length := by
  induction is with
  | nil => rfl
  | cons i r ih => simp only [List.flatMap_cons, List.length_append, h, ih, List.length_cons]; ring

/-- A field of one of them. -/
theorem parts_at {f : Nat → List (BitVec 8)} {k : Nat} (h : ∀ i, (f i).length = k) (is : List Nat) (r : List (BitVec 8))
    (j : Nat) (hj : j < is.length) : ((is.flatMap f ++ r).drop (k * j)).take k = f is[j] := by
  induction is generalizing j with
  | nil => exact absurd hj (by simp)
  | cons i t ih =>
    rw [List.flatMap_cons, List.append_assoc]
    cases j with
    | zero => rw [Nat.mul_zero, List.drop_zero, List.take_append_of_le_length (by rw [h]), List.take_of_length_le (by rw [h])]; rfl
    | succ j =>
      rw [show k * (j + 1) = (f i).length + k * j by rw [h]; ring, List.drop_append, List.drop_of_length_le (by omega),
        List.nil_append, Nat.add_sub_cancel_left]
      simpa using ih j (by simpa using hj)

/-- A field of the first part. -/
theorem field_left (x y : List (BitVec 8)) (o n : Nat) (h : o + n ≤ x.length) : fieldAt (x ++ y) o n = fieldAt x o n := by
  rw [fieldAt, List.drop_append_of_le_length (by omega), List.take_append_of_le_length (by rw [List.length_drop]; omega), fieldAt]

/-- A field beyond it. -/
theorem field_right (x y : List (BitVec 8)) (k o n : Nat) (h : x.length = k) (ho : k ≤ o) : fieldAt (x ++ y) o n = fieldAt y (o - k) n := by
  subst h
  rw [fieldAt, List.drop_append, List.drop_of_length_le ho, List.nil_append, fieldAt]

/-- The first section stands at 320. -/
theorem head_length : soundHead.length = 320 := by rw [soundHead, record, List.length_map, List.length_range]

/-- The programs section has 64 bytes. -/
theorem programs_length : soundPrograms.length = 64 := by rw [soundPrograms, record, List.length_map, List.length_range]

/-- A buffers entry has 32 bytes. -/
theorem buffer_length (c : Nat) : (soundBuffer c).length = 32 := rfl

/-- The cell map has 6,144 bytes. -/
theorem map_length : ((List.range 1536).flatMap (fun _ => ([0, 0, 0xFF, 0xFF] : List (BitVec 8)))).length = 6144 := by
  rw [parts_length (k := 4) (fun _ => rfl), List.length_range]

/-- The buffers section has 49,152 bytes. -/
theorem buffers_length : ((List.range 1536).flatMap soundBuffer).length = 49152 := by
  rw [parts_length buffer_length, List.length_range]

/-- What the trailer stands after. -/
theorem body_length : soundBody.length = 55680 := by
  rw [soundBody, List.length_append, List.length_append, List.length_append, head_length, map_length, programs_length,
    buffers_length]

/-- The length that the header gives. -/
theorem sound_length : sound.length = 55712 := by rw [sound, List.length_append, body_length, sha_length]

/-- The image from its sections on. -/
def soundTail : List (BitVec 8) :=
  (List.range 1536).flatMap (fun _ => [0, 0, 0xFF, 0xFF]) ++
    (soundPrograms ++ ((List.range 1536).flatMap soundBuffer ++ sha256 soundBody))

/-- The image is its head and its sections. -/
theorem sound_eq : sound = soundHead ++ soundTail := by
  rw [sound, soundTail]; nth_rw 1 [soundBody]; simp only [List.append_assoc]

/-- A field before the first section. -/
theorem head_field (o n : Nat) (h : o + n ≤ 320) : fieldAt sound o n = fieldAt soundHead o n := by
  rw [sound_eq, field_left _ _ _ _ (by rw [head_length]; exact h)]

/-- A byte before the first section. -/
theorem head_byte (o : Nat) (h : o < 320) : byteAt sound o = byteAt soundHead o := by
  rw [sound_eq, byteAt, List.getD_append _ _ _ _ (by rw [head_length]; exact h), byteAt]

/-- Its header. -/
theorem sound_header : imgHeader sound = ⟨55712, 7, 3, 3, 0, 1, 0, false⟩ := by
  simp only [imgHeader]
  rw [head_field _ _ (by decide), head_field _ _ (by decide), head_field _ _ (by decide), head_field _ _ (by decide),
    head_field _ _ (by decide), head_field _ _ (by decide), head_field _ _ (by decide), head_byte _ (by decide)]
  decide +kernel

/-- Its sections. -/
def soundTable : List Section_ := [⟨2, 320, 6144, 1536⟩, ⟨3, 6464, 64, 1⟩, ⟨4, 6528, 49152, 1536⟩]

/-- The section table that it holds. -/
theorem sound_sections : imgSections sound = soundTable := by
  rw [imgSections, sound_header]
  simp only [show List.range 3 = [0, 1, 2] from rfl, List.map_cons, List.map_nil]
  repeat rw [head_field _ _ (by decide)]
  decide +kernel

/-- A field of the programs section. -/
theorem programs_field (o n : Nat) (h : o + n ≤ 64) : fieldAt sound (6464 + o) n = fieldAt soundPrograms o n := by
  rw [sound_eq, field_right _ _ 320 _ _ head_length (by omega), soundTail, field_right _ _ 6144 _ _ map_length (by omega),
    show 6464 + o - 320 - 6144 = o by omega, field_left _ _ _ _ (by rw [programs_length]; exact h)]

/-- Every cell plays program 0 and has no token table. -/
theorem sound_cell (c : Nat) (h : c < 1536) : imgCell sound c = (0, 0xFFFF) := by
  have e : ((sound.drop (320 + 4 * c)).take 4) = [0, 0, 0xFF, 0xFF] := by
    rw [sound_eq, List.drop_append, head_length, List.drop_of_length_le (by rw [head_length]; omega), List.nil_append,
      Nat.add_sub_cancel_left, soundTail]
    exact parts_at (k := 4) (fun _ => rfl) _ _ _ (by rw [List.length_range]; exact h)
  have a : fieldAt sound (320 + 4 * c) 2 = 0 := by
    rw [fieldAt, show (2 : Nat) = min 2 4 from rfl, ← List.take_take, e]; rfl
  have b : fieldAt sound (320 + 4 * c + 2) 2 = 0xFFFF := by
    rw [fieldAt, ← List.drop_drop, show (2 : Nat) = 4 - 2 from rfl, ← List.drop_take, e]; rfl
  rw [imgCell, show imgSection sound 2 = some ⟨2, 320, 6144, 1536⟩ by rw [imgSection, sound_sections]; rfl]
  simp only [a, b]

/-- Every cell has one buffer. -/
theorem sound_buffers : imgBuffers sound = (List.range 1536).map fun c =>
    ⟨c, 3, false, false, 0, 655360, 0, 0, 0, 0⟩ := by
  have e (c : Nat) (h : c < 1536) : (sound.drop (6528 + 32 * c)).take 32 = soundBuffer c := by
    rw [sound_eq, List.drop_append, head_length, List.drop_of_length_le (by rw [head_length]; omega), List.nil_append,
      soundTail, List.drop_append, map_length, List.drop_of_length_le (by rw [map_length]; omega), List.nil_append,
      List.drop_append, programs_length, List.drop_of_length_le (by rw [programs_length]; omega), List.nil_append,
      show 6528 + 32 * c - 320 - 6144 - 64 = 32 * c by omega]
    rw [parts_at buffer_length _ _ _ (by rw [List.length_range]; exact h), List.getElem_range]
  simp only [imgBuffers, imgEntries, imgSection, sound_sections]
  rw [show (soundTable.find? fun x => decide (x.kind = 4)) = some ⟨4, 6528, 49152, 1536⟩ from rfl]
  simp only [List.map_map]
  refine List.map_congr_left fun c hc => ?_
  simp only [Function.comp_apply, e c (List.mem_range.1 hc)]
  have hb : soundBuffer c = BitVec.ofNat 8 c :: BitVec.ofNat 8 (c / 256) :: record 30 [(0, 1, 3), (6, 4, 655360)] := rfl
  have hc : c < 1536 := List.mem_range.1 hc
  have f : fieldAt (soundBuffer c) 0 2 = c := by
    rw [hb]; simp only [fieldAt, List.drop_zero, List.take_succ_cons, List.take_zero, leNat, BitVec.toNat_ofNat]; omega
  rw [f, hb, Buffer.mk.injEq]
  refine ⟨rfl, ?_⟩
  change (let r := record 30 [(0, 1, 3), (6, 4, 655360)]
    fieldAt r 0 1 = 3 ∧ (byteAt r 1).getLsbD 0 = false ∧ (byteAt r 1).getLsbD 1 = false ∧ fieldAt r 2 4 = 0 ∧
      fieldAt r 6 4 = 655360 ∧ fieldAt r 10 1 = 0 ∧ fieldAt r 14 4 = 0 ∧ byteAt r 18 = 0 ∧ fieldAt r 22 8 = 0)
  decide +kernel

/-- No part of another kind. -/
theorem sound_none (k : Nat) (h : k ∉ [2, 3, 4]) : imgSection sound k = none := by
  rw [imgSection, sound_sections]
  simp only [List.mem_cons, List.not_mem_nil, or_false, not_or] at h
  simp [soundTable, Ne.symm h.1, Ne.symm h.2.1, Ne.symm h.2.2]

/-- No entry of another kind. -/
theorem sound_entries (k n : Nat) (h : k ∉ [2, 3, 4]) : imgEntries sound k n = [] := by rw [imgEntries, sound_none k h]

/-- `IDLE` 3. -/
def idleWord : BitVec 128 := 0x30000003

/-- Its program. -/
theorem sound_program : imgProgram sound 0 = [idleWord] := by
  rw [imgProgram, show imgSection sound 3 = some ⟨3, 6464, 64, 1⟩ by rw [imgSection, sound_sections]; rfl]
  have a : fieldAt sound (6464 + 8 + 16 * 0) 4 = 32 := (programs_field 8 4 (by decide)).trans (by decide +kernel)
  have b : fieldAt sound (6464 + 8 + 16 * 0 + 4) 4 = 1 := (programs_field 12 4 (by decide)).trans (by decide +kernel)
  have c : fieldAt sound (6464 + 32 + 16 * 0) 16 = 0x30000003 := (programs_field 32 16 (by decide)).trans (by decide +kernel)
  simp only [a, b, show List.range 1 = [0] from rfl, List.map_cons, List.map_nil, c]
  rfl

/-- It has one program. -/
theorem sound_count : imgProgramCount sound = 1 := by
  rw [imgProgramCount, imgSection, sound_sections]; rfl

/-- The program of every cell schedules nothing. -/
theorem sound_trace (c : Nat) (h : c < 1536) : cellTrace sound c = Trace.none := by
  rw [cellTrace, cellPlay, sound_cell c h, sound_program, sound_header]
  rfl

/-- So does every program. -/
theorem sound_traces : allTraces sound = (List.range 1536).map fun c => (c, Trace.none) :=
  List.map_congr_left fun c hc => by rw [sound_trace c (List.mem_range.1 hc)]

/-- No cell sends. -/
theorem sound_sends (d : Nat) : sendsTo (allTraces sound) d = [] := by
  rw [sound_traces, sendsTo]
  simp [Trace.none]

/-- Nothing lands. -/
theorem sound_lands (d : Nat) : landTouches (allTraces sound) d = [] := by rw [landTouches, sound_sends]; rfl

/-- No program sends a token. -/
theorem sound_strings : allStrings sound (allTraces sound) = [] := by
  rw [sound_traces, allStrings]
  simp [Trace.none]

/-- There is no hub string. -/
theorem sound_hub : imgHubStrings sound = [] := by rw [imgHubStrings, sound_entries 7 16 (by decide)]; rfl

/-- There is no edge stream. -/
theorem sound_edges : imgEdges sound = [] := by rw [imgEdges, sound_entries 9 48 (by decide)]; rfl

/-- There is no tracker. -/
theorem sound_trackers : imgTrackers sound = [] := by rw [imgTrackers, sound_entries 5 8 (by decide)]; rfl

/-- There is no steering stream. -/
theorem sound_steers : imgSteer sound = [] := by rw [imgSteer, sound_entries 8 8 (by decide)]; rfl

/-- There is no region. -/
theorem sound_regions : imgRegions sound = [] := by rw [imgRegions, sound_entries 1 16 (by decide)]; rfl

/-- Nothing is steered. -/
theorem sound_pairs : steerPairs sound (allTraces sound) = [] := by
  have : steerTokens sound (allTraces sound) = [] := by rw [steerTokens, sound_strings, sound_hub]; rfl
  rw [steerPairs, this]; rfl

/-- No counter is raised from outside a cell. -/
theorem sound_signals (c : Nat) : landSignals sound (allTraces sound) c = [] := by
  rw [landSignals, sound_sends, sound_strings, sound_hub, steeredSignals, sound_pairs, streamSignals, sound_edges]; rfl

/-- There is no window. -/
theorem sound_windows : imgWindows sound = [] := by
  rw [imgWindows, sound_buffers, List.filter_eq_nil_iff]
  intro x hx
  obtain ⟨c, -, rfl⟩ := List.mem_map.1 hx
  simp

/-- A test that no cell's trace fails. -/
theorem sound_firstCell (bad : Nat → Trace → Bool) (h : ∀ c < 1536, bad c Trace.none = false) :
    firstCell (allTraces sound) bad = none := by
  rw [firstCell, sound_traces, List.find?_eq_none.2, Option.map_none]
  intro x hx
  obtain ⟨c, hc, rfl⟩ := List.mem_map.1 hx
  simp [h c (List.mem_range.1 hc)]

/-- Check 0x01. -/
theorem sound_digest : checkDigest sound (digestBits (sha256 soundBody)) = none := by
  have n : sound.length - 32 = soundBody.length := by rw [sound_length, body_length]
  have a : sound.take soundBody.length = soundBody := by rw [sound, List.take_left]
  have b : sound.drop soundBody.length = sha256 soundBody := by rw [sound, List.drop_left]
  rw [checkDigest, n, a, b]
  simp [failIf]

/-- Zeros before the first section. -/
theorem head_zeros (o n : Nat) (h : o + n ≤ 320) : zeroBytes sound o n = zeroBytes soundHead o n := by
  rw [zeroBytes, sound_eq, List.drop_append_of_le_length (by rw [head_length]; omega),
    List.take_append_of_le_length (by rw [List.length_drop, head_length]; omega), zeroBytes]

/-- Check 0x02. -/
theorem sound_checkHeader : checkHeader sound = none := by
  rw [checkHeader, sound_header, sound_length]
  rw [head_field 0 _ (by decide), head_field 4 _ (by decide), head_field 6 _ (by decide), head_byte 30 (by decide),
    head_byte 31 (by decide), head_byte 36 (by decide), head_zeros 22 _ (by decide), head_zeros 37 _ (by decide)]
  decide +kernel

/-- Check 0x04. -/
theorem sound_slack : checkSlack sound = none := by
  rw [checkSlack, head_byte 28 (by decide), head_byte 29 (by decide)]
  decide +kernel

/-- Check 0x05. -/
theorem sound_size : checkProgramSize sound = none := by
  rw [checkProgramSize, sound_count]
  have d : descriptorOk sound 0 = true := by
    rw [descriptorOk, show imgSection sound 3 = some ⟨3, 6464, 64, 1⟩ by rw [imgSection, sound_sections]; rfl]
    have a : fieldAt sound (6464 + 8 + 16 * 0) 4 = 32 := (programs_field 8 4 (by decide)).trans (by decide +kernel)
    have b : fieldAt sound (6464 + 8 + 16 * 0 + 4) 4 = 1 := (programs_field 12 4 (by decide)).trans (by decide +kernel)
    simp only [a, b]; decide
  have e : (List.range 1536).find? (fun c => decide (1 ≤ (imgCell sound c).1)) = none := by
    rw [List.find?_eq_none]
    intro c hc
    simp [sound_cell c (List.mem_range.1 hc)]
  rw [show List.range 1 = [0] from rfl]
  simp [d, e]

/-- Checks 0x06 to 0x08. -/
theorem sound_programs : checkEncoding sound = none ∧ checkLoops sound = none ∧ checkBeats sound = none := by
  rw [checkEncoding, checkLoops, checkBeats, sound_count, sound_header, show List.range 1 = [0] from rfl]
  simp only [List.find?_cons, sound_program]
  decide +kernel

/-- Check 0x03. -/
theorem sound_placing : checkSections sound = none := by
  have sized : sectionSized sound ⟨3, 6464, 64, 1⟩ = true := by
    have a : fieldAt sound 6464 4 = 1 := (programs_field 0 4 (by decide)).trans (by decide +kernel)
    simp [sectionSized, entrySize, a]
  have z : (((sound.drop 304).take (55712 - 32 - 304)).mapIdx fun i x => (i, x)).any (fun y =>
      decide (y.2 ≠ 0) && !(soundTable.any fun x =>
        decide (x.offset ≤ 304 + y.1) && decide (304 + y.1 < x.offset + x.size))) = false := by
    rw [List.any_eq_false]
    rintro ⟨i, x⟩ hy
    obtain ⟨j, hj, e⟩ := List.mem_mapIdx.1 hy
    obtain ⟨rfl, rfl⟩ := Prod.mk.inj e
    rw [List.length_take] at hj
    simp only [List.getElem_take, List.getElem_drop]
    by_cases hi : 304 + j < 320
    · have : sound[304 + j]'(by rw [sound_length]; omega) = 0 := by
        have b := head_byte (304 + j) hi
        rw [byteAt, List.getD_eq_getElem _ _ (by rw [sound_length]; omega)] at b
        rw [b]
        have : ∀ j < 16, byteAt soundHead (304 + j) = 0 := by decide +kernel
        exact this j (by omega)
      simp [this]
    · simp [soundTable]
      omega
  have f : firstBad soundTable (fun i x =>
      decide (x.kind < 1) || decide (10 < x.kind) || !zeroBytes sound (256 + 16 * i + 2) 2 ||
      ((soundTable.take i).any (fun y => decide (y.kind = x.kind))) ||
      decide (x.offset % 64 ≠ 0) || decide (x.offset < 256 + 16 * soundTable.length) || decide (55712 - 32 < x.offset + x.size) ||
      ((soundTable.take i).any (fun y =>
        decide (y.offset < x.offset + x.size) && decide (x.offset < y.offset + y.size))) ||
      !sectionSized sound x) = none := by
    have a : sectionSized sound ⟨2, 320, 6144, 1536⟩ = true := rfl
    have b : sectionSized sound ⟨4, 6528, 49152, 1536⟩ = true := rfl
    simp only [firstBad, soundTable, List.mapIdx_cons, List.mapIdx_nil, List.find?_cons, List.find?_nil, sized, a, b]
    rw [head_zeros _ _ (by decide), head_zeros _ _ (by decide), head_zeros _ _ (by decide)]
    decide +kernel
  rw [checkSections, sound_sections, sound_header, sound_length]
  dsimp only
  rw [f]
  rw [show 256 + 16 * soundTable.length = 304 from rfl, z]
  decide

/-- Checks 0x09 to 0x0D and 0x0F to 0x12. -/
theorem sound_trivial : checkBanks (allTraces sound) = none ∧ checkVectorWrites (allTraces sound) = none ∧
    checkHopSlack sound (allTraces sound) = none ∧ checkContained sound (allTraces sound) = none ∧
    checkBarriers sound (allTraces sound) = none ∧ checkTrackers sound (allTraces sound) = none ∧
    checkReferences sound (allTraces sound) = none ∧ checkCapacity sound false = none ∧ checkBatching sound = none := by
  refine ⟨sound_firstCell _ fun c _ => ?_, sound_firstCell _ fun c _ => ?_, ?_, ?_,
    sound_firstCell _ fun c _ => ?_, ?_, ?_, ?_, ?_⟩
  · rw [sound_lands]; rfl
  · rfl
  · rw [checkHopSlack, sound_pairs]
    refine sound_firstCell _ fun c _ => ?_
    simp only [earlyFlits, sound_sends]; rfl
  · rw [checkContained, sound_firstCell _ fun c _ => by rfl, sound_pairs, sound_hub, sound_edges]; rfl
  · simp only [sound_signals]; rfl
  · rw [checkTrackers, sound_trackers, sound_firstCell _ fun c _ => by rfl]; rfl
  · have b : firstBad (imgBuffers sound) (fun _ x => decide (x.cls = 1) && decide (x.source = 1) &&
        decide (((imgSection sound 10).map (·.size)).getD 0 < x.srcOff + x.len)) = none := by
      rw [firstBad, List.find?_eq_none.2, Option.map_none]
      intro x hx
      obtain ⟨i, hi, rfl⟩ := List.mem_mapIdx.1 hx
      simp [sound_buffers]
    rw [checkReferences, sound_firstCell _ fun c hc => by rw [namesBad, sound_cell c hc]; rfl, b, sound_hub, sound_steers,
      sound_edges, sound_header]
    rfl
  · rw [checkCapacity, sound_edges]; rfl
  · rw [checkBatching, sound_regions, sound_header]; rfl

/-- Check 0x0E. -/
theorem sound_stored : checkBuffers sound (allTraces sound) = none := by
  have own (c : Nat) (h : c < 1536) : cellBuffers (imgBuffers sound) c = [⟨c, 3, false, false, 0, 655360, 0, 0, 0, 0⟩] := by
    rw [cellBuffers, sound_buffers, List.filter_map]
    have e : (List.range 1536).filter (fun i => decide (i = c)) = [c] := by
      rw [List.filter_eq, List.nodup_range.count, if_pos (List.mem_range.2 h)]; rfl
    have g : ((fun x : Buffer => decide (x.cell = c) && decide (x.cls ≠ 4)) ∘ fun i : Nat =>
        (⟨i, 3, false, false, 0, 655360, 0, 0, 0, 0⟩ : Buffer)) = fun i => decide (i = c) := by
      funext i; simp
    rw [g, e]; rfl
  have bad : firstBad (imgBuffers sound) (fun i x => !bufferOk x ||
      (decide (x.cls = 4) && ((imgBuffers sound).take i).any fun y => decide (y.cls = 4) && decide (y.addr = x.addr))) = none := by
    rw [firstBad, List.find?_eq_none.2, Option.map_none]
    intro x hx
    obtain ⟨i, hi, rfl⟩ := List.mem_mapIdx.1 hx
    have hc : i < 1536 := by rw [sound_buffers] at hi; simpa using hi
    simp [sound_buffers, bufferOk, hc]
  rw [checkBuffers, sound_trackers, sound_edges, sound_pairs]
  rw [bad, show ∀ f : Unit → Option Nat, Option.orElse none f = f () from fun _ => rfl]
  refine sound_firstCell _ fun c hc => ?_
  rw [buffersBad, own c hc, sound_lands]
  have all : Trace.none.touches ++ [] ++ steeredTouches [] c = [] := rfl
  have full : covers [⟨c, 3, false, false, 0, 655360, 0, 0, 0, 0⟩] = true := by
    rw [covers, List.mergeSort_singleton]; rfl
  rw [all, full]
  rfl

/-- It passes every check of the loader. -/
theorem test_sound_passes : loaderChecks sound (digestBits (sha256 soundBody)) false = none := by
  obtain ⟨e, l, t⟩ := sound_programs
  obtain ⟨c9, c10, c11, c12, c13, c15, c16, c17, c18⟩ := sound_trivial
  rw [loaderChecks, sound_digest, sound_checkHeader, sound_placing, sound_slack, sound_size, e, l, t,
    c9, c10, c11, c12, c13, c15, c16, c17, c18, sound_stored]
  rfl

/-- The bytes of a run of host memory that holds them. -/
theorem reads_all (bs : List (BitVec 8)) : Mem.reads (laid 0 bs) 0 bs.length = bs := by
  have := reads_laid [] 0 bs [] (by simp) bs.length rfl
  rwa [List.append_nil, List.nil_append] at this

/-- A machine with some host memory, and tier 1 in service. -/
def holding (m : Mem) : State := (configured.onMem fun m => { m with hbmStacks := 0xFF }).onHost fun h => { h with mem := m }

/-- A `CYL_LOAD` of that image. -/
def loadsSound : Live :=
  { Live.reset with
    opcode := 0x60, phase := .working
    params := (record 24 [(8, 8, 0x5000000000000), (16, 4, 55712)]) ++
      leBytes 32 (digestBits (sha256 soundBody)).toNat ++ List.replicate 8 0 }

/-- Its reads of host memory. -/
theorem holding_reads (l : Live) (m : Mem) (a n : Nat) (h : a < 2 ^ 47) :
    (given l (holding m)).readRun (some 0) (BitVec.ofNat 64 (5 * 2 ^ 48 + a)) n = .ok (Mem.reads m a n) := by
  have o : gaOffset (BitVec.ofNat 64 (5 * 2 ^ 48 + a)) = a := by
    simp only [gaOffset, BitVec.extractLsb'_toNat, BitVec.toNat_ofNat]; omega
  have g : gaSpace (BitVec.ofNat 64 (5 * 2 ^ 48 + a)) = 5 := by
    simp only [gaSpace, BitVec.extractLsb'_toNat, BitVec.toNat_ofNat]; omega
  have b : (given l (holding m)).hostAddr a = a := by
    rw [State.hostAddr, show (given l (holding m)).cfgField 24 2 = 0 from rfl]; omega
  simp only [State.readRun, State.readGa, State.offsetOk, State.hostRead, o, g, b]
  rfl

/-- A page has room in tier 1. -/
theorem holding_room (l : Live) (m : Mem) (id : BitVec 32) (p : List (BitVec 8)) :
    ((given l (holding m)).cylFrames id 0 [some p]).isSome = true := by
  have f : ((given l (holding m)).findSlot 1 (storedSize (storedForm 1 false (Mem.writes [] 0 p)))).isSome = true := by
    simp only [State.findSlot, show (given l (holding m)).dirOf 1 = [] from rfl]
    rw [show (given l (holding m)).mem.hbmStacks = 0xFF from rfl, if_neg (by decide)]
    simp [nextFree]
  have r : (given l (holding m)).roomFor 1 ownCylinder (id.setWidth 28) = true := rfl
  obtain ⟨x, hx⟩ := Option.isSome_iff_exists.1 f
  have q : (given l (holding m)).placement 1 true ownCylinder (id.setWidth 28) false (Mem.writes [] 0 p) = some (1, x.1, x.2) := by
    rw [State.placement, if_pos rfl, List.findSome?_cons, if_pos r, hx]; rfl
  rw [State.cylFrames, State.placePage]
  simp only [Option.getD_some, Option.isNone_some, q, State.cylFrames, Option.map_some, Option.isSome_some]

/-- Those of `CylinderCommands` on an image that passes every check. -/
theorem test_hyp_cylLoad :
    let s := given loadsSound (holding (laid 0 sound))
    let l := loadsSound
    s.liveOf h0 = some l ∧ l.opcode = 0x60 ∧ l.phase = .working ∧ s.loadBar l = none ∧
    s.readRun (some l.func.toNat) (BitVec.ofNat 64 (l.param 8 8)) (l.param 16 4) = .ok sound ∧
    loaderChecks sound (BitVec.ofNat 256 (l.param 24 32)) s.mem.t2Dimm2 = none ∧
    s.cylById (imgHeader sound).id = none ∧ (s.cylFrames (imgHeader sound).id 0 (imagePages sound)).isSome = true := by
  have a : loadsSound.param 8 8 = 0x5000000000000 := rfl
  have b : loadsSound.param 16 4 = 55712 := rfl
  have d : BitVec.ofNat 256 (loadsSound.param 24 32) = digestBits (sha256 soundBody) := by
    have e : loadsSound.param 24 32 = leNat ((leBytes 32 (digestBits (sha256 soundBody)).toNat ++ List.replicate 8 0).take 32) := by
      have l : (record 24 [(8, 8, 0x5000000000000), (16, 4, 55712)]).length = 24 := rfl
      rw [Live.param, fieldAt, loadsSound]
      simp only [List.append_assoc]
      rw [List.drop_append_of_le_length (by omega), List.drop_of_length_le (by omega), List.nil_append]
    rw [e, leNat_leBytes _ _ _ (by have := (digestBits (sha256 soundBody)).isLt; omega), BitVec.ofNat_toNat, BitVec.setWidth_eq]
  refine ⟨rfl, rfl, rfl, ?_, ?_, ?_, ?_, ?_⟩
  · rw [State.loadBar, a, b]
    rw [if_neg (by rintro (h | h) <;> exact absurd h (by decide +kernel))]
    have r := holding_reads loadsSound (laid 0 sound) 16 4 (by decide)
    dsimp only
    rw [show (0x5000000000000#64 + 16 : BitVec 64) = BitVec.ofNat 64 (5 * 2 ^ 48 + 16) from rfl,
      show loadsSound.func.toNat = 0 from rfl, r]
    rfl
  · rw [a, b]
    exact (holding_reads loadsSound _ 0 _ (by decide)).trans (by rw [← sound_length, reads_all])
  · rw [d]; exact test_sound_passes
  · rw [sound_header]; rfl
  · have : imagePages sound = [some (sound.take pageBytes)] := by
      rw [imagePages, sound_length]; rfl
    rw [this]
    exact holding_room _ _ _ _
/-- Those of `CylinderCommands` beside `test_hyp_cylLoad`: an image of zeros, which fails, and the members of a partition of
two, one with its cylinder loaded. -/
theorem test_hyp_cylinderCommands :
    let l := live 0x60 [(8, 8, 0x5000000000000), (16, 4, 288)]
    let s := configured.onMem fun m => { m with hbmStacks := 0xFF }
    let k := cylinder .loaded
    let loaded (s : State) : State := (member s).onCyl fun y => { y with known := [k] }
    let ok := (holds { version .active with manifest := manifest, streamFrom := 0 } (loaded s)).onPwr fun p => { p with
      floor := Voted.all 6 }
    let v := cylinder .verified
    let switches := ok.onCyl fun y => { y with known := [v], drain := 2 }
    let armed_ := armed ((member configured).onCyl fun y => { y with known := [cylinder .verified], drain := 2 })
    let full := configured.onCyl fun y => { y with known := List.replicate 8 k }
    gaChip (BitVec.ofNat 64 (l.param 8 8)) = 0 ∧ gaSpace (BitVec.ofNat 64 (l.param 8 8)) ∈ [2, 3, 5] ∧ 288 ≤ l.param 16 4 ∧
    l.param 16 4 ≤ 2 ^ 30 ∧ s.loadBar l = none ∧ 8 ≤ full.cyl.known.length ∧
    configured.freePages 1 < ceilDiv (l.param 16 4) pageBytes ∧
    (loaded s).cyl.known.length < 8 ∧ ceilDiv (l.param 16 4) pageBytes ≤ (loaded s).freePages 1 ∧
    (match ((loaded s).onHost fun h => { h with mem := Mem.writes [] 16 (leBytes 4 5) }).readRun (some l.func.toNat)
      (BitVec.ofNat 64 (l.param 8 8) + 16) 4 with
      | .ok bs => ((loaded s).cylById (BitVec.ofNat 32 (leNat bs))).isSome | _ => false) = true ∧
    (match s.readRun (some 0) (BitVec.ofNat 64 (l.param 8 8)) 288 with | .ok _ => true | _ => false) = true ∧
    (loaded s).cylById 5 = some k ∧ k.status = .loaded ∧ (loaded s).switchPending = false ∧
    ((loaded s).cyl.staging.any fun g => decide (g.id = 5)) = false ∧ ((loaded s).verifyFault k).isSome = true ∧
    ok.verifyFault k = none ∧ (ok.giveWay.allocateCyl k).isSome = true ∧
    s.cyl.drain = 0 ∧ s.unarmed = true ∧ (armed s).unarmed = false ∧ armed_.cyl.drain = 2 ∧
    ((armed_.cylById 5).any fun k => decide (k.status = .verified)) = true ∧ armed_.unarmed = false ∧
    switches.cyl.drain = 2 ∧ switches.unarmed = true ∧ switches.switchPending = false ∧ switches.cylById 5 = some v ∧
    (switches.cyl.staging.any fun g => decide (g.id = 5)) = false ∧ (live 0x63 [(8, 4, 5)]).param 16 8 = 0 ∧
    switches.switchFault v.image = none ∧ ((member configured).switchFault v.image).isSome = true ∧
    armed_.cad.step.toNat < 1 ∧ (loaderChecks (List.replicate 288 0) 0 false).isSome = true := by decide +kernel

/-- A member whose context 3 is in a state, with room for four pages of 16 positions. -/
def served (st : CtxState) : State :=
  (holds (version .active) (member configured)).onSrv fun v => { v with ctxs := [(3, { Context.reset with
    state := st, base := ⟨1, 1⟩, kvPages := 4, pagePositions := 16, ring := 64 })] }

/-- Those of `ContextCommands`. -/
theorem test_hyp_contextCommands :
    let o := live 0x70 [(8, 2, 1023), (11, 1, 1), (12, 4, 1), (40, 4, 4096), (44, 2, 1)]
    let b := live 0x77 [(8, 4, ctx3), (12, 4, 1), (16, 1, 1), (18, 2, 1024), (20, 2, 1)]
    let on (st : CtxState) (op : BitVec 8) : Option (BitVec 16 × BitVec 32) := (served st).ctxBar (live op [(8, 4, ctx3)])
    let gen := (served .waiting).onCtx 3 fun c => { c with gen := some Gen.reset }
    openFault o = none ∧ o.param 8 2 < 1024 ∧ o.param 10 1 = 0 ∧ ((served .idle).ctx 1023).state = .free ∧
    ((served .idle).func 0).limCtx = 0 ∧
    (match (served .idle).bindBase o 1 1 with | .ok b => decide (b = ⟨1, 1⟩) | _ => false) = true ∧
    on .idle 0x77 = none ∧ (served .idle).regionOf (b.param 8 4 % 1024) ≠ 1 ∧ b.param 12 4 ≠ 0 ∧ b.param 18 2 = 1024 ∧
    b.param 20 2 ≠ 0 ∧ (live 0x77 [(8, 4, ctx3)]).param 12 4 = 0 ∧ on .idle 0x7B = none ∧ on .idle 0x73 = none ∧
    on .waiting 0x73 = none ∧ ((served .waiting).ctx 3).state = .waiting ∧ (served .waiting).unarmed = true ∧
    on .idle 0x74 = none ∧ ((served .idle).ctx 3).closeHandle = none ∧ ((served .idle).ctx 3).gen = none ∧
    (armed (served .idle)).isServing = true ∧ (armed (served .idle)).unarmed = false ∧
    gen.ctxBar (live 0x74 [(8, 4, ctx3)]) = none ∧ (gen.ctx 3).gen.isSome = true := by decide +kernel

/-- Those of `ContextCommands` on numbers: the lowest that is free, none that is, and an adapter. -/
theorem test_hyp_contextOpen :
    let lowest := live 0x70 [(8, 2, 0xFFFF), (40, 4, 1), (44, 2, 1)]
    let adapted := holds { version .active with id := 2, adapter := true, manifest := record 128 [(16, 4, 1), (20, 1, 1)] }
      configured
    openFault lowest = none ∧ lowest.param 8 2 = 0xFFFF ∧ (configured.ctx 0).state = .free ∧
    openFault (live 0x70 [(10, 1, 1), (16, 4, 2), (20, 1, 1), (40, 4, 1), (44, 2, 1)]) = none ∧
    (match adapted.bindAdapter (live 0x70 []) (manBase (record 128 [(16, 4, 1), (20, 1, 1)])) 2 1 with
      | .ok b => decide (b = ⟨2, 1⟩) | _ => false) = true := by decide +kernel

/-- A state in which the contexts of a list are open. -/
def withOpen (ks : List Nat) : State := configured.onSrv fun v => { v with
  ctxs := ks.map fun n => (n, { Context.reset with state := .idle }) }

/-- A list that gives each key one value gives it to every key in it. -/
theorem get_const {α : Type} (d x : α) (ks : List Nat) (k : Nat) (h : k ∈ ks) :
    Sparse.get d (ks.map fun n => (n, x)) k = x := by
  induction ks with
  | nil => cases h
  | cons a r ih =>
    by_cases e : a = k
    · simp [Sparse.get, e]
    · simp only [List.map_cons, Sparse.get, if_neg e]
      exact ih (by simpa [Ne.symm e] using h)

/-- None of them is free. -/
theorem withOpen_state (ks : List Nat) (i : Nat) (h : i ∈ ks) : ((withOpen ks).ctx i).state ≠ .free := by
  have e : (withOpen ks).ctx i = { Context.reset with state := .idle } := get_const _ _ _ _ h
  rw [e]; decide

/-- A state in which no context is free. -/
theorem test_hyp_contextFull (i : Nat) (h : i < 1024) : ((withOpen (List.range 1024)).ctx i).state ≠ .free :=
  withOpen_state _ i (List.mem_range.2 h)

/-- Those of `GenerationCommands`. -/
theorem test_hyp_generationCommands :
    let p := live 0x71 [(8, 4, ctx3), (12, 2, 1024), (16, 4, 2), (20, 4, 62)]
    let s := served .idle
    let c := s.ctx 3
    let a := live 0x72 [(8, 4, ctx3), (14, 1, 1), (16, 4, 2)]
    let w := (served .waiting).onCtx 3 fun c => { c with gen := some { Gen.reset with open_ := true, maxTokens := 62 } }
    let b := live 0x7A [(8, 8, 1), (16, 2, 1), (24, 8, 0)]
    let h := (armed (served .idle)).onHost fun h => { h with mem := Mem.writes [] 0 (record 8 [(2, 1, 1), (4, 4, ctx3)]) }
    s.ctxBar p = none ∧ 1 ≤ p.param 12 2 ∧ p.param 12 2 ≤ 1024 ∧ p.param 14 1 ≤ 1 ∧ p.param 16 4 ≤ 65535 ∧
    p.param 20 4 ≤ 65535 ∧ c.foreseen + p.param 16 4 ≤ 65535 ∧ p.param 16 4 ≠ 0 ∧
    ceilDiv (min 65535 (c.foreseen + p.param 16 4 + p.param 20 4)) c.pagePositions ≤ c.kvPages ∧ c.ring ≠ 0 ∧
    s.served c = true ∧ (s.tokenList p.func.toNat (p.param 24 8) (p.param 16 4)).isSome = true ∧
    w.ctxBar a = none ∧ a.param 14 1 = 1 ∧ (w.ctx 3).gen.any (·.open_) = true ∧ (w.ctx 3).additions.any (·.closes) = false ∧
    ceilDiv (min 65535 ((w.ctx 3).foreseen + a.param 16 4 + (w.ctx 3).remaining)) (w.ctx 3).pagePositions ≤ (w.ctx 3).kvPages ∧
    1 ≤ b.param 16 2 ∧ h.hostFormed = true ∧ h.stepAhead (b.param 8 8) = true ∧
    (h.srv.batches.any fun x => !x.applied && decide (x.atStep.toNat = b.param 8 8)) = false ∧
    (h.hostRead b.func.toNat (b.param 24 8) 8).any (fun bs => (batchFault (imgHeader h.active).slots bs).isNone) = true := by decide +kernel

/-- Those of `ParkCommands`, with an image in host memory. -/
theorem test_hyp_parkCommands :
    let park := live 0x75 [(8, 4, ctx3), (16, 8, 2 ^ 56 - 1)]
    let ex (mode : Nat) : Live := live 0x78 [(8, 4, ctx3), (12, 1, mode), (14, 2, 1), (24, 8, 0x5000000000000)]
    let im (mode : Nat) : Live := live 0x79 [(8, 4, ctx3), (12, 1, mode), (14, 2, 1), (24, 8, 0x5000000000000)]
    let moving (op : BitVec 8) : State := given (live op [(8, 4, ctx3)]) ((served .moving).onCtx 3 fun c => { c with
      moveHandle := some h0, imageAddr := some (0x5000000000000, 0) })
    (served .idle).ctxBar park = none ∧ park.param 16 8 ≠ 0 ∧ park.param 16 8 < 2 ^ 56 ∧
    (served .parked).ctxBar (live 0x76 [(8, 4, ctx3)]) = none ∧ (served .expired).ctxBar (live 0x76 [(8, 4, ctx3)]) = none ∧
    ((served .parked).ctx 3).toTier3 = false ∧
    (served .idle).ctxBar (ex 0) = none ∧ (served .idle).kvFault (ex 1) 0 [2, 5] = none ∧
    (served .idle).kvFault (ex 0) 0 [2, 5] = none ∧ (served .idle).ctxBar (im 0) = none ∧
    (served .idle).kvFault (im 0) 1 [2, 3, 5] = none ∧ (served .idle).kvFault (im 1) 1 [2, 3, 5] = none ∧
    ((served .idle).ctx 3).foreseen = 0 ∧
    ((moving 0x78).liveOf h0).isSome = true ∧
    (((moving 0x78).at_ 0).openCtxs.find? fun n => decide ((((moving 0x78).at_ 0).ctx n).moveHandle = some h0) &&
      (((moving 0x78).at_ 0).ctx n).imageAddr.isSome) = some 3 ∧
    ((moving 0x78).kvCarried 3) = some [] ∧
    ((moving 0x78).putImage 0 0x5000000000000 (kvRuns ((moving 0x78).ctx 3) 0 [])).isSome = true ∧
    (match (moving 0x79).importImage 0 3 4 0x5000000000000 0 with | .error e => decide (e.1 = stCheckFailed) | _ => false) =
      true := by decide +kernel

/-- Those of `LinkCommands`, `FenceAndHealthCommands` and `FunctionCommands`. -/
theorem test_hyp_otherCommands :
    let f := live 0xA0 [(8, 1, 23), (9, 1, 1), (10, 1, 32), (11, 1, 1)]
    let c := live 0xA2 [(8, 1, 0), (9, 1, 3), (10, 1, 1), (12, 4, 1048576)]
    let s := armed configured
    let g := live 0xC0 [(8, 1, 15)]
    BitVec.ofNat 16 ((live 0x92 [(8, 2, 0x7FFF)]).param 8 2) ≠ 0 ∧
    15 ≤ popCount (BitVec.ofNat 16 ((live 0x92 [(8, 2, 0x7FFF)]).param 8 2)) ∧ configured.cylOf .active = none ∧
    (live 0x90 []).param 8 1 = 0 ∧ (live 0x90 [(8, 1, 1)]).param 8 1 = 1 ∧
    f.param 8 1 ≤ 23 ∧ f.param 9 1 ≤ 1 ∧ f.param 10 1 ≤ 32 ∧ f.param 11 1 ≤ 1 ∧ ¬ (live 0xA0 [(11, 1, 2)]).param 11 1 ≤ 1 ∧
    ¬ 1 ≤ (live 0xA2 [(12, 4, 15)]).param 9 1 ∧ ¬ (1 ≤ (live 0xC0 [(8, 1, 16)]).param 8 1 ∧ (live 0xC0 [(8, 1, 16)]).param 8 1 ≤ 15) ∧
    (((withFunc .stopping configured).onFunc 2 fun x => { x with held := some h0 }).func 2).held.isSome = true ∧
    c.param 8 1 ≤ 7 ∧ 1 ≤ c.param 9 1 ∧ c.param 9 1 ≤ 3 ∧ c.param 10 1 = 1 ∧ c.param 12 4 = 1048576 ∧ s.pwr.cal = none ∧
    ((given c s).cmd.live.any fun x => decide (x.2.opcode = 0xA2) && decide (x.2.phase ≠ .accepted)) = false ∧
    s.unarmed = false ∧ c.param 8 1 = s.pwr.inForce.toNat ∧ s.pwr.transition = none ∧ s.target = s.pwr.inForce ∧
    s.pwr.skipping = false ∧ (live 0xA4 [(8, 1, 1)]).param 8 1 = 1 ∧ 1 ≤ g.param 8 1 ∧ g.param 8 1 ≤ 15 ∧
    ((withFunc .stopping configured).func 2).held = none ∧ ((withFunc .stopping configured).func 2).heldEnable = false ∧
    ((withFunc .stopping configured).func 2).again = false ∧
    (((withFunc .starting configured).onFunc 2 fun x => { x with again := true }).func 2).again = true ∧
    ((withFunc .starting configured).onFunc 2 fun x => { x with held := some h0 }).cmd.funcs.any (fun x => x.held.isSome) =
      true ∧ (live 0xC2 [(8, 1, 2)]).func = 0 := by decide +kernel

end Sys2Proof.Tests
end

section
/-!
The slot word (R10, R113, R138 to R140): what `decodeSlot` answers, said once.
-/
namespace Sys2Proof.Proofs

/-- A slot word decodes exactly when its four sub-slots do and no `IDLE` (control opcode 3) stands beside a sub-slot
that is not zero (R140, check 0x06). -/
theorem decodeSlot_eq_some_iff {p : At} {w : BitVec 128} {is : List Instr} :
    decodeSlot p w = some is ↔
      ∃ c m d v, decodeControl p (w.extractLsb' 0 32) = some c ∧ decodeMatrix p (w.extractLsb' 96 32) = some m ∧
        decodeMover p (w.extractLsb' 32 32) = some d ∧ decodeVector p (w.extractLsb' 64 32) = some v ∧
        ¬ (w.extractLsb' 28 4 = 3 ∧ w.extractLsb' 32 96 ≠ 0) ∧ is = [c, m, d, v] := by
  constructor
  · intro h
    unfold decodeSlot at h
    split at h
    case h_1 c m d v hc hm hd hv =>
      split at h
      case isTrue => cases h
      case isFalse hidle => exact ⟨c, m, d, v, hc, hm, hd, hv, hidle, (Option.some.inj h).symm⟩
    case h_2 => cases h
  · rintro ⟨c, m, d, v, hc, hm, hd, hv, hidle, rfl⟩
    simp only [decodeSlot, hc, hm, hd, hv, if_neg hidle]

/-- Settles O15: the layout is the forward half of `decodeSlot_eq_some_iff`. -/
theorem slotWordLayout : Obligations.SlotWordLayout := by
  intro p w is h
  obtain ⟨c, m, d, v, hc, hm, hd, hv, -, his⟩ := decodeSlot_eq_some_iff.mp h
  exact ⟨c, m, d, v, his, hc, hm, hd, hv⟩

end Sys2Proof.Proofs
end

section
/-!
The guard field (R137, R141): the number that its bits make, and what a guard decides of an issue, said once.
-/
namespace Sys2Proof.Proofs
open Sys2Proof.Machine

/-- A concatenation as a sum: the upper part counts in units of what the lower part holds. -/
theorem toNat_append_eq_add {m n : Nat} (x : BitVec m) (y : BitVec n) :
    (x ++ y).toNat = x.toNat * 2 ^ n + y.toNat := by
  rw [BitVec.toNat_append, ← Nat.shiftLeft_add_eq_or_of_lt y.isLt, Nat.shiftLeft_eq]

/-- The fields of a guard stand at bits 12, 8, 5, 4 and 0 of its encoding (R137). -/
theorem guardBits_toNat (g : Guard) :
    (guardBits g).toNat =
      g.skip.toNat * 4096 + g.chkCtr.toNat * 256 + g.chkAdd.toNat * 32 + g.sigEn.toNat * 16 + g.sigCtr.toNat := by
  simp only [guardBits, toNat_append_eq_add, BitVec.toNat_ofBool]
  omega

/-- The verdict of a guard (R141): length skip by its binding comes first, then the check of its counter against the
raised claim; with neither the issue runs. -/
theorem guarded_verdict (s : State) (k : Nat) (g : Guard) :
    (s.guarded k g).1 =
      let c := s.cell k
      let b := Sparse.get SkipBinding.reset c.skips g.skip.toNat
      if g.skip ≠ 0 ∧ (c.vlen b.vl).toNat ≤ 16 * b.origin.toNat then .skipped
      else if g.chkAdd ≠ 0 ∧ c.counter g.chkCtr < c.claim g.chkCtr + g.chkAdd.setWidth 16 then .failed
      else .run := by
  simp only [State.guarded, ← Bool.decide_and, decide_eq_true_eq, apply_ite Prod.fst]

/-- A guard that names no skip binding and raises no claim lets every issue run (R137). -/
theorem guarded_runs (s : State) (k : Nat) {g : Guard} (hskip : g.skip = 0) (hadd : g.chkAdd = 0) :
    (s.guarded k g).1 = .run := by
  have noSkip (q : Prop) : ¬ (g.skip ≠ 0 ∧ q) := fun h => h.1 hskip
  have noCheck (q : Prop) : ¬ (g.chkAdd ≠ 0 ∧ q) := fun h => h.1 hadd
  rw [guarded_verdict]
  exact (if_neg (noSkip _)).trans (if_neg (noCheck _))

/-- Settles O16: `guardOf` reads its fields and `Guard.signal` its counter where R137 puts them, by definition; the number
that the encoding makes is `guardBits_toNat`, the idle guard is `guarded_runs`. -/
theorem guardFieldLayout : Obligations.GuardFieldLayout :=
  ⟨fun _ => ⟨rfl, rfl, rfl, rfl, rfl⟩, guardBits_toNat, fun s k _ => guarded_runs s k, fun _ => rfl⟩

end Sys2Proof.Proofs
end

section
/-!
`PAGE_QUERY` (R232): what a query that may be carried out answers, said once.
-/
namespace Sys2Proof.Proofs
open Sys2Proof.Machine

/-- A page query that may be carried out examines the address, then the page's owner, then writes the directory entry
(R232). -/
theorem exec_pageQuery_ready {h : BitVec 32} {l : Live} {s : State} (hr : s.ready h 0x23 l) :
    exec (.pageQuery h) s = .next (
      let g := BitVec.ofNat 64 (l.param 8 8)
      if gaChip g ≠ s.fab.chip ∨ (gaSlot g).1 ∉ [1, 2, 3] ∨ s.offsetOk g = false then s.complete h stBadParam 8
      else if s.ownPage l.func g = false then s.complete h stBadHandle 0
      else (s.hostWrite l.func.toNat (l.param 16 8) (s.entryBytes (gaSlot g).1 (gaSlot g).2)).complete h stOk 0).workEnd := by
  change execPageQuery h s = _
  rw [execPageQuery, carry_ready 0x23 false h _ s l hr]
  simp only [Bool.not_eq_true']

/-- Settles O21: under each outcome's hypotheses the examinations of `exec_pageQuery_ready` decide. -/
theorem pageQueryAnswers : Obligations.PageQueryAnswers := by
  intro h l s g hready hchip
  rw [exec_pageQuery_ready hready]
  have addressPasses (hspace : (gaSlot g).1 ∈ [1, 2, 3]) (hoffset : s.offsetOk g = true) :
      ¬ (gaChip g ≠ s.fab.chip ∨ (gaSlot g).1 ∉ [1, 2, 3] ∨ s.offsetOk g = false) := by
    simp only [hchip, hspace, hoffset, ne_eq, not_true_eq_false, Bool.true_eq_false, or_self, not_false_eq_true]
  refine ⟨fun hspace hoffset hown => ?entry, fun hspace hoffset hforeign => ?badHandle, fun hspace => ?badParam⟩
  case entry => dsimp only; rw [if_neg (addressPasses hspace hoffset), if_neg (ne_false_of_eq_true hown)]
  case badHandle => dsimp only; rw [if_neg (addressPasses hspace hoffset), if_pos hforeign]
  case badParam => dsimp only; rw [if_pos (.inr (.inl hspace))]

end Sys2Proof.Proofs
end

section
/-!
`ROUTE_SET` (R338): what a command that may be carried out answers, and the parameter bytes it finds no fault in.
-/
namespace Sys2Proof.Proofs
open Sys2Proof.Machine

/-- The group numbers that `ROUTE_SET` carries from byte 16 on (R338). -/
def routeGroups (l : Live) : List Nat := (List.range (l.param 8 1)).map fun i => l.param (16 + 2 * i) 2

/-- Of the ten bytes from 16 on, the first at fault: the upper byte of a group number whose reserved bits are not all zero,
or a nonzero byte behind the last group number (R338). -/
def routeFault (l : Live) : Option Nat :=
  (List.range 10).find? fun j =>
    if j < 2 * l.param 8 1 then decide (j % 2 = 1) && decide (4096 ≤ (routeGroups l).getD (j / 2) 0)
    else decide (l.param (16 + j) 1 ≠ 0)

/-- Group `i` of those that the command carries. -/
theorem routeGroups_getD {l : Live} {i : Nat} (hi : i < l.param 8 1) :
    (routeGroups l).getD i 0 = l.param (16 + 2 * i) 2 := by
  rw [routeGroups, List.getD_eq_getElem _ _ (by rwa [List.length_map, List.length_range]), List.getElem_map,
    List.getElem_range]

/-- Group numbers of 12 bits with zeros behind the last of them are without fault. -/
theorem routeFault_eq_none {l : Live} (hgroups : ∀ i, i < l.param 8 1 → l.param (16 + 2 * i) 2 < 4096)
    (hrest : ∀ j, 2 * l.param 8 1 ≤ j → j < 10 → l.param (16 + j) 1 = 0) : routeFault l = none := by
  refine List.find?_eq_none.2 fun j hj => ?_
  have hj : j < 10 := List.mem_range.1 hj
  by_cases hcarried : j < 2 * l.param 8 1
  · have hi : j / 2 < l.param 8 1 := by omega
    rw [if_pos hcarried, routeGroups_getD hi, decide_eq_false (Nat.not_le.2 (hgroups _ hi)), Bool.and_false]
    exact Bool.false_ne_true
  · rw [if_neg hcarried, hrest j (Nat.not_lt.1 hcarried) hj]
    decide

/-- A `ROUTE_SET` that may be carried out examines the cadence, then the group count, then the bytes of the group numbers,
and replaces the chip's groups (R338). -/
theorem exec_routeSet_ready {h : BitVec 32} {l : Live} {s : State} (hr : s.ready h 0x91 l) :
    exec (.routeSet h) s = .next (
      if s.unarmed = false then s.complete h stNotAllowed 0
      else if 5 < l.param 8 1 then s.complete h stBadParam 8
      else match routeFault l with
        | some j => s.complete h stBadParam (BitVec.ofNat 32 (16 + j))
        | none => (s.onFab fun f => { f with groups := (routeGroups l).map (BitVec.ofNat 12) }).complete h stOk 0).workEnd := by
  change execRouteSet h s = _
  rw [execRouteSet, carry_ready 0x91 false h _ s l hr]
  simp only [Bool.not_eq_true']
  rfl

/-- Settles O20: under each outcome's hypotheses the examinations of `exec_routeSet_ready` decide; sound group numbers pass
the last by `routeFault_eq_none`. -/
theorem routeSetReplacesGroups : Obligations.RouteSetReplacesGroups := by
  intro h l s hready
  rw [exec_routeSet_ready hready]
  refine ⟨fun hunarmed hcount hgroups hrest => ?replaced, fun harmed => ?notAllowed, fun hunarmed hcount => ?badParam⟩
  case replaced =>
    rw [if_neg (ne_false_of_eq_true hunarmed), if_neg (Nat.not_lt.2 hcount), routeFault_eq_none hgroups hrest,
      routeGroups, List.map_map]
    rfl
  case notAllowed => rw [if_pos harmed]
  case badParam => rw [if_neg (ne_false_of_eq_true hunarmed), if_pos hcount]

end Sys2Proof.Proofs
end

section
/-!
The staging copy of the configuration block (R471): which shared operations leave the reset and configuration block as it
is, and what a full reset, `CFG_WRITE` and `CFG_COMMIT` make of it, said once.
-/
namespace Sys2Proof.Proofs
open Sys2Proof.Machine

/-! ### What leaves the reset and configuration block as it is -/

/-- Changes one after another, none of which touches the block, leave it. -/
theorem foldl_cfg {α : Type} {f : State → α → State} (hf : ∀ s a, (f s a).cfg = s.cfg) (as : List α) (s : State) :
    (as.foldl f s).cfg = s.cfg :=
  List.foldlRecOn (motive := fun t => t.cfg = s.cfg) as f rfl fun t ht a _ => (hf t a).trans ht

@[simp] theorem vectorEvent_cfg (g : Nat) (s : State) : (s.vectorEvent g).cfg = s.cfg := by
  change (s.vectorEvent g).kept.cfg = s.kept.cfg
  rw [(quiet_vectorEvent g s).kept]

@[simp] theorem hostWrite_cfg (f a : Nat) (bs : List (BitVec 8)) (s : State) : (s.hostWrite f a bs).cfg = s.cfg := by
  unfold State.hostWrite
  split <;> rfl

@[simp] theorem onQueue_cfg (f q : Nat) (g : Queue → Queue) (s : State) : (s.onQueue f q g).cfg = s.cfg := rfl

@[simp] theorem putRecord_cfg (f q : Nat) (tag handle : BitVec 32) (status : BitVec 16) (kind : BitVec 8)
    (detail : BitVec 32) (s : State) : (s.putRecord f q tag handle status kind detail).cfg = s.cfg := by
  unfold State.putRecord
  dsimp only
  split
  · simp
  · rfl

/-- The completion of a command leaves the block: what it writes are the record, the vector, the handle and the queue. -/
@[simp] theorem complete_cfg (h : BitVec 32) (status : BitVec 16) (detail : BitVec 32) (s : State) :
    (s.complete h status detail).cfg = s.cfg := by
  unfold State.complete
  split
  case h_1 => rfl
  case h_2 l _ =>
    dsimp only
    split
    case isTrue => rfl
    case isFalse => simp [apply_ite State.cfg]

@[simp] theorem tunePll_cfg (s : State) : s.tunePll.cfg = s.cfg := by
  unfold State.tunePll
  extract_lets p want lock
  split <;> rfl

@[simp] theorem onPort_cfg (p : Nat) (g : Port → Port) (s : State) : (s.onPort p g).cfg = s.cfg := rfl

@[simp] theorem raiseFab_cfg (b : Nat) (s : State) : (s.raiseFab b).cfg = s.cfg := by
  unfold State.raiseFab
  split <;> rfl

@[simp] theorem portLost_cfg (p : Nat) (s : State) : (s.portLost p).cfg = s.cfg := by
  unfold State.portLost
  split
  · simp
  · rfl

@[simp] theorem trainPorts_cfg (all : Bool) (s : State) : (s.trainPorts all).cfg = s.cfg := by
  refine foldl_cfg (fun s p => ?_) _ s
  cases all <;> simp

/-- A health event of the block changes only its events register. -/
theorem raiseCfg_cfg (b : Nat) (s : State) :
    (s.raiseCfg b).cfg = { s.cfg with events := s.cfg.events ||| bit 32 b } := rfl

/-! ### A `CFG_WRITE` (R473) -/

/-- The unit `unit` of the staging copy takes 64 bytes, and counts as written. -/
def putUnit (unit : Nat) (bs : List (BitVec 8)) (c : Config_) : Config_ :=
  { c with
    staging := c.staging.take (64 * unit) ++ bs ++ c.staging.drop (64 * unit + 64)
    written := c.written ||| bit 16 unit }

theorem putUnit_written (unit : Nat) (bs : List (BitVec 8)) (c : Config_) :
    (putUnit unit bs c).written = c.written ||| bit 16 unit := rfl

/-- The `n` units from `src` on can be read, whatever the staging copy holds and whichever units count as written. -/
def UnitsReadable (src : BitVec 64) (n : Nat) (s : State) : Prop :=
  ∀ (u : Config_) (k : Nat), k < n →
    ∃ bs, ({ s with cfg := { s.cfg with staging := u.staging, written := u.written } } : State).readRun (some 0)
      (src + BitVec.ofNat 64 (64 * k)) 64 = .ok bs

/-- The first of the units can be read now. -/
theorem UnitsReadable.head {src : BitVec 64} {n : Nat} {s : State} (h : UnitsReadable src (n + 1) s) :
    ∃ bs, s.readRun (some 0) src 64 = .ok bs := by
  obtain ⟨bs, hbs⟩ := h s.cfg 0 (Nat.succ_pos n)
  rw [Nat.mul_zero, BitVec.add_zero] at hbs
  exact ⟨bs, hbs⟩

/-- With the first of the units stored, the others can still be read. -/
theorem UnitsReadable.tail {src : BitVec 64} {n : Nat} {s : State} (h : UnitsReadable src (n + 1) s) (unit : Nat)
    (bs : List (BitVec 8)) : UnitsReadable (src + 64) n (s.onCfg (putUnit unit bs)) := by
  intro u k hk
  have next : src + 64 + BitVec.ofNat 64 (64 * k) = src + BitVec.ofNat 64 (64 * (k + 1)) := by
    rw [Nat.mul_succ, Nat.add_comm, BitVec.ofNat_add, BitVec.add_assoc]
    rfl
  rw [next]
  exact h u (k + 1) (Nat.succ_lt_succ hk)

/-- With every unit stored, the command completes. -/
theorem storeUnits_zero (h : BitVec 32) (src : BitVec 64) (unit : Nat) (s : State) :
    s.storeUnits h src unit 0 = s.complete h stOk 0 := rfl

/-- A unit that is read is stored, and the next one follows. -/
theorem storeUnits_succ {h : BitVec 32} {src : BitVec 64} {unit n : Nat} {s : State} {bs : List (BitVec 8)}
    (hread : s.readRun (some 0) src 64 = .ok bs) :
    s.storeUnits h src unit (n + 1) = (s.onCfg (putUnit unit bs)).storeUnits h (src + 64) (unit + 1) n := by
  rw [State.storeUnits, hread]
  rfl

/-- Only bit `i` of `bit w i` is set. -/
theorem getLsbD_bit {w i j : Nat} (hj : j < w) : (bit w i).getLsbD j = decide (i = j) := by
  rw [bit, BitVec.getLsbD_ofNat, decide_eq_true hj, Bool.true_and, Nat.testBit_two_pow]

/-- A `CFG_WRITE` whose units are all read marks these as written, and no other (R471). -/
theorem storeUnits_written {h : BitVec 32} {i : Nat} (hi : i < 16) (src : BitVec 64) (unit n : Nat) (s : State)
    (hread : UnitsReadable src n s) :
    (s.storeUnits h src unit n).cfg.written.getLsbD i =
      (s.cfg.written.getLsbD i || (decide (unit ≤ i) && decide (i < unit + n))) := by
  induction n generalizing s src unit with
  | zero =>
    have noUnit : (decide (unit ≤ i) && decide (i < unit + 0)) = false := by simp
    rw [storeUnits_zero, complete_cfg, noUnit, Bool.or_false]
  | succ n ih =>
    obtain ⟨bs, hbs⟩ := hread.head
    rw [storeUnits_succ hbs, ih _ _ _ (hread.tail unit bs), State.onCfg_cfg, putUnit_written, BitVec.getLsbD_or,
      getLsbD_bit hi, Bool.or_assoc]
    congr 1
    rw [Bool.eq_iff_iff]
    simp only [Bool.or_eq_true, Bool.and_eq_true, decide_eq_true_eq]
    omega

/-! ### A `CFG_COMMIT` (R474, R475) -/

/-- A committed block is in force and every unit counts as written; of the rest of the block only the events change. -/
theorem commitBlock_cfg (h : BitVec 32) (b : List (BitVec 8)) (s : State) :
    (s.commitBlock h b).cfg =
      { s.cfg with block := some b, written := 0xFFFF, events := s.cfg.events ||| bit 32 0 } := by
  simp [State.commitBlock, raiseCfg_cfg]

/-- The command that a handle names does not depend on the reset and configuration block. -/
theorem liveOf_onCfg (g : Config_ → Config_) (h : BitVec 32) (s : State) : (s.onCfg g).liveOf h = s.liveOf h := rfl

/-- A refused commit waits no longer, notes the reason and the offset, and raises an event; the rest of the block stays. -/
theorem checkCommit_refused {h : BitVec 32} {l : Live} {s : State} {e : Nat × Nat} (hlive : s.liveOf h = some l)
    (hfault : (s.onCfg fun c => { c with commit := none }).cfgFault s.cfg.staging (BitVec.ofNat 256 (l.param 24 32)) =
      some e) :
    (s.checkCommit h).cfg = { s.cfg with
      commit := none, lastRefuse := fields [(0, 8, e.1), (16, 16, e.2)], events := s.cfg.events ||| bit 32 1 } := by
  simp [State.checkCommit, liveOf_onCfg, hlive, hfault, raiseCfg_cfg]

/-- Settles O18: the reset builds the block anew; the units of a `CFG_WRITE` are `storeUnits_written`, the two ends of a
commit `commitBlock_cfg` and `checkCommit_refused`. -/
theorem stagingCopy : Obligations.StagingCopy := by
  refine ⟨fun s cause retain => ⟨rfl, rfl⟩, fun h src o n s _ hread i hi => ?written, fun h b s => ?committed,
    fun h l s e hlive hfault => ?refused⟩
  case written => exact storeUnits_written hi src o n s hread
  case committed => exact ⟨by rw [commitBlock_cfg], by rw [commitBlock_cfg]⟩
  case refused => exact ⟨by rw [checkCommit_refused hlive hfault], by rw [checkCommit_refused hlive hfault]⟩

end Sys2Proof.Proofs
end

section
/-!
The statements about the machine's own step and its reset (O1, O2, O9), the words of the worked program (O14), and what a
command answers without a configuration (O19).
-/
namespace Sys2Proof.Proofs
open Sys2Proof.Machine

/-! ### The step and the reset -/

/-- Settles O1: the queue's front decides the match of the step. -/
theorem stepRunsFront : Obligations.StepRunsFront := fun _ _ _ => rfl

/-- A step without a waiting command is the idle step. -/
theorem step_of_pending_nil {s : State} (h : s.pending = []) : step s = .next (idleTick s) := by
  unfold step
  rw [h]

/-- A sideband answer that is not due yet waits. -/
theorem sbLater_of_early {s : State} (h : ∀ t bs, s.pins.sbDue = some (t, bs) → s.uptime < t) : s.sbLater = s := by
  unfold State.sbLater
  split
  next t bs e => exact if_neg (Nat.not_le.2 (h t bs e))
  next => rfl

/-- A sideband answer that is due is read. -/
theorem sbLater_of_due {s : State} {t : Nat} {bs : List (BitVec 8)} (e : s.pins.sbDue = some (t, bs)) (h : t ≤ s.uptime) :
    s.sbLater = (s.onPins fun p => { p with sbDue := none }).sbAnswer bs := by
  unfold State.sbLater
  rw [e]
  exact if_pos h

/-- Settles O2: the idle step is one count of the timebase, then the sideband's answer by whether it is due. -/
theorem idleStepCounts : Obligations.IdleStepCounts := by
  intro s hp
  refine ⟨fun early => ?_, fun t bs e due => ?_⟩
  · exact (step_of_pending_nil hp).trans (congrArg _ (sbLater_of_early early))
  · exact (step_of_pending_nil hp).trans (congrArg _ (sbLater_of_due e due))

/-- Settles O9: each clause is the value of one field of the reset record. -/
theorem resetValues : Obligations.ResetValues :=
  ⟨rfl, rfl, rfl, rfl, rfl, rfl, rfl, rfl, rfl, rfl, rfl, rfl, rfl, rfl⟩

/-! ### The worked slot program -/

/-- Settles O14: each of the four words is decoded field by field. -/
theorem knownSlotWords : Obligations.KnownSlotWords := fun _ => ⟨rfl, rfl, rfl, rfl⟩

/-! ### Commands without a configuration (R379) -/

/-- A serving command is a command. -/
theorem exists_carry_ctxCommand (op : BitVec 8) (h : BitVec 32) (bad : Live → Option Nat) (body : Live → Nat → State → State)
    (s : State) : ∃ b, ctxCommand op h bad body s = carry op false h b s := ⟨_, rfl⟩

/-- A command of the functions is a command. -/
theorem exists_carry_funcCommand (op : BitVec 8) (h : BitVec 32) (body : Live → Nat → State → State) (s : State) :
    ∃ b, funcCommand op h body s = carry op false h b s := ⟨_, rfl⟩

/-- A command that needs a configuration is carried out as R379 says, with a body of its own. -/
theorem exec_of_needsConfig {i : Instr} {op : BitVec 8} {h : BitVec 32} (s : State)
    (needs : i.needsConfig = some (op, h)) : ∃ body, exec i s = carry op false h body s := by
  cases i with
  | cadenceSet => cases needs; exact ⟨_, (rfl : execCadenceSet h s = _)⟩
  | roleSet => cases needs; exact ⟨_, (rfl : execRoleSet h s = _)⟩
  | alloc => cases needs; exact ⟨_, (rfl : execAlloc h s = _)⟩
  | free => cases needs; exact ⟨_, (rfl : execFree h s = _)⟩
  | move => cases needs; exact ⟨_, (rfl : execMove h s = _)⟩
  | pageQuery => cases needs; exact ⟨_, (rfl : execPageQuery h s = _)⟩
  | memMode => cases needs; exact ⟨_, (rfl : execMemMode h s = _)⟩
  | modelDeclare => cases needs; exact ⟨_, (rfl : execModelDeclare h s = _)⟩
  | shardLoad => cases needs; exact ⟨_, (rfl : execShardLoad h s = _)⟩
  | shardFromFlash => cases needs; exact ⟨_, (rfl : execShardFromFlash h s = _)⟩
  | modelActivate => cases needs; exact ⟨_, (rfl : execModelActivate h s = _)⟩
  | modelRetire => cases needs; exact ⟨_, (rfl : execModelRetire h s = _)⟩
  | adapterLoad => cases needs; exact ⟨_, (rfl : execAdapterLoad h s = _)⟩
  | adapterReplace => cases needs; exact ⟨_, (rfl : execAdapterReplace h s = _)⟩
  | modelReplace => cases needs; exact ⟨_, (rfl : execModelReplace h s = _)⟩
  | scrubSet => cases needs; exact ⟨_, (rfl : execScrubSet h s = _)⟩
  | modelStatus => cases needs; exact ⟨_, (rfl : execModelStatus h s = _)⟩
  | cylLoad => cases needs; exact ⟨_, (rfl : execCylLoad h s = _)⟩
  | cylVerify => cases needs; exact ⟨_, (rfl : execCylVerify h s = _)⟩
  | drain => cases needs; exact ⟨_, (rfl : execDrain h s = _)⟩
  | cylSwitch => cases needs; exact ⟨_, (rfl : execCylSwitch h s = _)⟩
  | cylUnload => cases needs; exact ⟨_, (rfl : execCylUnload h s = _)⟩
  | ctxOpen => cases needs; exact ⟨_, (rfl : execCtxOpen h s = _)⟩
  | promptSubmit => cases needs; exact (exists_carry_ctxCommand .. : ∃ _, execPromptSubmit h s = _)
  | append => cases needs; exact (exists_carry_ctxCommand .. : ∃ _, execAppend h s = _)
  | cancel => cases needs; exact (exists_carry_ctxCommand .. : ∃ _, execCancel h s = _)
  | ctxClose => cases needs; exact (exists_carry_ctxCommand .. : ∃ _, execCtxClose h s = _)
  | ctxPark => cases needs; exact (exists_carry_ctxCommand .. : ∃ _, execCtxPark h s = _)
  | ctxResume => cases needs; exact (exists_carry_ctxCommand .. : ∃ _, execCtxResume h s = _)
  | fallbackBind => cases needs; exact (exists_carry_ctxCommand .. : ∃ _, execFallbackBind h s = _)
  | kvExport => cases needs; exact (exists_carry_ctxCommand .. : ∃ _, execKvExport h s = _)
  | kvImport => cases needs; exact (exists_carry_ctxCommand .. : ∃ _, execKvImport h s = _)
  | batchStep => cases needs; exact ⟨_, (rfl : execBatchStep h s = _)⟩
  | deadlineSet => cases needs; exact (exists_carry_ctxCommand .. : ∃ _, execDeadlineSet h s = _)
  | routeSet => cases needs; exact ⟨_, (rfl : execRouteSet h s = _)⟩
  | planeMask => cases needs; exact ⟨_, (rfl : execPlaneMask h s = _)⟩
  | fenceCell => cases needs; exact ⟨_, (rfl : execFenceCell h s = _)⟩
  | unfenceCell => cases needs; exact ⟨_, (rfl : execUnfenceCell h s = _)⟩
  | calibrate => cases needs; exact ⟨_, (rfl : execCalibrate h s = _)⟩
  | funcEnable => cases needs; exact (exists_carry_funcCommand .. : ∃ _, execFuncEnable h s = _)
  | funcDisable => cases needs; exact (exists_carry_funcCommand .. : ∃ _, execFuncDisable h s = _)
  | _ => exact absurd needs.symm (Option.some_ne_none _)

/-- `LINK_STATUS` without a configuration has no action but its report. -/
theorem exec_linkStatus_unconfigured {h : BitVec 32} {l : Live} {s : State} (live : s.liveOf h = some l)
    (opcode : l.opcode = 0x90) (accepted : l.phase = .accepted) (unconfigured : s.configured = false)
    (action : l.param 8 1 ≠ 0) : exec (.linkStatus h) s = .next (s.complete h stConfigInvalid 0).workEnd := by
  show execLinkStatus h s = _
  unfold execLinkStatus
  refine (carry_open _ _ _ _ l live opcode accepted).trans ?_
  split
  · contradiction
  · simp only [unconfigured, Bool.not_false, if_true]
  · simp only [unconfigured, Bool.false_eq_true, if_false]

/-- A manufacturing test without a configuration. -/
theorem exec_manufacturingTest_unconfigured {h : BitVec 32} {l : Live} {s : State} (live : s.liveOf h = some l)
    (opcode : 0xF1 ≤ l.opcode.toNat) (accepted : l.phase = .accepted) (unconfigured : s.configured = false) :
    exec (.manufacturingTest h) s = .next (s.complete h stConfigInvalid 0).stepEnd := by
  show execManufacturingTest h s = _
  unfold execManufacturingTest
  simp only [live, opcode, accepted, unconfigured, and_self, if_true, Bool.false_eq_true, if_false]
  rfl

/-- Settles O19: each of the three kinds of command meets the missing configuration first. -/
theorem unconfiguredRefusesCommands : Obligations.UnconfiguredRefusesCommands := by
  intro i op h l s live accepted unconfigured
  refine ⟨fun needs opcode => ?_, fun opcode action => ?_, fun test => ?_⟩
  · obtain ⟨body, e⟩ := exec_of_needsConfig s needs
    rw [e]
    exact carry_unconfigured op h body s l live opcode accepted unconfigured
  · exact exec_linkStatus_unconfigured live opcode accepted unconfigured action
  · exact exec_manufacturingTest_unconfigured live test accepted unconfigured
end Sys2Proof.Proofs
end

section
/-!
The vector engine (O22 to O26): each sub-slot is a case of one of the shared vector operations, whose rules
(`vecOp_plays`, `fpOp_fp32`, `laneOp_ok`, `convert_plain` and the others of `Laws.Cell`) give the state after it.
-/
namespace Sys2Proof.Proofs
open Sys2Proof.Machine

/-- Clearing the sign of a value that is not NaN. -/
theorem signOp_clear (f : Fmt) : signOp (fun _ => false) f = fun a _ _ =>
    if (f.decode a).isNan then (f.nanCode, fInvalid) else (a % 2 ^ (f.width - 1), 0) := by
  funext a b d
  simp [signOp, Fmt.signed]

/-- Turning the sign of a value that is not NaN. -/
theorem signOp_turn (f : Fmt) : signOp not f = fun a _ _ =>
    if (f.decode a).isNan then (f.nanCode, fInvalid)
    else ((if a < 2 ^ (f.width - 1) then 2 ^ (f.width - 1) else 0) + a % 2 ^ (f.width - 1), 0) := by
  funext a b d
  simp [signOp, Fmt.signed]

/-- Settles O22: each operation is one of the shared vector operations, whose rule gives its lanes. -/
theorem vectorFloat : Obligations.VectorFloat := by
  refine ⟨fun p o s plays ty => ⟨?_, ?_, ?_, ?_, ?_, ?_, ?_, ?_⟩, fun p o s plays ty => ⟨?_, ?_, ?_, ?_, ?_, ?_, ?_, ?_⟩,
    fun p o s plays ty => ⟨?_, ?_, ?_, ?_, ?_, ?_, ?_, ?_, ?_, ?_⟩⟩
  · exact (fpOp_fp32 p o 4 false _ s plays ty : execVadd p o s = _)
  · exact (fpOp_fp32 p o 4 false _ s plays ty : execVsub p o s = _)
  · exact (fpOp_fp32 p o 4 false _ s plays ty : execVmul p o s = _)
  · exact (fpOp_fp32 p o 4 true _ s plays ty : execVfma p o s = _)
  · exact (fpOp_fp32 p o 2 false _ s plays ty : execVmax p o s = _)
  · exact (fpOp_fp32 p o 2 false _ s plays ty : execVmin p o s = _)
  · have e := fpOp_fp32 p { o with b := .scalar 0 } 2 false (signOp (fun _ => false)) s plays ty
    rw [signOp_clear] at e
    exact (e : execVabs p o s = _)
  · have e := fpOp_fp32 p { o with b := .scalar 0 } 2 false (signOp not) s plays ty
    rw [signOp_turn] at e
    exact (e : execVneg p o s = _)
  · exact (fpOp_bf16 p o 4 false _ s plays ty : execVadd p o s = _)
  · exact (fpOp_bf16 p o 4 false _ s plays ty : execVsub p o s = _)
  · exact (fpOp_bf16 p o 4 false _ s plays ty : execVmul p o s = _)
  · exact (fpOp_bf16 p o 4 true _ s plays ty : execVfma p o s = _)
  · exact (fpOp_bf16 p o 2 false _ s plays ty : execVmax p o s = _)
  · exact (fpOp_bf16 p o 2 false _ s plays ty : execVmin p o s = _)
  · have e := fpOp_bf16 p { o with b := .scalar 0 } 2 false (signOp (fun _ => false)) s plays ty
    rw [signOp_clear] at e
    exact (e : execVabs p o s = _)
  · have e := fpOp_bf16 p { o with b := .scalar 0 } 2 false (signOp not) s plays ty
    rw [signOp_turn] at e
    exact (e : execVneg p o s = _)
  · exact (fnOp_fp32 p o _ _ s plays ty : execExp2 p o s = _)
  · exact (fnOp_fp32 p o _ _ s plays ty : execLog2 p o s = _)
  · exact (fnOp_fp32 p o _ _ s plays ty : execRcp p o s = _)
  · exact (fnOp_fp32 p o _ _ s plays ty : execRsqrt p o s = _)
  · exact (fnOp_fp32 p o _ _ s plays ty : execSigm p o s = _)
  · exact (fnOp_fp32 p o _ _ s plays ty : execTanh p o s = _)
  · exact (reduceOp_fp32 p o _ _ _ s plays ty : execRsum p o s = _)
  · exact (reduceOp_fp32 p o _ _ _ s plays ty : execRmax p o s = _)
  · exact (reduceOp_fp32 p o _ _ _ s plays ty : execRmin p o s = _)
  · exact (reduceOp_fp32 p o _ _ _ s plays ty : execRamax p o s = _)
/-! ### Exact operations and masks -/

/-- An exact operation whose type is INT32. -/
theorem laneOp_int32 (p : At) (o : VOp) (lat : Nat) (g : Cell → Nat → BitVec 32) (s : State) (plays : s.plays p = true)
    (ty : o.ty = .int32) : laneOp p o lat (decide (o.ty = .int32)) g s =
      .next (s.afterVector p lat fun c => c.exactLanes p o lat (g c)) := by
  rw [decide_eq_true ty]
  exact laneOp_ok p o lat g s plays

/-- `VIOTA` of INT32 lanes from a scalar. -/
theorem execViota_scalar (p : At) (o : VOp) (s : State) (sn : BitVec 4) (plays : s.plays p = true) (ty : o.ty = .int32)
    (b : o.b = .scalar sn) : execViota p o s = .next (s.afterVector p 3 fun c =>
      c.vecResult p.beat 3 o.vd (c.mreg o.mask) ((List.range 64).map fun i => c.sreg sn + BitVec.ofNat 32 i) [] false) := by
  unfold execViota
  rw [b]
  exact (if_neg (not_not_intro ty)).trans (vecOp_plays _ _ _ _ plays)

/-- `VBCAST` of a scalar. -/
theorem execVbcast_scalar (p : At) (o : VOp) (s : State) (sn : BitVec 4) (plays : s.plays p = true)
    (b : o.b = .scalar sn) : execVbcast p o s = .next (s.afterVector p 2 fun c =>
      c.vecResult p.beat 2 o.vd (c.mreg o.mask) (List.replicate 64 (c.sreg sn)) [] false) := by
  unfold execVbcast
  rw [b]
  exact vecOp_plays _ _ _ _ plays

/-- Settles O23: each operation is one of the shared exact operations, whose rule gives its lanes. -/
theorem vectorExact : Obligations.VectorExact := by
  refine fun p o s plays => ⟨fun ty => ⟨?_, ?_, ?_, ?_, ?_, ?_, ?_, ?_, ?_⟩, ?_, ?_, ?_⟩
  · exact (intOp_int32 p o _ s plays ty : execIadd p o s = _)
  · exact (intOp_int32 p o _ s plays ty : execIsub p o s = _)
  · exact (intOp_int32 p o _ s plays ty : execVand p o s = _)
  · exact (intOp_int32 p o _ s plays ty : execVor p o s = _)
  · exact (intOp_int32 p o _ s plays ty : execVxor p o s = _)
  · exact (intOp_int32 p o _ s plays ty : execVshl p o s = _)
  · exact (intOp_int32 p o _ s plays ty : execVshr p o s = _)
  · exact (laneOp_int32 p o 3 _ s plays ty : execVperm p o s = _)
  · exact fun sn b => execViota_scalar p o s sn plays ty b
  · exact (vecOp_plays p 2 _ s plays : execVsel p o s = _)
  · exact (laneOp_ok p { o with b := .scalar 0 } 2 _ s plays : execVmov p o s = _)
  · exact fun sn b => execVbcast_scalar p o s sn plays b

/-- A field of two bits has one of four values. -/
theorem twoBits_cases (m : BitVec 2) : m = 0 ∨ m = 1 ∨ m = 2 ∨ m = 3 := by
  revert m
  decide

/-- The operands of `VCMP` meet by number in INT32 lanes. -/
theorem execVcmp_int32 (p : At) (o : VOp) (s : State) (plays : s.plays p = true) (ty : o.ty = .int32) :
    execVcmp p o s = .next (s.afterVector p 2 fun c =>
      c.land (p.beat + 2) (.mask (o.vd.extractLsb' 0 3) (BitVec.allOnes 64) (maskOf fun i =>
        (c.mreg o.mask).getLsbD i &&
          (if o.mod.extractLsb' 0 2 = 0 then decide (lane (c.vreg o.va) i = c.bLane o.b i)
           else if o.mod.extractLsb' 0 2 = 1 then (lane (c.vreg o.va) i).slt (c.bLane o.b i)
           else if o.mod.extractLsb' 0 2 = 2 then (lane (c.vreg o.va) i).sle (c.bLane o.b i) else false)))) := by
  unfold execVcmp
  rw [if_neg (by rw [ty]; decide), vecOp_plays _ _ _ _ plays]
  obtain h | h | h | h := twoBits_cases (o.mod.extractLsb' 0 2)
  all_goals simp only [ty, h, if_true]; rfl

/-- The operands of `VCMP` meet by value in FP32 lanes. -/
theorem execVcmp_fp32 (p : At) (o : VOp) (s : State) (plays : s.plays p = true) (ty : o.ty = .fp32) :
    execVcmp p o s = .next (s.afterVector p 2 fun c =>
      c.land (p.beat + 2) (.mask (o.vd.extractLsb' 0 3) (BitVec.allOnes 64) (maskOf fun i =>
        let x := Fmt.fp32.decode (lane (c.vreg o.va) i).toNat
        let y := Fmt.fp32.decode (c.bLane o.b i).toNat
        let nan := x.isNan || y.isNan
        (c.mreg o.mask).getLsbD i &&
          (if o.mod.extractLsb' 0 2 = 0 then !nan && !x.less false y && !y.less false x
           else if o.mod.extractLsb' 0 2 = 1 then x.less false y
           else if o.mod.extractLsb' 0 2 = 2 then !nan && !y.less false x else nan)))) := by
  unfold execVcmp
  rw [if_neg (by rw [ty]; decide), vecOp_plays _ _ _ _ plays]
  obtain h | h | h | h := twoBits_cases (o.mod.extractLsb' 0 2)
  all_goals simp only [ty, h, reduceCtorEq, if_false]; rfl

/-- `MLOG` of two mask registers. -/
theorem execMlog_reg (p : At) (o : VOp) (s : State) (vb : BitVec 5) (plays : s.plays p = true) (b : o.b = .reg vb) :
    execMlog p o s = .next (s.afterVector p 1 fun c =>
      let a := c.mreg (o.va.extractLsb' 0 3)
      let b := c.mreg (vb.extractLsb' 0 3)
      c.land (p.beat + 1) (.mask (o.vd.extractLsb' 0 3) (BitVec.allOnes 64)
        (if o.mod.extractLsb' 0 2 = 0 then a &&& b
         else if o.mod.extractLsb' 0 2 = 1 then a ||| b
         else if o.mod.extractLsb' 0 2 = 2 then a ^^^ b else a &&& ~~~ b))) := by
  unfold execMlog
  rw [b]
  refine (vecOp_plays _ _ _ _ plays).trans ?_
  obtain h | h | h | h := twoBits_cases (o.mod.extractLsb' 0 2)
  all_goals simp only [h]; rfl

/-- Settles O24: the choices by `mod` bits 1 and 0 are taken value by value. -/
theorem vectorMasks : Obligations.VectorMasks := by
  refine fun p o s plays => ⟨fun ty => ?_, fun ty => ?_, fun vb b => ?_, ?_, ?_⟩
  · exact execVcmp_int32 p o s plays ty
  · exact execVcmp_fp32 p o s plays ty
  · exact execMlog_reg p o s vb plays b
  · exact (vecOp_plays p 1 _ s plays : execMvl p o s = _)
  · exact (vecOp_plays p 1 _ s plays : execMflg p o s = _)

/-! ### Conversions -/

/-- Both formats of `VCVT.FP8` have codes of 8 bits. -/
theorem fp8_width (c : Prop) [Decidable c] : (if c then Fmt.e5m2 else Fmt.e4m3).width = 8 := by
  split <;> rfl

/-- `VUNPK` of a format that is not reserved. -/
theorem execVunpk_ok (p : At) (o : COp) (s : State) (f : Fmt) (plays : s.plays p = true) (fmt : unpkFmt o.fmt = some f) :
    execVunpk p o s = .next (s.afterVector p 3 fun c =>
        let rs := (List.range 64).map fun i => Fmt.fp32.round (f.decode
          ((c.vreg o.va).extractLsb' (f.width * (64 * o.part.toNat + i)) f.width).toNat)
        c.vecResult p.beat 3 o.vd (BitVec.allOnes 64) (rs.map fun r => BitVec.ofNat 32 r.1) (rs.map (·.2))
          (c.vpoison.getLsbD o.va.toNat)) := by
  unfold execVunpk
  rw [fmt]
  exact vecOp_plays _ _ _ _ plays

/-- `VQBLK` of a format that is not reserved. -/
theorem execVqblk_ok (p : At) (o : COp) (s : State) (plays : s.plays p = true) (lo : 1 ≤ o.fmt.toNat) (hi : o.fmt.toNat ≤ 4) :
    execVqblk p o s = .next (s.afterVector p 6 fun c =>
        let f := qblkFmt o.fmt
        let regs := if f = .fp4 then 8 else 4
        let xs := (List.range (64 * regs)).map fun k => Fmt.fp32.decode (c.srcElem o.va k).toNat
        let bs := (List.range (2 * regs)).map fun b => quantBlock f (decide (o.fmt = 4)) ((xs.drop (32 * b)).take 32)
        let poison := c.srcPoison o.va regs
        let c := c.convResult p.beat 6 o.vd f.width (bs.flatMap (·.codes)) poison
        c.land (p.beat + 6) (.vreg (o.vd + 1) (BitVec.allOnes 64)
          (BitVec.ofNat 2048 (leNat (bs.map (fun b => BitVec.ofNat 8 b.scale) ++
            (if o.fmt = 4 then bs.map (fun b => BitVec.ofNat 8 b.shifts) else [])))) poison)) := by
  have permitted : ¬ (o.fmt = 0 ∨ 4 < o.fmt.toNat) := by
    rintro (h | h)
    · rw [h] at lo
      exact absurd lo (by decide)
    · omega
  exact (if_neg permitted).trans (vecOp_plays _ _ _ _ plays)

/-- Settles O25: each conversion is one vector operation, of the two shared forms or of its own. -/
theorem vectorConversions : Obligations.VectorConversions := by
  refine fun p o s plays => ⟨?_, ?_, fun tracked => ⟨?_, ?_⟩, fun tracked => ⟨?_, ?_⟩, fun f fmt => ?_, fun lo hi => ?_⟩
  · exact (convert_plain p o .bf16 2 false s plays rfl : execVcvtBf16 p o s = _)
  · exact (convert_plain p o .fp16 2 false s plays rfl : execVcvtFp16 p o s = _)
  · have e := convert_plain p o (if o.fmt = 1 then .e5m2 else .e4m3) 4 true s plays tracked
    rw [fp8_width] at e
    exact (e : execVcvtFp8 p o s = _)
  · exact (convert_plain p o .fp4 8 true s plays tracked : execVcvtFp4 p o s = _)
  · have e := convert_tracked p o (if o.fmt = 1 then .e5m2 else .e4m3) 4 s plays tracked
    rw [fp8_width] at e
    exact (e : execVcvtFp8 p o s = _)
  · exact (convert_tracked p o .fp4 8 s plays tracked : execVcvtFp4 p o s = _)
  · exact execVunpk_ok p o s f plays fmt
  · exact execVqblk_ok p o s plays lo hi

/-! ### Memory and scalars -/

/-- A load: the banks taken and what is lost by it are named. -/
theorem execVld_plays (p : At) (o : LOp) (s : State) (plays : s.plays p = true) :
    execVld p o s = .next (s.issued p (State.vecBody p 4 (fun s =>
        let a := (s.cell p.cell).vecAddr o.sbase o.offset.toNat
        let s := s.onCell p.cell (Cell.postInc p.beat o)
        if !addrOk a 256 then s.barrierFault p.cell false
        else
          let u := (s.cell p.cell).useBanks p.beat (banksOf a 256) 1
          let s := (List.range u.2.1).foldl (fun s _ => s.barrierFault p.cell false) (s.onCell p.cell fun _ => u.2.2)
          if !u.1 then s.barrierFault p.cell false
          else
            (s.onCell p.cell fun c => c.land (p.beat + 4) (.vreg o.v (c.mreg o.mask)
              (BitVec.ofNat 2048 (leNat (c.sramRead a 256)))
              (c.poisonedAt a 256 || decide (p.read = .uncorrectable)))).onCell p.cell
              fun c => if p.read = .corrected then { c with eccSram := satInc c.eccSram } else c) fun s => s)) :=
  issue_plays p _ s plays

/-- A store: the open tile stream takes the bytes where there is one. -/
theorem execVst_plays (p : At) (o : LOp) (s : State) (plays : s.plays p = true) :
    execVst p o s = .next (s.issued p (State.vecBody p 2 (fun s =>
        let c := s.cell p.cell
        let a := c.vecAddr o.sbase o.offset.toNat
        let s := s.onCell p.cell (Cell.postInc p.beat o)
        if !addrOk a 256 then s.barrierFault p.cell false
        else
          let s := s.onCell p.cell fun d => { d with
            stream := d.stream.map fun t => { t with next := t.next + 256, crc := crcBytes t.crc (bvBytes 256 (c.vreg o.v)) } }
          s.storeLanes p.cell (p.beat + 2) a (c.mreg o.mask) (c.vreg o.v) (c.vpoison.getLsbD o.v.toNat)) fun s => s)) := by
  unfold execVst
  refine (issue_plays p _ s plays).trans ?_
  congr 3
  funext s
  dsimp only
  congr 3
  funext d
  cases e : d.stream with
  | none => exact congrArg (fun x => { d with stream := x }) e
  | some t => rfl

/-- A close: the stream's base and CRC stand where there is one. -/
theorem execVsthClose_plays (p : At) (h : HOp) (s : State) (plays : s.plays p = true) :
    execVsthClose p h s = .next (s.issued p (State.vecBody p 2 (fun s =>
        let c := s.cell p.cell
        let a := (c.stream.map (·.base)).getD (c.vecAddr h.sbase h.offset.toNat)
        let crc := (c.stream.map fun t => ~~~ t.crc).getD (crc32c [])
        let b := (bvBytes 256 (c.vreg h.vs)).take 64
        let scale := if h.tracked then leBytes 4 (pow2Fp32 (c.tracker h.tracker.toNat).e) else (b.drop 12).take 4
        let s := s.onCell p.cell fun c => { c with stream := none }
        if !addrOk a 64 then s.barrierFault p.cell false
        else s.sramStore p.cell (p.beat + 2) a (b.take 12 ++ scale ++ bvBytes 4 crc ++ b.drop 20)
          (c.vpoison.getLsbD h.vs.toNat) 1) fun s => s.onCell p.cell fun c => { c with stream := none })) := by
  unfold execVsthClose
  refine (issue_plays p _ s plays).trans ?_
  congr 3
  funext s
  dsimp only
  cases (s.cell p.cell).stream <;> rfl

/-- `SMOV` by its selector. -/
theorem execSmov_vlen (p : At) (o : SOp) (s : State) (plays : s.plays p = true) (sel : o.sel.extractLsb' 4 2 = 0) :
    execSmov p o s = .next (s.afterVector p 1 fun c =>
      c.land (p.beat + 1) (.scalar o.sd ((c.vlen (o.imm.extractLsb' 0 4)).setWidth 32))) := by
  unfold execSmov
  rw [sel]
  exact scalarOp_plays p o _ s plays

/-- `SMOV` of a lane of a vector register. -/
theorem execSmov_lane (p : At) (o : SOp) (s : State) (plays : s.plays p = true) (sel : o.sel.extractLsb' 4 2 = 1) :
    execSmov p o s = .next (s.afterVector p 1 fun c =>
      c.land (p.beat + 1) (.scalar o.sd (lane (c.vreg (o.imm.extractLsb' 11 5)) (o.imm.extractLsb' 0 6).toNat))) := by
  unfold execSmov
  rw [sel]
  exact scalarOp_plays p o _ s plays

/-- Settles O26: the accesses by their own rules, the scalar operations by the shared one. -/
theorem vectorMemoryAndScalars : Obligations.VectorMemoryAndScalars := by
  refine ⟨fun p o h s plays => ⟨?_, ?_, ?_, ?_⟩, fun p o s plays => ⟨?_, ?_, ?_, fun sel => ?_, fun sel => ?_, ?_⟩⟩
  · exact execVld_plays p o s plays
  · exact execVst_plays p o s plays
  · exact (issue_plays p _ s plays : execVsthOpen p h s = _)
  · exact execVsthClose_plays p h s plays
  · exact (issue_plays p _ s plays : execVnop p s = _)
  · exact (scalarOp_plays p o _ s plays : execSlui p o s = _)
  · exact (scalarOp_plays p o _ s plays : execSlli p o s = _)
  · exact execSmov_vlen p o s plays sel
  · exact execSmov_lane p o s plays sel
  · exact (scalarOp_plays p o _ s plays : execSadd p o s = _)

end Sys2Proof.Proofs
end

section
/-!
The matrix sub-slot (O27) and the data-mover sub-slot (O28, O29): every transfer is one shape, taken by what its guard
decides.
-/
namespace Sys2Proof.Proofs
open Sys2Proof.Machine

/-- The last operand read of a pass whose tiles are operands, unchanged and not poisoned. -/
theorem passRead_of_ok {cycle : Nat} {q : PassRec} {c : Cell}
    (sameA : c.tileAt q.addrA (q.shape.m * q.shape.k) = q.tileA) (sameB : c.tileAt q.addrB (q.shape.k * q.shape.n) = q.tileB)
    (cleanA : q.tileA.poison = false) (cleanB : q.tileB.poison = false)
    (okA : tileOk q.shape false q.tileA = true) (okB : tileOk q.shape true q.tileB = true)
    (opA : operandOk (hdrFormat q.tileA.header) = true) (opB : operandOk (hdrFormat q.tileB.header) = true) :
    c.passRead cycle q = (c.land (cycle + 4) (.passCheck false)).land (cycle + 9) (.results q true false) := by
  simp [Cell.passRead, PassRec.tilesOk, sameA, sameB, cleanA, cleanB, okA, okB, opA, opB]

/-- Settles O27: the guard's verdict is taken case by case, and the actions of a pass are read off the cell's one action. -/
theorem matrixCompletes : Obligations.MatrixCompletes := by
  refine ⟨fun p sh add bank bf a b d v g s plays => ⟨?pass, ?drain, ?_, ?_, ?_⟩,
    fun cycle q failed known poison c sameA sameB cleanA cleanB okA okB opA opB => ⟨?_, rfl, rfl⟩⟩
  case pass =>
    refine (issue_plays p _ s plays : execMpass p sh add bank a b g s = _).trans ?_
    congr 2
    funext s
    dsimp only
    obtain ⟨verdict, t⟩ := s.guarded p.cell g
    cases verdict <;> rfl
  case drain =>
    refine (issue_plays p _ s plays : execMdrain p bf bank d g s = _).trans ?_
    congr 2
    funext s
    dsimp only
    obtain ⟨verdict, t⟩ := (if (s.cell p.cell).passPending bank = true then
      s.onFreeCount (· + Sparse.get 0 (s.cell p.cell).accSize (bankNo bank)) else s).guarded p.cell g
    cases verdict <;> rfl
  · exact (issue_plays p _ s plays : execMseta p a v s = _)
  · exact (issue_plays p _ s plays : execMsets p a v s = _)
  · exact (issue_plays p _ s plays : execMnop p s = _)
  · exact congrArg (·, []) (passRead_of_ok sameA sameB cleanA cleanB okA okB opA opB)

/-! ### The data mover -/

/-- A word without an uncorrectable error issues its sub-slot. -/
theorem issued_of_fetch {p : At} {body : State → State} {s : State} (fetch : p.fetch ≠ .uncorrectable) :
    s.issued p body = (body (s.atBeat p)).settle := by
  unfold State.issued
  rw [if_neg fetch]

/-- A sub-slot of a word without an uncorrectable error, where the cells play. -/
theorem issue_of_fetch {p : At} {body : State → State} {s : State} (plays : s.plays p = true)
    (fetch : p.fetch ≠ .uncorrectable) : issue p body s = .next (body (s.atBeat p)).settle := by
  rw [issue_plays p body s plays, issued_of_fetch fetch]

/-- Two issues that come to one state. -/
theorem next_settle_congr {a b : State} (h : a = b) : (.next a.settle : Out) = .next b.settle := h ▸ rfl

/-- A row from 0 to 23 of a mesh destination is a cell, row 31 an edge stream, and the rows between name nothing. -/
theorem meshCell_rows (d : BitVec 32) :
    ((d.extractLsb' 20 5).toNat < 24 → meshCell d = some ((d.extractLsb' 20 5).toNat * 64 + (d.extractLsb' 14 6).toNat)) ∧
    ((d.extractLsb' 20 5).toNat = 31 → meshCell d = some (1536 + (d.extractLsb' 14 6).toNat)) ∧
    (24 ≤ (d.extractLsb' 20 5).toNat → (d.extractLsb' 20 5).toNat ≤ 30 → meshCell d = none) := by
  unfold meshCell
  refine ⟨fun h => if_pos h, fun h => ?_, fun h g => ?_⟩
  · exact (if_neg (by omega)).trans (if_pos h)
  · exact (if_neg (by omega)).trans (if_neg (by omega))

/-- Settles O28: the verdict of the guard is taken case by case, with the destination where it decides. -/
theorem moverCellTransfers : Obligations.MoverCellTransfers := by
  refine ⟨meshCell_rows, fun p o s plays => ⟨?copy, ?steer, fun k mesh fetch => ?send, fun c k t a ctr edge => ?flit,
    fun mesh fetch => ?nowhere⟩⟩
  case copy =>
    refine (issue_plays p _ s plays : execCopy p o s = _).trans ?_
    congr 2
    funext s
    dsimp only
    obtain ⟨verdict, t⟩ := s.guarded p.cell o.guard
    cases verdict <;> rfl
  case steer =>
    refine (issue_plays p _ s plays : execSteer p o s = _).trans ?_
    congr 2
    funext s
    dsimp only
    obtain ⟨verdict, t⟩ := s.guarded p.cell o.guard
    cases verdict <;> rfl
  case send =>
    refine (issue_of_fetch plays fetch : execSend p o s = _).trans (next_settle_congr ?_)
    generalize (s.atBeat p).guarded p.cell o.guard = r at mesh ⊢
    obtain ⟨verdict, t⟩ := r
    dsimp only at mesh ⊢
    cases verdict
    all_goals simp only [mesh, if_true, reduceCtorEq, if_false]
    rfl
  case flit => exact if_neg (Nat.not_lt.2 edge)
  case nowhere =>
    refine (issue_of_fetch plays fetch : execSend p o s = _).trans (next_settle_congr ?_)
    generalize (s.atBeat p).guarded p.cell o.guard = r at mesh ⊢
    obtain ⟨verdict, t⟩ := r
    dsimp only at mesh ⊢
    cases verdict <;> simp only [mesh, if_true, reduceCtorEq, if_false]

/-- A transfer that runs and leaves its signal to what it starts. -/
theorem transfer_run {p : At} {o : DOp} {fin : Cell → Nat} {run skipped : Cell → State → State} {s : State}
    (plays : s.plays p = true) (fetch : p.fetch ≠ .uncorrectable)
    (verdict : ((s.atBeat p).guarded p.cell o.guard).1 = .run) :
    transfer p o false fin run skipped s = .next (State.settle (
      let u := ((s.atBeat p).guarded p.cell o.guard).2
      ((run (u.cell p.cell) u).countRead p.cell p.read).onCell p.cell (Cell.stepPair o))) := by
  refine (issue_of_fetch plays fetch).trans (next_settle_congr ?_)
  generalize (s.atBeat p).guarded p.cell o.guard = r at verdict ⊢
  obtain ⟨v, t⟩ := r
  cases verdict
  rfl

/-- A transfer that is skipped signals at its end. -/
theorem transfer_skipped {p : At} {o : DOp} {b : Bool} {fin : Cell → Nat} {run skipped : Cell → State → State} {s : State}
    (plays : s.plays p = true) (fetch : p.fetch ≠ .uncorrectable)
    (verdict : ((s.atBeat p).guarded p.cell o.guard).1 = .skipped) :
    transfer p o b fin run skipped s = .next (State.settle (
      let u := ((s.atBeat p).guarded p.cell o.guard).2
      let c := u.cell p.cell
      ((skipped c u).onCell p.cell (Cell.signalAt (fin c) (Guard.signal o.guard))).onCell p.cell (Cell.stepPair o))) := by
  refine (issue_of_fetch plays fetch).trans (next_settle_congr ?_)
  generalize (s.atBeat p).guarded p.cell o.guard = r at verdict ⊢
  obtain ⟨v, t⟩ := r
  cases verdict
  rfl

/-- A transfer whose check fails only advances its registers. -/
theorem transfer_failed {p : At} {o : DOp} {b : Bool} {fin : Cell → Nat} {run skipped : Cell → State → State} {s : State}
    (plays : s.plays p = true) (fetch : p.fetch ≠ .uncorrectable)
    (verdict : ((s.atBeat p).guarded p.cell o.guard).1 = .failed) :
    transfer p o b fin run skipped s = .next (State.settle (
      ((s.atBeat p).guarded p.cell o.guard).2.onCell p.cell (Cell.stepPair o))) := by
  refine (issue_of_fetch plays fetch).trans (next_settle_congr ?_)
  generalize (s.atBeat p).guarded p.cell o.guard = r at verdict ⊢
  obtain ⟨v, t⟩ := r
  cases verdict
  rfl

/-- Settles O29: the three verdicts by the rules of a transfer; the index block and the piece by the cell's one action. -/
theorem moverTierTransfers : Obligations.MoverTierTransfers := by
  refine ⟨fun p o r high imm s plays => ⟨fun fetch verdict => ⟨?_, ?_, ?_⟩, fun fetch verdict => ⟨?_, ?_, ?_⟩,
    fun fetch verdict => ⟨?_, ?_, ?_⟩, ?_, ?_, ?_⟩, fun cycle src dst count base entry last bad sig c =>
    ⟨fun d q c' outs read => ?_, fun base => ?_⟩⟩
  · show execReadT1 p o s = _
    unfold execReadT1
    exact transfer_run plays fetch verdict
  · show execWriteT1 p o s = _
    unfold execWriteT1
    exact transfer_run plays fetch verdict
  · show execGather p o s = _
    unfold execGather
    exact transfer_run plays fetch verdict
  · show execReadT1 p o s = _
    unfold execReadT1
    exact transfer_skipped plays fetch verdict
  · show execWriteT1 p o s = _
    unfold execWriteT1
    exact transfer_skipped plays fetch verdict
  · show execGather p o s = _
    unfold execGather
    exact transfer_skipped plays fetch verdict
  · show execReadT1 p o s = _
    unfold execReadT1
    exact transfer_failed plays fetch verdict
  · show execWriteT1 p o s = _
    unfold execWriteT1
    exact transfer_failed plays fetch verdict
  · show execGather p o s = _
    unfold execGather
    exact transfer_failed plays fetch verdict
  · exact (issue_plays p _ s plays : execDseta p r high imm s = _)
  · exact (issue_plays p _ s plays : execDsets p r imm s = _)
  · exact (issue_plays p _ s plays : execDnop p s = _)
  · simp only [Cell.act, read]
    rfl
  · simp only [Cell.act, base, Bool.false_eq_true, if_false]
end Sys2Proof.Proofs
end

section
/-!
The control sub-slot (O30), and that every other sub-slot is an issue under the error check of its word.
-/
namespace Sys2Proof.Proofs
open Sys2Proof.Machine

/-- A meaning is an issue where the cells play. -/
def IsIssue (p : At) (s : State) (o : Out) : Prop := ∃ body, o = issue p body s

theorem isIssue_ite {p : At} {s : State} {c : Prop} [Decidable c] {o q : Out} (h : IsIssue p s o) (g : IsIssue p s q) :
    IsIssue p s (if c then o else q) := by
  split
  · exact h
  · exact g

theorem isIssue_fpOp (p : At) (o : VOp) (lat : Nat) (useD : Bool) (f : Fmt → Nat → Nat → Nat → Nat × AFlags) (s : State) :
    IsIssue p s (fpOp p o lat useD f s) := isIssue_ite ⟨_, rfl⟩ ⟨_, rfl⟩

theorem isIssue_fnOp (p : At) (o : VOp) (g : Fl → Fl) (z : Bool) (s : State) : IsIssue p s (fnOp p o g z s) :=
  isIssue_ite ⟨_, rfl⟩ ⟨_, rfl⟩

theorem isIssue_reduceOp (p : At) (o : VOp) (leaf : Nat → Nat) (ident : Nat) (g : Fl → Fl → Fl) (s : State) :
    IsIssue p s (reduceOp p o leaf ident g s) := isIssue_ite ⟨_, rfl⟩ ⟨_, rfl⟩

theorem isIssue_laneOp (p : At) (o : VOp) (lat : Nat) (ok : Bool) (g : Cell → Nat → BitVec 32) (s : State) :
    IsIssue p s (laneOp p o lat ok g s) := isIssue_ite ⟨_, rfl⟩ ⟨_, rfl⟩

theorem isIssue_execVbcast (p : At) (o : VOp) (s : State) : IsIssue p s (execVbcast p o s) := by
  unfold execVbcast
  split
  · exact ⟨_, rfl⟩
  · exact ⟨_, rfl⟩

theorem isIssue_execViota (p : At) (o : VOp) (s : State) : IsIssue p s (execViota p o s) := by
  unfold execViota
  split
  · exact ⟨_, rfl⟩
  · exact isIssue_ite ⟨_, rfl⟩ ⟨_, rfl⟩

theorem isIssue_execVcmp (p : At) (o : VOp) (s : State) : IsIssue p s (execVcmp p o s) := isIssue_ite ⟨_, rfl⟩ ⟨_, rfl⟩

theorem isIssue_execMlog (p : At) (o : VOp) (s : State) : IsIssue p s (execMlog p o s) := by
  unfold execMlog
  split
  · exact ⟨_, rfl⟩
  · exact ⟨_, rfl⟩

theorem isIssue_execVunpk (p : At) (o : COp) (s : State) : IsIssue p s (execVunpk p o s) := by
  unfold execVunpk
  split
  · exact ⟨_, rfl⟩
  · exact ⟨_, rfl⟩

theorem isIssue_execVqblk (p : At) (o : COp) (s : State) : IsIssue p s (execVqblk p o s) := isIssue_ite ⟨_, rfl⟩ ⟨_, rfl⟩

theorem isIssue_execSmov (p : At) (o : SOp) (s : State) : IsIssue p s (execSmov p o s) := by
  unfold execSmov
  split
  · exact ⟨_, rfl⟩
  · exact ⟨_, rfl⟩
  · exact ⟨_, rfl⟩

/-- Every matrix, data-mover and vector sub-slot is an issue at its place. -/
theorem isIssue_exec {i : Instr} {p : At} (s : State) (place : i.issuedAt = some p)
    (other : (encodeControl i).isSome = false) : IsIssue p s (exec i s) := by
  cases i with
  | mpass => cases place; exact ⟨_, (rfl : execMpass p _ _ _ _ _ _ s = _)⟩
  | mdrain => cases place; exact ⟨_, (rfl : execMdrain p _ _ _ _ s = _)⟩
  | mseta => cases place; exact ⟨_, (rfl : execMseta p _ _ s = _)⟩
  | msets => cases place; exact ⟨_, (rfl : execMsets p _ _ s = _)⟩
  | mnop => cases place; exact ⟨_, (rfl : execMnop p s = _)⟩
  | copy => cases place; exact ⟨_, (rfl : execCopy p _ s = _)⟩
  | send => cases place; exact ⟨_, (rfl : execSend p _ s = _)⟩
  | gather => cases place; exact ⟨_, (rfl : execGather p _ s = _)⟩
  | readT1 => cases place; exact ⟨_, (rfl : execReadT1 p _ s = _)⟩
  | writeT1 => cases place; exact ⟨_, (rfl : execWriteT1 p _ s = _)⟩
  | steer => cases place; exact ⟨_, (rfl : execSteer p _ s = _)⟩
  | dseta => cases place; exact ⟨_, (rfl : execDseta p _ _ _ s = _)⟩
  | dsets => cases place; exact ⟨_, (rfl : execDsets p _ _ s = _)⟩
  | dnop => cases place; exact ⟨_, (rfl : execDnop p s = _)⟩
  | cnop => exact absurd other.symm Bool.false_ne_true
  | vguard => exact absurd other.symm Bool.false_ne_true
  | endloop => exact absurd other.symm Bool.false_ne_true
  | idle => exact absurd other.symm Bool.false_ne_true
  | string => exact absurd other.symm Bool.false_ne_true
  | setskip => exact absurd other.symm Bool.false_ne_true
  | steersel => exact absurd other.symm Bool.false_ne_true
  | vnop => cases place; exact ⟨_, (rfl : execVnop p s = _)⟩
  | vadd => cases place; exact (isIssue_fpOp .. : IsIssue p s (execVadd p _ s))
  | vsub => cases place; exact (isIssue_fpOp .. : IsIssue p s (execVsub p _ s))
  | vmul => cases place; exact (isIssue_fpOp .. : IsIssue p s (execVmul p _ s))
  | vfma => cases place; exact (isIssue_fpOp .. : IsIssue p s (execVfma p _ s))
  | vmax => cases place; exact (isIssue_fpOp .. : IsIssue p s (execVmax p _ s))
  | vmin => cases place; exact (isIssue_fpOp .. : IsIssue p s (execVmin p _ s))
  | vabs => cases place; exact (isIssue_fpOp .. : IsIssue p s (execVabs p _ s))
  | vneg => cases place; exact (isIssue_fpOp .. : IsIssue p s (execVneg p _ s))
  | exp2 => cases place; exact (isIssue_fnOp .. : IsIssue p s (execExp2 p _ s))
  | log2 => cases place; exact (isIssue_fnOp .. : IsIssue p s (execLog2 p _ s))
  | rcp => cases place; exact (isIssue_fnOp .. : IsIssue p s (execRcp p _ s))
  | rsqrt => cases place; exact (isIssue_fnOp .. : IsIssue p s (execRsqrt p _ s))
  | sigm => cases place; exact (isIssue_fnOp .. : IsIssue p s (execSigm p _ s))
  | tanh => cases place; exact (isIssue_fnOp .. : IsIssue p s (execTanh p _ s))
  | rsum => cases place; exact (isIssue_reduceOp .. : IsIssue p s (execRsum p _ s))
  | rmax => cases place; exact (isIssue_reduceOp .. : IsIssue p s (execRmax p _ s))
  | rmin => cases place; exact (isIssue_reduceOp .. : IsIssue p s (execRmin p _ s))
  | ramax => cases place; exact (isIssue_reduceOp .. : IsIssue p s (execRamax p _ s))
  | iadd => cases place; exact (isIssue_laneOp .. : IsIssue p s (execIadd p _ s))
  | isub => cases place; exact (isIssue_laneOp .. : IsIssue p s (execIsub p _ s))
  | vand => cases place; exact (isIssue_laneOp .. : IsIssue p s (execVand p _ s))
  | vor => cases place; exact (isIssue_laneOp .. : IsIssue p s (execVor p _ s))
  | vxor => cases place; exact (isIssue_laneOp .. : IsIssue p s (execVxor p _ s))
  | vshl => cases place; exact (isIssue_laneOp .. : IsIssue p s (execVshl p _ s))
  | vshr => cases place; exact (isIssue_laneOp .. : IsIssue p s (execVshr p _ s))
  | vsel => cases place; exact ⟨_, (rfl : execVsel p _ s = _)⟩
  | vmov => cases place; exact (isIssue_laneOp .. : IsIssue p s (execVmov p _ s))
  | vbcast => cases place; exact isIssue_execVbcast ..
  | vperm => cases place; exact (isIssue_laneOp .. : IsIssue p s (execVperm p _ s))
  | viota => cases place; exact isIssue_execViota ..
  | vcmp => cases place; exact isIssue_execVcmp ..
  | mlog => cases place; exact isIssue_execMlog ..
  | mvl => cases place; exact ⟨_, (rfl : execMvl p _ s = _)⟩
  | mflg => cases place; exact ⟨_, (rfl : execMflg p _ s = _)⟩
  | vcvtBf16 => cases place; exact ⟨_, (rfl : execVcvtBf16 p _ s = _)⟩
  | vcvtFp16 => cases place; exact ⟨_, (rfl : execVcvtFp16 p _ s = _)⟩
  | vcvtFp8 => cases place; exact ⟨_, (rfl : execVcvtFp8 p _ s = _)⟩
  | vcvtFp4 => cases place; exact ⟨_, (rfl : execVcvtFp4 p _ s = _)⟩
  | vqblk => cases place; exact isIssue_execVqblk ..
  | vunpk => cases place; exact isIssue_execVunpk ..
  | vld => cases place; exact ⟨_, (rfl : execVld p _ s = _)⟩
  | vst => cases place; exact ⟨_, (rfl : execVst p _ s = _)⟩
  | vsthOpen => cases place; exact ⟨_, (rfl : execVsthOpen p _ s = _)⟩
  | vsthClose => cases place; exact ⟨_, (rfl : execVsthClose p _ s = _)⟩
  | slui => cases place; exact ⟨_, (rfl : execSlui p _ s = _)⟩
  | slli => cases place; exact ⟨_, (rfl : execSlli p _ s = _)⟩
  | smov => cases place; exact isIssue_execSmov ..
  | sadd => cases place; exact ⟨_, (rfl : execSadd p _ s = _)⟩
  | _ => exact absurd place.symm (Option.some_ne_none _)

/-- A control sub-slot issues under a clean word what its own word leaves of it. -/
theorem exec_control {i : Instr} {p : At} (s : State) (place : i.issuedAt = some p)
    (control : (encodeControl i).isSome = true) : ∃ body, exec i s = ctlIssue p body s := by
  cases i with
  | cnop => cases place; exact ⟨_, (rfl : execCnop p s = _)⟩
  | vguard => cases place; exact ⟨_, (rfl : execVguard p _ s = _)⟩
  | endloop => cases place; exact ⟨_, (rfl : execEndloop p _ _ s = _)⟩
  | idle => cases place; exact ⟨_, (rfl : execIdle p _ s = _)⟩
  | string => cases place; exact ⟨_, (rfl : execString p _ _ s = _)⟩
  | setskip => cases place; exact ⟨_, (rfl : execSetskip p _ _ _ _ s = _)⟩
  | steersel => cases place; exact ⟨_, (rfl : execSteersel p _ s = _)⟩
  | _ => exact absurd control Bool.false_ne_true

/-- A control sub-slot whose word holds no double-bit error: a corrected one is counted first. -/
theorem ctlIssue_of_fetch {p : At} {body : State → State} {s : State} (plays : s.plays p = true)
    (fetch : p.fetch ≠ .uncorrectable) : ctlIssue p body s = .next (s.issued { p with fetch := .clean } fun s =>
      body (if p.fetch = .corrected then s.onCell p.cell fun c => { c with eccSlot := satInc c.eccSlot } else s)) := by
  refine (issue_plays { p with fetch := .clean } _ s plays).trans ?_
  congr 2
  cases h : p.fetch with
  | clean => rfl
  | corrected => rfl
  | uncorrectable => exact absurd h fetch

/-- A control sub-slot whose word holds a double-bit error counts a checksum failure and does nothing else. -/
theorem ctlIssue_uncorrectable {p : At} {body : State → State} {s : State} (plays : s.plays p = true)
    (fetch : p.fetch = .uncorrectable) : ctlIssue p body s = .next ((s.atBeat p).checksumFault p.cell).settle := by
  refine (issue_plays { p with fetch := .clean } _ s plays).trans ?_
  rw [fetch]
  rfl

/-- Settles O30: each control sub-slot under the two states of its word, and every other one under a double-bit error. -/
theorem controlSubSlot : Obligations.ControlSubSlot := by
  refine ⟨fun p s plays fetch => ⟨?_, fun g => ?_, fun trip body => ?_, fun n => ?_, fun k vl origin stride k0 => ?_,
    fun st => ?_, fun t r => ?_⟩, fun i p s place plays fetch => ⟨fun other => ?_, fun control => ?_, ?_⟩⟩
  · exact (ctlIssue_of_fetch plays fetch : execCnop p s = _)
  · exact (ctlIssue_of_fetch plays fetch : execVguard p g s = _)
  · exact (ctlIssue_of_fetch plays fetch : execEndloop p trip body s = _)
  · exact (ctlIssue_of_fetch plays fetch : execIdle p n s = _)
  · refine (ctlIssue_of_fetch plays fetch : execSetskip p k vl origin stride s = _).trans ?_
    simp only [k0, if_false]
  · exact (ctlIssue_of_fetch plays fetch : execSteersel p st s = _)
  · exact (ctlIssue_of_fetch plays fetch : execString p t r s = _)
  · obtain ⟨body, e⟩ := isIssue_exec s place other
    rw [e, issue_plays _ _ _ plays]
    unfold State.issued
    rw [if_pos fetch]
  · obtain ⟨body, e⟩ := exec_control s place control
    rw [e]
    exact ctlIssue_uncorrectable plays fetch
  · rfl
end Sys2Proof.Proofs
end

section
/-!
Arrivals at the cells (O31, O32): each is an arrival while the cells play, whose rule gives the state that it finds.
-/
namespace Sys2Proof.Proofs
open Sys2Proof.Machine

/-- A token that is taken off its lane acts after its bridge CRC is accounted for. -/
theorem tokenArrives_taken {kind cell cycle : Nat} {bad : Bool} {body : StrToken → State → State} {s t : State} {x : StrToken}
    (playing : s.step.playing = true)
    (taken : ((s.at_ (s.cycleTick cycle)).settleAll cycle).takeToken cell cycle kind = some (x, t)) :
    tokenArrives kind cell cycle bad body s =
      .next (body x (if bad = true ∧ x.bridge = true then t.bridgeFailure x.row else t)).settle := by
  refine (arrive_plays cycle _ s playing).trans (next_settle_congr ?_)
  simp only [taken, Bool.and_eq_true]

/-- Settles O31: what is taken off the mesh or its lane decides the match of the arrival. -/
theorem arrivalsAtCells : Obligations.ArrivalsAtCells := by
  refine ⟨fun dest cycle bad f s t playing => ⟨fun taken => ?_, fun taken => ?_⟩,
    fun cell cycle bad x s t playing => ⟨fun taken => ?_, fun taken fits => ?_, fun taken => ?_, fun d taken tag => ?_⟩⟩
  · refine (arrive_plays cycle _ s playing : execLandingFlit dest cycle bad s = _).trans (next_settle_congr ?_)
    simp only [taken, Bool.and_eq_true]
  · refine (arrive_plays cycle _ s playing : execEmptyFlit dest cycle bad s = _).trans (next_settle_congr ?_)
    simp only [taken, Bool.and_eq_true]
  · exact (tokenArrives_taken playing taken : execValidLengthToken cell cycle bad s = _)
  · exact (tokenArrives_taken playing taken : execRemoteBarrierToken cell cycle bad s = _).trans
      (next_settle_congr (if_pos fits))
  · exact (tokenArrives_taken playing taken : execSteeringControlToken cell cycle bad s = _)
  · refine (tokenArrives_taken playing taken : execZeroLengthHeaderToken cell cycle bad s = _).trans (next_settle_congr ?_)
    rw [tag]

/-- Settles O32: what the cell, the pieces, the writes or the table hold decides the match of the arrival. -/
theorem steeringAndTierArrivals : Obligations.SteeringAndTierArrivals := by
  refine ⟨fun cell cycle data poison n st s playing => ⟨fun found => ?_, ?_⟩,
    fun cell cycle entry bad x w h s playing => ⟨fun found => ?_, fun found => ?_, fun found kind row col => ?_⟩⟩
  · refine (arrive_plays cycle _ s playing : execSteerFlitArrival cell cycle s = _).trans (next_settle_congr ?_)
    simp only [found] <;> rfl
  · exact (arrive_plays cycle _ s playing : execSteerWindowExpiry cell cycle s = _)
  · refine (arrive_plays cycle _ s playing : execT1PieceArrival cell cycle bad s = _).trans (next_settle_congr ?_)
    simp only [found] <;> rfl
  · refine (arrive_plays cycle _ s playing : execT1WriteAck cell cycle s = _).trans (next_settle_congr ?_)
    simp only [found]
  · show execHubStringInject entry s = _
    unfold execHubStringInject
    rw [if_pos playing, found]
    refine if_neg ?_
    rintro (none | out | out)
    · exact kind none
    · exact Nat.not_le.2 row out
    · exact Nat.not_le.2 col out
end Sys2Proof.Proofs
end

section
/-!
The boundary and the last beat (O33).
-/
namespace Sys2Proof.Proofs
open Sys2Proof.Machine

/-- A choice by two flags is one by what they say. -/
theorem ite_and_not {α : Sort*} (a b : Bool) (x y : α) :
    (if (a && !b) = true then x else y) = if a = true ∧ b = false then x else y := by
  cases a <;> cases b <;> rfl

/-- Settles O33: the conditions of the boundary are taken one by one; its phases are those of the definition in one list. -/
theorem beatBoundary : Obligations.BeatBoundary := by
  refine ⟨fun west east s armed fixed running => ?_, fun s playing last => ?_⟩
  · intro c b u after up
    have enters : ¬ (s.unarmed = true ∨ (!s.cad.b0Fixed) = true ∨ s.hlt.halted = true) := by
      simp [armed, fixed, running]
    have e : execBoundary west east s = if u.cad.begun then close (u.closingBoundary b west east)
        else close (u.firstBoundary b west east) :=
      (if_neg enters).trans (if_neg (Bool.eq_false_iff.1 up))
    have later (k : Closing) (s : State) : s.afterReport k = after k s := by
      unfold State.afterReport State.phases3to9 State.phase11
      simp only [ite_and_not]
      rfl
    refine ⟨fun begun => ?_, fun first => ?_⟩
    · refine (e.trans (if_pos begun) : execBoundary west east s = _).trans ?_
      simp only [← later]
      rfl
    · refine (e.trans (if_neg (Bool.eq_false_iff.1 first)) : execBoundary west east s = _).trans ?_
      simp only [← later]
      rfl
  · intro n u
    have e : execLastBeat s = _ := if_neg (by simp [playing, last])
    refine ⟨fun votes => ?_, fun votes => ?_⟩
    · refine (e.trans (if_pos votes) : execLastBeat s = _).trans ?_
      have serves : (if (!u.step.void && u.isServing) = true then u.announce else u) =
          if u.step.void = false ∧ u.isServing = true then u.announce else u := by
        cases u.step.void <;> cases u.isServing <;> rfl
      exact congrArg (fun v : State => close (v.sendVerdict (!v.step.void) v.step.cause)) serves
    · exact (e.trans (if_neg (Bool.eq_false_iff.1 votes)) : execLastBeat s = _)
end Sys2Proof.Proofs
end

section
/-!
The events of the cadence (O34): windows that close, markers, and the arming that finds none.
-/
namespace Sys2Proof.Proofs
open Sys2Proof.Machine

/-- The marker that counts for a window, by the state. -/
theorem counted_eq (c : Cadence) : c.counted = if c.state = .follower then c.leaderMarker
    else if c.state = .holdover then c.marker.or c.leaderMarker else c.marker := by
  unfold Cadence.counted
  cases c.state <;> rfl

/-- The correction, where there is a marker. -/
theorem corrected_eq (w : Int) (d : Option Int) : corrected w d = (d.map fun x => max (-w) (min w x)).getD 0 := by
  cases d <;> rfl

/-- What a closable window leaves when it closes, with the period that holds since the last boundary. -/
theorem closeWindow_of_closable {s : State} (closable : s.cad.closable = true) :
    s.closeWindow =
      let w : Int := (s.cad.window.value.toNat : Int)
      let closed : State := s.onCad fun c =>
        let d := c.counted
        let next := ((c.bk + c.heldPeriod : Int) + if c.state.corrects = true then corrected w d else 0).toNat
        let elects := decide (c.state = .follower) || (decide (c.state = .holdover) && c.leader.isSome)
        { c with
          next := next, winBase := next, winEnd := next + c.heldPeriod / 2, marker := none, leaderMarker := none
          offset := (d.map (intBits 32)).getD 0x80000000
          slewed := if c.marker.isSome = true then beyond w c.marker else c.slewed
          misses := if d.isSome = true then 0 else min 16 (c.misses + 1)
          missCount := if d.isSome = true then c.missCount else satInc c.missCount
          closedWindows := ⟨c.winEnd, c.step, c.marker.isSome, c.leaderMarker.isSome⟩ :: c.closedWindows
          returnRun := if c.marker.isSome = true then c.returnRun else 0
          electWindows := if elects = false then c.electWindows
            else if c.leaderMarker.isSome = true then 0 else c.electWindows + 1 }
      if (s.cad.state.corrects && beyond w s.cad.counted) = true then closed.raiseCad 7 else closed := by
  have begun : s.cad.begun = true := by
    simp only [Cadence.closable, Bool.and_eq_true] at closable
    exact closable.1.2
  have held : s.inForce = s.cad.heldPeriod := if_pos begun
  unfold State.closeWindow
  rw [held]
  dsimp only [State.capture, State.onCad]
  cases s.cad.counted <;>
    cases decide (s.cad.state = .follower) || (decide (s.cad.state = .holdover) && s.cad.leader.isSome) <;> rfl

/-- A marker of the pin in service lies its pin's delay before its tick. -/
theorem execCadenceMarker_eq {tick : Nat} {s : State} (source : s.cad.source = false) (awake : s.inReset = false) :
    execCadenceMarker tick s =
      finish ((s.at_ tick).selectedMarker tick ((tick : Int) - s.cad.pinDelay.toNat)) := by
  have pin : ¬ ((s.at_ tick).cad.source || (s.at_ tick).inReset) = true := by
    rw [Bool.not_eq_true, Bool.or_eq_false_iff]
    exact ⟨source, awake⟩
  exact congrArg (fun t : State => finish t) (if_neg pin)

/-- A marker too near the one before, or not the first of its window. -/
theorem selectedMarker_rejected {t : Nat} {mark : Int} {s : State} (on : s.cad.inputEnable = true)
    (clocked : s.clocked 0 = true)
    (rejected : ((s.passWindow mark).spaced (s.passWindow mark).cad.lastOf t &&
      (s.passWindow mark).cad.firstMark false mark) = false) :
    s.selectedMarker t mark = (s.passWindow mark).rejectMarker t := by
  refine (if_pos ⟨on, clocked⟩).trans (if_pos ?_)
  rw [rejected]
  rfl

/-- A marker that is spaced and the first of its window. -/
theorem selectedMarker_accepted {t : Nat} {mark : Int} {s : State} (on : s.cad.inputEnable = true)
    (clocked : s.clocked 0 = true)
    (accepted : ((s.passWindow mark).spaced (s.passWindow mark).cad.lastOf t &&
      (s.passWindow mark).cad.firstMark false mark) = true) :
    s.selectedMarker t mark =
      let v := (s.passWindow mark).onCad (Cadence.accepted ((s.passWindow mark).elapsed t))
      if v.cad.winOpen = false then v.markBefore mark
      else (v.onCad (Cadence.takeMark false mark)).onCad fun c => { c with
        returnRun := if c.state.leaderless = true then min 4 (c.returnRun + 1) else c.returnRun } := by
  refine (if_pos ⟨on, clocked⟩).trans ((if_neg ?_).trans ?_)
  · rw [accepted]
    decide
  · dsimp only
    cases ((s.passWindow mark).onCad (Cadence.accepted ((s.passWindow mark).elapsed t))).cad.winOpen <;> rfl

/-- A health event of the cadence block moves no period. -/
theorem raiseCad_period (b : Nat) (s : State) : (s.raiseCad b).period = s.period := by
  unfold State.raiseCad
  split <;> rfl

/-- A health event of the cadence block, or none, leaves the source. -/
theorem ite_raiseCad_source (c : Prop) [Decidable c] (b : Nat) (s : State) :
    (if c then s.raiseCad b else s).cad.source = s.cad.source := by
  unfold State.raiseCad
  split
  · split <;> rfl
  · rfl

/-- A window that closes leaves the source. -/
theorem closeWindow_source (s : State) : s.closeWindow.cad.source = s.cad.source := by
  unfold State.closeWindow
  exact ite_raiseCad_source _ 7 _

/-- A window that a marker passes leaves the source. -/
theorem passWindow_source (t : Int) (s : State) : (s.passWindow t).cad.source = s.cad.source := by
  unfold State.passWindow
  split
  · exact closeWindow_source s
  · rfl

/-- A marker is the first of its window where the window, open or closed, has none. -/
theorem firstMark_eq (mark : Int) (c : Cadence) : c.firstMark false mark =
    !(if c.winOpen = false ∨ mark < c.opened then false else ((c.closedAt mark).map (·.marked)).getD c.marker.isSome) := by
  unfold Cadence.firstMark
  cases c.winOpen <;> by_cases early : mark < c.opened <;> cases c.closedAt mark <;> simp [early]

/-- A marker of a window is that of the closed window in which it lies, else that of the open window. -/
theorem takeMark_eq (mark : Int) (c : Cadence) : c.takeMark false mark = { c with
    marker := if mark < c.opened ∨ (c.closedAt mark).isSome = true then c.marker else some (mark - c.winBase)
    closedWindows := if mark < c.opened then c.closedWindows
      else c.closedWindows.map fun x => if some x = c.closedAt mark then { x with marked := true } else x } := by
  unfold Cadence.takeMark
  by_cases early : mark < c.opened
  · simp [early]
  · cases c.closedAt mark <;> simp [early]

/-- The states in which leader frames are captured. -/
theorem leaderless_iff (x : CadState) : x.leaderless = true ↔ x = .holdover ∨ x = .leader ∨ x = .follower := by
  cases x <;> simp [CadState.leaderless]

/-- A marker of an open window takes its place there, and counts in the run that ends a holdover. -/
theorem markOpen (u : State) (mark : Int) (now : Nat) :
    (((u.onCad fun c => { c with lastAccept := some now }).onCad (Cadence.takeMark false mark)).onCad fun c => { c with
      returnRun := if c.state.leaderless = true then min 4 (c.returnRun + 1) else c.returnRun }) =
    u.onCad fun c => { c with
      lastAccept := some now
      marker := if mark < c.opened ∨ (u.cad.closedAt mark).isSome = true then c.marker else some (mark - c.winBase)
      closedWindows := if mark < c.opened then c.closedWindows
        else c.closedWindows.map fun x => if some x = u.cad.closedAt mark then { x with marked := true } else x
      returnRun := if c.state = .holdover ∨ c.state = .leader ∨ c.state = .follower then min 4 (c.returnRun + 1)
        else c.returnRun } := by
  have run : (if u.cad.state.leaderless = true then min 4 (u.cad.returnRun + 1) else u.cad.returnRun) =
      if u.cad.state = .holdover ∨ u.cad.state = .leader ∨ u.cad.state = .follower then min 4 (u.cad.returnRun + 1)
      else u.cad.returnRun := if_congr (leaderless_iff _) rfl rfl
  dsimp only [State.onCad]
  rw [takeMark_eq, ← run]
  rfl

/-- A marker before any window fixes B_0, where the arming's tick is past. -/
theorem markBefore_arm {mark : Int} {s : State} (none : s.cad.loadHandle = none) (acquiring : s.cad.state = .acquiring)
    (after : (s.cad.armTick.toNat : Int) ≤ mark) : s.markBefore mark = s.fixB0 mark.toNat (mark + s.period).toNat := by
  unfold State.markBefore
  rw [none]
  exact if_pos ⟨acquiring, after⟩

/-- A marker before any window loads the timebase, where a load waits. -/
theorem markBefore_load {mark : Int} {s : State} {h : BitVec 32} (load : s.cad.loadHandle = some h) :
    s.markBefore mark = s.loadTimebase h mark := by
  unfold State.markBefore
  rw [load]

/-- Settles O34: a window that closes by its rule, a marker by whether it is rejected, opens the cadence or lies in an open
window. -/
theorem cadenceEvents : Obligations.CadenceEvents := by
  intro tick s counted
  refine ⟨fun closable => ?_, fun source => ⟨fun off => ?_, fun on clocked awake => ?_⟩, fun acquiring unfixed => ?_⟩
  · intro w closed slews t
    have e : (s.at_ s.cad.winEnd).closeWindow = t := by
      rw [closeWindow_of_closable (s := s.at_ s.cad.winEnd) closable]
      simp only [counted_eq, corrected_eq]
      rfl
    refine ⟨?_, fun follows missing waited => ?_⟩
    · exact ((if_pos closable).trans (congrArg finish e) : execAssociationWindowClose s = _)
    · have waits : (decide (s.cad.state = .follower) || (decide (s.cad.state = .holdover) && s.cad.leader.isSome)) = true := by
        simpa using follows
      have late : s.cad.leaderMarker.isNone = true := by rw [missing]; rfl
      exact ((if_pos ⟨waits, closable, late, waited⟩).trans (congrArg finish e) : execLeaderFrameTimeout s = _)
  · refine congrArg finish ?_
    split
    · rfl
    · next live =>
      refine if_neg fun h => ?_
      rcases off with off | off | off
      · exact Bool.eq_false_iff.1 off h.1
      · exact Bool.eq_false_iff.1 off h.2
      · exact live (Bool.or_eq_true_iff.2 (.inr off))
  · intro mark u near held marked
    have e := execCadenceMarker_eq (tick := tick) source awake
    have pin : u.cad.source = false := (passWindow_source mark (s.at_ tick)).trans source
    have last : u.cad.lastOf = u.cad.lastAccept := if_neg (Bool.eq_false_iff.1 pin)
    have spaced : u.spaced u.cad.lastOf tick = !near := by rw [last]; rfl
    have first : u.cad.firstMark false mark = !marked := firstMark_eq mark u.cad
    have rejects (h : near = true ∨ marked = true) : (s.at_ tick).selectedMarker tick mark = u.rejectMarker tick := by
      refine selectedMarker_rejected on clocked (?_ : (u.spaced u.cad.lastOf tick && u.cad.firstMark false mark) = false)
      rw [spaced, first]
      rcases h with h | h <;> simp only [h, Bool.not_true, Bool.false_and, Bool.and_false]
    have taken : u.onCad (Cadence.accepted (u.elapsed tick)) =
        u.onCad fun c => { c with lastAccept := some (u.elapsed tick) } :=
      congrArg (fun c => { u with cad := c }) (if_neg (Bool.eq_false_iff.1 pin))
    have accepts (h : near = false) (g : marked = false) : (s.at_ tick).selectedMarker tick mark =
        let v := u.onCad fun c => { c with lastAccept := some (u.elapsed tick) }
        if v.cad.winOpen = false then v.markBefore mark
        else (v.onCad (Cadence.takeMark false mark)).onCad fun c => { c with
          returnRun := if c.state.leaderless = true then min 4 (c.returnRun + 1) else c.returnRun } := by
      rw [← taken]
      refine selectedMarker_accepted on clocked (?_ : (u.spaced u.cad.lastOf tick && u.cad.firstMark false mark) = true)
      rw [spaced, first, h, g]
      rfl
    refine ⟨fun h => e.trans (congrArg finish (rejects h)), fun h opened g => ?_, fun h shut none acquiring after => ?_,
      fun x h shut load => ?_⟩
    · refine e.trans (congrArg finish ((accepts h g).trans ((if_neg ?_).trans ?_)))
      · exact fun shut => Bool.noConfusion (opened.symm.trans shut)
      · exact markOpen u mark _
    · refine e.trans (congrArg finish ((accepts h (if_pos (.inl shut))).trans ((if_pos shut).trans ?_)))
      exact markBefore_arm (s := u.onCad fun c => { c with lastAccept := some (u.elapsed tick) }) none acquiring after
    · refine e.trans (congrArg finish ((accepts h (if_pos (.inl shut))).trans ((if_pos shut).trans ?_)))
      exact markBefore_load (s := u.onCad fun c => { c with lastAccept := some (u.elapsed tick) }) load
  · refine (if_pos ⟨acquiring, by rw [unfixed]; rfl⟩ : execArmTimeout s = _).trans ?_
    unfold State.fixB0
    rw [raiseCad_period]
    rfl
end Sys2Proof.Proofs
end

section
/-!
Repairs, staging and the fill of a switch (O35).
-/
namespace Sys2Proof.Proofs
open Sys2Proof.Machine

/-- Settles O35: what each event waits for is there. -/
theorem repairAndFill : Obligations.RepairAndFill := by
  refine fun bad cycles s => ⟨fun waiting idle => ?_, fun running => ?_, fun g k staging known restart => ?_, fun due => ?_,
    fun active => ?_⟩
  · have starts : ¬ (s.grid.repairs = [] ∨ s.repairsRunning = true) := by simp [waiting, idle]
    refine (if_neg starts : execRepairStart bad s = _).trans (congrArg close ?_)
    exact ite_and_not bad _ _ _
  · exact (if_neg running : execRepairDone cycles s = _)
  · show execStagingComplete cycles s = _
    unfold execStagingComplete
    simp only [staging, known, restart, ne_eq, not_true_eq_false, if_false]
    rfl
  · exact (if_pos due : execSwitchFillStart s = _)
  · exact (if_pos active : execSwitchFillDone cycles s = _)

end Sys2Proof.Proofs
end

section
/-!
Frames that are received (O36).
-/
namespace Sys2Proof.Proofs
open Sys2Proof.Machine

/-- A fabric event leaves the leave notices. -/
theorem raiseFab_leaves (b : Nat) (s : State) : (s.raiseFab b).peers = s.peers ∧ (s.raiseFab b).unarmed = s.unarmed ∧
    (s.raiseFab b).hlt = s.hlt := by
  unfold State.raiseFab
  split <;> exact ⟨rfl, rfl, rfl⟩

/-- A data frame of the step in progress. -/
theorem execDataFrame_taken {h : FrameHdr} {s : State} {cycle : Nat} {flits : List (BitVec 1024)} {e : EdgeDecl}
    (received : s.receives h) (epoch : h.epoch = (s.heard h).cyl.epoch)
    (edge : imgEdge (s.heard h).active h.stream.toNat = some e) (kind : e.kind = 2)
    (peer : (s.heard h).stageChip e.peer = some h.source) (playing : (s.heard h).step.playing = true)
    (step : h.step = (s.heard h).cad.step.setWidth 32) (replay : h.replay = BitVec.ofNat 16 (s.heard h).step.replay) :
    execDataFrame h cycle flits s = .next
      ((((s.heard h).at_ ((s.heard h).cycleTick cycle)).settleAll cycle).takeFrame e h cycle flits).stepEnd := by
  refine (receive_ok h _ s received : execDataFrame h cycle flits s = _).trans (congrArg finish ?_)
  rw [if_neg (not_not_intro epoch), edge]
  exact if_pos ⟨kind, peer, playing, step, replay⟩

/-- A verdict of a peer that is not lost and has not left. -/
theorem execVerdictFrame_peer {h : FrameHdr} {b : VerdictBody} {s : State} (received : s.receives h)
    (peer : h.source ∈ (s.heard h).peers) (armed : (s.heard h).unarmed = false) (kept : h.source ∉ (s.heard h).hlt.lost)
    (stays : ((s.heard h).hlt.notices.any fun n => decide (n.1 = h.source)) = false) :
    execVerdictFrame h b s = .next (State.stepEnd (
      let s := (s.heard h).onFab fun f => { f with vectors := Sparse.set fullCapacity f.vectors h.source.toNat b.capacity }
      if s.cad.step.toNat < b.step.toNat ∧ s.step.running = true then
        if s.hlt.withdrawn = true then s else (s.raiseHlt 3).withdraw
      else if b.step ≠ s.cad.step ∨ h.replay ≠ BitVec.ofNat 16 s.step.replay ∨
          (s.step.verdicts.any fun r => decide (r.chip = h.source)) = true then s
      else s.onStep fun g => { g with verdicts := g.verdicts ++ [{ chip := h.source, replay := h.replay, body := b }] })) := by
  refine (receive_ok h _ s received : execVerdictFrame h b s = _).trans (congrArg finish (if_neg ?_))
  simp only [peer, armed, kept, stays, not_true_eq_false, Bool.false_eq_true, or_self, not_false_eq_true]

/-- A leave notice of a peer, its first. -/
theorem execLeaveNotice_peer {h : FrameHdr} {cause : BitVec 8} {last : BitVec 64} {s : State} (received : s.receives h)
    (peer : h.source ∈ (s.heard h).peers) (armed : (s.heard h).unarmed = false)
    (first : ((s.heard h).hlt.notices.any fun n => decide (n.1 = h.source)) = false) :
    execLeaveNotice h cause last s = .next (((((s.heard h).raiseFab 7).onHlt fun x => { x with
      notices := x.notices ++ [(h.source, last)] }).resolvePeer h.source).settleWork.stepEnd) := by
  obtain ⟨peers, unarmed, hlt⟩ := raiseFab_leaves 7 (s.heard h)
  refine (receiveWork_ok h _ s received : execLeaveNotice h cause last s = _).trans
    (congrArg (fun t : State => finish (t.resolvePeer h.source).settleWork) (if_pos ?_))
  rw [peers, unarmed, hlt, armed, first]
  exact ⟨peer, rfl, rfl⟩

/-! ### Cadence frames -/

/-- A cadence frame that is captured, and no copy of one used. -/
theorem execCadenceFrame_captured {h : FrameHdr} {b : CadenceBody} {s : State}
    (listens : s.listens (decide (b.kind = 1)) h = true) (ok : (s.heard h).frameOk h = true)
    (fresh : (b.kind.toNat, b.sequence.toNat) ∉ (s.heard h).cad.framesSeen) (captured : (s.heard h).captures b = true) :
    execCadenceFrame h b s = .next (State.stepEnd (
      let u := s.heard h
      let mark : Int := (h.tick : Int) - (u.fab.ports.getD h.inPort Port.reset).delay.toNat - b.correction.toNat
      let v := u.onCad fun c => { c with framesSeen := (b.kind.toNat, b.sequence.toNat) :: c.framesSeen }
      if b.kind = 1 then v.selectedMarker h.tick mark else v.leaderFrame h.tick mark b)) := by
  refine (receiveIf_kept _ h _ s listens ok : execCadenceFrame h b s = _).trans (congrArg finish (if_neg ?_))
  simp only [captured, Cadence.copyUsed, fresh, Bool.not_true, decide_false, Bool.or_self, Bool.false_eq_true,
    not_false_eq_true]

/-- A window that no marker tick has passed stays open. -/
theorem passWindow_of_within {mark : Int} {s : State} (within : s.cad.closable = true → mark ≤ s.cad.winEnd) :
    s.passWindow mark = s :=
  if_neg fun h => Int.not_lt.2 (within h.1) h.2

/-- No closed window holds a marker tick after the end of the latest. -/
theorem closedAt_of_past {mark : Int} {c : Cadence} (past : ∀ w ∈ c.closedWindows.head?, (w.stop : Int) < mark) :
    c.closedAt mark = none := by
  unfold Cadence.closedAt
  cases h : c.closedWindows with
  | nil => rfl
  | cons w ws =>
    have : (w.stop : Int) < mark := past w (by rw [h]; rfl)
    simp [List.takeWhile, Int.not_le.2 this]

/-- A rack's frame is captured where the rack is selected and the input is enabled. -/
theorem captures_rack {b : CadenceBody} {s : State} (kind : b.kind = 1) (source : s.cad.source = true)
    (on : s.cad.inputEnable = true) : s.captures b = true := by
  unfold State.captures
  rw [kind]
  exact Bool.and_eq_true_iff.2 ⟨source, on⟩

/-- A leader's frame of the own partition is captured in the states without the own lead. -/
theorem captures_leader {b : CadenceBody} {s : State} (kind : b.kind = 2) (clocked : s.clocked 0 = true)
    (leaderless : s.cad.state.leaderless = true) (partition : b.partition = s.fab.partition) : s.captures b = true := by
  unfold State.captures
  rw [kind]
  simp only [clocked, leaderless, partition, Bool.and_self, decide_true]
  rfl

/-- A leader frame in the open window is its marker. -/
theorem takeMark_leader {mark : Int} {c : Cadence} (opened : ¬ mark < c.opened) (none_ : c.closedAt mark = none) :
    c.takeMark true mark = { c with leaderMarker := some (mark - c.winBase) } := by
  unfold Cadence.takeMark
  rw [if_neg opened, none_]
  rfl

/-- A leader frame for another step than the one that its marker tick matches. -/
theorem leaderFrame_mismatch {t : Nat} {mark : Int} {b : CadenceBody} {s : State} (open_ : s.cad.closable = false)
    (other : s.matchingStep mark ≠ some b.sequence) : s.leaderFrame t mark b = s.raiseCad 6 := by
  unfold State.leaderFrame
  rw [passWindow_of_within (fun h => absurd h (Bool.eq_false_iff.1 open_))]
  exact if_pos other

/-- The frame of the leader followed, spaced and the first of the open window, is the marker of that window. -/
theorem leaderFrame_marks {t : Nat} {mark : Int} {b : CadenceBody} {s : State} (follows : s.cad.state = .follower)
    (leader : s.cad.leader = some b.sender) (within : s.cad.closable = true → mark ≤ s.cad.winEnd)
    (step : s.matchingStep mark = some b.sequence) (opened : (s.cad.opened : Int) ≤ mark)
    (past : ∀ w ∈ s.cad.closedWindows.head?, (w.stop : Int) < mark) (period : b.period = BitVec.ofNat 32 s.inForce)
    (first : s.cad.leaderMarker = none)
    (spaced : ∀ a, s.cad.lastLeaderAccept = some (b.sender, a) → s.inForce ≤ 2 * (s.elapsed t - a)) :
    s.leaderFrame t mark b = s.onCad fun c => { c with
      lastLeaderAccept := some (b.sender, s.elapsed t), leaderMarker := some (mark - c.winBase) } := by
  have none_ := closedAt_of_past past
  have apart : s.spaced ((s.cad.lastLeaderAccept.filter fun x => decide (x.1 = b.sender)).map (·.2)) t = true := by
    unfold State.spaced
    cases h : s.cad.lastLeaderAccept with
    | none => rfl
    | some x =>
      obtain ⟨chip, a⟩ := x
      by_cases same : chip = b.sender
      · subst same
        have := spaced a h
        simp only [Option.filter, decide_true, if_true, Option.map, Option.any, Bool.not_eq_true', decide_eq_false_iff_not]
        omega
      · simp [Option.filter, same]
  have taken : s.leaderTaken b.sender t mark = true := by
    unfold State.leaderTaken
    rw [apart, Bool.true_and]
    unfold Cadence.firstMark
    rw [none_, first]
    split <;> rfl
  unfold State.leaderFrame
  rw [passWindow_of_within within, if_neg (not_not_intro step)]
  dsimp only
  rw [if_neg fun h => h.2 period]
  unfold State.leaderActs
  rw [follows]
  dsimp only
  rw [if_pos leader]
  unfold State.leaderMark
  rw [if_pos taken]
  exact congrArg (fun c => { s with cad := c })
    (takeMark_leader (c := { s.cad with lastLeaderAccept := some (b.sender, s.elapsed t) }) (Int.not_lt.2 opened) none_)

/-- Settles O36: each frame by the tests it passes, a cadence frame by what captures it. -/
theorem frameReception : Obligations.FrameReception := by
  refine ⟨fun h s received => ⟨fun cycle flits e epoch edge kind peer playing step replay => ?_, fun cycle flits epoch => ?_,
    fun b peer armed kept stays => ?_, fun cause last peer armed first => ?_⟩,
    fun h b s => ⟨fun deaf => ?_, fun listens bad => ?_, fun listens ok fresh => ?_, fun listens ok used => ?_⟩⟩
  · exact execDataFrame_taken received epoch edge kind peer playing step replay
  · exact (receive_ok h _ s received : execDataFrame h cycle flits s = _).trans (congrArg finish (if_pos epoch))
  · intro v
    have e := execVerdictFrame_peer (b := b) received peer armed kept stays
    refine ⟨fun step replay first => ?_, fun late => ?_, fun ahead running in_ => ?_⟩
    · refine e.trans (congrArg finish ((if_neg ?_).trans (if_neg ?_)))
      · rw [step]
        exact fun h => Nat.lt_irrefl _ h.1
      · rintro (h | h | h)
        · exact h step
        · exact h replay
        · exact Bool.eq_false_iff.1 first h
    · refine e.trans (congrArg finish ((if_neg fun h => Nat.lt_asymm late h.1).trans (if_pos (.inl ?_))))
      intro h
      rw [h] at late
      exact Nat.lt_irrefl _ late
    · exact e.trans (congrArg finish ((if_pos ⟨ahead, running⟩).trans (if_neg (Bool.eq_false_iff.1 in_))))
  · exact execLeaveNotice_peer (cause := cause) received peer armed first
  · exact (receiveIf_deaf _ h _ s deaf : execCadenceFrame h b s = _)
  · exact (receiveIf_discarded _ h _ s listens bad : execCadenceFrame h b s = _)
  · intro u mark v
    refine ⟨fun kind source on => ?_, fun kind clocked leaderless partition => ?_,
      fun kind clocked follows leader partition within step opened past period first spaced => ?_,
      fun kind clocked leaderless partition open_ other => ?_⟩
    · exact (execCadenceFrame_captured listens ok fresh (captures_rack kind source on)).trans
        (congrArg finish (if_pos kind))
    · exact (execCadenceFrame_captured listens ok fresh (captures_leader kind clocked leaderless partition)).trans
        (congrArg finish (if_neg (by rw [kind]; decide)))
    · have leaderless : u.cad.state.leaderless = true := by rw [follows]; rfl
      refine (execCadenceFrame_captured listens ok fresh (captures_leader kind clocked leaderless partition)).trans
        (congrArg finish ((if_neg (by rw [kind]; decide)).trans ?_))
      exact leaderFrame_marks (s := v) follows leader within step opened past period first spaced
    · refine (execCadenceFrame_captured listens ok fresh (captures_leader kind clocked leaderless partition)).trans
        (congrArg finish ((if_neg (by rw [kind]; decide)).trans ?_))
      exact leaderFrame_mismatch (s := v) open_ other
  · refine (receiveIf_kept _ h _ s listens ok : execCadenceFrame h b s = _).trans (congrArg finish (if_pos ?_))
    simp only [Cadence.copyUsed, used, decide_true, Bool.or_true]

end Sys2Proof.Proofs
end

section
/-!
The slots and the states of the fabric ports (O37).
-/
namespace Sys2Proof.Proofs
open Sys2Proof.Machine

/-- The entry that is changed in a list. -/
theorem getD_listModify {α : Type} (d : α) (g : α → α) : ∀ (l : List α) (i : Nat), i < l.length →
    (listModify l i g).getD i d = g (l.getD i d)
  | _ :: _, 0, _ => rfl
  | _ :: r, i + 1, h => getD_listModify d g r i (Nat.lt_of_succ_lt_succ h)

/-- A data frame is carried between beat 0 and the last beat, in fifteen of sixteen slots. -/
theorem slotData_eq (port slot : Nat) (s : State) : s.slotData port slot =
    if slot % 16 ≠ 15 ∧ s.step.playing = true ∧ s.step.lastBeat = false ∧ s.cycleTick 0 ≤ s.now ∧ s.portUp port = true then
      s.nextData port
    else none := by
  unfold State.slotData
  refine if_congr ?_ rfl rfl
  simp only [State.inBeats, Bool.and_eq_true, Bool.not_eq_true', decide_eq_true_eq, and_assoc]

/-- The end of the window of a fabric stream that has every frame. -/
theorem streamEnd_full {e : EdgeDecl} {s : State} (open_ : (s.inStream e.index).ended = false) (kind : e.kind = 2)
    (full : ((s.inStream e.index).lastSeq.any fun q => decide (q + 1 = (s.inStream e.index).landed)) = true) :
    s.streamEnd e = s.setIn { s.inStream e.index with ended := true } :=
  (if_neg (Bool.eq_false_iff.1 open_)).trans ((if_pos kind).trans (if_pos full))

/-- The end of the window of a fabric stream that lacks a frame. -/
theorem streamEnd_short {e : EdgeDecl} {s : State} (open_ : (s.inStream e.index).ended = false) (kind : e.kind = 2)
    (short : ((s.inStream e.index).lastSeq.any fun q => decide (q + 1 = (s.inStream e.index).landed)) = false) :
    s.streamEnd e = ((s.setIn { s.inStream e.index with ended := true }).onFab fun f => { f with
      slotLost := satAdd f.slotLost (s.inStream e.index).missing }).voidWith 5 :=
  (if_neg (Bool.eq_false_iff.1 open_)).trans ((if_pos kind).trans (if_neg (Bool.eq_false_iff.1 short)))

/-- The end of the window of a tier-2 stream. -/
theorem streamEnd_tier2 {e : EdgeDecl} {s : State} (open_ : (s.inStream e.index).ended = false) (kind : e.kind = 3) :
    s.streamEnd e = (s.setIn { s.inStream e.index with ended := true }).landTier2 e :=
  (if_neg (Bool.eq_false_iff.1 open_)).trans ((if_neg (by rw [kind]; decide)).trans (if_pos kind))

/-- The end of a stream's window while the cells play. -/
theorem execStreamWindowEnd_plays {n : Nat} {e : EdgeDecl} {s : State} (edge : imgEdge s.active n = some e)
    (playing : s.step.playing = true) : execStreamWindowEnd n s = .next (s.streamEnd e).stepEnd := by
  unfold execStreamWindowEnd
  rw [edge]
  exact if_pos playing

/-! ### States of a port -/

/-- What a port reports of the lanes that trained, by its state. -/
theorem execPortStateDone_training {port : Nat} {good : BitVec 8} {s : State}
    (state : (s.fab.ports.getD port Port.reset).state = .training) : execPortStateDone port good s =
      finish (if good = 0xFF then s.onPort port fun x => { x with state := .aligning } else s) := by
  unfold execPortStateDone
  simp only [state]

theorem execPortStateDone_aligning {port : Nat} {good : BitVec 8} {s : State}
    (state : (s.fab.ports.getD port Port.reset).state = .aligning) : execPortStateDone port good s =
      if good ≠ 0xFF then finish s
      else finish ((s.onPort port fun x => { x with state := .ident, identDone := false, echoes := [] }).sendMsg 1 0 false
        (some port) (.ident (s.fab.chip.setWidth 16) (BitVec.ofNat 8 port) 8)) := by
  unfold execPortStateDone
  simp only [state]
  rfl

theorem execPortStateDone_ident {port : Nat} {good : BitVec 8} {s : State}
    (state : (s.fab.ports.getD port Port.reset).state = .ident) (done : (s.fab.ports.getD port Port.reset).identDone = true)
    (all : (s.fab.ports.getD port Port.reset).echoes.length = 16) :
    execPortStateDone port good s = finish (s.portRises port 8 0xFF).retrainDone := by
  unfold execPortStateDone
  simp only [state, done, all, and_self, if_true]

theorem execPortStateDone_narrower {port : Nat} {good g : BitVec 8} {s : State}
    (state : (s.fab.ports.getD port Port.reset).state = .retraining)
    (group : laneGroup (good &&& ~~~ (s.fab.ports.getD port Port.reset).failed) = some g) : execPortStateDone port good s =
      finish ((((s.onPort port fun x => { x with failed := x.failed ||| ~~~ good }).portRises port
        (if popCount g = 4 then 4 else 2) g).raiseFab 2).retrainDone) := by
  unfold execPortStateDone
  simp only [state, group]

theorem execPortStateDone_fails {port : Nat} {good : BitVec 8} {s : State}
    (state : (s.fab.ports.getD port Port.reset).state = .retraining)
    (group : laneGroup (good &&& ~~~ (s.fab.ports.getD port Port.reset).failed) = none) : execPortStateDone port good s =
      finish ((s.onPort port fun x => { x with failed := x.failed ||| ~~~ good }).portFails port).retrainDone := by
  unfold execPortStateDone
  simp only [state, group]

/-- A state that misses its limit, by the attempts made. -/
theorem execPortStateTimeout_state {port tick : Nat} {good : BitVec 8} {s : State}
    (state : ((s.at_ tick).fab.ports.getD port Port.reset).state ∈
      [PortState.training, PortState.aligning, PortState.ident, PortState.retraining]) :
    execPortStateTimeout port ⟨good, tick⟩ s =
      let u := (s.at_ tick).onPort port fun x => { x with
        attempts := satInc x.attempts, failed := if x.state = .retraining then x.failed ||| ~~~ good else x.failed }
      if 2 ≤ ((s.at_ tick).fab.ports.getD port Port.reset).attempts.toNat then finish (u.portFails port).retrainDone
      else finish (u.onPort port fun x => { x.down with retryAt := some (u.uptime + 1000000000) }) := by
  refine if_pos ?_
  simpa using state

/-- A port that waits and whose second has passed. -/
theorem execPortRetryTimer_due {port tick d : Nat} {s : State}
    (down : ((s.at_ tick).fab.ports.getD port Port.reset).state = .down)
    (retry : ((s.at_ tick).fab.ports.getD port Port.reset).retryAt = some d) (due : d ≤ (s.at_ tick).uptime) :
    execPortRetryTimer port tick s = .next ((s.at_ tick).onPort port fun x =>
      if x.failed = 0 then x.train else { x.down with state := .retraining }).stepEnd := by
  refine if_pos ⟨down, ?_⟩
  rw [retry]
  exact decide_eq_true due

/-- The port of a failed lane after its codewords are counted. -/
theorem port_after_heard {port bad : Nat} {s : State} (inside : port < s.fab.ports.length) :
    (s.onPort port (Port.heard 0 bad)).fab.ports.getD port Port.reset =
      Port.heard 0 bad (s.fab.ports.getD port Port.reset) :=
  getD_listModify Port.reset (Port.heard 0 bad) s.fab.ports port inside

/-- An active lane of a port that is `UP` fails. -/
theorem execLaneFailure_up {port bad : Nat} {lane : Fin 8} {s : State} (inside : port < s.fab.ports.length)
    (up : (s.fab.ports.getD port Port.reset).state = .up)
    (active : (s.fab.ports.getD port Port.reset).lanes.getLsbD lane.val = true) :
    execLaneFailure port ⟨lane, bad⟩ s =
      let failed := (s.fab.ports.getD port Port.reset).failed ||| bit 8 lane.val
      let u := ((s.onPort port (Port.heard 0 bad)).portLost port).onPort port fun y => { y.down with
        state := .retraining, failed := failed }
      if (laneGroup (~~~ failed)).isSome = true then finish u else finish (u.portFails port).retrainDone := by
  unfold execLaneFailure
  dsimp only
  rw [port_after_heard inside]
  exact if_pos ⟨up, active⟩

/-- A lane of a port that retrains fails. -/
theorem execLaneFailure_retraining {port bad : Nat} {lane : Fin 8} {s : State} (inside : port < s.fab.ports.length)
    (state : (s.fab.ports.getD port Port.reset).state = .retraining) :
    execLaneFailure port ⟨lane, bad⟩ s = .next ((s.onPort port (Port.heard 0 bad)).onPort port fun y => { y with
      failed := y.failed ||| bit 8 lane.val }).stepEnd := by
  unfold execLaneFailure
  dsimp only
  rw [port_after_heard inside]
  refine (if_neg ?_).trans (if_pos (.inr state))
  rintro ⟨up, -⟩
  exact absurd (up.symm.trans state) (by decide)

/-! ### Identification and echoes -/

/-- An identification that is the first of its port. -/
theorem identified_first {port : Nat} {plane : BitVec 8} {sw : BitVec 16} {s : State}
    (first : (s.fab.ports.getD port Port.reset).identDone = false) : s.identified port plane sw =
      let v := s.onPort port fun x => { x with plane := plane, switchPort := sw }
      if plane.toNat ≠ port then ((v.onPort port fun x => { x.down with state := .miswired }).raiseFab 4).retrainDone
      else (List.range 16).foldl (fun s _ => s.sendMsg 1 0 false (some port) (.echo 0))
        (v.onPort port fun x => { x with identDone := true }) := if_neg (Bool.eq_false_iff.1 first)

/-- An echo before the last. -/
theorem echoed_early {port : Nat} {trip : Int} {s : State} (done : (s.fab.ports.getD port Port.reset).identDone = true)
    (early : (s.fab.ports.getD port Port.reset).echoes.length < 15) : s.echoed port trip =
      s.onPort port fun y => { y with echoes := (s.fab.ports.getD port Port.reset).echoes ++ [trip] } := by
  refine (if_neg ?_).trans (if_pos ?_)
  · rw [done]
    simp only [Bool.not_true, Bool.false_eq_true, false_or]
    omega
  · rw [List.length_append]
    simp only [List.length_cons, List.length_nil]
    omega

/-- The last echo: the delay is half the least round trip, a free choice of the two nearest where that is odd. -/
theorem echoed_last {port : Nat} {trip : Int} {s : State} (done : (s.fab.ports.getD port Port.reset).identDone = true)
    (last : (s.fab.ports.getD port Port.reset).echoes.length = 15) : s.echoed port trip =
      let es := (s.fab.ports.getD port Port.reset).echoes ++ [trip]
      let v := s.onPort port fun y => { y with echoes := es }
      let least := es.foldl min trip
      let up : BitVec 1 := if least % 2 = 0 then 0 else v.free 1
      (if least % 2 = 0 then v else v.drawn).onPort port fun y => { y with
        delay := BitVec.ofInt 32 (least / 2 + (up.toNat : Int)) } := by
  refine (if_neg ?_).trans (if_neg ?_)
  · rw [done, last]
    decide
  · rw [List.length_append, last]
    exact fun h => h rfl

/-- The last echo of an even least round trip. -/
theorem echoed_even {port : Nat} {trip : Int} {s : State} (done : (s.fab.ports.getD port Port.reset).identDone = true)
    (last : (s.fab.ports.getD port Port.reset).echoes.length = 15)
    (even : ((s.fab.ports.getD port Port.reset).echoes ++ [trip]).foldl min trip % 2 = 0) : s.echoed port trip =
      let es := (s.fab.ports.getD port Port.reset).echoes ++ [trip]
      (s.onPort port fun y => { y with echoes := es }).onPort port fun y => { y with
        delay := BitVec.ofInt 32 (es.foldl min trip / 2) } := by
  rw [echoed_last done last]
  dsimp only
  rw [if_pos even, if_pos even]
  have none_ (x : Int) : x + (((0 : BitVec 1).toNat : Nat) : Int) = x := Int.add_zero x
  rw [none_]

/-- The last echo of an odd least round trip. -/
theorem echoed_odd {port : Nat} {trip : Int} {s : State} (done : (s.fab.ports.getD port Port.reset).identDone = true)
    (last : (s.fab.ports.getD port Port.reset).echoes.length = 15)
    (odd : ((s.fab.ports.getD port Port.reset).echoes ++ [trip]).foldl min trip % 2 ≠ 0) : s.echoed port trip =
      let es := (s.fab.ports.getD port Port.reset).echoes ++ [trip]
      let v := s.onPort port fun y => { y with echoes := es }
      v.drawn.onPort port fun y => { y with
        delay := BitVec.ofInt 32 (es.foldl min trip / 2 + ((v.free 1 : BitVec 1).toNat : Int)) } := by
  rw [echoed_last done last]
  dsimp only
  rw [if_neg odd, if_neg odd]

/-- Settles O37: a slot by what waits for it, a window by its stream, a port by its state, a frame by the step of training
that it answers. -/
theorem fabricPorts : Obligations.FabricPorts := by
  refine ⟨fun port tick s => ?slots, fun n e s edge playing open_ => ?windows, fun port s => ?states, fun h s ident ok => ?frames⟩
  case slots =>
    intro x live u data
    have e : execSlotTransmit port tick s = match u.slotData port x.slots.toNat with
        | some f => finish (u.departData x.slots.toNat f)
        | none => match u.nextMsg port with
          | some m => finish (u.departMsg port x.slots.toNat m)
          | none => finish u := by
      refine if_neg ?_
      rintro ⟨notUp, notIdent⟩
      exact live.elim notUp notIdent
    have carried : u.slotData port x.slots.toNat = data := slotData_eq port x.slots.toNat u
    refine ⟨fun f some_ => ?_, fun m none_ some_ => ?_, fun none_ none' => ?_⟩
    · refine (e.trans ?_ : execSlotTransmit port tick s = _)
      rw [carried, some_]
      rfl
    · refine (e.trans ?_ : execSlotTransmit port tick s = _)
      rw [carried, none_, some_]
      rfl
    · refine (e.trans ?_ : execSlotTransmit port tick s = _)
      rw [carried, none_, none']
      rfl
  case windows =>
    have e : execStreamWindowEnd n s = _ := execStreamWindowEnd_plays edge playing
    refine ⟨fun kind full => ?_, fun kind short => ?_, fun kind => ?_⟩
    · exact e.trans (congrArg finish (streamEnd_full open_ kind full))
    · exact e.trans (congrArg finish (streamEnd_short open_ kind short))
    · exact e.trans (congrArg finish (streamEnd_tier2 open_ kind))
  case states =>
    refine ⟨fun state => ?_, fun state => ?_, fun good some_ state => ?_, fun good state done all => ?_,
      fun good g state group => ?_, fun good state group => ?_, fun tick good state => ?_, fun tick d down retry due => ?_,
      fun lane bad up active inside => ?_, fun lane bad state inside => ?_⟩
    · exact execPortStateDone_training state
    · exact execPortStateDone_aligning state
    · rcases state with state | state
      · exact (execPortStateDone_training state).trans (congrArg finish (if_neg some_))
      · exact (execPortStateDone_aligning state).trans (if_pos some_)
    · exact execPortStateDone_ident state done all
    · exact execPortStateDone_narrower state group
    · exact execPortStateDone_fails state group
    · intro u
      refine (execPortStateTimeout_state state : execPortStateTimeout port ⟨good, tick⟩ s = _).trans ?_
      exact (apply_ite Host.Outcome.next _ _ _).symm
    · exact execPortRetryTimer_due down retry due
    · refine (execLaneFailure_up inside up active : execLaneFailure port ⟨lane, bad⟩ s = _).trans ?_
      exact (apply_ite Host.Outcome.next _ _ _).symm
    · exact execLaneFailure_retraining inside state
  case frames =>
    have kept (body : State → State) := receiveIf_kept _ h body s ident ok
    refine ⟨fun plane sw first => ?_, fun d a r done early => ?_, fun d a r done last => ?_, fun d a r done last => ?_⟩
    · refine (kept _).trans (congrArg finish (identified_first first)) |>.trans ?_
      exact congrArg Host.Outcome.next (apply_ite State.stepEnd _ _ _)
    · exact (kept _).trans (congrArg finish (echoed_early done early))
    · intro least even
      exact (kept _).trans (congrArg finish (echoed_even done last even))
    · intro least v odd
      exact (kept _).trans (congrArg finish (echoed_odd done last odd))
end Sys2Proof.Proofs
end

section
/-!
Requests between chips (O38).
-/
namespace Sys2Proof.Proofs
open Sys2Proof.Machine

/-- Settles O38: a request by the frame that brings or answers it, and by the times that it was sent. -/
theorem remoteRequests : Obligations.RemoteRequests := by
  refine fun h id s => ⟨fun write addr len data received => ?_, fun status data r received found => ?_,
    fun tick r found due => ⟨fun again => ?_, fun last => ?_⟩⟩
  · exact (receiveWork_ok h _ s received : execRemoteRequest h id write addr len data s = _)
  · refine (receiveWork_ok h _ s received : execRemoteResponse h id status data s = _).trans ?_
    rw [found]
    rfl
  · show execRemoteRequestTimeout id tick s = _
    unfold execRemoteRequestTimeout
    simp only [found, if_neg (Nat.not_lt.2 due), if_pos again]
    rfl
  · show execRemoteRequestTimeout id tick s = _
    unfold execRemoteRequestTimeout
    simp only [found, if_neg (Nat.not_lt.2 due), if_neg (Nat.not_lt.2 last)]
    rfl
end Sys2Proof.Proofs
end

section
/-!
Page moves between chips (O39).
-/
namespace Sys2Proof.Proofs
open Sys2Proof.Machine

/-- A management frame that is received does its work on the state that has heard it. -/
theorem receiveWork_of {h : FrameHdr} {body : State → State} {s t : State} (received : s.receives h)
    (e : body (s.heard h) = t) : receiveWork h body s = .next t.workEnd :=
  (receiveWork_ok h body s received).trans (congrArg (fun t => Host.Outcome.next (State.workEnd t)) e)

section Source
variable {h : FrameHdr} {b : MoveBody} {r : RemoteMove} {s : State} (received : s.receives h)
  (found : (s.heard h).remote b.move h.source true = some r)
include received found

theorem execMoveAccept_content {m : Mem} (offered : r.phase = .offered) (there : (s.heard h).stillThere r = true)
    (content : (s.heard h).content r.tier.toNat r.slot = some m) :
    execMoveAccept h b s = .next (State.workEnd (
      (moveDataMsgs r.seq m).foldl (fun s b => s.sendMove r.peer b)
        ((((s.heard h).onDir r.tier.toNat r.slot fun e => { e with
          state := .sending, peerChip := r.peer, peer := r.peer ++ ((s.heard h).free 52 : BitVec 52) }).drawn).setRemote r
            (some { r with phase := .sending, sent := true, since := (s.heard h).uptime })))) := by
  refine receiveWork_of received ?_
  simp only [found, offered, there, content, ne_eq, not_true_eq_false, if_false, Bool.not_true, Bool.false_eq_true]
  rfl

theorem execMoveAccept_unreadable (offered : r.phase = .offered) (there : (s.heard h).stillThere r = true)
    (content : (s.heard h).content r.tier.toNat r.slot = none) :
    execMoveAccept h b s = .next (((s.heard h).readFails r.tier.toNat r.slot).abortMove r).workEnd := by
  refine receiveWork_of received ?_
  simp only [found, offered, there, content, ne_eq, not_true_eq_false, if_false, Bool.not_true, Bool.false_eq_true]

theorem execMoveAccept_gone (offered : r.phase = .offered) (gone : (s.heard h).stillThere r = false) :
    execMoveAccept h b s = .next ((s.heard h).abortMove r).workEnd := by
  refine receiveWork_of received ?_
  simp only [found, offered, gone, ne_eq, not_true_eq_false, if_false, Bool.not_false, if_true]

theorem execMoveRefuse_offered (offered : r.phase = .offered) :
    execMoveRefuse h b s = .next (((s.heard h).setRemote r none).pageEnd r.job r.name r.name .noSpace).workEnd := by
  refine receiveWork_of received ?_
  simp only [found, offered]

theorem execMoveReady_sending (sending : r.phase = .sending) :
    execMoveReady h b s = .next (State.workEnd (
      let u := s.heard h
      let new := r.peer ++ (u.free 52 : BitVec 52)
      let v := u.drawn.setDir r.tier.toNat r.slot DirEntry.reset (some (r.tier, r.slot))
      let v := match r.pair with
        | some h => v.freeSlotAt 2 h
        | none => v
      let v := if r.tier.toNat = 3 then v.deallocate r.slot else v
      ((v.setRemote r (some { r with phase := .committed, since := v.uptime })).pageEnd r.job r.name new .moved).sendMove
        r.peer (moveMsg r.seq 6 0))) := by
  refine receiveWork_of received ?_
  simp only [found, sending, ne_eq, not_true_eq_false, if_false] <;> rfl

theorem execMoveAck_committed (committed : r.phase = .committed) (acked : b.acked = 6) :
    execMoveAck h b s = .next ((s.heard h).setRemote r none).workEnd := by
  refine receiveWork_of received ?_
  simp only [found, if_pos (And.intro committed acked)]

theorem execMoveAck_aborting (aborting : r.phase = .aborting) (acked : b.acked = 7) (sent : r.sent = true) :
    execMoveAck h b s = .next ((((s.heard h).setRemote r none).sourceBack r.tier.toNat r.slot r.pair).pageEnd r.job r.name
      r.name .failed).workEnd := by
  refine receiveWork_of received ?_
  simp only [found, aborting, acked, sent, reduceCtorEq, false_and, if_false, and_self, if_true]
end Source

section Destination
variable {h : FrameHdr} {b : MoveBody} {r : RemoteMove} {s : State} (received : s.receives h)
include received

theorem execMoveOffer_refused (new : (s.heard h).remote b.move h.source false = none)
    (other : b.owner.extractLsb' 28 4 ≠ ownContext)
    (noImport : (s.heard h).importFor h.source (b.owner.extractLsb' 0 28 : BitVec 28).toNat = none)
    (full : (s.heard h).reserve (b.owner.extractLsb' 28 4) = none) :
    execMoveOffer h b s = .next ((s.heard h).drawn.sendMove h.source (moveMsg b.move 3 0)).workEnd := by
  refine receiveWork_of received ?_
  simp only [new, full, noImport, if_neg (fun both => other (And.left both)), Option.isSome_none, Bool.false_eq_true, if_false]

theorem execMoveOffer_accepted {t sl g : Nat} (new : (s.heard h).remote b.move h.source false = none)
    (other : b.owner.extractLsb' 28 4 ≠ ownContext)
    (room : (s.heard h).reserve (b.owner.extractLsb' 28 4) = some (t, sl, g)) :
    execMoveOffer h b s = .next (State.workEnd (
      let u := s.heard h
      let e := { placedEntry (b.owner.extractLsb' 28 4) (b.owner.extractLsb' 0 28) b.index.toNat .inbound g (true, []) false
          b.move with
        peerChip := h.source, peer := h.source ++ (u.free 52 : BitVec 52)
        stored := BitVec.ofNat 32 (if t = 1 then pageBytes else worstStored) }
      let v := u.drawn.setDir t sl e none
      (v.onMem fun m => { m with remotes := m.remotes ++ [{ RemoteMove.reset with
        seq := b.move, outgoing := false, peer := h.source, tier := BitVec.ofNat 4 t, slot := sl
        phase := .receiving, crc := b.crc, since := v.uptime }] }).sendMove h.source (moveMsg b.move 2 0))) := by
  refine receiveWork_of received ?_
  simp only [new, room, if_neg other, if_neg (fun both => other (And.left both)), Option.isSome_none, Bool.false_eq_true,
    if_false]

theorem execMoveData_kept (found : (s.heard h).remote b.move h.source false = some r)
    (fits : ¬ (r.phase ≠ .receiving ∨ 32 ≤ b.chunk.toNat ∨ b.data.length < 1 ∨ 4928 < b.data.length ∨
      chunkBytes < b.offset.toNat + b.data.length)) :
    execMoveData h b s = .next (State.workEnd (
      let a := chunkBytes * b.chunk.toNat + b.offset.toNat
      let r' := { r with
        bytes := Mem.writes r.bytes a b.data, chunks := addSpan a (a + b.data.length) r.chunks }
      if r'.chunks = [(0, pageBytes)] then ((s.heard h).setRemote r (some r')).arrived r'
      else (s.heard h).setRemote r (some r'))) := by
  refine receiveWork_of received ?_
  simp only [found, if_neg fits]

theorem execMoveData_ignored (found : (s.heard h).remote b.move h.source false = some r)
    (bad : r.phase ≠ .receiving ∨ 32 ≤ b.chunk.toNat ∨ b.data.length < 1 ∨ 4928 < b.data.length ∨
      chunkBytes < b.offset.toNat + b.data.length) :
    execMoveData h b s = .next (s.heard h).workEnd := by
  refine receiveWork_of received ?_
  simp only [found, if_pos bad]

theorem execMoveAbort_found
    (found : ((s.heard h).sendMove h.source (moveMsg b.move 8 7)).remote b.move h.source false = some r) :
    execMoveAbort h b s = .next ((((((s.heard h).sendMove h.source (moveMsg b.move 8 7)).setRemote r none).pageImportFails
      r.tier.toNat r.slot stCheckFailed).dropInbound r).workEnd) := by
  refine receiveWork_of received ?_
  simp only [found]

theorem execMoveCommit_ready
    (found : ((s.heard h).sendMove h.source (moveMsg b.move 8 6)).remote b.move h.source false = some r)
    (ready : r.phase = .readySent) :
    execMoveCommit h b s = .next (State.workEnd (
      let v := (((s.heard h).sendMove h.source (moveMsg b.move 8 6)).setRemote r none).homePage r.tier.toNat r.slot
      let e := v.dirEntry r.tier.toNat r.slot
      if e.ownerKind = ownContext ∧ (v.ctx e.ownerId.toNat).importFrom.isSome = true then v.endImport e.ownerId.toNat
      else v)) := by
  refine receiveWork_of received ?_
  simp only [found, ready, ne_eq, not_true_eq_false, if_false]
end Destination

section Timers
variable {move : BitVec 32} {tick : Nat} {r : RemoteMove} {s : State}

theorem execMoveReadyTimeout_found
    (found : ((s.at_ tick).waitingMove move 1000000000 fun p => decide (p = .sending) || decide (p = .offered)) = some r) :
    execMoveReadyTimeout move tick s = .next ((s.at_ tick).abortMove r).workEnd := by
  unfold execMoveReadyTimeout
  simp only [found]
  rfl

theorem execMoveCommitResend_found
    (found : ((s.at_ tick).waitingMove move 1000000 fun p => decide (p = .committed)) = some r) :
    execMoveCommitResend move tick s = .next (((s.at_ tick).setRemote r
      (some { r with since := (s.at_ tick).uptime })).sendMove r.peer (moveMsg r.seq 6 0)).workEnd := by
  unfold execMoveCommitResend
  simp only [found]
  rfl

theorem execMoveAbortResend_found
    (found : ((s.at_ tick).waitingMove move 1000000 fun p => decide (p = .aborting)) = some r) :
    execMoveAbortResend move tick s = .next (((s.at_ tick).setRemote r
      (some { r with since := (s.at_ tick).uptime })).sendMove r.peer (moveMsg r.seq 7 0)).workEnd := by
  unfold execMoveAbortResend
  simp only [found]
  rfl
end Timers

/-- Settles O39: by the frame or the timer, and by the phase of the move that it finds. -/
theorem pageMoves : Obligations.PageMoves := by
  refine ⟨fun h b r s received found => ⟨fun m offered there content => ?_, fun offered there content => ?_,
      fun offered gone => ?_, fun offered => ?_, fun sending => ?_, fun committed acked => ?_,
      fun aborting acked sent => ?_⟩,
    fun move tick r s => ⟨execMoveReadyTimeout_found, execMoveCommitResend_found, execMoveAbortResend_found⟩,
    fun h b s received => ⟨fun new other noImport => ⟨fun full => ?_, fun t sl g room => ?_⟩,
      fun r found => ⟨fun receiving chunk least most within => ?_, fun bad => ?_⟩, fun r found => ?_,
      fun r found ready => ?_⟩⟩
  · exact execMoveAccept_content received found offered there content
  · exact execMoveAccept_unreadable received found offered there content
  · exact execMoveAccept_gone received found offered gone
  · exact execMoveRefuse_offered received found offered
  · exact execMoveReady_sending received found sending
  · exact execMoveAck_committed received found committed acked
  · exact execMoveAck_aborting received found aborting acked sent
  · exact execMoveOffer_refused received new other noImport full
  · exact execMoveOffer_accepted received new other room
  · refine execMoveData_kept received found ?_
    simp only [receiving, not_or, ne_eq, not_true_eq_false, not_false_eq_true, true_and, Nat.not_le, Nat.not_lt]
    exact ⟨chunk, least, most, within⟩
  · exact execMoveData_ignored received found bad
  · exact execMoveAbort_found received found
  · exact execMoveCommit_ready received found ready
end Sys2Proof.Proofs
end

section
/-!
Events of the tiers and of failing media (O40).
-/
namespace Sys2Proof.Proofs
open Sys2Proof.Machine

section Tiers
variable {s : State}

theorem execLocalMoveComplete_found {move : BitVec 32} {tick : Nat} {mismatch uncorrectable : Bool} {mv : LocalMove}
    (found : ((s.at_ tick).mem.moves.find? fun m => decide (m.seq = move)) = some mv) :
    execLocalMoveComplete move tick mismatch uncorrectable s = .next (State.workEnd (
      (if uncorrectable then (s.at_ tick).uncorrectable mv.srcTier.toNat mv.src else s.at_ tick).endLocal mv mismatch
        uncorrectable)) := by
  unfold execLocalMoveComplete
  simp only [found]
  rfl

/-- A local move whose source can be read commits on a match and fails on a mismatch. -/
theorem endLocal_of_content {mv : LocalMove} {mismatch : Bool} {m : Mem}
    (content : ((s.onMem fun m => { m with moves := m.moves.filter fun x => decide (x.seq ≠ mv.seq) }).endDrive mv.seq).content
      mv.srcTier.toNat mv.src = some m) :
    s.endLocal mv mismatch false =
      let u := (s.onMem fun m => { m with moves := m.moves.filter fun x => decide (x.seq ≠ mv.seq) }).endDrive mv.seq
      if mismatch then u.failLocal mv else u.commitLocal mv m := by
  unfold State.endLocal
  simp only [content, Bool.false_eq_true, if_false]

theorem execWriteBackComplete_found {frame tick : Nat} {w : Nat × Bool}
    (found : ((s.at_ tick).mem.wbRun.find? fun w => decide (w.1 = frame)) = some w) :
    execWriteBackComplete frame tick s = .next (State.workEnd (
      let u := (s.at_ tick).onMem fun m => { m with
        wbRun := m.wbRun.erase w, flushSet := m.flushSet.filter fun f => decide (f ≠ frame) }
      let home := gaSlot (u.dirEntry 1 frame).peer
      State.checkFlush (
        if (u.dirEntry 1 frame).state = .shadow then
          match u.content 1 frame with
          | some m => (u.restore home.1 home.2 m).onDir 1 frame fun e => { e with dirty := w.2 }
          | none => u
        else u))) := by
  unfold execWriteBackComplete
  simp only [found]
  rfl

theorem ttl2Due_due {n t : Nat} (parked : (s.ctx n).state = .parked) (timer : (s.ctx n).ttl2At = some t) (due : t ≤ s.now) :
    s.ttl2Due n = if (s.ctx n).ttl3 = 0 then s.expire n
      else (s.onCtx n fun c => { c with ttl2At := none, toTier3 := true }).startJob
        { PageJob.reset with purpose := .toTier3 n, tier := 3, strict := true }
        ((s.ctx n).pageList.filter fun g => decide (gaSpace g = 2)) := by
  unfold State.ttl2Due
  simp only [parked, timer, Option.any_some, due, decide_true, Bool.not_true, ne_eq, not_true_eq_false, Bool.false_eq_true,
    or_self, if_false]

theorem ttl3Due_due {n t : Nat} (parked : (s.ctx n).state = .parked) (timer : (s.ctx n).ttl3At = some t) (due : t ≤ s.now) :
    s.ttl3Due n = s.expire n := by
  unfold State.ttl3Due
  simp only [parked, timer, Option.any_some, due, decide_true, and_self, if_true]

/-- The number of bytes that an access of BAR4 names. -/
def bar4Length : Bar4Op → Nat
  | .read k => k
  | .write d => d.length

/-- Every byte of an access of BAR4 is in a host-visible page of the function. -/
def bar4Visible (s : State) (f : BitVec 4) (off n : Nat) : Bool :=
  (gaPieces (mkGa s.fab.chip 2 (s.cfgField 32 8 + off)) n).all fun p =>
    (s.dirEntry 2 (gaSlot p.1).2).hostVisible && decide ((s.dirEntry 2 (gaSlot p.1).2).ownerKind = ownFunction) &&
      decide ((s.dirEntry 2 (gaSlot p.1).2).ownerId = f.setWidth 28)

theorem inReset_eq_false (out : s.cfg.inReset = false) (good : s.cfg.error = 0) : s.inReset = false := by
  simp only [State.inReset, out, good]
  rfl

theorem execBar4Access_read {f : BitVec 4} {off n : Nat} {bs : List (BitVec 8)} (link : s.pins.linkUp = true)
    (out : s.inReset = false) (within : off + n ≤ 2 ^ 37) (visible : bar4Visible s f off n = true)
    (read : s.readRun (some f.toNat) (mkGa s.fab.chip 2 (s.cfgField 32 8 + off)) n = .ok bs) :
    execBar4Access f off (.read n) s = .next ((s.noteRead (mkGa s.fab.chip 2 (s.cfgField 32 8 + off)) n).onHost fun h =>
      { h with aborted := false, answerBytes := bs }).stepEnd := by
  unfold bar4Visible at visible
  unfold execBar4Access
  simp only [link, out, visible, read, Nat.not_lt.2 within, Bool.not_true, Bool.false_eq_true, or_self, if_false]
  rfl

theorem execBar4Access_aborted {f : BitVec 4} {off : Nat} {op : Bar4Op} (link : s.pins.linkUp = true)
    (bad : s.inReset = true ∨ 2 ^ 37 < off + bar4Length op ∨ (!bar4Visible s f off (bar4Length op)) = true) :
    execBar4Access f off op s = .next (s.onHost fun h => { h with aborted := true, answerBytes := [] }).stepEnd := by
  have up : ¬ (!s.pins.linkUp) = true := by rw [link]; exact Bool.false_ne_true
  unfold execBar4Access
  rw [if_neg up]
  exact if_pos bad
end Tiers

section Media
variable {s : State}

/-- What an uncorrectable read of a stack adds to its count of the last second, which halts the chip past 64 (R351). -/
def countStackError (unit : Nat) (v : State) : Out :=
  let recent := (unit, v.uptime) :: v.hlt.stackUe.filter fun x => decide (v.uptime < x.2 + 1000000000)
  let w := v.onHlt fun h => { h with stackUe := recent }
  if 64 < (recent.filter fun x => decide (x.1 = unit)).length then close (w.halt 0x05 0x04 true) else finish w

theorem execUncorrectableRead_up {tier : BitVec 4} {slot unit tick : Nat} (runs : (s.at_ tick).hlt.halted = false)
    (up : (s.at_ tick).unitUp tier unit = true) :
    execUncorrectableRead tier slot unit tick s =
      let u := (s.at_ tick).uncorrectable tier.toNat slot
      let v := if tier = 3 then u else u.signal (unitSource tier unit) true
      if tier = 1 then countStackError unit v else finish v := by
  have goes : ¬ ((s.at_ tick).hlt.halted = true ∨ (!(s.at_ tick).unitUp tier unit) = true) := by
    rw [runs, up]
    decide
  exact if_neg goes

theorem execUncorrectableRead_slow {tier : BitVec 4} {slot unit tick : Nat} (runs : (s.at_ tick).hlt.halted = false)
    (up : (s.at_ tick).unitUp tier unit = true) (slow : tier ≠ 1) :
    execUncorrectableRead tier slot unit tick s = finish (
      let u := (s.at_ tick).uncorrectable tier.toNat slot
      if tier = 3 then u else u.signal (unitSource tier unit) true) :=
  (execUncorrectableRead_up runs up).trans (if_neg slow)

theorem execUncorrectableRead_stack {slot unit tick : Nat} (runs : (s.at_ tick).hlt.halted = false)
    (up : (s.at_ tick).unitUp 1 unit = true) :
    execUncorrectableRead 1 slot unit tick s =
      countStackError unit (((s.at_ tick).uncorrectable 1 slot).signal (unitSource 1 unit) true) :=
  ((execUncorrectableRead_up runs up).trans (if_pos rfl)).trans (congrArg (countStackError unit) (if_neg (by decide)))

theorem execNvmeCompletion_ends {k n : Nat} {c : DriveCmd} (up : s.driveUp k = true)
    (found : (s.mem.driveDma.find? fun x => decide (x.port = k) && decide (x.id = n)) = some c)
    (other : ∀ second bytes, c.op ≠ .label second bytes) :
    execNvmeCompletion k n .success s = .next
      ((s.onMem fun m => { m with driveDma := m.driveDma.erase c }).pumpDrives).stepEnd := by
  unfold execNvmeCompletion
  simp only [found, up, Bool.not_true, Bool.false_eq_true, if_false]
  cases op : c.op
  case label second bytes => exact absurd op (other second bytes)
  all_goals rfl

theorem execNvmeCompletion_fatal {k n : Nat} {c : DriveCmd} (up : s.driveUp k = true)
    (found : (s.mem.driveDma.find? fun x => decide (x.port = k) && decide (x.id = n)) = some c) :
    execNvmeCompletion k n .fatal s = .next (s.driveFails k).workEnd := by
  unfold execNvmeCompletion
  simp only [found, up, Bool.not_true, Bool.false_eq_true, if_false]
  rfl

theorem execDdrChannelFailure_up {k : Nat} (up : s.unitUp 2 k = true) :
    execDdrChannelFailure k s = .next (State.workEnd (
      let slots := (s.mem.dir2.filter fun p => p.2.onChannel k).map (·.1)
      let u := ((s.onMem fun m => { m with
        channels := m.channels &&& ~~~ (bit 12 k), t2Bytes := m.t2Bytes - m.channelBytes.getD k 0 }).raiseMem 3).signal
          (unitSource 2 k) true
      (slots.foldl (fun s sl => s.pageFails 2 sl) u).ownersLearn 2 slots)) := by
  unfold execDdrChannelFailure
  simp only [up, Bool.not_true, Bool.false_eq_true, if_false]
  rfl

theorem execMemoryPatrolScrub_channel {unit corrected tick : Nat} (up : (s.at_ tick).mem.channels.getLsbD unit = true) :
    execMemoryPatrolScrub 2 unit corrected none tick s = .next ((s.at_ tick).onMem fun m => { m with
      eccT2 := satAdd m.eccT2 corrected }).stepEnd := by
  unfold execMemoryPatrolScrub
  have other : ¬ ((2 : BitVec 4) = 1 ∧ (s.at_ tick).mem.hbmStacks.getLsbD unit = true) := fun both => absurd both.1 (by decide)
  simp only [if_neg other, up, true_and, if_true]
  rfl

theorem execMemoryPatrolScrub_row {unit corrected tick row : Nat} (up : (s.at_ tick).mem.hbmStacks.getLsbD unit = true) :
    execMemoryPatrolScrub 1 unit corrected (some row) tick s =
      let u := (s.at_ tick).onMem fun m => { m with
        eccT1 := satAdd m.eccT1 corrected, rowCorr := Sparse.set 0 m.rowCorr row corrected }
      if 16 < corrected ∧ row ∉ u.mem.softRepairs then
        let w := (u.onMem fun m => { m with softRepairs := m.softRepairs ++ [row] }).raiseMem 6
        .next (w.storeStart .hbmRepair
          ((if row ∈ w.repairRecord then w.repairRecord else w.repairRecord ++ [row]).flatMap (leBytes 8)) none).stepEnd
      else .next u.stepEnd := by
  unfold execMemoryPatrolScrub
  simp only [up, true_and, if_true]
  rfl
end Media

/-- Settles O40: by the event and what it finds. -/
theorem tierAndMediaEvents : Obligations.TierAndMediaEvents := by
  refine ⟨fun s => ⟨fun move tick mv found => ?_, fun move tick mismatch mv found => ?_, fun frame tick w found => ?_,
      fun converting still => ?_, fun n t timer => ?_, fun n t timer => ?_, fun n t parked timer due => ?_,
      fun n t parked timer due => ?_, fun f off n bs link out good within => ?_, fun f off op link => ?_⟩,
    fun s => ⟨fun slot unit tick runs up => ?_, fun slot unit tick runs up => ?_, fun slot unit tick runs up => ?_,
      fun k up => ?_, fun k up => ?_, fun k up => ?_, fun k n c up found => ⟨fun other => ?_, ?_⟩,
      fun unit corrected tick up => ?_, fun unit corrected tick row up => ?_⟩⟩
  · intro u m content
    refine ⟨(execLocalMoveComplete_found found : execLocalMoveComplete move tick false false s = _).trans ?_,
      (execLocalMoveComplete_found found : execLocalMoveComplete move tick true false s = _).trans ?_⟩
    · exact congrArg close (endLocal_of_content content)
    · exact congrArg close (endLocal_of_content content)
  · exact (execLocalMoveComplete_found found : execLocalMoveComplete move tick mismatch true s = _)
  · exact (execWriteBackComplete_found found : execWriteBackComplete frame tick s = _)
  · show execConversionPassDone s = _
    unfold execConversionPassDone
    simp only [converting, still, if_true, List.foldl_nil]
    rfl
  · show close (s.reach (s.ctx n).ttl2At) = _
    rw [timer]
    rfl
  · show close (s.reach (s.ctx n).ttl3At) = _
    rw [timer]
    rfl
  · exact ttl2Due_due parked timer due
  · exact ttl3Due_due parked timer due
  · intro g visible read
    exact (execBar4Access_read link (inReset_eq_false out good) within visible read : execBar4Access f off (.read n) s = _)
  · intro n bad
    refine (execBar4Access_aborted link ?_ : execBar4Access f off op s = _)
    rcases bad with reset | error | long | hidden
    · exact .inl (by simp only [State.inReset, reset, Bool.true_or])
    · exact .inl (by simp only [State.inReset, decide_eq_true error, Bool.or_true])
    · exact .inr (.inl long)
    · exact .inr (.inr (congrArg not hidden))
  · exact (execUncorrectableRead_slow runs up (by decide) : execUncorrectableRead 2 slot unit tick s = _)
  · exact (execUncorrectableRead_slow runs up (by decide) : execUncorrectableRead 3 slot unit tick s = _)
  · intro u v recent w
    exact ⟨fun few => (execUncorrectableRead_stack runs up : execUncorrectableRead 1 slot unit tick s = _).trans
        (if_neg (Nat.not_lt.2 few)),
      fun many => (execUncorrectableRead_stack runs up : execUncorrectableRead 1 slot unit tick s = _).trans (if_pos many)⟩
  · exact (if_pos up : execHbmStackFailure k s = _)
  · exact (execDdrChannelFailure_up up : execDdrChannelFailure k s = _)
  · exact (if_pos up : execFlashDriveTimeout k s = _)
  · exact (execNvmeCompletion_ends up found other : execNvmeCompletion k n .success s = _)
  · exact (execNvmeCompletion_fatal up found : execNvmeCompletion k n .fatal s = _)
  · exact (execMemoryPatrolScrub_channel up : execMemoryPatrolScrub 2 unit corrected none tick s = _)
  · intro u
    refine ⟨fun few => (execMemoryPatrolScrub_row up :
        execMemoryPatrolScrub 1 unit corrected (some row) tick s = _).trans (if_neg fun both => absurd both.1 (Nat.not_lt.2 few)),
      fun many new => (execMemoryPatrolScrub_row up : execMemoryPatrolScrub 1 unit corrected (some row) tick s = _).trans
        (if_pos ⟨many, new⟩)⟩
end Sys2Proof.Proofs
end

section
/-!
Events of the weights (O41).
-/
namespace Sys2Proof.Proofs
open Sys2Proof.Machine

/-- A choice on either of two bits. -/
theorem ite_or {α : Sort*} (a b : Bool) (x y : α) :
    (if (a || b) = true then x else y) = if a = true ∨ b = true then x else y := by
  cases a <;> cases b <;> rfl

/-- A model version after an update that keeps the identities. -/
theorem model_onModel (id : BitVec 28) (v : BitVec 8) (g : ModelVer → ModelVer) (s : State)
    (keeps : ∀ m, (g m).id = m.id ∧ (g m).version = m.version) :
    (s.onModel id v g).model id v = (s.model id v).map g := by
  have same : ∀ m : ModelVer, (if m.id = id ∧ m.version = v then g m else m).id = m.id ∧
      (if m.id = id ∧ m.version = v then g m else m).version = m.version := fun m => by
    split
    · exact keeps m
    · exact ⟨rfl, rfl⟩
  have names : ((fun m : ModelVer => decide (m.id = id) && decide (m.version = v)) ∘
      fun m => if m.id = id ∧ m.version = v then g m else m) =
        fun m => decide (m.id = id) && decide (m.version = v) := by
    funext m
    simp only [Function.comp_apply, same]
  show (s.wgt.models.map _).find? _ = _
  rw [List.find?_map, names]
  show ((s.model id v).map _) = _
  cases found : s.model id v with
  | none => rfl
  | some m =>
    have named := List.find?_some found
    simp only [Bool.and_eq_true, decide_eq_true_eq] at named
    exact congrArg some (if_pos named)

section
variable {id : BitVec 28} {v : BitVec 8} {s : State}

theorem execShardIngestDone_found {h : BitVec 32} {tick : Nat} {x : Ingest} {l : Live}
    (flies : (s.wgt.flight.find? fun x => decide (x.handle = h)) = some x) (live : s.liveOf h = some l) :
    execShardIngestDone h tick s = .next ((((s.at_ tick).onWgt fun w => { w with
      flight := w.flight.erase x }).ingest x l).nextShard).workEnd := by
  unfold execShardIngestDone
  simp only [flies, live]
  rfl

/-- The shards of a version that no accepted command delivers. -/
def missingShards (s : State) (m : ModelVer) : List Nat :=
  (List.range m.shards.length).filter fun i =>
    decide (m.shards[i]? = some .outstanding) && !s.shardAccepted m i

theorem execShardDeadlineExpiry_missing {tick d : Nat} {m : ModelVer} (found : (s.at_ tick).model id v = some m)
    (loading : m.state = .loading) (deadline : m.deadline = some d) (due : d ≤ (s.at_ tick).now)
    (some_ : missingShards (s.at_ tick) m ≠ []) :
    execShardDeadlineExpiry id v tick s = close (
      let u := (missingShards (s.at_ tick) m).foldl (fun s i => s.setShard id v i .missing) (s.at_ tick)
      ((u.onWgt fun w => { w with missing := satAdd w.missing (missingShards (s.at_ tick) m).length }).raiseWgt 1).checkLoaded
        id v) := by
  have acts : m.state = .loading ∧ (m.deadline.any fun d => decide (d ≤ (s.at_ tick).now)) = true := by
    rw [deadline]
    exact ⟨loading, decide_eq_true due⟩
  unfold execShardDeadlineExpiry
  simp only [found]
  exact (if_pos acts).trans (if_neg some_)

theorem execScrubDue_due {m : ModelVer} (found : s.model id v = some m) (scrubs : m.scrubs = true) (due : m.nextScrub ≠ 0) :
    execScrubDue id v s = .next (s.at_ m.nextScrub).stepEnd := by
  unfold execScrubDue
  simp only [found]
  exact if_pos ⟨scrubs, due⟩

theorem execScrubPageRead_left {m : ModelVer} {page : Nat} (found : s.model id v = some m) (left : page ∈ m.scrubLeft) :
    execScrubPageRead id v page s = .next (State.stepEnd (
      let u := s.onModel id v fun m => { m with scrubLeft := m.scrubLeft.erase page }
      let at_ := gaSlot (Sparse.get 0 m.pages page)
      let home := u.liveSlot at_.1 at_.2
      let w := if (u.dirEntry at_.1 at_.2).state.inMove = true ∨ (u.dirEntry home.1 home.2).state.inMove = true then
          (u.onModel id v fun m => { m with scrubSkipped := m.scrubSkipped ++ [page] }).onWgt fun w => { w with
            skipped := satInc w.skipped }
        else match u.content home.1 home.2 with
          | none => u.scrubMismatch m page
          | some c =>
            if digestBits (sha256 (Mem.reads c 0 pageBytes)) = Sparse.get 0 m.digests page then u
            else u.scrubMismatch m page
      w.onModel id v fun m =>
        if m.scrubLeft = [] then { m with scrubLeft := m.scrubSkipped, scrubSkipped := [] } else m)) := by
  unfold execScrubPageRead
  simp only [found, if_pos left]
  generalize gaSlot (Sparse.get 0 m.pages page) = place
  obtain ⟨t, sl⟩ := place
  simp only [ite_or]
  rfl
end

/-- Settles O41: by the event and the version that it finds. -/
theorem weightEvents : Obligations.WeightEvents := by
  refine fun id v s => ⟨fun h tick x l flies live => ?_, fun tick m d found loading deadline due => ?_,
    fun m found scrubs due => ⟨?_, ?_⟩, fun m page found left => ?_⟩
  · exact (execShardIngestDone_found flies live : execShardIngestDone h tick s = _)
  · intro miss some_
    exact (execShardDeadlineExpiry_missing found loading deadline due some_ : execShardDeadlineExpiry id v tick s = _)
  · exact (execScrubDue_due found scrubs due : execScrubDue id v s = _)
  · exact model_onModel m.id m.version _ s fun m => ⟨rfl, rfl⟩
  · exact (execScrubPageRead_left found left : execScrubPageRead id v page s = _)
end Sys2Proof.Proofs
end

section
/-!
The host link and the states of the functions (O42).
-/
namespace Sys2Proof.Proofs
open Sys2Proof.Machine

section Link
variable {s : State}

/-- The state once a host link that was up has fallen. -/
def fallenLink (s : State) : State :=
  let u := s.onPins fun p => { p with linkUp := false }
  let u := if u.clocked 7 then (u.onHlt fun h => { h with linkFell := true }).raiseHlt 9 else u
  let u := (if u.unarmed then u else u.withdraw).signal 46 false
  if (u.func 0).state = .wedged then ((List.range 16).drop 1).foldl (fun s f => s.flrVf f) u else u.flrPf

theorem linkDown_of_up (up : s.pins.linkUp = true) : s.linkDown = fallenLink s := if_pos up

theorem linkDown_of_down (down : s.pins.linkUp = false) : s.linkDown = s :=
  if_neg (by rw [down]; exact Bool.false_ne_true)

theorem linkRise_of_up (up : s.pins.linkUp = true) : s.linkRise = s := if_pos (.inl up)

/-- What the link needs to train: the reset pins high, boot past stage 0x01, power, and no quiesce or thermal trip. -/
def mayTrain (s : State) : Prop :=
  s.pins.perstN = true ∧ s.cfg.inPulse = false ∧ 2 ≤ s.cfg.stage.toNat ∧ s.pins.powered = true ∧
    s.pins.resetN = true ∧ s.hlt.pwrfail = false ∧ s.pins.thermtripN = true

theorem linkRise_of_down (down : s.pins.linkUp = false) (may : mayTrain s) :
    s.linkRise = ({ s with
      pins := { s.pins with linkUp := true }
      hlt := if s.hlt.linkFell then { s.hlt with linkFell := false, linkDown := satInc s.hlt.linkDown } else s.hlt } :
        State).signal 46 true := by
  obtain ⟨perst, pulse, stage, powered, reset, pwrfail, trip⟩ := may
  refine (if_neg ?_).trans (congrArg (State.signal 46 true) ?_)
  · simp only [down, perst, pulse, Nat.not_lt.2 stage, powered, reset, pwrfail, trip, Bool.not_true, Bool.false_eq_true,
      or_self, not_false_eq_true]
  · by_cases fell : s.hlt.linkFell = true
    · rw [if_pos fell]
      exact if_pos fell
    · rw [if_neg fell]
      exact if_neg fell

theorem linkRise_of_held (held : s.pins.perstN = false ∨ s.cfg.inPulse = true ∨ s.cfg.stage.toNat < 2 ∨
    s.pins.powered = false ∨ s.pins.resetN = false ∨ s.hlt.pwrfail = true ∨ s.pins.thermtripN = false) :
    s.linkRise = s := by
  refine if_pos (.inr ?_)
  simpa only [Bool.not_eq_true'] using held

theorem execPcieConfigRequest_retry {f : BitVec 4} {control : Option MsixControl} (up : s.pins.linkUp = true)
    (reset : s.cfg.inReset = true) (good : s.cfg.error = 0) :
    execPcieConfigRequest ⟨f, control⟩ s = .next (s.onHost fun h =>
      { h with aborted := false, answer := none, answerBytes := [1] }).stepEnd := by
  have retry : (s.cfg.inReset && decide (s.cfg.error = 0)) = true := by rw [reset, good]; rfl
  unfold execPcieConfigRequest
  simp only [if_pos up, retry, if_true]
  cases control <;> rfl

theorem execPcieConfigRequest_answered {f : BitVec 4} {control : Option MsixControl} (up : s.pins.linkUp = true)
    (done : ¬ (s.cfg.inReset = true ∧ s.cfg.error = 0)) :
    execPcieConfigRequest ⟨f, control⟩ s =
      let u := s.onHost fun h => { h with aborted := false, answer := none, answerBytes := [0] }
      match control with
      | some c => .next (u.msixControl f c).stepEnd
      | none => .next u.stepEnd := by
  have retry : (s.cfg.inReset && decide (s.cfg.error = 0)) = false := by
    rw [Bool.eq_false_iff]
    exact fun both => done (by simpa only [Bool.and_eq_true, decide_eq_true_eq] using both)
  unfold execPcieConfigRequest
  simp only [if_pos up, retry, Bool.false_eq_true, if_false]
  cases control <;> rfl
end Link

section Reset
variable {f : BitVec 4} {tick : Nat} {s : State}

theorem execFunctionLevelReset_shut (shut : s.pins.linkUp = false ∨ s.cfg.inReset = true) :
    execFunctionLevelReset f tick s = .next s :=
  if_pos (shut.imp_left fun down => by rw [down]; rfl)

theorem execFunctionLevelReset_open (up : s.pins.linkUp = true) (out : s.cfg.inReset = false) :
    execFunctionLevelReset f tick s =
      close (if f = 0 then ((s.at_ tick).raiseCmd 3).flrPf else ((s.at_ tick).raiseCmd 3).flrVf f.toNat) := by
  refine if_neg ?_
  rw [up, out]
  decide

/-- The function level reset of a virtual function that is not shut out. -/
theorem execFunctionLevelReset_vf (up : s.pins.linkUp = true) (out : s.cfg.inReset = false) (virtual : f ≠ 0) :
    execFunctionLevelReset f tick s = close (((s.at_ tick).raiseCmd 3).flrVf f.toNat) :=
  (execFunctionLevelReset_open up out).trans (congrArg close (if_neg virtual))

theorem execFunctionLevelReset_pf (up : s.pins.linkUp = true) (out : s.cfg.inReset = false) :
    execFunctionLevelReset 0 tick s = close ((s.at_ tick).raiseCmd 3).flrPf :=
  (execFunctionLevelReset_open up out).trans (congrArg close (if_pos rfl))

theorem flrPf_running (state : (s.func 0).state = .on ∨ (s.func 0).state = .starting) :
    s.flrPf =
      let v := (List.range 16).foldl (fun s f =>
        if (s.func f).state = .on ∨ (s.func f).state = .starting then s.stopFunc f none else s)
          (s.msixReset fun g => decide ((s.func g).state ≠ .wedged)).abortHost
      (v.onFuncs fun x => { x with held := none, heldEnable := false, again := false }).onFunc 0 fun x => { x with
        heldEnable := true } := by
  unfold State.flrPf
  rcases state with on | starting
  · rw [on]
  · rw [starting]

theorem flrPf_stopping (state : (s.func 0).state = .stopping) :
    s.flrPf = s.abortHost.onFunc 0 fun x => { x with heldEnable := true } := by
  unfold State.flrPf
  rw [state]

theorem flrPf_off (state : (s.func 0).state = .off) :
    s.flrPf = (s.msixReset fun g => decide ((s.func g).state ≠ .wedged)).abortHost := by
  unfold State.flrPf
  rw [state]

theorem flrPf_wedged (state : (s.func 0).state = .wedged) : s.flrPf = s := by
  unfold State.flrPf
  rw [state]

theorem flrVf_on {g : Nat} (state : (s.func g).state = .on) :
    s.flrVf g = ((s.msixReset fun k => decide (k = g)).stopFunc g none).onFunc g fun x => { x with
      held := none, heldEnable := true } := by
  unfold State.flrVf
  rw [state]

theorem flrVf_starting {g : Nat} (state : (s.func g).state = .starting) :
    s.flrVf g = (s.msixReset fun k => decide (k = g)).onFunc g fun x => { x with again := true } := by
  unfold State.flrVf
  rw [state]

theorem flrVf_off {g : Nat} (state : (s.func g).state = .off) :
    s.flrVf g = s.msixReset fun k => decide (k = g) := by
  unfold State.flrVf
  rw [state]

theorem flrVf_stopping {g : Nat} (state : (s.func g).state = .stopping) (free : (s.func g).held = none) :
    s.flrVf g = s.onFunc g fun x => { x with heldEnable := true } := by
  unfold State.flrVf
  rw [state]
  exact if_pos (by rw [free]; rfl)

theorem flrVf_wedged {g : Nat} (state : (s.func g).state = .wedged) : s.flrVf g = s := by
  unfold State.flrVf
  rw [state]
end Reset

section Setup
variable {f : BitVec 4} {s : State}

/-- What a set-up that ends leaves: an `ON` function whose commands have their answers (R390). -/
def setUp (f : Nat) (s : State) : State :=
  ((s.onFunc f fun x => { x with state := .on, starters := [] }).raiseCmd 2).completeAll (s.func f).starters stOk 0

theorem execFuncSetupDone_free (starting : (s.func f.toNat).state = .starting) (free : (s.func f.toNat).held = none)
    (once : (s.func f.toNat).again = false) : execFuncSetupDone f s = close (setUp f.toNat s) := by
  refine (if_pos starting).trans (if_pos ?_)
  rw [free, once]
  exact ⟨rfl, rfl⟩

theorem execFuncSetupDone_held (starting : (s.func f.toNat).state = .starting)
    (held : (s.func f.toNat).held ≠ none ∨ (s.func f.toNat).again = true) :
    execFuncSetupDone f s = close ((((setUp f.toNat s).onFunc f.toNat fun x => { x with held := none, again := false }).stopFunc
      f.toNat (s.func f.toNat).held).onFunc f.toNat fun y => { y with heldEnable := (s.func f.toNat).again }) := by
  refine (if_pos starting).trans (if_neg fun both => ?_)
  obtain ⟨free, once⟩ := both
  rcases held with some_ | again
  · exact some_ (Option.isNone_iff_eq_none.1 free)
  · rw [again] at once
    exact absurd once Bool.false_ne_true
end Setup

/-- Settles O42: the link by the pins that hold it, a function by its state. -/
theorem linkAndFunctions : Obligations.LinkAndFunctions := by
  refine ⟨fun s up => ?_, fun s down => ?_, fun s => ⟨?_, fun f tick shut => ?_, fun tick up out => ?_⟩, fun f s => ?_⟩
  · intro fallen
    refine ⟨?_, ?_, ?_, fun f control reset good => ?_, fun f done => ⟨?_, fun c => ?_⟩⟩
    · exact (congrArg close (linkDown_of_up up) : execPcieLinkDown s = _)
    · exact (congrArg close (linkDown_of_up (s := s.onPins fun p => { p with perstN := false }) up) :
        execHostPerst false s = _)
    · exact (congrArg close (linkRise_of_up up) : execPcieLinkUp s = _)
    · exact (execPcieConfigRequest_retry up reset good : execPcieConfigRequest ⟨f, control⟩ s = _)
    · exact (execPcieConfigRequest_answered up done : execPcieConfigRequest ⟨f, none⟩ s = _)
    · exact (execPcieConfigRequest_answered up done : execPcieConfigRequest ⟨f, some c⟩ s = _)
  · refine ⟨?_, ?_, fun req => ?_, fun perst pulse stage powered reset pwrfail trip => ?_, fun held => ?_⟩
    · exact (congrArg close (linkDown_of_down down) : execPcieLinkDown s = _)
    · exact (congrArg close (linkDown_of_down (s := s.onPins fun p => { p with perstN := false }) down) :
        execHostPerst false s = _)
    · exact (if_neg (by rw [down]; exact Bool.false_ne_true) : execPcieConfigRequest req s = _)
    · exact (congrArg close (linkRise_of_down down ⟨perst, pulse, stage, powered, reset, pwrfail, trip⟩) :
        execPcieLinkUp s = _)
    · exact (congrArg close (linkRise_of_held held) : execPcieLinkUp s = _)
  · rfl
  · exact (execFunctionLevelReset_shut shut : execFunctionLevelReset f tick s = _)
  · intro u
    have pf : execFunctionLevelReset 0 tick s = close u.flrPf := execFunctionLevelReset_pf up out
    refine ⟨fun f virtual => ?_, fun wedged => ?_, fun _ => ⟨fun running => ?_, fun stopping => ?_, fun off => ?_⟩⟩
    · intro w
      have vf : execFunctionLevelReset f tick s = close (u.flrVf f.toNat) := execFunctionLevelReset_vf up out virtual
      refine ⟨fun wedged => ?_, fun on => ?_, fun stopping free => ?_, fun starting => ?_, fun off => ?_⟩
      · exact vf.trans (congrArg close (flrVf_wedged wedged))
      · exact vf.trans (congrArg close (flrVf_on on))
      · exact vf.trans (congrArg close (flrVf_stopping stopping free))
      · exact vf.trans (congrArg close (flrVf_starting starting))
      · exact vf.trans (congrArg close (flrVf_off off))
    · exact pf.trans (congrArg close (flrPf_wedged wedged))
    · exact pf.trans (congrArg close (flrPf_running running))
    · exact pf.trans (congrArg close (flrPf_stopping stopping))
    · exact pf.trans (congrArg close (flrPf_off off))
  · intro x
    refine ⟨fun stopping left => ?_, fun not => ?_, fun starting => ⟨fun free once => ?_, fun held => ?_⟩, fun other => ?_,
      fun tick stopping due => ?_, fun tick not => ?_⟩
    · exact (if_pos ⟨stopping, left⟩ : execFuncStopComplete f s = _)
    · exact (if_neg not : execFuncStopComplete f s = _)
    · exact (execFuncSetupDone_free starting free once : execFuncSetupDone f s = _)
    · exact (execFuncSetupDone_held starting held : execFuncSetupDone f s = _)
    · exact (if_neg other : execFuncSetupDone f s = _)
    · exact (if_pos ⟨stopping, due⟩ : execFuncWedgeTimeout f tick s = _)
    · exact (if_neg not : execFuncWedgeTimeout f tick s = _)
end Sys2Proof.Proofs
end

section
/-!
Accesses of the register space (O47).
-/
namespace Sys2Proof.Proofs
open Sys2Proof.Machine

section Write
variable {s : State} {a : Access} {v : BitVec 32}

theorem regWrite_block {b : Block} {o : Nat} (fine : s.busError a = none) (vf : a.vf = none) (bar2 : a.bar2 = none)
    (place : blockAt a.off = some (b, o)) : s.regWrite a v = (true, s.writeBlock a.req b o v) := by
  unfold State.regWrite
  simp only [fine, vf, bar2, place]

theorem regWrite_vf {f : BitVec 4} (fine : s.busError a = none) (vf : a.vf = some f) :
    s.regWrite a v = (true, if a.off < 0x400 then s.writeMsix (globalVector f.toNat 0) a.off v else s) := by
  unfold State.regWrite
  simp only [fine, vf]

theorem regWrite_bar2 {f : BitVec 4} (fine : s.busError a = none) (vf : a.vf = none) (bar2 : a.bar2 = some f) :
    s.regWrite a v = (true, s.writeBar2 f.toNat a.off v) := by
  unfold State.regWrite
  simp only [fine, vf, bar2]

theorem regWrite_error {k : Nat} (error : s.busError a = some k) : s.regWrite a v = (false, s.recordError a true k) := by
  unfold State.regWrite
  simp only [error]

/-- The end of a register write, from what the write makes of the state. -/
theorem writeRow_of {p t : State} {taken : Bool} (e : (p.requested a.req).regWrite a v = (taken, t)) :
    writeRow a v p = .next (t.onHost fun h => { h with aborted := !taken }).stepEnd := by
  rw [writeRow_next, e]

/-- A write of a register of a block. -/
theorem writeRow_block {p : State} {b : Block} {o : Nat} (fine : (p.requested a.req).busError a = none) (vf : a.vf = none)
    (bar2 : a.bar2 = none) (place : blockAt a.off = some (b, o)) :
    writeRow a v p = .next ((p.requested a.req).writeBlock a.req b o v).wrote := by
  rw [writeRow_of (regWrite_block fine vf bar2 place)]
  rfl
end Write

section Read
variable {s : State} {a : Access} {v : BitVec 32}

/-- An offset within a block that is not a claim register. -/
def NotClaim (b : Block) (o : Nat) : Prop := b = .ic → o < 0x40 ∨ 0x54 ≤ o

theorem regRead_vf {f : BitVec 4} (fine : s.voteAll.busError a = none) (vf : a.vf = some f) :
    s.regRead a = (some (s.voteAll.readVf f.toNat a.off), s.voteAll) := by
  unfold State.regRead
  simp only [fine, vf]

theorem regRead_bar2 {f : BitVec 4} (fine : s.voteAll.busError a = none) (vf : a.vf = none) (bar2 : a.bar2 = some f) :
    s.regRead a = (s.voteAll.readBar2 f.toNat a.off, s.voteAll) := by
  unfold State.regRead
  simp only [fine, vf, bar2]

theorem regRead_error {k : Nat} (error : s.voteAll.busError a = some k) :
    s.regRead a = (none, s.voteAll.recordError a false k) := by
  unfold State.regRead
  simp only [error]

/-- A read of a claim register takes a source into service. -/
theorem regRead_claim {o : Nat} (fine : s.voteAll.busError a = none) (vf : a.vf = none) (bar2 : a.bar2 = none)
    (place : blockAt a.off = some (.ic, o)) (least : 0x40 ≤ o) (most : o < 0x54) :
    s.regRead a = (some (s.voteAll.claim ((o - 0x40) / 4)).1, (s.voteAll.claim ((o - 0x40) / 4)).2) := by
  unfold State.regRead
  simp only [fine, vf, bar2, place, least, most, and_self, if_true]

/-- A read of a block's register that is not a claim. -/
theorem regRead_block {b : Block} {o : Nat} (fine : s.voteAll.busError a = none) (vf : a.vf = none) (bar2 : a.bar2 = none)
    (place : blockAt a.off = some (b, o)) (plain : NotClaim b o) :
    s.regRead a = match latchedPairs.find? (fun x => decide (x.1 = b) && decide (x.2.1 = o)),
        latchedPairs.find? (fun x => decide (x.1 = b) && decide (x.2.1 + 4 = o)) with
      | some _, _ => (s.voteAll.readBlock b o, s.voteAll.setLatch a.req (a.off + 4) ((s.voteAll.readBlock b (o + 4)).getD 0))
      | _, some h => (some (s.voteAll.latch a.req a.off h.2.2), s.voteAll)
      | none, none => (s.voteAll.readBlock b o, if a.req = .sideband then s.voteAll else s.voteAll.clearRead b o) := by
  have other : ¬ (b = .ic ∧ 0x40 ≤ o ∧ o < 0x54) := fun ⟨ic, least, most⟩ => by
    rcases plain ic with low | high <;> omega
  unfold State.regRead
  simp only [fine, vf, bar2, place, if_neg other] <;> rfl

/-- The end of a register read that answers a value. -/
theorem readRow_of {p t : State} (e : (p.requested a.req).regRead a = (some v, t)) :
    readRow a p = .next (t.gave v) := by
  rw [readRow_next, e]
  rfl

theorem readRow_error {p : State} {k : Nat} (error : (p.requested a.req).voteAll.busError a = some k) :
    readRow a p = .next ((((p.requested a.req).voteAll.recordError a false k).onHost fun h =>
      { h with answer := none, aborted := true }).stepEnd) := by
  rw [readRow_next, regRead_error error]
  rfl

/-- A read of a register that is neither latched nor a claim: it clears what it answers, unless the sideband reads. -/
theorem readRow_plain {p : State} {b : Block} {o : Nat} (fine : (p.requested a.req).voteAll.busError a = none)
    (vf : a.vf = none) (bar2 : a.bar2 = none) (place : blockAt a.off = some (b, o)) (plain : NotClaim b o)
    (low : (latchedPairs.find? fun x => decide (x.1 = b) && decide (x.2.1 = o)) = none)
    (high : (latchedPairs.find? fun x => decide (x.1 = b) && decide (x.2.1 + 4 = o)) = none)
    (value : (p.requested a.req).voteAll.readBlock b o = some v) :
    readRow a p = .next ((if a.req = .sideband then (p.requested a.req).voteAll
      else (p.requested a.req).voteAll.clearRead b o).gave v) := by
  refine readRow_of ((regRead_block fine vf bar2 place plain).trans ?_)
  rw [low, high, value]

theorem readRow_high {p : State} {b : Block} {o : Nat} {x : Block × Nat × BitVec 32}
    (fine : (p.requested a.req).voteAll.busError a = none) (vf : a.vf = none) (bar2 : a.bar2 = none)
    (place : blockAt a.off = some (b, o)) (plain : NotClaim b o)
    (low : (latchedPairs.find? fun x => decide (x.1 = b) && decide (x.2.1 = o)) = none)
    (high : (latchedPairs.find? fun x => decide (x.1 = b) && decide (x.2.1 + 4 = o)) = some x) :
    readRow a p = .next ((p.requested a.req).voteAll.gave ((p.requested a.req).voteAll.latch a.req a.off x.2.2)) := by
  refine readRow_of ((regRead_block fine vf bar2 place plain).trans ?_)
  rw [low, high]

theorem readRow_low {p : State} {b : Block} {o : Nat} {x : Block × Nat × BitVec 32}
    (fine : (p.requested a.req).voteAll.busError a = none) (vf : a.vf = none) (bar2 : a.bar2 = none)
    (place : blockAt a.off = some (b, o)) (plain : NotClaim b o)
    (low : (latchedPairs.find? fun x => decide (x.1 = b) && decide (x.2.1 = o)) = some x)
    (value : (p.requested a.req).voteAll.readBlock b o = some v) :
    readRow a p = .next (((p.requested a.req).voteAll.setLatch a.req (a.off + 4)
      (((p.requested a.req).voteAll.readBlock b (o + 4)).getD 0)).gave v) := by
  refine readRow_of ((regRead_block fine vf bar2 place plain).trans ?_)
  rw [low, value]
end Read

/-- Settles O47: by the bus error of the access, and by what it names. -/
theorem registerAccess : Obligations.RegisterAccess := by
  refine ⟨fun a v p => ?_, fun a p => ?_⟩
  · intro s
    refine ⟨fun b o fine vf bar2 place => ?_, fun f fine vf => ?_, fun f fine vf bar2 => ?_, fun k error => ?_⟩
    · exact (writeRow_block fine vf bar2 place : execRegisterWrite a v p = _)
    · exact (writeRow_of (regWrite_vf fine vf) : execRegisterWrite a v p = _)
    · exact (writeRow_of (regWrite_bar2 fine vf bar2) : execRegisterWrite a v p = _)
    · exact (writeRow_of (regWrite_error error) : execRegisterWrite a v p = _)
  · intro u
    refine ⟨fun f fine vf => ?_, fun f v fine vf bar2 value => ?_, fun b o v fine vf bar2 place plain low high value => ?_,
      fun b o x fine vf bar2 place plain low high => ?_, fun b o v x fine vf bar2 place plain low value => ?_,
      fun k error => ?_⟩
    · exact (readRow_of (regRead_vf fine vf) : execRcRegisterRead a p = _)
    · exact (readRow_of ((regRead_bar2 fine vf bar2).trans (congrArg (·, u) value)) : execRcRegisterRead a p = _)
    · exact (readRow_plain fine vf bar2 place plain low high value : execRcRegisterRead a p = _)
    · exact (readRow_high fine vf bar2 place plain low high : execRcRegisterRead a p = _)
    · exact (readRow_low fine vf bar2 place plain low value : execLatchedLowRead a p = _)
    · exact ⟨(readRow_error error : execRcRegisterRead a p = _), (readRow_error error : execLatchedLowRead a p = _)⟩
end Sys2Proof.Proofs
end

section
/-!
The interrupt controller and the utility DMA (O43).
-/
namespace Sys2Proof.Proofs
open Sys2Proof.Machine

/-! ### Offsets of the two blocks -/

theorem blockAt_ic {o : Nat} (h : o < 0x10000) : blockAt (0x10000 + o) = some (.ic, o) := by
  have below : ∀ n : Nat, n ≤ 0x10000 → ¬ (0x10000 + o < n) := fun n hn => by omega
  have inside : 0x10000 + o < 0x10000 + 0x10000 := by omega
  simp [blockAt, blockMap, below, inside]

theorem blockAt_dma {o : Nat} (h : o < 0x1000) : blockAt (0x20000 + o) = some (.dma, o) := by
  have below : ∀ n : Nat, n ≤ 0x20000 → ¬ (0x20000 + o < n) := fun n hn => by omega
  have inside : 0x20000 + o < 0x20000 + 0x1000 := by omega
  simp [blockAt, blockMap, below, inside]

/-! ### Registers of the interrupt controller -/

section
variable {req : Requester} {v : BitVec 32} {p : State}

theorem writeBlock_ic {s : State} {o : Nat} : s.writeBlock req .ic o v = s.writeIc o v := rfl

theorem writeBlock_dma {s : State} {o : Nat} : s.writeBlock req .dma o v = s.writeDma req o v := rfl

/-- A write of a register of the interrupt controller. -/
theorem writeRow_ic {off o : Nat} (place : off = 0x10000 + o) (within : o < 0x10000)
    (fine : (p.requested req).busError (at32 req off) = none) :
    writeRow (at32 req off) v p = .next ((p.requested req).writeIc o v).wrote := by
  subst place
  rw [writeRow_block (a := at32 req (0x10000 + o)) fine rfl rfl (blockAt_ic within), writeBlock_ic]
  rfl

/-- A write of a register of the utility DMA. -/
theorem writeRow_dma {off o : Nat} (place : off = 0x20000 + o) (within : o < 0x1000)
    (fine : (p.requested req).busError (at32 req off) = none) :
    writeRow (at32 req off) v p = .next ((p.requested req).writeDma req o v).wrote := by
  subst place
  rw [writeRow_block (a := at32 req (0x20000 + o)) fine rfl rfl (blockAt_dma within), writeBlock_dma]
  rfl

theorem writeIc_complete {s : State} (t : Fin 5) :
    s.writeIc (0x60 + 4 * t.val) v = (s.onIc (Ic.onTarget t.val fun g => { g with complete := v })).endService t.val v.toNat := by
  have other : ¬ (0x20 ≤ 0x60 + 4 * t.val ∧ 0x60 + 4 * t.val < 0x34) := by omega
  have this : 0x60 ≤ 0x60 + 4 * t.val ∧ 0x60 + 4 * t.val < 0x74 := by omega
  have index : (0x60 + 4 * t.val - 0x60) / 4 = t.val := by omega
  unfold State.writeIc
  simp only [if_neg other, if_pos this, index]

theorem writeIc_source {s : State} {n : Nat} (least : 1 ≤ n) (most : n ≤ 1019) :
    s.writeIc (0x1000 + 4 * n) v = s.writeSrcCfg n v := by
  have notCount : ¬ (0x20 ≤ 0x1000 + 4 * n ∧ 0x1000 + 4 * n < 0x34) := by omega
  have notComplete : ¬ (0x60 ≤ 0x1000 + 4 * n ∧ 0x1000 + 4 * n < 0x74) := by omega
  have notEnable : ¬ (0x200 ≤ 0x1000 + 4 * n ∧ 0x1000 + 4 * n < 0x280) := by omega
  have this : 0x1004 ≤ 0x1000 + 4 * n ∧ 0x1000 + 4 * n ≤ 0x1000 + 4 * 1019 := by omega
  have index : (0x1000 + 4 * n - 0x1000) / 4 = n := by omega
  unfold State.writeIc
  simp only [if_neg notCount, if_neg notComplete, if_neg notEnable, if_pos this, index]

theorem writeDma_control {s : State} (c : Fin 16) :
    s.writeDma req (0x14 + 64 * c.val) v = s.writeDmaCtrl c.val v := by
  have channel : 0x14 + 64 * c.val < 0x400 := by omega
  have index : (0x14 + 64 * c.val) / 64 = c.val := by omega
  have register : (0x14 + 64 * c.val) % 64 = 0x14 := by omega
  unfold State.writeDma
  simp only [if_pos channel, index, register]

theorem readRow_claim {t : Fin 5}
    (fine : (p.requested req).voteAll.busError (at32 req (0x10040 + 4 * t.val)) = none) :
    readRow (at32 req (0x10040 + 4 * t.val)) p =
      .next (((p.requested req).voteAll.claim t.val).2.gave ((p.requested req).voteAll.claim t.val).1) := by
  have off : 0x10040 + 4 * t.val = 0x10000 + (0x40 + 4 * t.val) := by omega
  have index : (0x40 + 4 * t.val - 0x40) / 4 = t.val := by omega
  rw [off] at fine ⊢
  have e := regRead_claim (s := p.requested req) (a := at32 req (0x10000 + (0x40 + 4 * t.val))) fine rfl rfl
    (blockAt_ic (by omega)) (by omega) (by omega)
  rw [index] at e
  exact readRow_of e

/-- A register of the interrupt controller is in no latched pair. -/
theorem latchedPairs_ic (r : Block × Nat × BitVec 32 → Bool) :
    (latchedPairs.find? fun x => decide (x.1 = .ic) && r x) = none := by
  simp [latchedPairs]

/-- A read of the interrupt controller beyond its single registers. -/
theorem clearRead_ic {s : State} {o : Nat} (beyond : 0x100 ≤ o) :
    s.clearRead .ic o = if 0x100 ≤ o ∧ o < 0x180 then s.pendRead ((o - 0x100) / 4) else s := by
  obtain ⟨n, rfl⟩ := Nat.exists_eq_add_of_le' beyond
  rfl

theorem readRow_pending {w : Fin 32} {x : BitVec 32}
    (fine : (p.requested req).voteAll.busError (at32 req (0x10100 + 4 * w.val)) = none) (inBand : req ≠ .sideband)
    (value : (p.requested req).voteAll.readIc (0x100 + 4 * w.val) = some x) :
    readRow (at32 req (0x10100 + 4 * w.val)) p = .next (((p.requested req).voteAll.pendRead w.val).gave x) := by
  have off : 0x10100 + 4 * w.val = 0x10000 + (0x100 + 4 * w.val) := by omega
  have notClaim : ¬ (0x40 ≤ 0x100 + 4 * w.val ∧ 0x100 + 4 * w.val < 0x54) := by omega
  have this : 0x100 ≤ 0x100 + 4 * w.val ∧ 0x100 + 4 * w.val < 0x180 := by omega
  have index : (0x100 + 4 * w.val - 0x100) / 4 = w.val := by omega
  have clears : ∀ s : State, s.clearRead .ic (0x100 + 4 * w.val) = s.pendRead w.val := fun s => by
    exact (clearRead_ic (by omega)).trans ((if_pos this).trans (by rw [index]))
  rw [off] at fine ⊢
  refine (readRow_plain (a := at32 req (0x10000 + (0x100 + 4 * w.val))) fine rfl rfl (blockAt_ic (by omega))
    (fun _ => .inr (by omega)) (latchedPairs_ic _) (latchedPairs_ic _) ((if_neg notClaim).trans value)).trans ?_
  show Host.Outcome.next (State.gave x (if req = .sideband then _ else _)) = _
  rw [if_neg inBand, clears]
  rfl
end

/-! ### The utility DMA -/

theorem execDmaReadComplete_other {c : Fin 16} {bad : Bool} {s : State}
    (other : s.dmaNext ≠ some c.val ∨ gaChip (s.dmaCh c.val).src ≠ s.fab.chip) :
    execDmaReadComplete c bad s = finish s :=
  if_neg fun both => other.elim (· both.1) (· both.2)

theorem execDmaWriteResponse_ends {c : Fin 16} {s : State} {w : Nat × Nat} {ws : List (Nat × Nat)}
    (busy : (s.dmaCh c.val).state = 1) (here : gaChip (s.dmaCh c.val).dst = s.fab.chip)
    (plain : gaSpace (s.dmaCh c.val).dst ≠ 5) (waits : (s.dmaCh c.val).waiting = w :: ws) :
    execDmaWriteResponse c s = finish (s.dmaAck c.val w) := by
  have goes : ¬ ((s.dmaCh c.val).state ≠ 1 ∨ gaChip (s.dmaCh c.val).dst ≠ s.fab.chip) :=
    fun either => either.elim (· busy) (· here)
  refine (if_neg goes).trans ?_
  simp only [waits]
  exact if_pos plain

/-- Settles O43: events by what they find due, register accesses by the offset of the register. -/
theorem interruptDelivery : Obligations.InterruptDelivery := by
  refine ⟨fun s => ⟨fun n level least most wired => ?_, fun t tick => rfl, rfl, fun v tick held time due => ?_,
      fun v within => ?_, fun c bad => ?_, fun c w ws busy here plain waits => ?_⟩,
    fun req v p => ⟨fun t fine => ?_, fun t fine => ?_, fun fine => ?_, fun w x fine inBand value => ?_, fun fine => ?_,
      fun fine => ?_, fun n least most fine => ?_, fun c fine => ?_⟩⟩
  · exact (if_pos ⟨least, most, wired⟩ : execSourceAssert n level s = _)
  · exact (if_pos ⟨held, time, due⟩ : execVectorModerationTimeout v tick s = _)
  · exact (if_pos within : execMsixVectorUnmask v s = _)
  · intro reads turn
    have e : s.dmaNext = turn := rfl
    exact ⟨fun next here => (if_pos ⟨e.trans next, here⟩ : execDmaReadComplete c bad s = _),
      fun other => (execDmaReadComplete_other (other.imp_left (e ▸ ·)) : execDmaReadComplete c bad s = _)⟩
  · exact (execDmaWriteResponse_ends busy here plain waits : execDmaWriteResponse c s = _)
  · exact (readRow_claim fine : execIcClaimRead req t p = _)
  · refine (writeRow_ic (o := 0x60 + 4 * t.val) (by omega) (by omega) fine : execIcCompleteWrite req t v p = _).trans ?_
    rw [writeIc_complete]
  · exact (writeRow_ic (o := 0xA0) rfl (by decide) fine : execIcGwAckWrite req v p = _)
  · exact (readRow_pending fine inBand value : execIcPendRead req w p = _)
  · exact (writeRow_ic (o := 0x10) rfl (by decide) fine : execIcDoorbellWrite req false v p = _)
  · exact (writeRow_ic (o := 0x14) rfl (by decide) fine : execIcDoorbellWrite req true v p = _)
  · show writeRow (at32 req (0x11000 + 4 * (n % 1024))) v p = _
    rw [Nat.mod_eq_of_lt (by omega : n < 1024), writeRow_ic (o := 0x1000 + 4 * n) (by omega) (by omega) fine,
      writeIc_source least most]
  · have e : writeRow (at32 req (0x20014 + 64 * c.val)) v p = .next ((p.requested req).writeDmaCtrl c.val v).wrote := by
      rw [writeRow_dma (o := 0x14 + 64 * c.val) (by omega) (by omega) fine, writeDma_control]
    exact ⟨(e : execDmaGo req c v p = _), (e : execDmaAbort req c v p = _)⟩
end Sys2Proof.Proofs
end

section
/-!
Thermal scans, power readings and clocks (O44).
-/
namespace Sys2Proof.Proofs
open Sys2Proof.Machine

section
variable {s : State}

/-- What a thermal scan leaves of its readings (R443, R444). -/
def scanned (hot cool : Int) (power : BitVec 32) (u : State) : State :=
  let below := decide (hot < (u.pwr.thermUp.toNat : Int) * 16) && decide (power.toNat * 20 < u.pwr.limit.toNat * 1000 * 19)
  u.onPwr fun p => { p with
    junctionMax := hot, junctionMin := cool, power := power
    scans := (u.uptime, hot, power.toNat) :: keptScans u.scansFrom p.scans
    belowSince := if below then some (p.belowSince.getD u.uptime) else none }

theorem execThermalScan_powered {tick : Nat} {hot cool : Int} {power : BitVec 32}
    (powered : (s.at_ tick).pins.powered = true) :
    execThermalScan tick hot cool power s =
      if 1840 ≤ hot ∧ (scanned hot cool power (s.at_ tick)).pins.thermtripN = true then
        close (scanned hot cool power (s.at_ tick)).trip
      else finish (scanned hot cool power (s.at_ tick)) :=
  if_neg (by rw [powered]; exact Bool.false_ne_true)

theorem execThermalCapRaise_calm {tick t : Nat} (below : (s.at_ tick).pwr.belowSince = some t)
    (long : t + 100000000 ≤ (s.at_ tick).uptime)
    (free : ∀ x, (s.at_ tick).pwr.lastUp = some x → x + 100000000 ≤ (s.at_ tick).uptime) (least : (s.at_ tick).pwr.cap < 7) :
    execThermalCapRaise tick s = finish ((s.at_ tick).onPwr fun p => { p with
      cap := p.cap + 1, lastUp := some (s.at_ tick).uptime }).tunePll :=
  if_pos ⟨any_due below long, all_due free, least⟩

/-- The load that a calibration takes from a rail current. -/
theorem calDie_eq (i : BitVec 32) (d : CalDie) :
    (if (d.named && !d.ended) = true then { d with loadNow := larger d.loadNow i } else d) =
      if d.named = true ∧ d.ended = false then { d with loadNow := larger d.loadNow i } else d :=
  ite_and_not _ _ _ _

theorem execRailCurrentRead_runs {w e : BitVec 32} (runs : s.coreRuns = true) :
    execRailCurrentRead w e s = finish (s.onPwr fun p => { p with
      curW := w, curE := e
      cal := p.cal.map fun c => { c with
        west := if c.west.named = true ∧ c.west.ended = false then { c.west with loadNow := larger c.west.loadNow w } else c.west
        east := if c.east.named = true ∧ c.east.ended = false then { c.east with loadNow := larger c.east.loadNow e }
          else c.east } }) := by
  refine (if_neg (by rw [runs]; exact Bool.false_ne_true)).trans ?_
  simp only [calDie_eq]

theorem execMarginTrip_runs {west east : Bool} (trips : west = true ∨ east = true) (runs : s.coreRuns = true)
    (going : s.hlt.halted = false) :
    execMarginTrip west east s = finish (
      let dies : BitVec 2 := flag 2 0 west ||| flag 2 1 east
      let u := s.onPwr fun p => { p with episode := some (p.episode.getD 0 ||| dies) }
      if u.step.playing then u.onStep fun g => { g with trouble := g.trouble ||| dies } else u) := by
  have some_ : (flag 2 0 west ||| flag 2 1 east : BitVec 2) ≠ 0 := by
    revert trips
    cases west <;> cases east <;> decide
  refine if_neg ?_
  rw [runs, going]
  exact fun either => either.elim some_ (by decide)

theorem execStretchEnd_episode {cycles : Nat} {dies : BitVec 2} (episode : s.pwr.episode = some dies) :
    execStretchEnd cycles s = finish ((s.onPwr fun p => { p with
      episode := none
      tripsW := if dies.getLsbD 0 then satInc p.tripsW else p.tripsW
      tripsE := if dies.getLsbD 1 then satInc p.tripsE else p.tripsE }).stretchedBy cycles) := by
  unfold execStretchEnd
  rw [episode]

theorem ite_or_decide {α : Sort*} {p : Prop} [Decidable p] (a b : Bool) (x y : α) :
    (if ((decide p || a) && !b) = true then x else y) = if (p ∨ a = true) ∧ b = false then x else y := by
  by_cases h : p <;> cases a <;> cases b <;> simp [h]

theorem execPllSlip_locked {pll : Pll} (locked : s.pwr.clk.getLsbD (pllBit pll) = true) :
    execPllSlip pll s = finish (
      let u := (s.onPwr fun p => { p with clk := p.clk &&& ~~~ (bit 9 (pllBit pll)) }).raisePwr 6
      let v := if u.isStandbyPll pll = true then u.onPwr fun p => { p with standbyLocked := false } else u
      if (pll = .timebase ∨ v.isActivePll pll = true) ∧ v.unarmed = false then v.withdraw else v) := by
  refine (if_neg (by rw [locked]; exact Bool.false_ne_true)).trans ?_
  exact congrArg finish (ite_or_decide _ _ _ _)

/-- What follows from an oscillator that fails, by its source (R440). -/
def clockLost (src : ClockSrc) (u : State) : Out := match src with
  | .xtal => finish u
  | .hostRef => close u.linkDown
  | .fabricRef => close (if u.unarmed then u else u.withdraw)

section Clock
variable {src : ClockSrc} {n : Nat} (release : s.cfg.inPulse = false) (powered : s.pins.powered = true)
include release powered

theorem execClockQualification_judged :
    execClockQualification src n s =
      if qualified src n then finish (s.onPwr fun p => { p with clk := p.clk ||| bit 9 (srcBit src) })
      else
        let u := s.onPwr fun p => { p with clk := p.clk &&& ~~~ (bit 9 (srcBit src)) }
        if s.cfg.stage.toNat ≤ 2 then finish u else clockLost src (u.raisePwr 5) := by
  refine (if_neg ?_).trans rfl
  rw [release, powered]
  decide

theorem execClockQualification_fails (fails : qualified src n = false) :
    execClockQualification src n s =
      let u := s.onPwr fun p => { p with clk := p.clk &&& ~~~ (bit 9 (srcBit src)) }
      if s.cfg.stage.toNat ≤ 2 then finish u else clockLost src (u.raisePwr 5) := by
  rw [execClockQualification_judged release powered, fails]
  rfl
end Clock

theorem execUnarmedOpTick_runs {w e : Bool} {tick : Nat} (unarmed : (s.at_ tick).unarmed = true)
    (runs : (s.at_ tick).coreRuns = true) (going : (s.at_ tick).hlt.halted = false) :
    execUnarmedOpTick w e tick s = finish (
      let u := (s.at_ tick).sequence w e
      if u.pwr.transition.isSome then u else u.commandVolts u.pwr.inForce) := by
  refine if_neg ?_
  rw [unarmed, runs, going]
  decide
end

/-- Settles O44: by the reading or the event, and by what runs. -/
theorem thermalAndClockEvents : Obligations.ThermalAndClockEvents := by
  refine ⟨fun tick s => ⟨fun hot cool power powered => ?_, fun t below long free least => ?_⟩,
    fun s => ⟨fun w e runs => ?_, fun west east trips runs going => ?_, fun cycles dies episode => ?_, fun pll => ?_,
      fun pll locked => ?_, fun src n release powered good => ?_, fun src n release powered fails => ?_,
      fun w e tick unarmed runs going => ?_⟩⟩
  · intro u below v
    have scan : execThermalScan tick hot cool power s =
        if 1840 ≤ hot ∧ v.pins.thermtripN = true then close v.trip else finish v := execThermalScan_powered powered
    exact ⟨fun cooler => scan.trans (if_neg fun both => absurd both.1 (Int.not_le.2 cooler)),
      fun hotter pin => scan.trans (if_pos ⟨hotter, pin⟩)⟩
  · exact (execThermalCapRaise_calm below long free least : execThermalCapRaise tick s = _)
  · exact (execRailCurrentRead_runs runs : execRailCurrentRead w e s = _)
  · exact (execMarginTrip_runs trips runs going : execMarginTrip west east s = _)
  · exact (execStretchEnd_episode episode : execStretchEnd cycles s = _)
  · rfl
  · exact (execPllSlip_locked locked : execPllSlip pll s = _)
  · exact ((execClockQualification_judged release powered).trans (if_pos good) : execClockQualification src n s = _)
  · intro u v
    have judged : execClockQualification src n s = _ := execClockQualification_fails release powered fails
    refine ⟨fun early => judged.trans (if_pos early), fun late => ⟨fun which => ?_, fun which => ?_, fun which => ?_⟩⟩
    · subst which
      exact judged.trans (if_neg (Nat.not_le.2 late))
    · subst which
      exact judged.trans (if_neg (Nat.not_le.2 late))
    · subst which
      exact judged.trans (if_neg (Nat.not_le.2 late))
  · exact (execUnarmedOpTick_runs unarmed runs going : execUnarmedOpTick w e tick s = _)
end Sys2Proof.Proofs
end

section
/-!
The events and registers that guard the chip (O45).
-/
namespace Sys2Proof.Proofs
open Sys2Proof.Machine

section Events
variable {s : State}

/-- The silence of a core: one that wrote, or is not out of reset, has none. -/
theorem ite_or_not_runs {α : Sort*} (a : Bool) (x : BitVec 3) (y z : α) :
    (if (a || !decide (x ≠ 0)) = true then y else z) = if a = true ∨ x = 0 then y else z := by
  by_cases h : x = 0 <;> cases a <;> simp [h]

theorem execFirmwareSramUncorrectable_late (release : s.cfg.inPulse = false) (late : 3 < s.cfg.stage.toNat) :
    execFirmwareSramUncorrectable s = close ((s.onMgt fun m => { m with fwSramBad := true }).halt 0x04 0x04 true) := by
  refine if_neg fun either => ?_
  rcases either with pulse | early
  · exact absurd (release.symm.trans pulse) Bool.false_ne_true
  · exact absurd early (Nat.not_le.2 late)

theorem execCalibrationStoreWriteDone_ok {record : StoreRec} {x : StoreRec × List (BitVec 8) × Option (BitVec 32)}
    (found : (s.store.writing.find? fun x => decide (x.1 = record)) = some x) (other : record ≠ .calSet) :
    execCalibrationStoreWriteDone record true s = finish ((s.onStore fun t => { t with
      writing := t.writing.erase x }).storeWrite record x.2.1) := by
  unfold execCalibrationStoreWriteDone
  simp only [found]
  exact if_neg other

theorem execPwrfail_unarmed {tick : Nat} (first : (s.at_ tick).hlt.pwrfail = false) (powered : (s.at_ tick).pins.powered = true)
    (cool : (s.at_ tick).hlt.haltCause ≠ 2) (release : (s.at_ tick).cfg.inPulse = false) (stage : (s.at_ tick).cfg.stage = 8)
    (unarmed : (s.at_ tick).unarmed = true) :
    execPwrfail tick s = close (((s.at_ tick).onHlt fun h => { h with
      pwrfail := true, pwrfailPending := true }).raiseHlt 6).quiesce := by
  refine (if_neg ?_).trans ((if_neg ?_).trans (if_pos (.inl unarmed)))
  · rw [first, powered]
    exact fun either => either.elim (by decide) (·.elim (by decide) cool)
  · rw [release]
    exact fun either => either.elim (by decide) (· stage)
end Events

section Registers
variable {req : Requester} {v : BitVec 32} {s : State}

/-- A write of a register of the register space, by its offset. -/
theorem writeRow_at {p : State} {off : Nat} {b : Block} {o : Nat}
    (fine : (p.requested req).busError (at32 req off) = none) (place : blockAt off = some (b, o)) :
    writeRow (at32 req off) v p = .next ((p.requested req).writeBlock req b o v).wrote :=
  writeRow_block (a := at32 req off) fine rfl rfl place

theorem writeBlock_pend (i : Fin 12) : s.writeBlock req .grid (0x40 + 4 * i.val) v = s.writePend i.val v := by
  fin_cases i <;> rfl

theorem blockAt_pend (i : Fin 12) : blockAt (0x1140 + 4 * i.val) = some (.grid, 0x40 + 4 * i.val) := by
  revert i
  decide

theorem writeMgt_beat (c : Fin 5) : s.writeBlock req .mgt (0x04 + 4 * c.val) v = s.writeBeat c.val v := by
  fin_cases c <;> rfl

theorem blockAt_beat (c : Fin 5) : blockAt (0x21004 + 4 * c.val) = some (.mgt, 0x04 + 4 * c.val) := by
  revert c
  decide

theorem writeFloor_open (unlocked : s.sys.lock.value.getLsbD 3 = false) (higher : s.mgt.fwFloor.toNat < v.toNat) :
    s.writeFloor v = ((s.onMgt fun m => { m with fwFloor := v }).storeWrite .floor (bvBytes 4 v)).raiseMgt 1 := by
  refine if_neg fun either => ?_
  rcases either with locked | lower
  · exact absurd (unlocked.symm.trans locked) Bool.false_ne_true
  · exact absurd lower (Nat.not_le.2 higher)

/-- The bytes of a number that fits in them name it. -/
theorem leNat_leBytes_of_lt (n x : Nat) (fits : x < 256 ^ n) : leNat (leBytes n x) = x := by
  induction n generalizing x with
  | zero => exact (Nat.lt_one_iff.1 fits).symm
  | succ n ih =>
    have rest : x / 256 < 256 ^ n := Nat.div_lt_of_lt_mul (by rwa [Nat.mul_comm, ← Nat.pow_succ])
    rw [leBytes, leNat, ih _ rest, BitVec.toNat_ofNat]
    exact Nat.mod_add_div x 256

/-- A word of four bytes names its number. -/
theorem leNat_bvBytes (v : BitVec 32) : BitVec.ofNat 32 (leNat (bvBytes 4 v)) = v := by
  rw [bvBytes, leNat_leBytes_of_lt 4 _ v.isLt, BitVec.ofNat_toNat, BitVec.setWidth_eq]

/-- An aligned store of a word into the register window is a register write. -/
theorem coreStore_register {c : Fin 5} {off : Nat} (within : off + 4 ≤ 0x04000000)
    (permits : s.mgt.permits c 1 (0x10000000 + off) 4 = true) :
    s.coreStore c (0x10000000 + off) (bvBytes 4 v) false =
      let r := (s.wakeCore c.val).regWrite { req := coreRequester c, bar2 := none, off := off, whole := true } v
      ((if r.1 = true then .ok [] else .fault), r.2) := by
  have region : (s.wakeCore c.val).mgt.region c (0x10000000 + off) 4 = .registers off := by
    unfold Mgt.region
    have rom : (decide (0 ≤ 0x10000000 + off) && decide (0x10000000 + off + 4 ≤ 0 + 0x20000)) = false := by
      simp only [Bool.and_eq_false_iff, decide_eq_false_iff_not]
      omega
    have sram : (decide (0x08000000 ≤ 0x10000000 + off) && decide (0x10000000 + off + 4 ≤ 0x08000000 + 0x01000000)) = false := by
      simp only [Bool.and_eq_false_iff, decide_eq_false_iff_not]
      omega
    have this : (decide (0x10000000 ≤ 0x10000000 + off) && decide (0x10000000 + off + 4 ≤ 0x10000000 + 0x04000000)) = true := by
      simp only [Bool.and_eq_true, decide_eq_true_eq]
      omega
    simp only [rom, sram, this, Bool.false_eq_true, if_false, if_true, Nat.add_sub_cancel_left]
  have allowed : (s.wakeCore c.val).mgt.permits c 1 (0x10000000 + off) 4 = true := permits
  unfold State.coreStore
  simp only [bvBytes_len, allowed, region, leNat_bvBytes, Bool.not_true, Bool.false_eq_true, if_false]
  rfl
end Registers

/-- Settles O45: events by their conditions, register writes by the offset of the register. -/
theorem guardRing : Obligations.GuardRing := by
  refine ⟨fun s => ⟨fun us => rfl, ?_, fun release late => ?_, fun record x found other => ?_,
      fun tick first powered cool release stage unarmed => ?_⟩,
    fun req v p => ⟨fun i fine => ?_, fun fine => ?_, fun fine => ?_, fun fine => ?_, fun fine => ?_, fun fine => ?_,
      fun fine => ?_, fun fine => ?_, fun fine unlocked higher => ?_, fun c fine => ?_, fun c off within permits => ?_,
      fun fine => ?_⟩⟩
  · show execHeartbeatInterval s = _
    unfold execHeartbeatInterval
    simp only [ite_or_not_runs]
    exact (apply_ite Host.Outcome.next _ _ _).symm
  · exact (execFirmwareSramUncorrectable_late release late : execFirmwareSramUncorrectable s = _)
  · exact (execCalibrationStoreWriteDone_ok found other : execCalibrationStoreWriteDone record true s = _)
  · exact (execPwrfail_unarmed first powered cool release stage unarmed : execPwrfail tick s = _)
  · refine (writeRow_at fine (blockAt_pend i) : execGridPendWrite req i v p = _).trans ?_
    rw [writeBlock_pend]
  · exact (writeRow_at fine (b := .grid) (o := 0x80) (by decide) : execGridCellSelWrite req v p = _)
  · exact (writeRow_at fine (b := .grid) (o := 0x08) (by decide) : execGridLockWrite req v p = _)
  · exact (writeRow_at fine (b := .arith) (o := 0x00) (by decide) : execArithCtrlWrite req v p = _)
  · exact (writeRow_at fine (b := .sys) (o := 0x04) (by decide) : execSysClkEnWrite req v p = _)
  · exact (writeRow_at fine (b := .sys) (o := 0x08) (by decide) : execSysLockWrite req v p = _)
  · exact (writeRow_at fine (b := .pwr) (o := 0x08) (by decide) : execPwrOpReqWrite req v p = _)
  · exact (writeRow_at fine (b := .pwr) (o := 0x04) (by decide) : execPwrOpLimitsWrite req v p = _)
  · exact (writeRow_at fine (b := .mgt) (o := 0x20) (by decide) : execMgtFwFloorWrite req v p = _).trans
      (congrArg (fun t => Host.Outcome.next (State.wrote t)) (writeFloor_open unlocked higher))
  · refine (writeRow_at fine (blockAt_beat c) : execHeartbeatWrite req c v p = _).trans ?_
    rw [writeMgt_beat]
    rfl
  · exact coreStore_register within permits
  · exact (writeRow_at fine (b := .rst) (o := 0x04) (by decide) : execRstCtrlReset req v p = _)
end Sys2Proof.Proofs
end

section
/-!
Power, reset and the stages of the boot (O46).
-/
namespace Sys2Proof.Proofs
open Sys2Proof.Machine

section Power
variable {s : State}

/-- The reset that a loss of power leaves, the auxiliary rail apart (R458, R460). -/
def powerLost (s : State) : State :=
  ((s.drawn.enterReset 1 false).onPins fun p => { p with
    powered := false, jtagInstr := 0, trstN := false, boundary := 0 }).onCfg fun c => { c with
    inPulse := false, pwrStop := false }

theorem execPowerRemoved_powered (powered : s.pins.powered = true) :
    execPowerRemoved s = finish (if (s.free 1 : BitVec 1) = 1 then powerLost s else (powerLost s).auxDown) := by
  unfold execPowerRemoved
  simp only [powered, if_true, decide_eq_true_eq]
  rfl

theorem execPowerRemoved_unpowered (dark : s.pins.powered = false) :
    execPowerRemoved s = if s.pins.aux then finish s.auxDown else .next s :=
  if_neg (by rw [dark]; exact Bool.false_ne_true)

theorem execPowerOn_unpowered {tick : Nat} (dark : s.pins.powered = false) :
    execPowerOn tick s = finish (
      let u := (s.enterReset 1 false).onPins fun p => { p with powered := true, aux := true, resetN := true, thermtripN := true }
      (u.onCfg fun c => { c with strap := u.pins.strapPins, pwrStop := false }).at_ tick) :=
  if_neg (by rw [dark]; exact Bool.false_ne_true)

theorem execResetNAssert_powered {tick : Nat} (powered : s.pins.powered = true) :
    execResetNAssert tick s = finish (((s.at_ tick).enterReset 2 s.cfg.retain).onPins fun p => { p with
      resetN := false, thermtripN := true }) :=
  if_neg (by rw [powered]; exact Bool.false_ne_true)

theorem execResetNRelease_low {strap : BitVec 8} {tick : Nat} (powered : s.pins.powered = true)
    (low : s.pins.resetN = false) :
    execResetNRelease strap tick s = finish ((((s.at_ tick).debugRelease.onPins fun p => { p with
      resetN := true, strapPins := strap }).onCfg fun c => { c with strap := strap }).released) := by
  refine if_neg ?_
  rw [powered, low]
  decide

theorem execResetPulseEnd_pulse {tick : Nat} (powered : s.pins.powered = true) (pulse : s.cfg.inPulse = true) :
    execResetPulseEnd tick s = finish (((s.at_ tick).onCfg fun c => { c with
      inPulse := false
      strap := if (s.at_ tick).pins.resetN = true then (s.at_ tick).pins.strapPins else c.strap }).released) := by
  refine if_neg ?_
  rw [powered, pulse]
  decide
end Power

section Boot
variable {r : BootReport} {s : State}

/-- The work of a stage of the boot (R466). -/
def stageWork (r : BootReport) (stage : Nat) (s : State) : State :=
  match stage with
  | 1 => s.stageAux r
  | 2 => s.stageClocks r
  | 3 => s.stageRom r
  | 4 => s.stageFirmware
  | 5 => s.stageHost
  | 6 => s.stageMemory r
  | _ => s.stageDirectory r

/-- A boot in progress in a stage does the work of that stage. -/
theorem execBootStageDone_stage {k : Fin 7} (booting : (s.at_ r.tick).booting = true)
    (stage : (s.at_ r.tick).cfg.stage = BitVec.ofNat 8 (k.val + 1)) :
    execBootStageDone r s = close (stageWork r (k.val + 1) (s.at_ r.tick)) := by
  unfold execBootStageDone
  simp only [booting, stage, Bool.not_true, Bool.false_eq_true, if_false]
  fin_cases k <;> rfl
end Boot

/-- Settles O46: power and reset by the pins, the boot by the stage that it is in. -/
theorem resetAndBoot : Obligations.ResetAndBoot := by
  refine ⟨fun s => ⟨fun dark => ⟨fun tick => ?_, fun aux => ?_, fun aux => ?_⟩, fun powered => ?_, fun waits => ?_⟩,
    fun r s booting => ?_⟩
  · exact (execPowerOn_unpowered dark : execPowerOn tick s = _)
  · exact ((execPowerRemoved_unpowered dark).trans (if_pos aux) : execPowerRemoved s = _)
  · exact ((execPowerRemoved_unpowered dark).trans (if_neg (by rw [aux]; exact Bool.false_ne_true)) : execPowerRemoved s = _)
  · intro u
    have removed : execPowerRemoved s = _ := execPowerRemoved_powered powered
    refine ⟨fun stays => ?_, fun falls => ?_, fun tick => ?_, fun strap tick low => ?_, fun tick pulse => ?_⟩
    · exact removed.trans (congrArg finish (if_pos stays))
    · exact removed.trans (congrArg finish (if_neg falls))
    · exact (execResetNAssert_powered powered : execResetNAssert tick s = _)
    · exact (execResetNRelease_low powered low : execResetNRelease strap tick s = _)
    · exact (execResetPulseEnd_pulse powered pulse : execResetPulseEnd tick s = _)
  · exact (if_pos waits : execBootStageRetry s = _)
  · intro u
    exact ⟨fun stage => (execBootStageDone_stage (k := 0) booting stage : execBootStageDone r s = _),
      fun stage => (execBootStageDone_stage (k := 1) booting stage : execBootStageDone r s = _),
      fun stage => (execBootStageDone_stage (k := 2) booting stage : execBootStageDone r s = _),
      fun stage => (execBootStageDone_stage (k := 3) booting stage : execBootStageDone r s = _),
      fun stage => (execBootStageDone_stage (k := 4) booting stage : execBootStageDone r s = _),
      fun stage => (execBootStageDone_stage (k := 5) booting stage : execBootStageDone r s = _),
      fun stage => (execBootStageDone_stage (k := 6) booting stage : execBootStageDone r s = _)⟩
end Sys2Proof.Proofs
end

section
/-!
The registers of BAR2, the sideband and the test access port (O48).
-/
namespace Sys2Proof.Proofs
open Sys2Proof.Machine

section Queues
variable {f : BitVec 4} {v : BitVec 32} {s : State}

/-- A write of a register of BAR2. -/
theorem writeRow_bar2At {off : Nat} (fine : s.busError (bar2At f off) = none) :
    writeRow (bar2At f off) v s = .next (s.writeBar2 f.toNat off v).wrote := by
  rw [writeRow_of (a := bar2At f off) (p := s) (regWrite_bar2 (a := bar2At f off) fine rfl rfl)]
  rfl

theorem writeBar2_control (g : Nat) (q : Fin 8) : s.writeBar2 g (0x100 * q.val + 0x10) v = s.writeQueueCtrl g q.val v := by
  fin_cases q <;> rfl

theorem writeBar2_tail (g : Nat) (q : Fin 8) : s.writeBar2 g (0x100 * q.val + 0x18) v = s.writeTail g q.val v := by
  fin_cases q <;> rfl

theorem writeBar2_head (g : Nat) (q : Fin 8) : s.writeBar2 g (0x100 * q.val + 0x1C) v = s.writeHead g q.val v := by
  fin_cases q <;> rfl

theorem writeBar2_token (g : Nat) (n : Fin 1024) : s.writeBar2 g (0x1000 + 4 * n.val) v = s.writeToken g n.val v := by
  have within : 0x1000 ≤ 0x1000 + 4 * n.val ∧ 0x1000 + 4 * n.val < 0x2000 := by omega
  have index : (0x1000 + 4 * n.val - 0x1000) / 4 = n.val := by omega
  unfold State.writeBar2
  rw [if_pos within, index]
end Queues

section Sideband
variable {op : BitVec 8} {ok : Nat → Bool} {req : SbRequest} {act : State → State} {s : State}

/-- The state in which a request that is taken acts: what came before it is no longer read. -/
def sbTaken (s : State) : State := if s.sbPending then s else s.onPins fun p => { p with sbDue := none }

theorem sbPending_eq_false (due : ∀ d, s.pins.sbDue = some d → d.1 ≤ s.uptime) : s.sbPending = false := by
  unfold State.sbPending
  cases found : s.pins.sbDue with
  | none => rfl
  | some d => exact decide_eq_false (Nat.not_lt.2 (due d found))

theorem sbPending_eq_true {d : Nat × List (BitVec 8)} (found : s.pins.sbDue = some d) (early : s.uptime < d.1) :
    s.sbPending = true := by
  unfold State.sbPending
  rw [found]
  exact decide_eq_true early

theorem sbTaken_ready (ready : s.sbPending = false) : sbTaken s = s.onPins fun p => { p with sbDue := none } :=
  if_neg (by rw [ready]; exact Bool.false_ne_true)

/-- A request at another address, or without the auxiliary rail, is not answered. -/
theorem sideband_unheard (deaf : s.pins.aux = false ∨ req.addr ≠ s.sbAddress) : sideband op ok req act s = .next s :=
  if_pos (deaf.imp_left fun dark => by rw [dark]; rfl)

section Heard
variable (aux : s.pins.aux = true) (address : req.addr = s.sbAddress)
include aux address

theorem heard : ¬ ((!s.pins.aux) = true ∨ req.addr ≠ s.sbAddress) := by
  rw [aux]
  exact fun either => either.elim (by decide) (· address)

/-- A well-formed request acts. -/
theorem sideband_acts (ready : op = 3 ∨ s.sbPending = false) (command : byteAt req.bytes 0 = op)
    (some_ : req.bytes ≠ []) (length : ok req.bytes.length = true) :
    sideband op ok req act s = finish (act (sbTaken s)) := by
  refine (if_neg (heard aux address)).trans ((if_neg fun both => ?_).trans (if_neg ?_))
  · rcases ready with three | free
    · exact both.1 three
    · exact absurd (free.symm.trans both.2) Bool.false_ne_true
  · rw [command, length]
    exact fun either => either.elim (· rfl) (·.elim (fun none_ => some_ (List.isEmpty_iff.1 none_)) (by decide))

/-- A request of another length, or of another command, has no effect. -/
theorem sideband_malformed (ready : op = 3 ∨ s.sbPending = false)
    (bad : ¬ (ok req.bytes.length = true ∧ byteAt req.bytes 0 = op)) :
    sideband op ok req act s = finish ((sbTaken s).sbAnswer (if op = 1 then sbNoData 0x03 else [0x03])) := by
  refine (if_neg (heard aux address)).trans ((if_neg fun both => ?_).trans (if_pos ?_))
  · rcases ready with three | free
    · exact both.1 three
    · exact absurd (free.symm.trans both.2) Bool.false_ne_true
  · by_cases command : byteAt req.bytes 0 = op
    · refine .inr (.inr ?_)
      cases length : ok req.bytes.length
      · rfl
      · exact absurd ⟨length, command⟩ bad
    · exact .inl command

/-- A request before whose end another comes leaves that one unanswered. -/
theorem sideband_pending (other : op ≠ 3) (pending : s.sbPending = true) :
    sideband op ok req act s = finish (s.sbAnswer (if op = 1 then sbNoData 0x02 else [0x02])) :=
  (if_neg (heard aux address)).trans (if_pos ⟨other, pending⟩)
end Heard

theorem ne_nil_of_length {α : Type*} {l : List α} {n : Nat} (h : l.length = n + 1) : l ≠ [] := by
  rintro rfl
  exact absurd h (by simp)
end Sideband

/-- A mailbox write names between 1 and 32 bytes, and carries them. -/
def mailboxLength (b : List (BitVec 8)) (k : Nat) : Bool :=
  decide (k = (byteAt b 1).toNat + 2) && decide (1 ≤ (byteAt b 1).toNat) && decide ((byteAt b 1).toNat ≤ 32)

/-- A message reaches the mailbox where that is empty. -/
def mailboxPut (b : List (BitVec 8)) (s : State) : State :=
  if s.pins.sbIn.isSome then s.sbAnswer [0x04]
  else (s.onPins fun p => { p with sbIn := some (b.drop 2) }).sbAnswer [0]

theorem execSbMailboxWrite_eq (req : SbRequest) (s : State) :
    execSbMailboxWrite req s = sideband 4 (mailboxLength req.bytes) req (mailboxPut req.bytes) s := rfl

section Jtag
variable {i : JtagInstr} {s : State}

theorem jtagInForce_of_high (high : s.pins.trstN = true) (held : s.pins.jtagInstr = JtagCode i) :
    s.jtagInForce = if ((i = .extest ∨ i = .extestPulse ∨ i = .extestTrain) ∧ s.pins.resetN = true) ∨
      (i = .debugModule ∧ (s.pins.resetN = true ∨ s.sys.lock.value.getLsbD 0 = true)) then JtagCode .bypass
      else JtagCode i := by
  unfold State.jtagInForce
  rw [high, held]
  cases i <;> cases s.pins.resetN <;> cases s.sys.lock.value.getLsbD 0 <;> decide

theorem jtagInForce_of_low (low : s.pins.trstN = false) : s.jtagInForce = JtagCode .idcode :=
  if_pos (by rw [low]; rfl)

/-- What an instruction in force drives on the lanes. -/
def driveOf : JtagInstr → LaneDrive
  | .extest => .steady
  | .extestPulse => .pulse
  | .extestTrain => .train
  | _ => .own

theorem laneDrive_of (inForce : s.jtagInForce = JtagCode i) : s.laneDrive = driveOf i := by
  unfold State.laneDrive
  rw [inForce]
  cases i <;> rfl

/-- The outputs while the lanes are driven are those of the boundary register. -/
theorem level_of_driven (driven : s.laneDrive ≠ .own) :
    s.level .faultN = s.pins.boundary.getLsbD 0 ∧ s.level .thermtripN = s.pins.boundary.getLsbD 1 ∧
      s.level .flPerstN = s.pins.boundary.getLsbD 2 ∧ s.level .ddrResetN = s.pins.boundary.getLsbD 3 :=
  have scan := decide_eq_true driven
  ⟨if_pos scan, if_pos scan, if_pos scan, if_pos scan⟩
end Jtag

section I3c
variable {s : State}

/-- A common command that reaches the target. -/
theorem execI3cAddressAssignment_aux {c : I3cCommand} (aux : s.pins.aux = true) :
    execI3cAddressAssignment c s = finish (
      let assign (a : BitVec 7) (s : State) : State :=
        if s.pins.sbAddr.isSome then s else s.onPins fun p => { p with sbAddr := some a }
      let answer (n : Nat) (s : State) : State :=
        (s.onFreeCount (· + n)).sbAnswer ((List.range n).map fun i => Config.freeValue 8 (s.freeCount + i))
      match c with
      | .entdaa a => assign a s
      | .setdasa static a => if static = s.staticAddress then assign a s else s
      | .rstdaa => s.onPins fun p => { p with sbAddr := none }
      | .enec | .disec => s
      | .getbcr | .getdcr => answer 1 s
      | .getstatus => answer 2 s
      | .getpid => answer 6 s) :=
  if_neg (by rw [aux]; exact Bool.false_ne_true)

theorem execI3cAddressAssignment_entdaa {a : BitVec 7} (aux : s.pins.aux = true) :
    execI3cAddressAssignment (.entdaa a) s = finish (
      if s.pins.sbAddr.isSome then s else s.onPins fun p => { p with sbAddr := some a }) :=
  execI3cAddressAssignment_aux aux

theorem execI3cAddressAssignment_setdasa {x a : BitVec 7} (aux : s.pins.aux = true) :
    execI3cAddressAssignment (.setdasa x a) s = finish (
      if x = s.staticAddress then (if s.pins.sbAddr.isSome then s else s.onPins fun p => { p with sbAddr := some a })
      else s) :=
  execI3cAddressAssignment_aux aux
end I3c

/-- The clauses of O48 on the sideband of a chip with its auxiliary rail. -/
theorem sidebandRequests (b : List (BitVec 8)) (s : State) (aux : s.pins.aux = true) :
    let req : SbRequest := { addr := s.sbAddress, bytes := b }
    let u := s.onPins fun p => { p with sbDue := none }
    ((∀ d, s.pins.sbDue = some d → d.1 ≤ s.uptime) →
      (b.length = 5 → byteAt b 0 = 1 → execSbRegisterRead req s = finish (
        let r := u.regRead (at32 .sideband (fieldAt b 1 4))
        r.2.sbTakes (sbNoData 0x02) (match r.1 with
          | none => sbNoData 0x01
          | some v => 0 :: bvBytes 4 v))) ∧
      (b.length = 9 → byteAt b 0 = 2 → execSbRegisterWrite req s = finish (
        let r := u.regWrite (at32 .sideband (fieldAt b 1 4)) (BitVec.ofNat 32 (fieldAt b 5 4))
        r.2.sbTakes [0x02] [if r.1 then 0 else 0x01])) ∧
      (b.length = (byteAt b 1).toNat + 2 → 1 ≤ (byteAt b 1).toNat → (byteAt b 1).toNat ≤ 32 → byteAt b 0 = 4 →
        (s.pins.sbIn = none →
          execSbMailboxWrite req s = finish ((u.onPins fun p => { p with sbIn := some (b.drop 2) }).sbAnswer [0])) ∧
        (s.pins.sbIn.isSome = true → execSbMailboxWrite req s = finish (u.sbAnswer [0x04]))) ∧
      (b.length = 1 → byteAt b 0 = 5 →
        (s.pins.sbOut = none → execSbMailboxRead req s = finish (u.sbAnswer [0x04])) ∧
        (∀ m, s.pins.sbOut = some m → execSbMailboxRead req s = finish
          ((u.onPins fun p => { p with sbOut := none }).sbAnswer (0 :: BitVec.ofNat 8 m.length :: m)))) ∧
      (¬ (b.length = 5 ∧ byteAt b 0 = 1) → execSbRegisterRead req s = finish (u.sbAnswer (sbNoData 0x03))) ∧
      (¬ (b.length = 9 ∧ byteAt b 0 = 2) → execSbRegisterWrite req s = finish (u.sbAnswer [0x03])) ∧
      (¬ (b.length = (byteAt b 1).toNat + 2 ∧ 1 ≤ (byteAt b 1).toNat ∧ (byteAt b 1).toNat ≤ 32 ∧ byteAt b 0 = 4) →
        execSbMailboxWrite req s = finish (u.sbAnswer [0x03])) ∧
      (¬ (b.length = 1 ∧ byteAt b 0 = 5) → execSbMailboxRead req s = finish (u.sbAnswer [0x03]))) ∧
    (b.length = 3 → byteAt b 0 = 3 →
      (byteAt b 1 = 0xA5 → execSbReset req s = finish
        (((sbTaken s).requestReset 5 ((byteAt b 2).getLsbD 0)).sbAnswer [0])) ∧
      (byteAt b 1 ≠ 0xA5 → execSbReset req s = finish ((sbTaken s).sbAnswer [0x03]))) ∧
    (¬ (b.length = 3 ∧ byteAt b 0 = 3) → execSbReset req s = finish ((sbTaken s).sbAnswer [0x03])) ∧
    (∀ d, s.pins.sbDue = some d → s.uptime < d.1 →
      execSbRegisterRead req s = finish (s.sbAnswer (sbNoData 0x02)) ∧
      execSbRegisterWrite req s = finish (s.sbAnswer [0x02]) ∧
      execSbMailboxWrite req s = finish (s.sbAnswer [0x02]) ∧ execSbMailboxRead req s = finish (s.sbAnswer [0x02])) := by
  intro req u
  refine ⟨fun due => ?_, fun length command => ⟨fun key => ?_, fun key => ?_⟩, fun bad => ?_, fun d found early => ?_⟩
  · have ready := sbPending_eq_false due
    have taken : sbTaken s = u := sbTaken_ready ready
    refine ⟨fun length command => ?_, fun length command => ?_, fun length least most command => ?_,
      fun length command => ?_, fun bad => ?_, fun bad => ?_, fun bad => ?_, fun bad => ?_⟩
    · rw [← taken]
      exact sideband_acts aux rfl (.inr ready) command (ne_nil_of_length length) (decide_eq_true length)
    · rw [← taken]
      exact sideband_acts aux rfl (.inr ready) command (ne_nil_of_length length) (decide_eq_true length)
    · have acts : execSbMailboxWrite req s = finish (if u.pins.sbIn.isSome then u.sbAnswer [0x04]
          else (u.onPins fun p => { p with sbIn := some (b.drop 2) }).sbAnswer [0]) := by
        rw [← taken, execSbMailboxWrite_eq]
        refine sideband_acts aux rfl (.inr ready) command (ne_nil_of_length length) ?_
        simp only [mailboxLength, length, least, most, decide_true, Bool.and_self, req]
      refine ⟨fun empty => acts.trans (congrArg finish (if_neg ?_)), fun full => acts.trans (congrArg finish (if_pos full))⟩
      exact fun full => absurd (Option.isSome_iff_ne_none.1 full) (not_not_intro empty)
    · have acts : execSbMailboxRead req s = finish (match u.pins.sbOut with
          | none => u.sbAnswer [0x04]
          | some m => (u.onPins fun p => { p with sbOut := none }).sbAnswer (0 :: BitVec.ofNat 8 m.length :: m)) := by
        rw [← taken]
        exact sideband_acts aux rfl (.inr ready) command (ne_nil_of_length length) (decide_eq_true length)
      refine ⟨fun empty => acts.trans (congrArg finish ?_), fun m full => acts.trans (congrArg finish ?_)⟩
      · rw [show u.pins.sbOut = none from empty]
      · rw [show u.pins.sbOut = some m from full]
    · rw [← taken]
      exact sideband_malformed aux rfl (.inr ready) fun both => bad ⟨of_decide_eq_true both.1, both.2⟩
    · rw [← taken]
      exact sideband_malformed aux rfl (.inr ready) fun both => bad ⟨of_decide_eq_true both.1, both.2⟩
    · rw [← taken, execSbMailboxWrite_eq]
      refine sideband_malformed aux rfl (.inr ready) fun both => bad ?_
      simpa only [mailboxLength, Bool.and_eq_true, decide_eq_true_eq, and_assoc] using both
    · rw [← taken]
      exact sideband_malformed aux rfl (.inr ready) fun both => bad ⟨of_decide_eq_true both.1, both.2⟩
  · exact (sideband_acts aux rfl (.inl rfl) command (ne_nil_of_length length) (decide_eq_true length)).trans
      (congrArg finish (if_pos key))
  · exact (sideband_acts aux rfl (.inl rfl) command (ne_nil_of_length length) (decide_eq_true length)).trans
      (congrArg finish (if_neg key))
  · exact sideband_malformed aux rfl (.inl rfl) fun both => bad ⟨of_decide_eq_true both.1, both.2⟩
  · have pending := sbPending_eq_true found early
    exact ⟨sideband_pending (op := 1) (req := req) aux rfl (by decide) pending,
      sideband_pending (op := 2) (req := req) aux rfl (by decide) pending,
      (execSbMailboxWrite_eq req s).trans (sideband_pending aux rfl (by decide) pending),
      sideband_pending (op := 5) (req := req) aux rfl (by decide) pending⟩

/-- Settles O48: doorbells by their register, sideband requests by their form and by what is pending, the test access port
by its instruction. -/
theorem queuesAndSideband : Obligations.QueuesAndSideband := by
  refine ⟨fun f q v tick s => ⟨fun fine => ?_, fun fine => ?_, fun fine => ?_, fun fine => ?_, fun n fine => ?_⟩,
    fun b s aux => ?_, fun req c s deaf => ?_, fun i s => ⟨fun powered => ?_, jtagInForce_of_high, jtagInForce_of_low,
      fun inForce => ⟨?_, fun drives => ?_⟩⟩⟩
  · have e : writeRow (bar2At f (0x100 * q.val + 0x10)) v s = .next (s.writeQueueCtrl f.toNat q.val v).wrote := by
      rw [writeRow_bar2At fine, writeBar2_control]
    exact ⟨(e : execQueueEnable f q v s = _), (e : execQueueDisable f q v s = _)⟩
  · show writeRow (bar2At f (0x100 * q.val + 0x18)) v (s.at_ tick) = _
    rw [writeRow_bar2At fine, writeBar2_tail]
  · show writeRow (bar2At f (0x100 * q.val + 0x1C)) v (s.at_ tick) = _
    rw [writeRow_bar2At fine, writeBar2_head]
  · exact (writeRow_bar2At fine : execSrHeadDoorbell v s = _)
  · show writeRow (bar2At f (0x1000 + 4 * n.val)) v s = _
    rw [writeRow_bar2At fine, writeBar2_token]
  · intro static req noData u v takes
    obtain ⟨ready, reset, badReset, pending⟩ := sidebandRequests b s aux
    refine ⟨ready, reset, badReset, pending, fun a => ?_, fun c listed => ?_, fun x listed => ?_⟩
    · intro at_
      refine ⟨fun free => ⟨?_, ?_⟩, fun taken => ⟨?_, ?_⟩, fun x other => ?_, ?_⟩
      · refine (execI3cAddressAssignment_entdaa aux : execI3cAddressAssignment _ s = _).trans ?_
        rw [free]
        rfl
      · refine (execI3cAddressAssignment_setdasa aux : execI3cAddressAssignment _ s = _).trans ?_
        rw [free]
        exact congrArg finish (if_pos rfl)
      · exact (execI3cAddressAssignment_entdaa aux : execI3cAddressAssignment _ s = _).trans
          (congrArg finish (if_pos (Option.isSome_iff_ne_none.2 taken)))
      · exact (execI3cAddressAssignment_setdasa aux : execI3cAddressAssignment _ s = _).trans
          (congrArg finish ((if_pos rfl).trans (if_pos (Option.isSome_iff_ne_none.2 taken))))
      · exact (execI3cAddressAssignment_setdasa aux : execI3cAddressAssignment _ s = _).trans
          (congrArg finish (if_neg other))
      · exact (execI3cAddressAssignment_aux aux : execI3cAddressAssignment .rstdaa s = _)
    · rcases List.mem_pair.1 listed with rfl | rfl
      · exact (execI3cAddressAssignment_aux aux : execI3cAddressAssignment .enec s = _)
      · exact (execI3cAddressAssignment_aux aux : execI3cAddressAssignment .disec s = _)
    · simp only [List.mem_cons, List.not_mem_nil, or_false] at listed
      rcases listed with rfl | rfl | rfl | rfl
      · exact (execI3cAddressAssignment_aux aux : execI3cAddressAssignment .getbcr s = _)
      · exact (execI3cAddressAssignment_aux aux : execI3cAddressAssignment .getdcr s = _)
      · exact (execI3cAddressAssignment_aux aux : execI3cAddressAssignment .getstatus s = _)
      · exact (execI3cAddressAssignment_aux aux : execI3cAddressAssignment .getpid s = _)
  · refine ⟨?_, ?_, ?_, ?_, ?_, fun dark => ?_⟩
    · exact (sideband_unheard deaf : execSbRegisterRead req s = _)
    · exact (sideband_unheard deaf : execSbRegisterWrite req s = _)
    · exact (sideband_unheard deaf : execSbReset req s = _)
    · exact ((execSbMailboxWrite_eq req s).trans (sideband_unheard deaf) : execSbMailboxWrite req s = _)
    · exact (sideband_unheard deaf : execSbMailboxRead req s = _)
    · exact (if_pos (by rw [dark]; rfl) : execI3cAddressAssignment c s = _)
  · intro u
    have loads : execJtagInstruction i s = finish (match i with
        | .idcode => u.onHost fun h => { h with answer := some jtagIdcode }
        | .sample => u.drawn.onPins fun p => { p with boundary := u.free 4 }
        | _ => u) := if_neg (by rw [powered]; exact Bool.false_ne_true)
    refine ⟨fun notIdcode notSample => ?_, fun sample => ?_, fun idcode => ?_⟩
    · refine (loads : execJtagInstruction i s = _).trans ?_
      cases i
      case idcode => exact absurd rfl notIdcode
      case sample => exact absurd rfl notSample
      all_goals rfl
    · subst sample
      exact (loads : execJtagInstruction .sample s = _)
    · subst idcode
      exact (loads : execJtagInstruction .idcode s = _)
  · exact (laneDrive_of inForce).trans (by cases i <;> rfl)
  · refine level_of_driven ?_
    rw [laneDrive_of inForce]
    rcases drives with rfl | rfl | rfl <;> decide
end Sys2Proof.Proofs
end

section
/-!
Host commands of the system, the manufacturing tests, and the commands of the cadence, the roles and the configuration (O49
to O51).
-/
namespace Sys2Proof.Proofs
open Sys2Proof.Machine

section Carry
variable {op : BitVec 8} {o : Bool} {h : BitVec 32} {body : Live → State → State} {l : Live} {s t : State}

/-- A command that may be carried out leaves what its body makes of the state. -/
theorem carry_of (ready : s.ready h op l) (e : body l s = t) : carry op o h body s = .next t.workEnd :=
  (carry_ready op o h body s l ready).trans (congrArg close e)

/-- A command that needs no configuration leaves what its body makes of the state. -/
theorem carry_open_of (live : s.liveOf h = some l) (opcode : l.opcode = op) (phase : l.phase = .accepted) (e : body l s = t) :
    carry op true h body s = .next t.workEnd :=
  (carry_open op h body s l live opcode phase).trans (congrArg close e)
end Carry

section System
variable {h : BitVec 32} {l : Live} {s : State} (live : s.liveOf h = some l) (phase : l.phase = .accepted)
include live phase

theorem execHandleQuery_live {x : Live} (opcode : l.opcode = 0x04)
    (found : s.liveOf (BitVec.ofNat 32 (l.param 8 4)) = some x) :
    execHandleQuery h s = close (if x.func = l.func then s.complete h stOk (fields [(0, 8, x.opcode.toNat), (8, 3, x.queue),
        (11, 1, bitOf (s.waitsHeld (BitVec.ofNat 32 (l.param 8 4))))]) else s.complete h stBadHandle 0) := by
  refine carry_open_of live opcode phase ?_
  simp only [found]

theorem execHandleQuery_dead (opcode : l.opcode = 0x04) (gone : s.liveOf (BitVec.ofNat 32 (l.param 8 4)) = none) :
    execHandleQuery h s = close (s.complete h stBadHandle 0) := by
  refine carry_open_of live opcode phase ?_
  simp only [gone]

theorem execDeviceReset_kind (opcode : l.opcode = 0x02) (kind : l.param 8 1 = 1 ∨ l.param 8 1 = 2) :
    execDeviceReset h s = close (
      let u := (s.onCmd fun c => { c with frozen := true }).leaveToReset.cancelCal 4
      let u := u.completeAll (u.liveInOrder.filter fun x => decide (x ≠ h)) stCancelled 0xFFFFFFFF
      (u.complete h stOk 0).enterReset 3 (decide (l.param 8 1 = 2))) :=
  carry_open_of live opcode phase (if_neg (by omega))

theorem execDeviceReset_unknown (opcode : l.opcode = 0x02) (kind : ¬ (l.param 8 1 = 1 ∨ l.param 8 1 = 2)) :
    execDeviceReset h s = close (s.complete h stBadParam 8) :=
  carry_open_of live opcode phase (if_pos (by omega))
end System

/-- Settles O49: by the opcode, and by the handle or the kind that the parameters name. -/
theorem systemCommands : Obligations.SystemCommands := by
  refine fun h l s live phase => ⟨fun opcode => ?_, fun opcode => ?_, fun opcode => ?_,
    fun opcode => ⟨fun x found same => ?_, fun x found other => ?_, fun gone => ?_⟩, fun opcode kind => ?_,
    fun opcode kind => ?_⟩
  · exact (carry_open_of live opcode phase rfl : execIdentify h s = _)
  · exact (carry_open_of live opcode phase rfl : execTelemetry h s = _)
  · exact (carry_open_of live opcode phase rfl : execDiagNop h s = _)
  · exact ((execHandleQuery_live live phase opcode found).trans (congrArg close (if_pos same)) : execHandleQuery h s = _)
  · exact ((execHandleQuery_live live phase opcode found).trans (congrArg close (if_neg other)) : execHandleQuery h s = _)
  · exact (execHandleQuery_dead live phase opcode gone : execHandleQuery h s = _)
  · exact (execDeviceReset_kind live phase opcode kind : execDeviceReset h s = _)
  · exact (execDeviceReset_unknown live phase opcode kind : execDeviceReset h s = _)

/-- Settles O50: by whether the handle names a command. -/
theorem manufacturingStops : Obligations.ManufacturingStops := by
  refine fun h s => ⟨fun l live opcode phase configured => ?_, fun gone => ?_⟩
  · show execManufacturingTest h s = _
    unfold execManufacturingTest
    simp only [live, if_pos (And.intro opcode phase), if_pos configured]
  · show execManufacturingTest h s = _
    unfold execManufacturingTest
    simp only [gone]

section Configuration
variable {h : BitVec 32} {l : Live} {s : State} (live : s.liveOf h = some l) (phase : l.phase = .accepted)
include live phase

theorem execCfgWrite_within (opcode : l.opcode = 0x10) (unit : l.param 8 2 % 64 = 0) (start : l.param 8 2 < 1024)
    (whole : l.param 10 2 % 64 = 0) (least : 64 ≤ l.param 10 2) (end_ : l.param 8 2 + l.param 10 2 ≤ 1024)
    (here : gaChip (BitVec.ofNat 64 (l.param 16 8)) = s.fab.chip) (space : gaSpace (BitVec.ofNat 64 (l.param 16 8)) ∈ [2, 5])
    (free : s.cfg.commit = none) :
    execCfgWrite h s = close (s.storeUnits h (BitVec.ofNat 64 (l.param 16 8)) (l.param 8 2 / 64) (l.param 10 2 / 64)) := by
  refine carry_open_of live opcode phase ((if_neg (by omega)).trans ((if_neg (by omega)).trans
    ((if_neg ?_).trans (if_neg ?_))))
  · exact fun either => either.elim (· here) (· space)
  · rw [free]
    exact Bool.false_ne_true

theorem execCfgCommit_unarmed (opcode : l.opcode = 0x11) (free : s.cfg.commit = none) (unarmed : s.unarmed = true) :
    execCfgCommit h s = close (if s.cfg.stage = 8 then s.checkCommit h
      else (s.working h).onCfg fun c => { c with commit := some h }) := by
  refine carry_open_of live opcode phase ((if_neg ?_).trans (if_neg ?_))
  · rw [free]
    exact Bool.false_ne_true
  · rw [unarmed]
    exact Bool.false_ne_true
end Configuration

section Cadence
variable {h : BitVec 32} {l : Live} {s : State}

theorem arm_allowed (unarmed : s.unarmed = true) (free : s.cad.loadHandle = none) (fine : cadenceBad l = none)
    (period : s.periodFails l (fun k => decide (k.status ≠ .loaded)) = false) :
    s.arm h l = (s.working h).startArming h l := by
  unfold State.arm
  simp only [unarmed, free, fine, period, Bool.not_true, Bool.false_eq_true, if_false, Option.isSome_none]

/-- What `CADENCE_SET` does of an action with fields in range (R37). -/
def cadenceAction (h : BitVec 32) (l : Live) (s : State) : Nat → State
  | 1 => s.arm h l
  | 2 =>
    if s.periodFails l fun k => decide (k.status = .active) || decide (k.status = .verified) then
      s.complete h stNotAllowed 0
    else s.cadenceNow h (State.setPeriod l)
  | 3 =>
    if !s.unarmed then s.complete h stNotAllowed 0
    else if s.cad.loadHandle.isSome then s.complete h stBusy 0
    else ((s.working h).enableInput).onCad fun c => { c with
      loadHandle := some h, tbLoad := BitVec.ofNat 64 (l.param 16 8) }
  | 4 => s.enableInput.complete h stOk (lo32 s.cad.tb)
  | 5 => if s.srv.slots ≠ [] then s.complete h stNotAllowed 0 else s.cadenceNow h id
  | _ => s.enableInput.cadenceNow h (State.setSource l)

theorem execCadenceSet_action {a : Nat} (ready : s.ready h 0x12 l) (fine : cadenceBad l = none) (action : l.param 8 1 = a) :
    execCadenceSet h s = close (cadenceAction h l s a) := by
  refine carry_of ready ?_
  simp only [fine, action]
  rcases a with _ | _ | _ | _ | _ | _ | a <;> rfl

theorem cadenceNow_unarmed {act : State → State} (unarmed : s.unarmed = true) :
    s.cadenceNow h act = (act s).complete h stOk (lo32 s.cad.tb) := if_pos unarmed

theorem cadenceNow_armed {act : State → State} (armed : s.unarmed = false) : s.cadenceNow h act = s.atBoundary h :=
  if_neg (by rw [armed]; exact Bool.false_ne_true)

theorem cadenceAction_period
    (fits : s.periodFails l (fun k => decide (k.status = .active) || decide (k.status = .verified)) = false) :
    cadenceAction h l s 2 = s.cadenceNow h (State.setPeriod l) := if_neg (by rw [fits]; exact Bool.false_ne_true)

theorem cadenceAction_load (unarmed : s.unarmed = true) (free : s.cad.loadHandle = none) :
    cadenceAction h l s 3 = ((s.working h).enableInput).onCad fun c => { c with
      loadHandle := some h, tbLoad := BitVec.ofNat 64 (l.param 16 8) } := by
  refine (if_neg ?_).trans (if_neg ?_)
  · rw [unarmed]
    exact Bool.false_ne_true
  · rw [free]
    exact Bool.false_ne_true

theorem cadenceAction_disarm (empty : s.srv.slots = []) : cadenceAction h l s 5 = s.cadenceNow h id :=
  if_neg (not_not_intro empty)

theorem execRoleSet_within {bs : List (BitVec 8)} (ready : s.ready h 0x14 l) (unarmed : s.unarmed = true)
    (idle : s.cylOf .active = none) (named : l.param 8 4 ≠ 0) (least : 1 ≤ l.param 12 1) (most : l.param 12 1 ≤ 72)
    (stage : l.param 13 1 < l.param 12 1) (leads : l.param 14 1 ≤ 1)
    (read : s.hostRead l.func.toNat (l.param 16 8) (2 * l.param 12 1) = some bs)
    (chips : (((List.range (l.param 12 1)).map fun i => fieldAt bs (2 * i) 2).any fun m => decide (4096 ≤ m)) = false)
    (own : ((List.range (l.param 12 1)).map fun i => fieldAt bs (2 * i) 2)[l.param 13 1]? = some s.fab.chip.toNat)
    (distinct : ((List.range (l.param 12 1)).map fun i => fieldAt bs (2 * i) 2).Nodup) :
    execRoleSet h s = close (((s.onFab fun f => { f with
      partition := BitVec.ofNat 32 (l.param 8 4), size := l.param 12 1, stage := l.param 13 1
      memberChips := ((List.range (l.param 12 1)).map fun i => fieldAt bs (2 * i) 2).map fun m => BitVec.ofNat 12 m }).onCad
        fun c => { c with leaderEnable := decide (l.param 14 1 = 1) }).complete h stOk 0) := by
  refine carry_of ready ((if_neg ?_).trans ((if_neg named).trans ((if_neg (by omega)).trans ((if_neg (by omega)).trans
    ((if_neg (by omega)).trans ?_)))))
  · rw [unarmed, idle]
    exact not_or_intro Bool.false_ne_true Bool.false_ne_true
  · rw [read]
    refine if_neg fun either => ?_
    rcases either with large | other | twice
    · exact absurd (chips.symm.trans large) Bool.false_ne_true
    · exact other own
    · exact twice distinct
end Cadence

/-- Settles O51: by the opcode, and for `CADENCE_SET` by its action. -/
theorem cadenceCommands : Obligations.CadenceCommands := by
  refine fun h l s live phase => ⟨fun opcode unit start whole least end_ here space free => ?_,
    fun opcode free unarmed => ?_, fun opcode => ?_, fun configured opcode => ⟨fun action unarmed free fine period => ?_,
      fun fine => ⟨fun action fits => ⟨fun unarmed => ?_, fun armed => ?_⟩, fun action unarmed free => ?_, fun action => ?_,
        fun action empty => ?_, fun action => ⟨fun unarmed => ?_, fun armed => ?_⟩⟩⟩,
    fun configured opcode unarmed idle named least most stage leads bs read => ?_⟩
  · exact (execCfgWrite_within live phase opcode unit start whole least end_ here space free : execCfgWrite h s = _)
  · exact (execCfgCommit_unarmed live phase opcode free unarmed : execCfgCommit h s = _)
  · exact (carry_open_of live opcode phase rfl : execCadenceStatus h s = _)
  · exact (execCadenceSet_action ⟨live, opcode, phase, configured⟩ fine action : execCadenceSet h s = _).trans
      (congrArg close (arm_allowed unarmed free fine period))
  · exact (execCadenceSet_action ⟨live, opcode, phase, configured⟩ fine action : execCadenceSet h s = _).trans
      (congrArg close ((cadenceAction_period fits).trans (cadenceNow_unarmed unarmed)))
  · exact (execCadenceSet_action ⟨live, opcode, phase, configured⟩ fine action : execCadenceSet h s = _).trans
      (congrArg close ((cadenceAction_period fits).trans (cadenceNow_armed armed)))
  · exact (execCadenceSet_action ⟨live, opcode, phase, configured⟩ fine action : execCadenceSet h s = _).trans
      (congrArg close (cadenceAction_load unarmed free))
  · exact (execCadenceSet_action ⟨live, opcode, phase, configured⟩ fine action : execCadenceSet h s = _)
  · exact (execCadenceSet_action ⟨live, opcode, phase, configured⟩ fine action : execCadenceSet h s = _).trans
      (congrArg close (cadenceAction_disarm empty))
  · exact (execCadenceSet_action ⟨live, opcode, phase, configured⟩ fine action : execCadenceSet h s = _).trans
      (congrArg close (cadenceNow_unarmed (s := s.enableInput) unarmed))
  · exact (execCadenceSet_action ⟨live, opcode, phase, configured⟩ fine action : execCadenceSet h s = _).trans
      (congrArg close (cadenceNow_armed (s := s.enableInput) armed))
  · intro ms chips own distinct
    exact (execRoleSet_within ⟨live, opcode, phase, configured⟩ unarmed idle named least most stage leads read chips own
      distinct : execRoleSet h s = _)
end Sys2Proof.Proofs
end

section
/-!
The page commands (O52).
-/
namespace Sys2Proof.Proofs
open Sys2Proof.Machine

section
variable {h : BitVec 32} {l : Live} {s : State}

theorem execAlloc_within (ready : s.ready h 0x20 l) (least : 1 ≤ l.param 8 1) (most : l.param 8 1 ≤ 3)
    (flags : (byteAt l.params 9).toNat < 8) (visible : (byteAt l.params 9).getLsbD 2 = true → l.param 8 1 = 2)
    (some_ : 1 ≤ l.param 12 4) (few : l.param 12 4 ≤ 65536) :
    execAlloc h s = close (match s.allocPages l.func (l.param 8 1) (byteAt l.params 9) (l.param 12 4) with
      | none => s.drawn.complete h stNoSpace 0
      | some (gs, low, s) =>
        let s := s.hostWrite l.func.toNat (l.param 16 8) (gs.flatMap (bvBytes 8))
        s.complete h (if low = 0 then stOk else stDegraded) (BitVec.ofNat 32 low)) := by
  refine carry_of ready ((if_neg (by omega)).trans ((if_neg ?_).trans (if_neg (by omega))))
  exact fun either => either.elim (Nat.not_le.2 flags) fun both => both.2 (visible both.1)

/-- What `FREE` does of a list of pages (R233). -/
def freePages (h : BitVec 32) (l : Live) (s : State) (gs : List (BitVec 64)) : State := match s.pageBar l.func gs with
  | some st => s.complete h st 0
  | none => (gs.foldl (fun s g => s.freePage g) s).complete h stOk 0

theorem freePages_barred {gs : List (BitVec 64)} {st : BitVec 16} (bar : s.pageBar l.func gs = some st) :
    freePages h l s gs = s.complete h st 0 := by
  unfold freePages
  rw [bar]

theorem freePages_free {gs : List (BitVec 64)} (free : s.pageBar l.func gs = none) :
    freePages h l s gs = (gs.foldl (fun s g => s.freePage g) s).complete h stOk 0 := by
  unfold freePages
  rw [free]

theorem execFree_one (ready : s.ready h 0x21 l) (mode : l.param 8 1 = 1) :
    execFree h s = close (freePages h l s [BitVec.ofNat 64 (l.param 16 8)]) :=
  carry_of ready ((if_neg (by omega)).trans (if_pos mode))

theorem execFree_list {gs : List (BitVec 64)} (ready : s.ready h 0x21 l) (mode : l.param 8 1 = 0)
    (list : s.hostList l.func.toNat (l.param 16 8) (l.param 12 4) = some gs) :
    execFree h s = close (freePages h l s gs) := by
  refine carry_of ready ((if_neg (by omega)).trans ((if_neg (by omega)).trans ?_))
  unfold withList
  rw [list]
  rfl

/-- What `MOVE` does of a list of pages (R231). -/
def movePages (h : BitVec 32) (l : Live) (s : State) (gs : List (BitVec 64)) : State := match s.pageBar l.func gs with
  | some st => s.complete h st 0
  | none => (s.working h).startJob { PageJob.reset with
      purpose := .move, handle := some h, list := BitVec.ofNat 64 (l.param 24 8)
      tier := BitVec.ofNat 4 (l.param 8 1), strict := decide (l.param 9 1 = 1)
      chip := if BitVec.ofNat 12 (l.param 10 2) = s.fab.chip then none else some (BitVec.ofNat 12 (l.param 10 2)) } gs

theorem execMove_within (ready : s.ready h 0x22 l) (least : 1 ≤ l.param 8 1) (most : l.param 8 1 ≤ 3) (strict : l.param 9 1 ≤ 1)
    (chip : l.param 10 2 < 4096) (some_ : 1 ≤ l.param 12 4) (few : l.param 12 4 ≤ 65536) :
    execMove h s = close (withList h l.func.toNat (l.param 16 8) (l.param 12 4) s (movePages h l s)) :=
  carry_of ready ((if_neg (by omega)).trans ((if_neg (by omega)).trans ((if_neg (by omega)).trans (if_neg (by omega)))))

theorem withList_some {gs : List (BitVec 64)} {f a n : Nat} {body : List (BitVec 64) → State}
    (list : s.hostList f a n = some gs) : withList h f a n s body = body gs := by
  unfold withList
  rw [list]

theorem withList_none {f a n : Nat} {body : List (BitVec 64) → State} (list : s.hostList f a n = none) :
    withList h f a n s body = s.complete h stBadParam readFailed := by
  unfold withList
  rw [list]

/-- What `MEM_MODE` does of a mode that it knows (R233). -/
def memModeAction (h : BitVec 32) (s : State) : Nat → State
  | 0 =>
    if s.shadowMoves then s.complete h stBusy 0
    else if s.mem.writeBack then (s.working h).leaveWriteBack [h] else s.complete h stOk 0
  | 1 => (s.onMem fun m => { m with writeBack := true }).complete h stOk 0
  | _ =>
    if s.dirtyShadows = [] then s.complete h stOk 0
    else ((s.working h).writeBackAll).onMem fun m => { m with
      flushHandle := m.flushHandle ++ [h]
      flushSet := m.flushSet ++ s.dirtyShadows.filter fun f => decide (f ∉ m.flushSet) }

theorem execMemMode_mode {mode : Nat} (ready : s.ready h 0x24 l) (empty : s.srv.slots = []) (still : s.mem.converting = false)
    (action : l.param 8 1 = mode) (known : mode ≤ 2) : execMemMode h s = close (memModeAction h s mode) := by
  subst action
  refine carry_of ready ((if_neg (Nat.not_lt.2 known)).trans ((if_neg (not_not_intro empty)).trans ((if_neg ?_).trans rfl)))
  rw [still]
  exact Bool.false_ne_true

theorem memModeAction_leave (still : s.shadowMoves = false) :
    memModeAction h s 0 = if s.mem.writeBack then (s.working h).leaveWriteBack [h] else s.complete h stOk 0 :=
  if_neg (by rw [still]; exact Bool.false_ne_true)
end

/-- Settles O52: by the opcode, and by the pages or the mode that the parameters name. -/
theorem memoryCommands : Obligations.MemoryCommands := by
  refine fun h l s => ⟨fun ready least most flags visible some_ few => ⟨fun gs low t pages => ?_, fun full => ?_⟩,
    fun ready mode free => ?_, fun ready mode gs list => ⟨fun st bar => ?_, fun free => ?_⟩,
    fun ready least most strict chip some_ few => ⟨fun unread => ?_, fun gs list => ⟨fun st bar => ?_, fun free => ?_⟩⟩,
    fun ready empty still => ⟨fun mode quiet off => ?_, fun mode moves => ?_, fun mode quiet on => ?_, fun mode => ?_,
      fun mode => ?_⟩⟩
  · refine (execAlloc_within ready least most flags visible some_ few : execAlloc h s = _).trans (congrArg close ?_)
    rw [pages]
  · refine (execAlloc_within ready least most flags visible some_ few : execAlloc h s = _).trans (congrArg close ?_)
    rw [full]
  · exact (execFree_one ready mode : execFree h s = _).trans (congrArg close (freePages_free free))
  · exact (execFree_list ready mode list : execFree h s = _).trans (congrArg close (freePages_barred bar))
  · exact (execFree_list ready mode list : execFree h s = _).trans (congrArg close (freePages_free free))
  · exact (execMove_within ready least most strict chip some_ few : execMove h s = _).trans
      (congrArg close (withList_none unread))
  · refine (execMove_within ready least most strict chip some_ few : execMove h s = _).trans (congrArg close
      ((withList_some list).trans ?_))
    unfold movePages
    rw [bar]
  · refine (execMove_within ready least most strict chip some_ few : execMove h s = _).trans (congrArg close
      ((withList_some list).trans ?_))
    unfold movePages
    rw [free]
  · refine (execMemMode_mode ready empty still mode (by decide) : execMemMode h s = _).trans (congrArg close
      ((memModeAction_leave quiet).trans (if_neg ?_)))
    rw [off]
    exact Bool.false_ne_true
  · exact (execMemMode_mode ready empty still mode (by decide) : execMemMode h s = _).trans (congrArg close (if_pos moves))
  · exact (execMemMode_mode ready empty still mode (by decide) : execMemMode h s = _).trans (congrArg close
      ((memModeAction_leave quiet).trans (if_pos on)))
  · exact (execMemMode_mode ready empty still mode (by decide) : execMemMode h s = _)
  · exact (execMemMode_mode ready empty still mode (by decide) : execMemMode h s = _)
end Sys2Proof.Proofs
end

section
/-!
The commands of the weights (O53).
-/
namespace Sys2Proof.Proofs
open Sys2Proof.Machine

/-! ### Declarations -/

/-- A manifest without a fault names an identifier within its range. -/
theorem id_of_manifestFault {man : List (BitVec 8)} {n : Nat} {adapter base : Bool}
    (fine : manifestFault man n adapter base = none) : fieldAt man 12 4 < 2 ^ 28 := by
  unfold manifestFault at fine
  split at fine
  case isTrue => cases fine
  case isFalse header =>
    simp only [headerOk, Bool.not_eq_true', Bool.and_eq_false_iff, not_or, Bool.not_eq_false, decide_eq_true_eq] at header
    simp_all only

section Declare
variable {h : BitVec 32} {l : Live} {man : List (BitVec 8)} {adapter : Bool} {s : State}

/-- What a declaration does once its manifest is read (R244, R248, R258). -/
def declareRead (h : BitVec 32) (adapter replace : Bool) (l : Live) (man : List (BitVec 8)) (held : List ModelVer)
    (s : State) : State :=
  if !replace && decide (held ≠ []) then s.complete h stNotAllowed 0
  else if replace && held.any fun m => m.replace then s.complete h stBusy 0
  else if replace && held.any fun m => !m.rights l.func then s.complete h stBadHandle 0
  else if !replace && decide (slotsOf adapter ≤ s.slotsUsed adapter) then s.complete h stNoSpace 0
  else if digestBits (sha256 man) ≠ BitVec.ofNat 256 (l.param 24 32) then s.complete h stDigest 0
  else match manifestFault man (l.param 16 4) adapter
      ((s.model (manBase man).model (manBase man).version).any fun m => !m.adapter) with
  | some d => s.complete h stBadParam d
  | none =>
    if replace && (decide (held = []) || held.any (fun m => decide (m.adapter ≠ adapter)) ||
        held.any fun m => decide (manVersion man ≤ m.version)) then s.complete h stBadParam 0xFFFFFFFF
    else if adapter && !geometryOk ((s.model (manBase man).model (manBase man).version).bind (·.geometry)) man then
      s.complete h stBadParam 0xFFFFFFFF
    else if l.param 56 8 % pageBytes ≠ 0 then s.complete h stBadParam 56
    else s.declare h l man adapter replace

/-- What the parameters of a declaration and its manifest have to be (R244, R265). -/
structure Declarable (s : State) (l : Live) (man : List (BitVec 8)) (adapter : Bool) : Prop where
  chip : gaChip (BitVec.ofNat 64 (l.param 8 8)) = s.fab.chip
  space : gaSpace (BitVec.ofNat 64 (l.param 8 8)) ∈ [2, 3, 5]
  order : byteAt l.params 20 ∈ [0, 2, 3]
  flags : (byteAt l.params 21).toNat < 4
  read : s.readRun (some l.func.toNat) (BitVec.ofNat 64 (l.param 8 8)) (l.param 16 4) = .ok man
  digest : digestBits (sha256 man) = BitVec.ofNat 256 (l.param 24 32)
  start : l.param 56 8 % pageBytes = 0
  fine : manifestFault man (l.param 16 4) adapter
    ((s.model (manBase man).model (manBase man).version).any fun m => !m.adapter) = none
  geometry : adapter = true →
    geometryOk ((s.model (manBase man).model (manBase man).version).bind (·.geometry)) man = true

theorem declareBody_read {replace : Bool} (d : Declarable s l man adapter)
    (once : replace = true → (byteAt l.params 21).getLsbD 1 = false) :
    declareBody h adapter replace l s = declareRead h adapter replace l man (s.versions (manModel man)) s := by
  have named : (if fieldAt man 12 4 < 2 ^ 28 then s.versions (manModel man) else []) = s.versions (manModel man) :=
    if_pos (id_of_manifestFault d.fine)
  refine (if_neg ?_).trans ((if_neg (not_not_intro d.order)).trans ((if_neg ?_).trans ?_))
  · exact fun either => either.elim (· d.chip) (· d.space)
  · rintro (large | ⟨newer, activates⟩)
    · exact large (Nat.div_eq_of_lt d.flags)
    · exact absurd ((once newer).symm.trans activates) Bool.false_ne_true
  · rw [d.read, ← named]
    rfl

/-- What is left to examine of a declaration with a good digest, manifest and geometry. -/
theorem declareRead_good {replace : Bool} {held : List ModelVer} (d : Declarable s l man adapter)
    (first : (!replace && decide (held ≠ [])) = false) (free : (replace && held.any fun m => m.replace) = false)
    (rights : (replace && held.any fun m => !m.rights l.func) = false)
    (room : (!replace && decide (slotsOf adapter ≤ s.slotsUsed adapter)) = false)
    (newer : (replace && (decide (held = []) || held.any (fun m => decide (m.adapter ≠ adapter)) ||
      held.any fun m => decide (manVersion man ≤ m.version))) = false) :
    declareRead h adapter replace l man held s = s.declare h l man adapter replace := by
  have geometry : (adapter && !geometryOk ((s.model (manBase man).model (manBase man).version).bind (·.geometry)) man) =
      false := by
    cases isAdapter : adapter
    · rfl
    · rw [d.geometry isAdapter]
      rfl
  unfold declareRead
  rw [first, free, rights, room, if_neg Bool.false_ne_true, if_neg Bool.false_ne_true, if_neg Bool.false_ne_true,
    if_neg Bool.false_ne_true, if_neg (not_not_intro d.digest), d.fine, newer, geometry]
  exact if_neg (not_not_intro d.start)

theorem declareBody_new (d : Declarable s l man adapter) (none_ : s.versions (manModel man) = [])
    (room : s.slotsUsed adapter < slotsOf adapter) :
    declareBody h adapter false l s = s.declare h l man adapter false := by
  refine (declareBody_read d fun newer => absurd newer Bool.false_ne_true).trans
    (declareRead_good d ?_ rfl rfl ?_ rfl)
  · rw [none_]
    rfl
  · exact decide_eq_false (Nat.not_le.2 room)

theorem declareBody_newer (d : Declarable s l man adapter) (once : (byteAt l.params 21).getLsbD 1 = false)
    (some_ : s.versions (manModel man) ≠ [])
    (older : ∀ m ∈ s.versions (manModel man),
      m.replace = false ∧ m.rights l.func = true ∧ m.adapter = adapter ∧ m.version < manVersion man) :
    declareBody h adapter true l s = s.declare h l man adapter true := by
  refine (declareBody_read d fun _ => once).trans (declareRead_good d rfl ?_ ?_ rfl ?_)
  · exact List.any_eq_false.2 fun m held => by simp only [(older m held).1, Bool.false_eq_true, not_false_eq_true]
  · exact List.any_eq_false.2 fun m held => by
      simp only [(older m held).2.1, Bool.not_true, Bool.false_eq_true, not_false_eq_true]
  · have kind : (s.versions (manModel man)).any (fun m => decide (m.adapter ≠ adapter)) = false :=
      List.any_eq_false.2 fun m held => by simp only [(older m held).2.2.1, ne_eq, not_true_eq_false, decide_false,
        Bool.false_eq_true, not_false_eq_true]
    have below : (s.versions (manModel man)).any (fun m => decide (manVersion man ≤ m.version)) = false :=
      List.any_eq_false.2 fun m held => by
        simp only [BitVec.not_le.2 (older m held).2.2.2, decide_false, Bool.false_eq_true, not_false_eq_true]
    rw [kind, below, decide_eq_false some_]
    rfl
end Declare

/-! ### Shards -/

section Shards
variable {h : BitVec 32} {l : Live} {s : State} {m : ModelVer} {st : ShardState} {e : ShardEntry}

/-- What a command that delivers a shard needs of the version and the shard (R249). -/
structure Deliverable (s : State) (l : Live) (m : ModelVer) (st : ShardState) (e : ShardEntry) : Prop where
  within : l.param 8 4 < 2 ^ 28
  found : s.model l.model.1 l.model.2 = some m
  rights : m.rights l.func = true
  shard : m.shards[l.param 16 4]? = some st
  entry : (manShards m.manifest)[l.param 16 4]? = some e
  state : m.state = .loading ∨ m.state = .incomplete
  wanted : st ≠ .ingested
  idle : st ≠ .inFlight

/-- The end of the examination of a shard command: its data, or its page list. -/
theorem shardBody_deliverable {flash : Bool} (d : Deliverable s l m st e) :
    shardBody h flash l s =
      if !flash && (decide (gaChip (BitVec.ofNat 64 (l.param 24 8)) ≠ s.fab.chip) ||
          decide (gaSpace (BitVec.ofNat 64 (l.param 24 8)) ∉ [2, 5]) ||
          !s.mayRead l.func.toNat (BitVec.ofNat 64 (l.param 24 8)) e.bytes) then s.complete h stBadParam 24
      else match (if flash then s.pageListOf l e.bytes else some (.ok [])) with
        | none => (s.working h).fetchList h
        | some (.error e) => (s.noteFail e).complete h e.1 e.2.1
        | some (.ok bs) =>
          ((((s.onLive h fun l => { l with work := bs, shardWas := st }).working h).setShard l.model.1 l.model.2 (l.param 16 4)
            .inFlight).onWgt fun w => { w with waiting := w.waiting ++ [h] }).nextShard := by
  have active : ¬ (m.state = .retiring ∧ (!m.suspect) = true) := fun both => by
    rcases d.state with loading | incomplete
    · exact absurd (loading.symm.trans both.1) (by decide)
    · exact absurd (incomplete.symm.trans both.1) (by decide)
  have takes : ¬ ¬ (m.state = .loading ∨ m.state = .incomplete ∨ m.suspect = true) :=
    not_not_intro (d.state.imp_right .inl)
  have rights : ¬ (!m.rights l.func) = true := by rw [d.rights]; exact Bool.false_ne_true
  refine (if_neg (Nat.not_le.2 d.within)).trans ?_
  rw [show s.model (BitVec.ofNat 28 (l.param 8 4)) (byteAt l.params 12) = some m from d.found]
  refine (if_neg rights).trans ?_
  rw [d.shard, d.entry]
  exact (if_neg active).trans ((if_neg takes).trans ((if_neg d.wanted).trans (if_neg d.idle)))

theorem shardBody_flies {flash : Bool} {bs : List (BitVec 8)} (d : Deliverable s l m st e)
    (here : flash = false → gaChip (BitVec.ofNat 64 (l.param 24 8)) = s.fab.chip ∧
      gaSpace (BitVec.ofNat 64 (l.param 24 8)) ∈ [2, 5] ∧ bs = [] ∧
      s.mayRead l.func.toNat (BitVec.ofNat 64 (l.param 24 8)) e.bytes = true)
    (list : flash = true → s.pageListOf l e.bytes = some (.ok bs)) :
    shardBody h flash l s = ((((s.onLive h fun l => { l with work := bs, shardWas := st }).working h).setShard l.model.1
      l.model.2 (l.param 16 4) .inFlight).onWgt fun w => { w with waiting := w.waiting ++ [h] }).nextShard := by
  refine (shardBody_deliverable d).trans ?_
  cases flash
  case true => rw [list rfl]; rfl
  case false =>
    obtain ⟨chip, space, rfl, reads⟩ := here rfl
    rw [decide_eq_false (not_not_intro chip), decide_eq_false (not_not_intro space), reads]
    rfl

/-- A page list on another chip that is not all there is fetched. -/
theorem pageListOf_remote (other : gaChip (BitVec.ofNat 64 (l.param 24 8)) ≠ s.fab.chip)
    (space : gaSpace (BitVec.ofNat 64 (l.param 24 8)) ∈ [1, 2, 3, 4]) (holds : e.bytes ≤ l.param 32 4 * pageBytes)
    (partial_ : l.work.length < 8 * l.param 32 4) : s.pageListOf l e.bytes = none :=
  (if_neg other).trans ((if_neg fun either => either.elim (· space) (Nat.not_lt.2 holds)).trans (if_pos partial_))

theorem shardBody_fetches (d : Deliverable s l m st e) (list : s.pageListOf l e.bytes = none) :
    shardBody h true l s = (s.working h).fetchList h := by
  refine (shardBody_deliverable d).trans ?_
  rw [list]
  rfl
end Shards

/-! ### Activation, retirement, status and scrubs -/

section Versions
variable {h : BitVec 32} {l : Live} {s : State} {m : ModelVer}

theorem execModelActivate_resting (ready : s.ready h 0x43 l) (within : l.param 8 4 < 2 ^ 28)
    (found : s.model l.model.1 l.model.2 = some m) (rights : m.rights l.func = true) (start : l.param 16 8 % pageBytes = 0)
    (resting : m.state = .resting) (room : m.waitRoom = false) :
    execModelActivate h s = close (((s.onModel l.model.1 l.model.2 fun m => { m with
      activateHandle := some h, streamFrom := BitVec.ofNat 64 (l.param 16 8) }).working h).beginActivate l.model.1
        l.model.2) := by
  refine carry_of ready ((if_neg (Nat.not_le.2 within)).trans ?_)
  rw [show s.model (BitVec.ofNat 28 (l.param 8 4)) (byteAt l.params 12) = some m from found]
  refine (if_neg ?_).trans ((if_neg (not_not_intro start)).trans (if_neg ?_))
  · rw [rights]
    exact Bool.false_ne_true
  · rw [room]
    exact fun either => either.elim (· resting) Bool.false_ne_true

theorem execModelRetire_named (ready : s.ready h 0x44 l) (within : l.param 8 4 < 2 ^ 28)
    (found : s.model l.model.1 l.model.2 = some m) (rights : m.rights l.func = true)
    (mode : (byteAt l.params 13).toNat ≤ 1) :
    execModelRetire h s = close (
      if byteAt l.params 13 = 1 then s.retire h m
      else if m.state ≠ .active ∨ s.refs l.model.1 l.model.2 ≠ 0 then s.complete h stNotAllowed 0
      else ((s.onModel l.model.1 l.model.2 fun m => { m with activateHandle := some h }).working h).beginRest l.model.1
        l.model.2) := by
  refine carry_of ready ((if_neg (Nat.not_le.2 within)).trans ?_)
  rw [show s.model (BitVec.ofNat 28 (l.param 8 4)) (byteAt l.params 12) = some m from found]
  refine (if_neg ?_).trans (if_neg (Nat.not_lt.2 mode))
  rw [rights]
  exact Bool.false_ne_true

/-- The version that retires, with the command that retires it. -/
def retiring (h : BitVec 32) (m : ModelVer) (s : State) : State :=
  (s.onModel m.id m.version fun m => { m with
    state := .retiring, retireHandle := some h, deadline := none, waitRoom := false }).working h

/-- The command that declared a version that retires is cancelled. -/
def retireCancels (m : ModelVer) (u : State) : State :=
  (u.onModel m.id m.version fun m => { m with handle := none, replace := false }).completeOpt m.handle stCancelled 0

theorem retire_pending (pending : m.state = .pendingRoom) :
    s.retire h m = ((s.onWgt fun w => { w with models := w.models.filter fun x =>
      !(decide (x.id = m.id) && decide (x.version = m.version)) }).completeOpt m.handle stCancelled 0).complete h stOk 0 :=
  if_pos pending

theorem retire_busy (held : m.state ≠ .pendingRoom) (busy : m.retireHandle ≠ none) : s.retire h m = s.complete h stBusy 0 :=
  (if_neg held).trans (if_pos busy)

theorem retire_placing (held : m.state ≠ .pendingRoom) (free : m.retireHandle = none) (placing : m.state = .placing) :
    s.retire h m = ((retiring h m s).mem.jobs.filter fun j => decide (j.purpose = .activate m.id.toNat m.version.toNat) ||
      decide (j.purpose = .rest m.id.toNat m.version.toNat)).foldl (fun s j => s.stopJob j.id) (retiring h m s) :=
  (if_neg held).trans ((if_neg (not_not_intro free)).trans (if_pos placing))

theorem retire_loading (free : m.retireHandle = none) (loading : m.state = .loading ∨ m.state = .incomplete) :
    s.retire h m = retireCancels m (((retiring h m s).cancelShards m.id m.version).onModel m.id m.version fun m =>
      { m with staged := [] }) := by
  have held : m.state ≠ .pendingRoom := by rcases loading with e | e <;> rw [e] <;> decide
  have moved : m.state ≠ .placing := by rcases loading with e | e <;> rw [e] <;> decide
  exact (if_neg held).trans ((if_neg (not_not_intro free)).trans ((if_neg moved).trans
    (congrArg (retireCancels m) (if_pos loading))))

theorem retire_settled (free : m.retireHandle = none) (settled : m.state = .active ∨ m.state = .resting ∨ m.state = .retiring) :
    s.retire h m = retireCancels m (retiring h m s) := by
  have held : m.state ≠ .pendingRoom := by rcases settled with e | e | e <;> rw [e] <;> decide
  have moved : m.state ≠ .placing := by rcases settled with e | e | e <;> rw [e] <;> decide
  have loaded : ¬ (m.state = .loading ∨ m.state = .incomplete) := by rcases settled with e | e | e <;> rw [e] <;> decide
  exact (if_neg held).trans ((if_neg (not_not_intro free)).trans ((if_neg moved).trans
    (congrArg (retireCancels m) (if_neg loaded))))

theorem execModelStatus_found (ready : s.ready h 0x49 l) (within : l.param 8 4 < 2 ^ 28)
    (found : s.model l.model.1 l.model.2 = some m) :
    execModelStatus h s = close ((s.hostWrite l.func.toNat (l.param 16 8) (s.modelRecord m)).complete h stOk 0) := by
  refine carry_of ready ((if_neg (Nat.not_le.2 within)).trans ?_)
  rw [show s.model (BitVec.ofNat 28 (l.param 8 4)) (byteAt l.params 12) = some m from found]

/-- The versions that `SCRUB_SET` names (R265). -/
def scrubNamed (s : State) (l : Live) : List ModelVer :=
  s.wgt.models.filter fun m => (decide (l.param 8 4 = 0) || decide (m.id = l.model.1)) &&
    (decide (l.model.2 = 0) || decide (m.version = l.model.2))

/-- Passes that `SCRUB_SET` starts (R255). -/
def scrubStart (l : Live) (named : List ModelVer) (u : State) : State :=
  if (byteAt l.params 13).getLsbD 0 then
    named.foldl (fun s m => s.onModel m.id m.version fun m => if m.scrubs then { m with nextScrub := s.uptime } else m) u
  else u

/-- The interval that `SCRUB_SET` carries; 0 stands for the default (R265). -/
def scrubInterval (l : Live) : BitVec 64 := if l.param 16 8 = 0 then 600000000000 else BitVec.ofNat 64 (l.param 16 8)

theorem execScrubSet_named (ready : s.ready h 0x48 l) (within : l.param 8 4 < 2 ^ 28) (mode : (byteAt l.params 13).toNat ≤ 1)
    (range : l.param 16 8 = 0 ∨ 60000000000 ≤ l.param 16 8 ∧ l.param 16 8 ≤ 86400000000000)
    (some_ : ¬ (l.model.2 ≠ 0 ∧ scrubNamed s l = []))
    (rights : l.param 8 4 ≠ 0 → ∀ m ∈ scrubNamed s l, m.rights l.func = true) :
    execScrubSet h s = close ((scrubStart l (scrubNamed s l)
      (if l.param 8 4 = 0 then s.onWgt fun w => { w with scrubDef := scrubInterval l }
        else (scrubNamed s l).foldl (fun s m => s.onModel m.id m.version fun m => { m with
          interval := some (scrubInterval l) }) s)).complete h stOk 0) := by
  refine carry_of ready ((if_neg (Nat.not_le.2 within)).trans ((if_neg some_).trans ((if_neg (Nat.not_lt.2 mode)).trans
    ((if_neg ?_).trans (if_neg ?_)))))
  · rintro ⟨given, out⟩
    rcases range with zero | ⟨least, most⟩
    · exact given zero
    · exact out.elim (Nat.not_lt.2 least) (Nat.not_lt.2 most)
  · rintro ⟨given, denied⟩
    obtain ⟨m, held, lacks⟩ := List.any_eq_true.1 denied
    rw [rights given m held] at lacks
    exact absurd lacks Bool.false_ne_true

theorem scrubNamed_all (model : l.param 8 4 = 0) (version : l.model.2 = 0) : scrubNamed s l = s.wgt.models := by
  unfold scrubNamed
  rw [decide_eq_true model, decide_eq_true version]
  exact List.filter_eq_self.2 fun _ _ => rfl

theorem scrubNamed_one (model : l.param 8 4 ≠ 0) :
    scrubNamed s l = s.wgt.models.filter fun m => decide (m.id = l.model.1) &&
      (decide (l.model.2 = 0) || decide (m.version = l.model.2)) := by
  unfold scrubNamed
  rw [decide_eq_false model]
  rfl
end Versions

/-- Settles O53: by the command, and by the version, shard or manifest that it names. -/
theorem weightCommands : Obligations.WeightCommands := by
  refine fun h l s => ⟨fun man => ?_, fun m st e flash bs within found rights shard entry state wanted idle here list ready => ?_,
    fun m st e within found rights shard entry state wanted idle ready => ?_,
    fun m within found rights => ⟨fun ready start resting room => ?_, fun ready mode id version => ?_,
      fun ready mode active unused => ?_⟩, fun m ready within found => ?_, fun ready within mode range => ?_⟩
  · intro g held b chip space order flags read digest start
    refine ⟨fun adapter fine none_ room geometry ready => ?_, fun adapter fine once some_ older geometry ready => ?_⟩
    · have d : Declarable s l man adapter := ⟨chip, space, order, flags, read, digest, start, fine, geometry⟩
      cases adapter
      · exact (carry_of ready (declareBody_new d none_ room) : execModelDeclare h s = _)
      · exact (carry_of ready (declareBody_new d none_ room) : execAdapterLoad h s = _)
    · have d : Declarable s l man adapter := ⟨chip, space, order, flags, read, digest, start, fine, geometry⟩
      cases adapter
      · exact (carry_of ready (declareBody_newer d once some_ older) : execModelReplace h s = _)
      · exact (carry_of ready (declareBody_newer d once some_ older) : execAdapterReplace h s = _)
  · have d : Deliverable s l m st e := ⟨within, found, rights, shard, entry, state, wanted, idle⟩
    cases flash
    · exact (carry_of ready (shardBody_flies d here list) : execShardLoad h s = _)
    · exact (carry_of ready (shardBody_flies d here list) : execShardFromFlash h s = _)
  · intro g other space holds partial_
    have d : Deliverable s l m st e := ⟨within, found, rights, shard, entry, state, wanted, idle⟩
    exact (carry_of ready (shardBody_fetches d (pageListOf_remote other space holds partial_)) : execShardFromFlash h s = _)
  · exact (execModelActivate_resting ready within found rights start resting room : execModelActivate h s = _)
  · have e : execModelRetire h s = close (s.retire h m) :=
      (execModelRetire_named ready within found rights (by rw [mode]; decide)).trans (congrArg close (if_pos mode))
    refine ⟨fun pending => ?_, fun held busy => ?_, fun held free => ⟨fun placing => ?_, fun loading => ?_, fun settled => ?_⟩⟩
    · exact e.trans (congrArg close (retire_pending pending))
    · exact e.trans (congrArg close (retire_busy held busy))
    · exact e.trans (congrArg close (retire_placing held free placing))
    · exact e.trans (congrArg close (retire_loading free loading))
    · exact e.trans (congrArg close (retire_settled free settled))
  · refine (execModelRetire_named ready within found rights (by rw [mode]; decide) : execModelRetire h s = _).trans
      (congrArg close ((if_neg (by rw [mode]; decide)).trans (if_neg ?_)))
    exact fun either => either.elim (· active) (· unused)
  · exact (execModelStatus_found ready within found : execModelStatus h s = _)
  · intro interval start
    refine ⟨fun model version => ?_, ?_⟩
    · refine (execScrubSet_named ready within mode range (fun both => both.1 version) (fun given => absurd model given) :
        execScrubSet h s = _).trans ?_
      rw [scrubNamed_all model version, if_pos model]
      rfl
    · intro named given some_ rights
      have model : l.param 8 4 ≠ 0 := Nat.pos_iff_ne_zero.1 given
      have e : scrubNamed s l = named := scrubNamed_one model
      refine (execScrubSet_named ready within mode range (fun both => some_ both.1 (e.symm.trans both.2))
        (fun _ m held => rights m (e ▸ held)) : execScrubSet h s = _).trans ?_
      rw [e, if_neg model]
      rfl
end Sys2Proof.Proofs
end

section
/-!
The commands of the cylinders (O54).
-/
namespace Sys2Proof.Proofs
open Sys2Proof.Machine

section
variable {h : BitVec 32} {l : Live} {s : State}

theorem execCylLoad_within (ready : s.ready h 0x60 l) (chip : gaChip (BitVec.ofNat 64 (l.param 8 8)) = s.fab.chip)
    (space : gaSpace (BitVec.ofNat 64 (l.param 8 8)) ∈ [2, 3, 5]) (least : 288 ≤ l.param 16 4) (most : l.param 16 4 ≤ 2 ^ 30) :
    execCylLoad h s = close (match s.loadBar l with
      | some (st, d) => s.complete h st d
      | none => s.working h) := by
  refine carry_of ready ((if_neg fun either => either.elim (· chip) (· space)).trans (if_neg fun either => ?_))
  exact either.elim (Nat.not_lt.2 least) (Nat.not_lt.2 most)

theorem loadBar_full (full : 8 ≤ s.cyl.known.length ∨ s.freePages 1 < ceilDiv (l.param 16 4) pageBytes) :
    s.loadBar l = some (stNoSpace, 0) := if_pos full

theorem loadBar_known {bs : List (BitVec 8)} (few : s.cyl.known.length < 8)
    (room : ceilDiv (l.param 16 4) pageBytes ≤ s.freePages 1)
    (read : s.readRun (some l.func.toNat) (BitVec.ofNat 64 (l.param 8 8) + 16) 4 = .ok bs)
    (known : s.cylById (BitVec.ofNat 32 (leNat bs)) ≠ none) : s.loadBar l = some (stNotAllowed, 0) := by
  refine (if_neg fun either => either.elim (Nat.not_le.2 few) (Nat.not_lt.2 room)).trans ?_
  rw [read]
  exact if_pos (Option.isSome_iff_ne_none.2 known)

section Image
variable {img : List (BitVec 8)} (live : s.liveOf h = some l) (opcode : l.opcode = 0x60)
  (phase : l.phase = .working) (room : s.loadBar l = none)
  (read : s.readRun (some l.func.toNat) (BitVec.ofNat 64 (l.param 8 8)) (l.param 16 4) = .ok img)
include live opcode phase room read

theorem execCylLoadChecked_refused {code loc : Nat}
    (refused : loaderChecks img (BitVec.ofNat 256 (l.param 24 32)) s.mem.t2Dimm2 = some (code, loc)) :
    execCylLoadChecked h s = close (s.refuseCheck h (if code = 1 then stDigest else stCheckFailed) code loc) := by
  unfold execCylLoadChecked
  simp only [live, opcode, phase, ne_eq, not_true_eq_false, or_self, if_false, room, read, refused]

theorem execCylLoadChecked_kept {fs : List Nat} {t : State}
    (passes : loaderChecks img (BitVec.ofNat 256 (l.param 24 32)) s.mem.t2Dimm2 = none)
    (new : s.cylById (imgHeader img).id = none)
    (frames : s.cylFrames (imgHeader img).id 0 (imagePages img) = some (fs, t)) :
    execCylLoadChecked h s = close ((t.onCyl fun y => { y with known := y.known ++
      [{ KnownCyl.reset with id := (imgHeader img).id, image := img, frames := fs }] }).complete h stOk (imgHeader img).id) := by
  unfold execCylLoadChecked
  simp only [live, opcode, phase, ne_eq, not_true_eq_false, or_self, if_false, room, read, passes, new, frames,
    Option.isSome_none, Bool.false_eq_true]
end Image

theorem execCylVerify_loaded {k : KnownCyl} (ready : s.ready h 0x61 l)
    (found : s.cylById (BitVec.ofNat 32 (l.param 8 4)) = some k) (loaded : k.status = .loaded)
    (still : s.switchPending = false) (idle : (s.cyl.staging.any fun g => decide (g.id = BitVec.ofNat 32 (l.param 8 4))) = false) :
    execCylVerify h s = close (match s.verifyFault k with
      | some (st, code, loc) => s.refuseCheck h st code loc
      | none => match s.giveWay.allocateCyl k with
        | none => s.drawn.refuseCheck h stNoSpace 0x16 nowhere
        | some s => (s.onCyl fun y => { y with
            staging := some { id := BitVec.ofNat 32 (l.param 8 4), handle := some h, restart := [] } }).working h) := by
  have other : k.status ≠ .verified := by rw [loaded]; decide
  refine carry_of ready ?_
  simp only [found, still, idle]
  refine (if_neg (by rw [loaded]; decide)).trans ((if_neg Bool.false_ne_true).trans ((if_neg Bool.false_ne_true).trans ?_))
  cases s.verifyFault k with
  | none => exact if_neg other
  | some fault => exact if_neg fun all => other all.2.1

/-- What `DRAIN` does of a mode that it knows (R154, R477). -/
theorem execDrain_begins (ready : s.ready h 0x62 l) (mode : l.param 8 1 ≤ 1) (free : s.cyl.drain = 0) :
    execDrain h s = close (
      if s.unarmed then
        (s.onCyl fun y => { y with drain := 2, suspend := decide (l.param 8 1 = 1) }).complete h stOk 0
      else (s.onCyl fun y => { y with drain := 1, drainHandle := some h, suspend := decide (l.param 8 1 = 1) }).working h) :=
  carry_of ready ((if_neg (by omega)).trans ((if_neg (by omega)).trans (if_neg (not_not_intro free))))

theorem execDrain_releases (ready : s.ready h 0x62 l) (mode : l.param 8 1 = 2) (still : s.switchPending = false) :
    execDrain h s = close (if s.unarmed then s.release h else s.atBoundary h) := by
  refine carry_of ready ((if_neg (by omega)).trans ((if_pos mode).trans (if_neg ?_)))
  rw [still]
  exact Bool.false_ne_true

/-- The switch that a `CYL_SWITCH` names. -/
def pendingSwitch (h : BitVec 32) (l : Live) : PendSwitch :=
  { id := BitVec.ofNat 32 (l.param 8 4), handle := h, atStep := BitVec.ofNat 64 (l.param 16 8) }

theorem execCylSwitch_drained (ready : s.ready h 0x63 l) (drained : s.cyl.drain = 2)
    (verified : ((s.cylById (BitVec.ofNat 32 (l.param 8 4))).any fun k => decide (k.status = .verified)) = true)
    (idle : (s.cyl.staging.any fun g => decide (g.id = BitVec.ofNat 32 (l.param 8 4))) = false)
    (still : s.switchPending = false)
    (ahead : ¬ (l.param 16 8 ≠ 0 ∧ (s.unarmed = true ∨ l.param 16 8 ≤ s.cad.step.toNat))) :
    execCylSwitch h s = close (
      if s.unarmed then
        let r := (s.working h).trySwitch (pendingSwitch h l)
        if r.1 then r.2.onCyl fun y => { y with fillHandle := some h, fillActive := true } else r.2
      else (s.working h).onCyl fun y => { y with pend := some (pendingSwitch h l) }) := by
  refine carry_of ready ((if_neg ?_).trans ((if_neg ?_).trans ((if_neg ahead).trans (if_neg ?_))))
  · rw [verified]
    exact fun either => either.elim (· drained) Bool.false_ne_true
  · rw [idle]
    exact Bool.false_ne_true
  · rw [still]
    exact Bool.false_ne_true

theorem trySwitch_known {p : PendSwitch} {k : KnownCyl} (found : s.cylById p.id = some k) :
    s.trySwitch p = match s.switchFault k.image with
      | some (st, code, loc) =>
        (false, ((s.unallocate k.id).onCyl fun y => { y with pend := none }).refuseCheck p.handle st code loc)
      | none => (true, s.switchTo k) := by
  unfold State.trySwitch
  cases fault : s.switchFault k.image <;> simp only [found, fault]

theorem execCylUnload_loaded {k : KnownCyl} (ready : s.ready h 0x64 l)
    (found : s.cylById (BitVec.ofNat 32 (l.param 8 4)) = some k) (loaded : k.status = .loaded) :
    execCylUnload h s = close (((k.frames.foldl (fun s f => s.freeSlotAt 1 f) s).onCyl fun y => { y with
      known := y.known.filter fun x => decide (x.id ≠ k.id) }).complete h stOk 0) := by
  refine carry_of ready ?_
  simp only [found]
  exact if_neg (not_not_intro loaded)
end

/-- Settles O54: by the command, the cylinder that it names, and the checks. -/
theorem cylinderCommands : Obligations.CylinderCommands := by
  refine fun h l s => ⟨fun ready chip space least most room => ?_,
    fun ready chip space least most => ⟨fun full => ?_, fun bs few room read known => ?_⟩,
    fun live opcode phase room img read => ⟨fun code loc refused => ?_, fun passes new fs t frames => ?_⟩,
    fun k ready found loaded still idle => ⟨fun st code loc fault => ?_, fun t passes room => ?_⟩,
    fun ready => ⟨fun mode free armed => ?_, fun mode free unarmed => ?_, fun mode still => ?_⟩,
    fun ready drained verified idle still armed ahead => ?_,
    fun ready drained unarmed now still idle k found verified => ?_,
    fun k ready found loaded => ?_⟩
  · refine (execCylLoad_within ready chip space least most : execCylLoad h s = _).trans ?_
    rw [room]
    rfl
  · refine (execCylLoad_within ready chip space least most : execCylLoad h s = _).trans ?_
    rw [loadBar_full full]
    rfl
  · refine (execCylLoad_within ready chip space least most : execCylLoad h s = _).trans ?_
    rw [loadBar_known few room read known]
    rfl
  · exact (execCylLoadChecked_refused live opcode phase room read refused : execCylLoadChecked h s = _)
  · exact (execCylLoadChecked_kept live opcode phase room read passes new frames : execCylLoadChecked h s = _)
  · refine (execCylVerify_loaded ready found loaded still idle : execCylVerify h s = _).trans (congrArg close ?_)
    rw [fault]
  · intro g
    refine (execCylVerify_loaded ready found loaded still idle : execCylVerify h s = _).trans (congrArg close ?_)
    rw [passes, room]
  · refine (execDrain_begins ready mode free : execDrain h s = _).trans (congrArg close (if_neg ?_))
    rw [armed]
    exact Bool.false_ne_true
  · exact (execDrain_begins ready mode free : execDrain h s = _).trans (congrArg close (if_pos unarmed))
  · exact (execDrain_releases ready mode still : execDrain h s = _)
  · intro g
    refine (execCylSwitch_drained ready drained verified idle still ?_ : execCylSwitch h s = _).trans
      (congrArg close (if_neg ?_))
    · rw [armed]
      rintro ⟨given, early | late⟩
      · exact Bool.false_ne_true early
      · exact ahead.elim given fun later => absurd later (Nat.not_lt.2 late)
    · rw [armed]
      exact Bool.false_ne_true
  · have switch : execCylSwitch h s = close (
        let r := (s.working h).trySwitch (pendingSwitch h l)
        if r.1 then r.2.onCyl fun y => { y with fillHandle := some h, fillActive := true } else r.2) := by
      refine (execCylSwitch_drained ready drained ?_ idle still fun both => both.1 now).trans (congrArg close (if_pos unarmed))
      rw [found]
      exact decide_eq_true verified
    have known := trySwitch_known (s := s.working h) (p := pendingSwitch h l) (k := k) found
    refine ⟨fun passes => ?_, fun st code loc fault => ?_⟩
    · refine (switch : execCylSwitch h s = _).trans (congrArg close ?_)
      rw [known, show (s.working h).switchFault k.image = none from passes]
      rfl
    · refine (switch : execCylSwitch h s = _).trans (congrArg close ?_)
      rw [known, show (s.working h).switchFault k.image = some (st, code, loc) from fault]
      rfl
  · exact (execCylUnload_loaded ready found loaded : execCylUnload h s = _)
end Sys2Proof.Proofs
end

section
/-!
The commands that open, bind and close a context (O55).
-/
namespace Sys2Proof.Proofs
open Sys2Proof.Machine

section Open
variable {h : BitVec 32} {l : Live} {s : State}

/-- The context number that a `CTX_OPEN` takes, if there is one (R303). -/
def openNumber (s : State) (l : Live) : Option Nat :=
  if l.param 8 2 = 0xFFFF then (List.range 1024).find? fun n => decide ((s.ctx n).state = .free) else some (l.param 8 2)

theorem openNumber_none (lowest : l.param 8 2 = 0xFFFF) (full : ∀ i < 1024, (s.ctx i).state ≠ .free) :
    openNumber s l = none := by
  refine (if_pos lowest).trans (List.find?_eq_none.2 fun i within => ?_)
  simpa only [decide_eq_true_eq] using full i (List.mem_range.1 within)

theorem openNumber_some {n : Nat} (free : (s.ctx n).state = .free)
    (named : l.param 8 2 < 1024 ∧ n = l.param 8 2 ∨ l.param 8 2 = 0xFFFF ∧ n < 1024 ∧ ∀ i < n, (s.ctx i).state ≠ .free) :
    openNumber s l = some n := by
  rcases named with ⟨within, rfl⟩ | ⟨lowest, within, first⟩
  · exact if_neg (by omega)
  · refine (if_pos lowest).trans (List.find?_range_eq_some.2 ⟨decide_eq_true free, List.mem_range.2 within, fun i below => ?_⟩)
    rw [decide_eq_false (first i below)]
    rfl

theorem execCtxOpen_full (ready : s.ready h 0x70 l) (fine : openFault l = none) (full : openNumber s l = none) :
    execCtxOpen h s = close (s.complete h stNoSpace 0) := by
  unfold openNumber at full
  refine carry_of ready ?_
  simp only [fine, full]
  rfl

/-- The adapter binding of a `CTX_OPEN` (R263). -/
theorem openAdapter {b : Binding} {ad : Option Binding}
    (adapter : l.param 10 1 = 0 ∧ ad = none ∨
      l.param 10 1 = 1 ∧ ∃ x, s.bindAdapter l b (l.param 16 4) (l.param 20 1) = .ok x ∧ ad = some x) :
    (if l.param 10 1 = 1 then (s.bindAdapter l b (l.param 16 4) (l.param 20 1)).map some else .ok none :
      Except (BitVec 16) (Option Binding)) = .ok ad := by
  rcases adapter with ⟨without, rfl⟩ | ⟨with_, x, bound, rfl⟩
  · exact if_neg (by omega)
  · rw [if_pos with_, bound]
    rfl

theorem execCtxOpen_free {n : Nat} {b : Binding} {ad : Option Binding} (ready : s.ready h 0x70 l) (fine : openFault l = none)
    (number : openNumber s l = some n) (free : (s.ctx n).state = .free)
    (few : (s.func l.func.toNat).limCtx = 0 ∨ (s.ctxsOf l.func).length < (s.func l.func.toNat).limCtx)
    (base : s.bindBase l (l.param 12 4) (l.param 11 1) = .ok b)
    (adapter : (if l.param 10 1 = 1 then (s.bindAdapter l b (l.param 16 4) (l.param 20 1)).map some else .ok none :
      Except (BitVec 16) (Option Binding)) = .ok ad) :
    execCtxOpen h s = close (
      let inc := (s.ctx n).incarnation
      let u := s.onCtx n fun _ => { Context.reset with
        incarnation := (if inc = 0xFF then 1 else inc + 1), state := .idle, func := l.func, base := b, adapter := ad
        ring := BitVec.ofNat 64 (l.param 24 8), ringOrder := l.param 21 1
        vector := if l.param 24 8 = 0 then 0xFFFF else BitVec.ofNat 16 (l.param 22 2)
        kvPages := l.param 40 4, pagePositions := l.param 44 2
        deadline := BitVec.ofNat 64 (l.param 32 8) }
      (u.holdHist n).complete h stOk (u.ctxIdent n)) := by
  have below : ¬ ((s.func l.func.toNat).limCtx ≠ 0 ∧ (s.func l.func.toNat).limCtx ≤ (s.ctxsOf l.func).length) := by omega
  unfold openNumber at number
  refine carry_of ready ?_
  simp only [fine, number, if_neg (not_not_intro free), if_neg below, base, adapter]
end Open

section Context
variable {op : BitVec 8} {h : BitVec 32} {bad : Live → Option Nat} {body : Live → Nat → State → State} {l : Live} {s t : State}

/-- A command of a context in range leaves what its body makes of the state. -/
theorem ctxCommand_of (ready : s.ready h op l) (fine : bad l = none) (open_ : s.ctxBar l = none)
    (e : body l (l.param 8 4 % 1024) s = t) : ctxCommand op h bad body s = .next t.workEnd :=
  (ctxCommand_ready op h bad body s l ready fine open_).trans (congrArg close e)

theorem execFallbackBind_unbinds (ready : s.ready h 0x77 l) (open_ : s.ctxBar l = none)
    (region : s.regionOf (l.param 8 4 % 1024) ≠ 1) (none_ : l.param 12 4 = 0) :
    execFallbackBind h s = close ((s.onCtx (l.param 8 4 % 1024) fun c => { c with fallback := none }).complete h stOk 0) :=
  ctxCommand_of ready (if_pos none_) open_ ((if_neg region).trans (if_pos none_))

theorem execFallbackBind_binds {b : Binding} (ready : s.ready h 0x77 l) (open_ : s.ctxBar l = none)
    (region : s.regionOf (l.param 8 4 % 1024) ≠ 1) (some_ : l.param 12 4 ≠ 0) (least : 1 ≤ l.param 18 2)
    (most : l.param 18 2 ≤ 1024) (positions : l.param 20 2 ≠ 0)
    (bound : s.bindBase l (l.param 12 4) (l.param 16 1) = .ok b) :
    execFallbackBind h s = close ((s.onCtx (l.param 8 4 % 1024) fun c => { c with
      fallback := some b, fbChunk := l.param 18 2, fbPositions := l.param 20 2 }).complete h stOk 0) := by
  refine ctxCommand_of ready ((if_neg some_).trans ((if_neg (by omega)).trans (if_neg positions))) open_
    ((if_neg region).trans ((if_neg some_).trans ?_))
  rw [bound]

/-- What `CANCEL` does of a context in range (R19, R295). -/
theorem execCancel_open (ready : s.ready h 0x73 l) (open_ : s.ctxBar l = none) :
    execCancel h s = close (
      if (s.ctx (l.param 8 4 % 1024)).state = .idle then s.complete h stFinished 0
      else if s.unarmed = true ∧ (s.ctx (l.param 8 4 % 1024)).state = .waiting then
        (s.cancelNow (l.param 8 4 % 1024)).complete h stOk 0
      else (s.atBoundary h).onCtx (l.param 8 4 % 1024) fun c => { c with cancels := c.cancels ++ [h] }) :=
  ctxCommand_of ready rfl open_ rfl

theorem execCtxClose_unarmed (ready : s.ready h 0x74 l) (open_ : s.ctxBar l = none)
    (free : (s.ctx (l.param 8 4 % 1024)).closeHandle = none) (unarmed : s.unarmed = true) :
    execCtxClose h s = close (
      let u := if (s.ctx (l.param 8 4 % 1024)).gen.isSome then s.cancelNow (l.param 8 4 % 1024) else s
      if (u.ctx (l.param 8 4 % 1024)).heldRecs = [] then (u.freeCtx (l.param 8 4 % 1024)).complete h stOk 0
      else (u.atBoundary h).onCtx (l.param 8 4 % 1024) fun c => { c with closeHandle := some h }) := by
  refine ctxCommand_of ready rfl open_ ((if_neg ?_).trans (if_pos unarmed))
  rw [free]
  exact Bool.false_ne_true

theorem execCtxClose_armed (ready : s.ready h 0x74 l) (open_ : s.ctxBar l = none)
    (free : (s.ctx (l.param 8 4 % 1024)).closeHandle = none) (armed : s.unarmed = false) :
    execCtxClose h s = close (
      if ((s.ctx (l.param 8 4 % 1024)).gen.isSome || decide ((s.ctx (l.param 8 4 % 1024)).state = .running) ||
          decide ((s.ctx (l.param 8 4 % 1024)).heldRecs ≠ [])) = true ∨ (!s.isServing) = true then
        (s.atBoundary h).onCtx (l.param 8 4 % 1024) fun c => { c with closeHandle := some h }
      else (s.freeCtx (l.param 8 4 % 1024)).complete h stOk 0) := by
  refine ctxCommand_of ready rfl open_ ((if_neg ?_).trans (if_neg ?_))
  · rw [free]
    exact Bool.false_ne_true
  · rw [armed]
    exact Bool.false_ne_true

/-- What keeps a context from being freed at once (R295). -/
theorem closeWaits_iff {c : Context} {serving : Bool} :
    ((c.gen.isSome || decide (c.state = .running) || decide (c.heldRecs ≠ [])) = true ∨ (!serving) = true) ↔
      (c.gen.isSome = true ∨ c.state = .running ∨ c.heldRecs ≠ [] ∨ serving = false) := by
  simp only [Bool.or_eq_true, decide_eq_true_eq, Bool.not_eq_true', or_assoc]
end Context

/-- Settles O55: by the command and the state of the context. -/
theorem contextCommands : Obligations.ContextCommands := by
  refine fun h l s => ⟨fun ready fine lowest full => ?_, fun n b ad ready fine named free few base adapter => ?_,
    fun ready open_ region => ⟨fun none_ => ?_, fun b some_ least most positions bound => ?_⟩, fun ready open_ => ?_,
    fun ready open_ => ⟨fun idle => ?_, fun waiting unarmed => ?_, fun busy armed => ?_⟩,
    fun ready open_ free unarmed => ?_,
    fun ready open_ free armed => ⟨fun idle still written serving => ?_, fun waits => ?_⟩⟩
  · exact (execCtxOpen_full ready fine (openNumber_none lowest full) : execCtxOpen h s = _)
  · exact (execCtxOpen_free ready fine (openNumber_some free named) free few base (openAdapter adapter) : execCtxOpen h s = _)
  · exact (execFallbackBind_unbinds ready open_ region none_ : execFallbackBind h s = _)
  · exact (execFallbackBind_binds ready open_ region some_ least most positions bound : execFallbackBind h s = _)
  · exact (ctxCommand_of ready rfl open_ rfl : execDeadlineSet h s = _)
  · exact (execCancel_open ready open_ : execCancel h s = _).trans (congrArg close (if_pos idle))
  · exact (execCancel_open ready open_ : execCancel h s = _).trans (congrArg close
      ((if_neg (by rw [waiting]; decide)).trans (if_pos ⟨unarmed, waiting⟩)))
  · refine (execCancel_open ready open_ : execCancel h s = _).trans (congrArg close ((if_neg busy).trans (if_neg fun both => ?_)))
    exact absurd (armed.symm.trans both.1) Bool.false_ne_true
  · exact (execCtxClose_unarmed ready open_ free unarmed : execCtxClose h s = _)
  · refine (execCtxClose_armed ready open_ free armed : execCtxClose h s = _).trans (congrArg close (if_neg fun waits => ?_))
    rcases closeWaits_iff.1 waits with generating | running | held | other
    · rw [idle] at generating
      exact Bool.false_ne_true generating
    · exact still running
    · exact held written
    · exact absurd (other.symm.trans serving) Bool.false_ne_true
  · exact (execCtxClose_armed ready open_ free armed : execCtxClose h s = _).trans
      (congrArg close (if_pos (closeWaits_iff.2 waits)))
end Sys2Proof.Proofs
end

section
/-!
The commands of a generation, and those of a parked context and its images (O56, O57).
-/
namespace Sys2Proof.Proofs
open Sys2Proof.Machine

section Generation
variable {h : BitVec 32} {l : Live} {s : State} {ts : List (BitVec 32)}

/-- The addition that a `PROMPT_SUBMIT` or an `APPEND` makes (R277). -/
def inputOf (h : BitVec 32) (append closes : Bool) (ts : List (BitVec 32)) : Addition :=
  { handle := h, append := append, closes := closes, tokens := ts, acked := true, announced := false, refused := false }

theorem execPromptSubmit_accepted (ready : s.ready h 0x71 l) (open_ : s.ctxBar l = none) (least : 1 ≤ l.param 12 2)
    (most : l.param 12 2 ≤ 1024) (mode : l.param 14 1 ≤ 1) (count : l.param 16 4 ≤ 65535) (max : l.param 20 4 ≤ 65535)
    (fits : (s.ctx (l.param 8 4 % 1024)).foreseen + l.param 16 4 ≤ 65535)
    (some_ : l.param 16 4 ≠ 0 ∨ (s.ctx (l.param 8 4 % 1024)).foreseen ≠ 0)
    (room : ceilDiv (min 65535 ((s.ctx (l.param 8 4 % 1024)).foreseen + l.param 16 4 + l.param 20 4))
      (s.ctx (l.param 8 4 % 1024)).pagePositions ≤ (s.ctx (l.param 8 4 % 1024)).kvPages)
    (ring : l.param 20 4 = 0 ∨ (s.ctx (l.param 8 4 % 1024)).ring ≠ 0) (served : s.served (s.ctx (l.param 8 4 % 1024)) = true)
    (tokens : s.tokenList l.func.toNat (l.param 24 8) (l.param 16 4) = some ts) :
    execPromptSubmit h s = close (
      let n := l.param 8 4 % 1024
      let u := s.onCtx n fun c => { c with
        state := .waiting, waitSince := s.srv.waitClock
        deadline := if l.param 32 8 = 0 then c.deadline else BitVec.ofNat 64 (l.param 32 8)
        gen := some { Gen.reset with handle := h, maxTokens := l.param 20 4, chunk := l.param 12 2, open_ := true } }
      let u := u.onSrv fun v => { v with waitClock := v.waitClock + 1 }
      (u.atBoundary h).addInput n (inputOf h false (decide (l.param 14 1 = 0)) ts)) := by
  refine ctxCommand_of ready ((if_neg (by omega)).trans ((if_neg (by omega)).trans ((if_neg (by omega)).trans
    (if_neg (by omega))))) open_ ((if_neg (Nat.not_lt.2 fits)).trans ((if_neg ?_).trans ((if_neg (Nat.not_lt.2 room)).trans
      ((if_neg ?_).trans ((if_neg ?_).trans ?_)))))
  · exact fun both => some_.elim (· both.1) (· both.2)
  · exact fun both => ring.elim both.1 (· both.2)
  · rw [served]
    exact Bool.false_ne_true
  · rw [tokens]
    rfl

theorem execAppend_accepted (ready : s.ready h 0x72 l) (open_ : s.ctxBar l = none) (mode : l.param 14 1 ≤ 1)
    (count : l.param 16 4 ≤ 65535) (generates : (s.ctx (l.param 8 4 % 1024)).gen.any (·.open_) = true)
    (takes : (s.ctx (l.param 8 4 % 1024)).additions.any (·.closes) = false)
    (fits : (s.ctx (l.param 8 4 % 1024)).foreseen + l.param 16 4 ≤ 65535)
    (room : ceilDiv (min 65535 ((s.ctx (l.param 8 4 % 1024)).foreseen + l.param 16 4 +
      (s.ctx (l.param 8 4 % 1024)).remaining)) (s.ctx (l.param 8 4 % 1024)).pagePositions ≤
        (s.ctx (l.param 8 4 % 1024)).kvPages)
    (tokens : s.tokenList l.func.toNat (l.param 24 8) (l.param 16 4) = some ts) :
    execAppend h s = close ((s.atBoundary h).addInput (l.param 8 4 % 1024)
      (inputOf h true (decide (l.param 14 1 = 1)) ts)) := by
  refine ctxCommand_of ready ((if_neg (by omega)).trans (if_neg (by omega))) open_
    ((if_neg ?_).trans ((if_neg ?_).trans ?_))
  · rw [generates, takes]
    exact Bool.false_ne_true
  · exact fun either => either.elim (Nat.not_lt.2 fits) (Nat.not_lt.2 room)
  · rw [tokens]
    rfl

/-- The entries of a `BATCH_STEP`, eight bytes each (R304). -/
def batchEntries (l : Live) (bs : List (BitVec 8)) : List (List (BitVec 8)) :=
  (List.range (l.param 16 2)).map fun i => (bs.drop (8 * i)).take 8

theorem execBatchStep_accepted {bs : List (BitVec 8)} (ready : s.ready h 0x7A l) (least : 1 ≤ l.param 16 2)
    (most : l.param 16 2 ≤ 256) (formed : s.hostFormed = true) (ahead : s.stepAhead (l.param 8 8) = true)
    (free : (s.srv.batches.any fun b => !b.applied && decide (b.atStep.toNat = l.param 8 8)) = false)
    (read : s.hostRead l.func.toNat (l.param 24 8) (8 * l.param 16 2) = some bs)
    (fine : ((batchEntries l bs).mapIdx fun i e =>
      (batchFault (imgHeader s.active).slots e).map fun o => 8 * i + o).findSome? id = none) :
    execBatchStep h s = close ((s.atBoundary h).onSrv fun v => { v with batches := v.batches ++
      [{ handle := h, atStep := BitVec.ofNat 64 (l.param 8 8), applied := false, skippedN := 0
         entries := (batchEntries l bs).map fun e => (fieldAt e 0 2, fieldAt e 2 1, BitVec.ofNat 32 (fieldAt e 4 4)) }] }) := by
  unfold batchEntries at fine ⊢
  refine carry_of ready ?_
  simp only [if_neg (by omega : ¬ (l.param 16 2 < 1 ∨ 256 < l.param 16 2)), formed, ahead, free, read, fine, Bool.not_true,
    Bool.false_eq_true, if_false]
end Generation

/-- Settles O56: by the command, whose parameters are in range. -/
theorem generationCommands : Obligations.GenerationCommands := by
  intro h l s ts n c
  refine ⟨fun ready open_ least most mode count max fits some_ room ring served tokens => ?_,
    fun ready open_ mode count generates takes fits room tokens => ?_,
    fun bs ready least most formed ahead free read => ?_⟩
  · exact (execPromptSubmit_accepted ready open_ least most mode count max fits some_ room ring served tokens :
      execPromptSubmit h s = _)
  · exact (execAppend_accepted ready open_ mode count generates takes fits room tokens : execAppend h s = _)
  · intro es fine b
    exact (execBatchStep_accepted ready least most formed ahead free read fine : execBatchStep h s = _)

section Park
variable {h : BitVec 32} {l : Live} {s : State}

theorem execCtxPark_accepted (ready : s.ready h 0x75 l) (open_ : s.ctxBar l = none) (some_ : l.param 16 8 ≠ 0)
    (short : l.param 16 8 < 2 ^ 56) :
    execCtxPark h s = close (
      let n := l.param 8 4 % 1024
      let u := s.onCtx n fun c => { c with
        state := .moving, moveHandle := some h, ttl2At := some (l.param 16 8), ttl3At := none
        ttl3 := BitVec.ofNat 64 (l.param 24 8) }
      (u.working h).startJob { PageJob.reset with purpose := .park n, tier := 2 } (u.ctx n).pageList) :=
  ctxCommand_of ready (if_neg fun either => either.elim some_ (Nat.not_le.2 short)) open_ rfl

theorem execCtxResume_expired (ready : s.ready h 0x76 l) (open_ : s.ctxBar l = none)
    (expired : (s.ctx (l.param 8 4 % 1024)).state = .expired) :
    execCtxResume h s = close (((s.onCtx (l.param 8 4 % 1024) fun c => { c with
      state := .idle, hist := 0, len := 0, lenFb := 0, fbVersion := none }).holdHist (l.param 8 4 % 1024)).complete h
        stTtlExpired 0) :=
  ctxCommand_of ready rfl open_ (if_pos expired)

theorem execCtxResume_parked (ready : s.ready h 0x76 l) (open_ : s.ctxBar l = none)
    (kept : (s.ctx (l.param 8 4 % 1024)).state ≠ .expired) (near : (s.ctx (l.param 8 4 % 1024)).toTier3 = false) :
    execCtxResume h s = close (
      let n := l.param 8 4 % 1024
      let left (t : Option Nat) : Nat := (t.map fun x => max 1 (x - s.now)).getD 0
      ((s.onCtx n fun c => { c with
        state := .moving, moveHandle := some h, ttlLeft := some (left (s.ctx n).ttl2At, left (s.ctx n).ttl3At)
        ttl2At := none, ttl3At := none }).working h).beginResume n) :=
  ctxCommand_of ready rfl open_ ((if_neg kept).trans (if_neg (by rw [near]; exact Bool.false_ne_true)))

theorem execKvExport_image (ready : s.ready h 0x78 l) (open_ : s.ctxBar l = none) (fine : s.kvFault l 0 [2, 5] = none)
    (mode : l.param 12 1 = 1) :
    execKvExport h s = close ((s.working h).onCtx (l.param 8 4 % 1024) fun c => { c with
      state := .moving, moveHandle := some h
      imageAddr := some (BitVec.ofNat 64 (l.param 24 8), BitVec.ofNat 32 (l.param 20 4)) }) := by
  refine ctxCommand_of ready fine open_ ?_
  simp only [if_pos mode]

theorem execKvExport_chip (ready : s.ready h 0x78 l) (open_ : s.ctxBar l = none) (fine : s.kvFault l 0 [2, 5] = none)
    (mode : l.param 12 1 ≠ 1) :
    execKvExport h s = close (((s.working h).onCtx (l.param 8 4 % 1024) fun c => { c with
      state := .moving, moveHandle := some h, imageAddr := none }).startJob { PageJob.reset with
        purpose := .export_ (l.param 8 4 % 1024), tier := 1, chip := some (BitVec.ofNat 12 (l.param 14 2)) }
          ((s.ctx (l.param 8 4 % 1024)).kvList ++ (s.ctx (l.param 8 4 % 1024)).histCarried.toList)) := by
  refine ctxCommand_of ready fine open_ ?_
  simp only [if_neg mode]

theorem execKvImport_empty (ready : s.ready h 0x79 l) (open_ : s.ctxBar l = none) (fine : s.kvFault l 1 [2, 3, 5] = none)
    (empty : (s.ctx (l.param 8 4 % 1024)).foreseen = 0) :
    execKvImport h s = close (((s.working h).dropHist (l.param 8 4 % 1024)).onCtx (l.param 8 4 % 1024) fun c => { c with
      state := .moving, moveHandle := some h
      importFrom := if l.param 12 1 = 1 then
        some (BitVec.ofNat 12 (l.param 14 2), BitVec.ofNat 32 (l.param 16 4), BitVec.ofNat 32 (l.param 20 4)) else none
      imageAddr := if l.param 12 1 = 1 then none
        else some (BitVec.ofNat 64 (l.param 24 8), BitVec.ofNat 32 (l.param 20 4)) }) :=
  ctxCommand_of ready fine open_ (if_neg (not_not_intro empty))

section Image
variable {tick k : Nat} {g : BitVec 64} {layout : BitVec 32} (live : (s.at_ tick).liveOf h = some l)
  (found : ((s.at_ tick).openCtxs.find? fun n => decide (((s.at_ tick).ctx n).moveHandle = some h) &&
    ((s.at_ tick).ctx n).imageAddr.isSome) = some k)
  (place : ((s.at_ tick).ctx k).imageAddr = some (g, layout))
include live found place

theorem execKvImageTransferDone_written {ps : List (Bool × Bool × Mem)} {t : State} (opcode : l.opcode = 0x78)
    (carried : (s.at_ tick).kvCarried k = some ps)
    (written : (s.at_ tick).putImage l.func.toNat g (kvRuns ((s.at_ tick).ctx k) layout ps) = some t) :
    execKvImageTransferDone h tick s = close ((t.exported k).complete h stOk 0) := by
  unfold execKvImageTransferDone
  simp only [found, live, place, Option.getD_some, opcode, if_true, carried, written]

/-- The context of an image transfer that is over. -/
def imageIdle (k : Nat) (s : State) : State :=
  (s.onCtx k fun c => { c with state := .idle, moveHandle := none, imageAddr := none }).holdHist k

theorem execKvImageTransferDone_read {t : State} (opcode : l.opcode = 0x79)
    (read : (s.at_ tick).importImage l.func.toNat k ((s.at_ tick).ctx k).kvPages g layout = .ok t) :
    execKvImageTransferDone h tick s = close ((imageIdle k t).complete h stOk 0) := by
  have other : ¬ l.opcode = 0x78 := by rw [opcode]; decide
  unfold execKvImageTransferDone imageIdle
  simp only [found, live, place, Option.getD_some, if_neg other, read]

theorem execKvImageTransferDone_refused {e : ReadFail} (opcode : l.opcode = 0x79)
    (read : (s.at_ tick).importImage l.func.toNat k ((s.at_ tick).ctx k).kvPages g layout = .error e) :
    execKvImageTransferDone h tick s =
      close ((imageIdle k ((s.at_ tick).noteFail e).drawn).complete h e.1 e.2.1) := by
  have other : ¬ l.opcode = 0x78 := by rw [opcode]; decide
  unfold execKvImageTransferDone imageIdle
  simp only [found, live, place, Option.getD_some, if_neg other, read]
end Image
end Park

/-- Settles O57: by the command, and by what the transfer of an image comes to. -/
theorem parkCommands : Obligations.ParkCommands := by
  intro h l s n
  refine ⟨fun ready open_ some_ short => ?_, fun ready open_ => ⟨fun expired => ?_, fun kept near => ?_⟩,
    fun ready open_ fine mode => ?_, fun ready open_ fine mode => ?_, fun ready open_ fine mode empty => ?_,
    fun ready open_ fine mode empty => ?_, fun tick k g layout live found place => ?_⟩
  · exact (execCtxPark_accepted ready open_ some_ short : execCtxPark h s = _)
  · exact (execCtxResume_expired ready open_ expired : execCtxResume h s = _)
  · exact (execCtxResume_parked ready open_ kept near : execCtxResume h s = _)
  · exact (execKvExport_image ready open_ fine mode : execKvExport h s = _)
  · exact (execKvExport_chip ready open_ fine mode : execKvExport h s = _)
  · refine (execKvImport_empty ready open_ fine empty : execKvImport h s = _).trans ?_
    simp only [if_pos mode]
    rfl
  · refine (execKvImport_empty ready open_ fine empty : execKvImport h s = _).trans ?_
    simp only [if_neg (by omega : ¬ l.param 12 1 = 1)]
    rfl
  · intro idle
    refine ⟨fun ps t opcode carried written => ?_, fun t opcode read => ?_, fun e opcode read => ?_⟩
    · exact (execKvImageTransferDone_written live found place opcode carried written : execKvImageTransferDone h tick s = _)
    · exact (execKvImageTransferDone_read live found place opcode read : execKvImageTransferDone h tick s = _)
    · exact (execKvImageTransferDone_refused live found place opcode read : execKvImageTransferDone h tick s = _)
end Sys2Proof.Proofs
end

section
/-!
The commands of the links, the fences, the calibration, the health and the functions (O58 to O60).
-/
namespace Sys2Proof.Proofs
open Sys2Proof.Machine

section Links
variable {h : BitVec 32} {l : Live} {s : State}

theorem execLinkStatus_report (live : s.liveOf h = some l) (phase : l.phase = .accepted) (opcode : l.opcode = 0x90)
    (action : l.param 8 1 = 0) :
    execLinkStatus h s = close (((s.hostWrite l.func.toNat (l.param 16 8) (s.fab.ports.flatMap Port.record)).onFab fun f =>
      { f with ports := f.ports.map fun x => { x with corrRep := 0, uncorrRep := 0 } }).complete h stOk 0) := by
  refine carry_open_of live opcode phase ?_
  simp only [action]

theorem execLinkStatus_retrain (ready : s.ready h 0x90 l) (action : l.param 8 1 = 1) :
    execLinkStatus h s = close (
      let mask := BitVec.ofNat 16 (l.param 12 2)
      let u := (List.range 16).foldl (fun s p =>
        if mask.getLsbD p then (s.portLost p).onPort p fun x => { x.train with attempts := 0 } else s) s
      ((u.working h).onFab fun f => { f with retrain := f.retrain ++ [(h, mask)] }).retrainDone) := by
  obtain ⟨live, opcode, phase, configured⟩ := ready
  refine carry_open_of live opcode phase ?_
  simp only [action, configured, Bool.not_true, Bool.false_eq_true, if_false]

theorem execPlaneMask_within (ready : s.ready h 0x92 l) (some_ : BitVec.ofNat 16 (l.param 8 2) ≠ 0)
    (enough : s.cylOf .active = none ∨ 15 ≤ popCount (BitVec.ofNat 16 (l.param 8 2))) :
    execPlaneMask h s = close (if s.unarmed then
      (s.onFab fun f => { f with mask := Voted.all (BitVec.ofNat 16 (l.param 8 2)) }).complete h stOk 0
      else s.atBoundary h) := by
  refine carry_of ready ((if_neg some_).trans (if_neg fun both => ?_))
  rcases enough with none_ | many
  · rw [none_] at both
    exact Bool.false_ne_true both.1
  · exact absurd both.2 (Nat.not_lt.2 many)
end Links

/-- Settles O58: by the action, and by whether the mask may be put in force. -/
theorem linkCommands : Obligations.LinkCommands := by
  refine fun h l s => ⟨fun live phase opcode action => ?_, fun ready action => ?_, fun ready some_ enough => ?_⟩
  · exact (execLinkStatus_report live phase opcode action : execLinkStatus h s = _)
  · exact (execLinkStatus_retrain ready action : execLinkStatus h s = _)
  · exact (execPlaneMask_within ready some_ enough : execPlaneMask h s = _)

section Fences
variable {h : BitVec 32} {l : Live} {s : State}

theorem fenceBody_within (row : l.param 8 1 ≤ 23) (die : l.param 9 1 ≤ 1) (column : l.param 10 1 ≤ 32) (last : l.param 11 1 ≤ 1) :
    fenceBody h l s = s.atBoundary h :=
  (if_neg (by omega)).trans ((if_neg (by omega)).trans ((if_neg (by omega)).trans (if_neg (by omega))))

theorem fenceBody_out (out : ¬ (l.param 8 1 ≤ 23 ∧ l.param 9 1 ≤ 1 ∧ l.param 10 1 ≤ 32 ∧ l.param 11 1 ≤ 1)) :
    fenceBody h l s = s.complete h stBadParam
      (if 23 < l.param 8 1 then 8 else if 1 < l.param 9 1 then 9 else if 32 < l.param 10 1 then 10 else 11) := by
  unfold fenceBody
  split_ifs
  case neg => omega
  all_goals rfl

/-- The parameters of a `CALIBRATE` are in range (R454). -/
def CalibrateWithin (l : Live) : Prop :=
  l.param 8 1 ≤ 7 ∧ 1 ≤ l.param 9 1 ∧ l.param 9 1 ≤ 3 ∧ l.param 10 1 ≤ 1 ∧
    (l.param 12 4 = 0 ∨ 16 ≤ l.param 12 4 ∧ l.param 12 4 ≤ 1048576)

/-- What `CALIBRATE` does of parameters in range (R451, R454). -/
def calibrateWithin (h : BitVec 32) (l : Live) (s : State) : State :=
  if s.pwr.cal.isSome ∨ (s.cmd.live.any fun x => decide (x.2.opcode = 0xA2) && decide (x.2.phase ≠ .accepted)) then
    s.complete h stBusy 0
  else if s.unarmed ∨ l.param 8 1 ≠ s.pwr.inForce.toNat ∨ s.pwr.transition.isSome ∨ s.target ≠ s.pwr.inForce ∨
      s.pwr.skipping ∨ (s.sys.lock.value.getLsbD 1 ∧ !decide (l.param 10 1 = 1)) then s.complete h stNotAllowed 0
  else s.atBoundary h

theorem execCalibrate_within (ready : s.ready h 0xA2 l) (within : CalibrateWithin l) :
    execCalibrate h s = close (calibrateWithin h l s) := by
  obtain ⟨op, least, most, dry, dwell⟩ := within
  exact carry_of ready ((if_neg (by omega)).trans ((if_neg (by omega)).trans ((if_neg (by omega)).trans (if_neg (by omega)))))

theorem execCalibrate_out (ready : s.ready h 0xA2 l) (out : ¬ CalibrateWithin l) :
    execCalibrate h s = close (s.complete h stBadParam (if 7 < l.param 8 1 then 8
      else if l.param 9 1 < 1 ∨ 3 < l.param 9 1 then 9 else if 1 < l.param 10 1 then 10 else 12)) := by
  unfold CalibrateWithin at out
  refine carry_of ready ?_
  by_cases op : 7 < l.param 8 1
  · simp only [if_pos op]
  · by_cases dies : l.param 9 1 < 1 ∨ 3 < l.param 9 1
    · simp only [if_neg op, if_pos dies]
    · by_cases dry : 1 < l.param 10 1
      · simp only [if_neg op, if_neg dies, if_pos dry]
      · have dwell : l.param 12 4 ≠ 0 ∧ (l.param 12 4 < 16 ∨ 1048576 < l.param 12 4) := by omega
        simp only [if_neg op, if_neg dies, if_neg dry, if_pos dwell]

section Free
variable (idle : s.pwr.cal = none)
  (alone : (s.cmd.live.any fun x => decide (x.2.opcode = 0xA2) && decide (x.2.phase ≠ .accepted)) = false)
include idle alone

theorem calibrate_free : ¬ (s.pwr.cal.isSome = true ∨
    (s.cmd.live.any fun x => decide (x.2.opcode = 0xA2) && decide (x.2.phase ≠ .accepted)) = true) := by
  rw [idle, alone]
  exact not_or_intro Bool.false_ne_true Bool.false_ne_true

theorem calibrateWithin_unarmed (unarmed : s.unarmed = true) : calibrateWithin h l s = s.complete h stNotAllowed 0 :=
  (if_neg (calibrate_free idle alone)).trans (if_pos (.inl unarmed))

theorem calibrateWithin_inForce (armed : s.unarmed = false) (inForce : l.param 8 1 = s.pwr.inForce.toNat)
    (still : s.pwr.transition = none) (target : s.target = s.pwr.inForce) (full : s.pwr.skipping = false)
    (open_ : s.sys.lock.value.getLsbD 1 = false ∨ l.param 10 1 = 1) : calibrateWithin h l s = s.atBoundary h := by
  refine (if_neg (calibrate_free idle alone)).trans (if_neg ?_)
  rw [armed, still, full]
  rintro (early | other | moving | aimed | skips | ⟨locked, wet⟩)
  · exact Bool.false_ne_true early
  · exact other inForce
  · exact Bool.false_ne_true moving
  · exact aimed target
  · exact Bool.false_ne_true skips
  · rcases open_ with unlocked | dry
    · exact absurd (unlocked.symm.trans locked) Bool.false_ne_true
    · rw [decide_eq_true dry] at wet
      exact Bool.false_ne_true wet
end Free

theorem execHealthRead_mode (live : s.liveOf h = some l) (phase : l.phase = .accepted) (opcode : l.opcode = 0xA4)
    (mode : l.param 8 1 ≤ 1) :
    execHealthRead h s = close ((if l.param 8 1 = 1 then
      (s.hostWrite l.func.toNat (l.param 16 8) s.healthRecord).onHlt Health.clear
      else s.hostWrite l.func.toNat (l.param 16 8) s.healthRecord).complete h stOk 0) :=
  carry_open_of live opcode phase (if_neg (Nat.not_lt.2 mode))
end Fences

/-- Settles O59: by the ranges of the parameters and by what runs. -/
theorem fenceAndHealthCommands : Obligations.FenceAndHealthCommands := by
  refine fun h l s => ⟨fun row die column last => ⟨fun ready => ?_, fun ready => ?_⟩, fun out => ?_, fun ready out => ?_,
    fun ready op least most dry dwell idle alone => ?_, fun live phase opcode => ?_,
    fun live phase opcode => ⟨fun mode => ?_, fun mode => ?_⟩⟩
  · exact (carry_of ready (fenceBody_within row die column last) : execFenceCell h s = _)
  · exact (carry_of ready (fenceBody_within row die column last) : execUnfenceCell h s = _)
  · intro o
    exact ⟨fun ready => (carry_of ready (fenceBody_out out) : execFenceCell h s = _),
      fun ready => (carry_of ready (fenceBody_out out) : execUnfenceCell h s = _)⟩
  · exact (execCalibrate_out ready out : execCalibrate h s = _)
  · have within : execCalibrate h s = close (calibrateWithin h l s) :=
      execCalibrate_within ready ⟨op, least, most, dry, dwell⟩
    exact ⟨fun unarmed => within.trans (congrArg close (calibrateWithin_unarmed idle alone unarmed)),
      fun armed inForce still target full open_ =>
        within.trans (congrArg close (calibrateWithin_inForce idle alone armed inForce still target full open_))⟩
  · exact (carry_open_of live opcode phase rfl : execCalStatus h s = _)
  · exact (execHealthRead_mode live phase opcode (by omega) : execHealthRead h s = _).trans
      (congrArg (fun t => close (State.complete h stOk 0 t)) (if_neg (by omega)))
  · exact (execHealthRead_mode live phase opcode (by omega) : execHealthRead h s = _).trans
      (congrArg (fun t => close (State.complete h stOk 0 t)) (if_pos mode))

section Functions
variable {op : BitVec 8} {h : BitVec 32} {body : Live → Nat → State → State} {l : Live} {s t : State}

/-- A command of a function in range leaves what its body makes of the state. -/
theorem funcCommand_of (ready : s.ready h op l) (least : 1 ≤ l.param 8 1) (most : l.param 8 1 ≤ 15)
    (e : body l (l.param 8 1) s = t) : funcCommand op h body s = close t :=
  (funcCommand_ready op h body s l ready least most).trans (congrArg close e)

theorem funcCommand_out (ready : s.ready h op l) (out : ¬ (1 ≤ l.param 8 1 ∧ l.param 8 1 ≤ 15)) :
    funcCommand op h body s = close (s.complete h stBadParam 8) :=
  carry_of ready (if_pos (by omega))

theorem hold_free {f : Nat} {enable : Bool} (free : (s.func f).held = none) (off : (s.func f).heldEnable = false)
    (once : (s.func f).again = false) :
    s.hold f h enable = (s.working h).onFunc f fun x => { x with held := some h, heldEnable := enable } := by
  refine if_neg ?_
  rw [free, off, once]
  decide

theorem hold_busy {f : Nat} {enable : Bool}
    (held : (s.func f).held.isSome = true ∨ (s.func f).heldEnable = true ∨ (s.func f).again = true) :
    s.hold f h enable = s.complete h stBusy 0 := if_pos held

section Enable
variable (ready : s.ready h 0xC0 l) (least : 1 ≤ l.param 8 1) (most : l.param 8 1 ≤ 15)
include ready least most

theorem execFuncEnable_off (state : (s.func (l.param 8 1)).state = .off) :
    execFuncEnable h s = close (((s.working h).setLimits (l.param 8 1) l).startFunc (l.param 8 1) [h]) := by
  refine funcCommand_of ready least most ?_
  rw [state]

theorem execFuncEnable_starting (state : (s.func (l.param 8 1)).state = .starting) :
    execFuncEnable h s = close (((s.working h).setLimits (l.param 8 1) l).onFunc (l.param 8 1) fun x => { x with
      starters := x.starters ++ [h] }) := by
  refine funcCommand_of ready least most ?_
  rw [state]

theorem execFuncEnable_on (state : (s.func (l.param 8 1)).state = .on) :
    execFuncEnable h s = close ((s.setLimits (l.param 8 1) l).complete h stOk 0) := by
  refine funcCommand_of ready least most ?_
  rw [state]

theorem execFuncEnable_stopping (state : (s.func (l.param 8 1)).state = .stopping) :
    execFuncEnable h s = close (s.hold (l.param 8 1) h true) := by
  refine funcCommand_of ready least most ?_
  rw [state]

theorem execFuncEnable_wedged (state : (s.func (l.param 8 1)).state = .wedged) :
    execFuncEnable h s = close (s.complete h stNotAllowed 0) := by
  refine funcCommand_of ready least most ?_
  rw [state]
end Enable

section Disable
variable (ready : s.ready h 0xC1 l) (least : 1 ≤ l.param 8 1) (most : l.param 8 1 ≤ 15)
include ready least most

theorem execFuncDisable_off (state : (s.func (l.param 8 1)).state = .off) :
    execFuncDisable h s = close (s.complete h stOk 0) := by
  refine funcCommand_of ready least most ?_
  rw [state]

theorem execFuncDisable_on (state : (s.func (l.param 8 1)).state = .on) :
    execFuncDisable h s = close ((s.working h).stopFunc (l.param 8 1) (some h)) := by
  refine funcCommand_of ready least most ?_
  rw [state]

theorem execFuncDisable_changing
    (state : (s.func (l.param 8 1)).state = .starting ∨ (s.func (l.param 8 1)).state = .stopping) :
    execFuncDisable h s = close (s.hold (l.param 8 1) h false) := by
  refine funcCommand_of ready least most ?_
  rcases state with starting | stopping
  · rw [starting]
  · rw [stopping]

theorem execFuncDisable_wedged (state : (s.func (l.param 8 1)).state = .wedged) :
    execFuncDisable h s = close (s.complete h stNotAllowed 0) := by
  refine funcCommand_of ready least most ?_
  rw [state]
end Disable

/-- A choice on any of three bits. -/
theorem ite_or_or {α : Sort*} (a b c : Bool) (x y : α) :
    (if a = true ∨ b = true ∨ c = true then x else y) = if (a || b || c) = true then x else y := by
  cases a <;> cases b <;> cases c <;> rfl

theorem execFuncStatus_allowed (live : s.liveOf h = some l) (phase : l.phase = .accepted) (opcode : l.opcode = 0xC2)
    (most : l.param 8 1 ≤ 15) (own : l.func = 0 ∨ l.func.toNat = l.param 8 1) :
    execFuncStatus h s = close (s.complete h stOk (BitVec.ofNat 32 ((s.func (l.param 8 1)).state.code +
      (if (s.func (l.param 8 1)).held.isSome || (s.func (l.param 8 1)).heldEnable || (s.func (l.param 8 1)).again then 16
        else 0) +
      65536 * min 65535 (s.cmd.live.filter fun p => decide (p.2.func.toNat = l.param 8 1)).length))) := by
  refine carry_open_of live opcode phase ((if_neg ?_).trans ?_)
  · rintro (large | ⟨other, foreign⟩)
    · exact absurd large (Nat.not_lt.2 most)
    · exact own.elim other foreign
  · simp only [ite_or_or]
end Functions

/-- Settles O60: by the command and the state of the function. -/
theorem functionCommands : Obligations.FunctionCommands := by
  intro h l s f
  refine ⟨fun ready least most => ⟨fun off => ?_, fun starting => ?_, fun on => ?_, fun stopping free off once => ?_,
      fun stopping held => ?_, fun wedged => ?_⟩,
    fun ready least most => ⟨fun off => ?_, fun on => ?_, fun changing free off once => ?_, fun changing held => ?_,
      fun wedged => ?_⟩,
    fun out => ⟨fun ready => ?_, fun ready => ?_⟩, fun live phase opcode most own => ?_⟩
  · exact (execFuncEnable_off ready least most off : execFuncEnable h s = _)
  · exact (execFuncEnable_starting ready least most starting : execFuncEnable h s = _)
  · exact (execFuncEnable_on ready least most on : execFuncEnable h s = _)
  · exact (execFuncEnable_stopping ready least most stopping : execFuncEnable h s = _).trans
      (congrArg close (hold_free free off once))
  · exact (execFuncEnable_stopping ready least most stopping : execFuncEnable h s = _).trans (congrArg close (hold_busy held))
  · exact (execFuncEnable_wedged ready least most wedged : execFuncEnable h s = _)
  · exact (execFuncDisable_off ready least most off : execFuncDisable h s = _)
  · exact (execFuncDisable_on ready least most on : execFuncDisable h s = _)
  · exact (execFuncDisable_changing ready least most changing : execFuncDisable h s = _).trans
      (congrArg close (hold_free free off once))
  · exact (execFuncDisable_changing ready least most changing : execFuncDisable h s = _).trans
      (congrArg close (hold_busy held))
  · exact (execFuncDisable_wedged ready least most wedged : execFuncDisable h s = _)
  · exact (funcCommand_out ready out : execFuncEnable h s = _)
  · exact (funcCommand_out ready out : execFuncDisable h s = _)
  · exact (execFuncStatus_allowed live phase opcode most own : execFuncStatus h s = _)
end Sys2Proof.Proofs
end

section
/-!
FACTS ABOUT THE ENCODINGS. Each format of a sub-slot word (R113, R137 to R140) is a concatenation of its fields: the fields
of an encoded word are those encoded, and the fields read from a word put it together again. O12 and O13 follow, operation
by operation.
-/
namespace Sys2Proof.Proofs
open Sys2Proof.Machine

/-! ### Fields of a word -/

/-- Two adjacent fields of a word are one field. -/
theorem append_fields {n : Nat} (w : BitVec n) {a b k l : Nat} (h : b = a + l) :
    w.extractLsb' b k ++ w.extractLsb' a l = w.extractLsb' a (k + l) := by
  subst h
  refine BitVec.eq_of_getLsbD_eq fun i hi => ?_
  rw [BitVec.getLsbD_append]
  by_cases hl : i < l
  · simp [hl, Nat.lt_add_left k hl]
  · simp [hl, show i - l < k by omega, hi, show a + l + (i - l) = a + i by omega]

/-- A flag of a word is a field of one bit. -/
theorem ofBool_getLsbD {n : Nat} (w : BitVec n) (k : Nat) : BitVec.ofBool (w.getLsbD k) = w.extractLsb' k 1 :=
  BitVec.eq_of_getLsbD_eq fun i hi => by
    obtain rfl : i = 0 := by omega
    simp

theorem getLsbD_eq_field {n : Nat} (w : BitVec n) (k : Nat) : w.getLsbD k = decide (w.extractLsb' k 1 = 1) := by
  rw [← ofBool_getLsbD]
  cases w.getLsbD k <;> rfl

/-- A flag that is clear is the field 0. -/
theorem field_of_clear {n : Nat} {w : BitVec n} {k : Nat} (h : w.getLsbD k = false) : (0 : BitVec 1) = w.extractLsb' k 1 :=
  (congrArg BitVec.ofBool h).symm.trans (ofBool_getLsbD w k)

theorem field_ofBool (b : Bool) : decide (BitVec.ofBool b = 1) = b := by cases b <;> rfl

/-! ### Codes within a word -/

theorem typeOf_typeBits (t : VType) : typeOf (typeBits t) = some t := by cases t <;> rfl

theorem postOf_postBits (t : Post) : postOf (postBits t) = some t := by cases t <;> rfl

theorem shapeOf_shapeBits (t : Shape) : shapeOf (shapeBits t) = t := by cases t <;> rfl

theorem typeBits_of_typeOf : ∀ {c : BitVec 2} {t : VType}, typeOf c = some t → typeBits t = c := by decide

theorem postBits_of_postOf : ∀ {c : BitVec 2} {t : Post}, postOf c = some t → postBits t = c := by decide

theorem shapeBits_shapeOf : ∀ c : BitVec 2, shapeBits (shapeOf c) = c := by decide

theorem guardBits_guardOf (w : BitVec 32) : guardBits (guardOf w) = w.extractLsb' 0 15 := by
  simp only [guardBits, guardOf, ofBool_getLsbD, append_fields]

/-- Operand b of a word, put back in its place (R113). -/
theorem bBits_of_bOf {w : BitVec 32} {b : BSrc} (h : bOf w = some b) :
    bBits b = w.extractLsb' 11 5 ∧ BitVec.ofBool b.isScalar = w.extractLsb' 5 1 := by
  unfold bOf at h
  rw [← ofBool_getLsbD w 5]
  by_cases hs : w.getLsbD 5 = true
  · rw [if_pos hs] at h
    by_cases hr : w.getLsbD 15 = true
    · rw [if_pos hr] at h
      exact absurd h (by simp)
    · rw [if_neg hr, Option.some.injEq] at h
      subst h
      refine ⟨?_, by rw [hs]; rfl⟩
      rw [bBits, field_of_clear (w := w) (k := 15) (by simpa using hr), append_fields w (l := 4) rfl]
  · rw [if_neg hs, Option.some.injEq] at h
    subst h
    exact ⟨rfl, by rw [Bool.not_eq_true _ |>.mp hs]; rfl⟩

/-! ### The formats of the vector sub-slot (R113) -/

theorem encodeV_op (op : BitVec 6) (o : VOp) : (encodeV op o).extractLsb' 26 6 = op := by
  simp (disch := decide) only [encodeV, BitVec.extractLsb'_append_eq_of_le, Nat.reduceSub, BitVec.extractLsb'_eq_self]

theorem encodeC_op (op : BitVec 6) (o : COp) : (encodeC op o).extractLsb' 26 6 = op := by
  simp (disch := decide) only [encodeC, BitVec.extractLsb'_append_eq_of_le, Nat.reduceSub, BitVec.extractLsb'_eq_self]

theorem encodeL_op (op : BitVec 6) (o : LOp) : (encodeL op o).extractLsb' 26 6 = op := by
  simp (disch := decide) only [encodeL, BitVec.extractLsb'_append_eq_of_le, Nat.reduceSub, BitVec.extractLsb'_eq_self]

theorem encodeS_op (op : BitVec 6) (o : SOp) : (encodeS op o).extractLsb' 26 6 = op := by
  simp (disch := decide) only [encodeS, BitVec.extractLsb'_append_eq_of_le, Nat.reduceSub, BitVec.extractLsb'_eq_self]

theorem encodeH_op (c : Bool) (o : HOp) : (encodeH c o).extractLsb' 26 6 = 0x3A := by
  simp (disch := decide) only [encodeH, BitVec.extractLsb'_append_eq_of_le, Nat.reduceSub, BitVec.extractLsb'_eq_self]

theorem encodeH_close (c : Bool) (o : HOp) : (encodeH c o).getLsbD 3 = c := by
  simp (disch := decide) only [encodeH, getLsbD_eq_field, BitVec.extractLsb'_append_eq_of_le,
    BitVec.extractLsb'_append_eq_of_add_le, Nat.reduceSub, BitVec.extractLsb'_eq_self, field_ofBool]

theorem bOf_encodeV (op : BitVec 6) (o : VOp) : bOf (encodeV op o) = some o.b := by
  obtain ⟨vd, va, b, mask, ty, mod⟩ := o
  simp (disch := decide) only [bOf, encodeV, getLsbD_eq_field, BitVec.extractLsb'_append_eq_of_le,
    BitVec.extractLsb'_append_eq_of_add_le, Nat.reduceSub, BitVec.extractLsb'_eq_self, field_ofBool]
  cases b with
  | reg vb => simp only [BSrc.isScalar, bBits, Bool.false_eq_true, if_false]
  | scalar sn =>
    simp (disch := decide) only [BSrc.isScalar, bBits, BitVec.extractLsb'_append_eq_of_le,
    BitVec.extractLsb'_append_eq_of_add_le, Nat.reduceSub, BitVec.extractLsb'_eq_self, if_true]
    rfl

theorem decodeV_encodeV (op : BitVec 6) (o : VOp) : decodeV (encodeV op o) = some o := by
  rw [decodeV, bOf_encodeV]
  simp (disch := decide) only [encodeV, BitVec.extractLsb'_append_eq_of_le,
    BitVec.extractLsb'_append_eq_of_add_le, Nat.reduceSub, BitVec.extractLsb'_eq_self, typeOf_typeBits]

theorem decodeC_encodeC (op : BitVec 6) (o : COp) : decodeC (encodeC op o) = some o := by
  simp (disch := decide) only [decodeC, encodeC, getLsbD_eq_field, BitVec.extractLsb'_append_eq_of_le,
    BitVec.extractLsb'_append_eq_of_add_le, Nat.reduceSub, BitVec.extractLsb'_eq_self, field_ofBool, if_true]

theorem decodeL_encodeL (op : BitVec 6) (o : LOp) : decodeL (encodeL op o) = some o := by
  simp (disch := decide) only [decodeL, encodeL, BitVec.extractLsb'_append_eq_of_le,
    BitVec.extractLsb'_append_eq_of_add_le, Nat.reduceSub, BitVec.extractLsb'_eq_self, postOf_postBits]

theorem decodeH_encodeH (c : Bool) (o : HOp) : decodeH (encodeH c o) = some o := by
  simp (disch := decide) only [decodeH, encodeH, getLsbD_eq_field, BitVec.extractLsb'_append_eq_of_le,
    BitVec.extractLsb'_append_eq_of_add_le, Nat.reduceSub, BitVec.extractLsb'_eq_self, field_ofBool, if_true]

theorem decodeS_encodeS (op : BitVec 6) (o : SOp) : decodeS (encodeS op o) = o := by
  simp (disch := decide) only [decodeS, encodeS, BitVec.extractLsb'_append_eq_of_le,
    BitVec.extractLsb'_append_eq_of_add_le, Nat.reduceSub, BitVec.extractLsb'_eq_self]

theorem encodeV_of_decodeV {w : BitVec 32} {o : VOp} (h : decodeV w = some o) : encodeV (w.extractLsb' 26 6) o = w := by
  unfold decodeV at h
  split at h
  next b ty hb hty =>
    obtain ⟨hreg, hsc⟩ := bBits_of_bOf hb
    rw [Option.some.injEq] at h
    subst h
    simp only [encodeV, hreg, hsc, typeBits_of_typeOf hty, append_fields]
    exact BitVec.extractLsb'_eq_self
  next => exact absurd h (by simp)

theorem encodeC_of_decodeC {w : BitVec 32} {o : COp} (h : decodeC w = some o) : encodeC (w.extractLsb' 26 6) o = w := by
  unfold decodeC at h
  split at h
  next hr =>
    rw [Option.some.injEq] at h
    subst h
    simp only [encodeC, ← hr, ofBool_getLsbD, append_fields]
    exact BitVec.extractLsb'_eq_self
  next => exact absurd h (by simp)

theorem encodeL_of_decodeL {w : BitVec 32} {o : LOp} (h : decodeL w = some o) : encodeL (w.extractLsb' 26 6) o = w := by
  unfold decodeL at h
  split at h
  next p hp =>
    rw [Option.some.injEq] at h
    subst h
    simp only [encodeL, postBits_of_postOf hp, append_fields]
    exact BitVec.extractLsb'_eq_self
  next => exact absurd h (by simp)

theorem encodeH_of_decodeH {w : BitVec 32} {o : HOp} (hop : w.extractLsb' 26 6 = 0x3A) (h : decodeH w = some o) :
    encodeH (w.getLsbD 3) o = w := by
  unfold decodeH at h
  split at h
  next hr =>
    rw [Option.some.injEq] at h
    subst h
    simp only [encodeH, ← hr, ← hop, ofBool_getLsbD, append_fields]
    exact BitVec.extractLsb'_eq_self
  next => exact absurd h (by simp)

theorem encodeS_decodeS (w : BitVec 32) : encodeS (w.extractLsb' 26 6) (decodeS w) = w := by
  simp only [encodeS, decodeS, append_fields]
  exact BitVec.extractLsb'_eq_self

/-! ### The other three sub-slots (R138, R139, R140) -/

/-- An opcode field is the code that its number spells. -/
theorem code_of_toNat {n k : Nat} {x : BitVec k} (h : x.toNat = n) : BitVec.ofNat k n = x := by
  subst h
  simp

theorem guardBits_fields (g : Guard) :
    (guardBits g).extractLsb' 12 3 = g.skip ∧ (guardBits g).extractLsb' 8 4 = g.chkCtr ∧
      (guardBits g).extractLsb' 5 3 = g.chkAdd ∧ (guardBits g).extractLsb' 4 1 = BitVec.ofBool g.sigEn ∧
      (guardBits g).extractLsb' 0 4 = g.sigCtr := by
  simp (disch := decide) only [guardBits, BitVec.extractLsb'_append_eq_of_le,
    BitVec.extractLsb'_append_eq_of_add_le, Nat.reduceSub, BitVec.extractLsb'_eq_self, and_self]

theorem encodeT_op (op : BitVec 4) (o : DOp) : (encodeT op o).extractLsb' 28 4 = op := by
  simp (disch := decide) only [encodeT, BitVec.extractLsb'_append_eq_of_le, Nat.reduceSub, BitVec.extractLsb'_eq_self]

theorem encodeT_src (op : BitVec 4) (o : DOp) : (encodeT op o).extractLsb' 25 3 = o.src := by
  simp (disch := decide) only [encodeT, BitVec.extractLsb'_append_eq_of_le,
    BitVec.extractLsb'_append_eq_of_add_le, Nat.reduceSub, BitVec.extractLsb'_eq_self]

theorem decodeT_encodeT (op : BitVec 4) (o : DOp) : decodeT (encodeT op o) = o := by
  simp (disch := decide) only [decodeT, encodeT, guardOf, guardBits_fields, getLsbD_eq_field, BitVec.extractLsb'_append_eq_of_le,
    BitVec.extractLsb'_append_eq_of_add_le, Nat.reduceSub, BitVec.extractLsb'_eq_self, field_ofBool]

theorem encodeT_decodeT (w : BitVec 32) : encodeT (w.extractLsb' 28 4) (decodeT w) = w := by
  simp only [encodeT, decodeT, guardBits_guardOf, append_fields]
  exact BitVec.extractLsb'_eq_self

theorem encodeT_of_code {w : BitVec 32} {n : Nat} (hop : (w.extractLsb' 28 4).toNat = n) :
    encodeT (BitVec.ofNat 4 n) (decodeT w) = w := by
  rw [code_of_toNat hop, encodeT_decodeT]

/-! ### O12: decoding what was encoded -/

/-- R138: a matrix sub-slot decodes to the operation it encodes. -/
theorem decodeMatrix_of_encodeMatrix {i : Instr} {p : At} {w : BitVec 32} (hp : i.issuedAt = some p)
    (h : encodeMatrix i = some w) : decodeMatrix p w = some i := by
  cases i with
  | mnop =>
    cases h
    cases hp
    rfl
  | mpass | mdrain | mseta | msets =>
    cases h
    cases hp
    have clear : decide ((0 : BitVec 1) = 1) = false := rfl
    simp (disch := decide) only [decodeMatrix, guardOf, guardBits_fields, getLsbD_eq_field, BitVec.extractLsb'_append_eq_of_le,
      BitVec.extractLsb'_append_eq_of_add_le, Nat.reduceSub, BitVec.extractLsb'_eq_self,
      field_ofBool, shapeOf_shapeBits, clear, and_self, BitVec.reduceToNat, if_true]
  | _ => exact absurd h.symm (Option.some_ne_none _)

/-- R139: a well-formed data-mover sub-slot decodes to the operation it encodes. -/
theorem decodeMover_of_encodeMover {i : Instr} {p : At} {w : BitVec 32} (hw : i.wf = true) (hp : i.issuedAt = some p)
    (h : encodeMover i = some w) : decodeMover p w = some i := by
  cases i with
  | dnop =>
    cases h
    cases hp
    rfl
  | copy | send | readT1 | writeT1 =>
    cases h
    cases hp
    simp only [decodeMover, encodeT_op, decodeT_encodeT, BitVec.reduceToNat]
  | gather =>
    cases h
    cases hp
    simp only [decodeMover, encodeT_op, encodeT_src, decodeT_encodeT, BitVec.reduceToNat]
    exact if_neg (of_decide_eq_true (Bool.and_eq_true_iff.mp hw).2)
  | steer =>
    cases h
    cases hp
    simp only [decodeMover, encodeT_op, decodeT_encodeT, BitVec.reduceToNat]
    exact if_pos (of_decide_eq_true (Bool.and_eq_true_iff.mp hw).2)
  | dseta | dsets =>
    cases h
    cases hp
    simp (disch := decide) only [decodeMover, getLsbD_eq_field, BitVec.extractLsb'_append_eq_of_le,
      BitVec.extractLsb'_append_eq_of_add_le, Nat.reduceSub, BitVec.extractLsb'_eq_self,
      field_ofBool, BitVec.reduceToNat, if_true]
  | _ => exact absurd h.symm (Option.some_ne_none _)

/-- R140: a well-formed control sub-slot decodes to the operation it encodes. -/
theorem decodeControl_of_encodeControl {i : Instr} {p : At} {w : BitVec 32} (hw : i.wf = true) (hp : i.issuedAt = some p)
    (h : encodeControl i = some w) : decodeControl p w = some i := by
  cases i with
  | cnop =>
    cases h
    cases hp
    rfl
  | vguard | string | steersel =>
    cases h
    cases hp
    simp (disch := decide) only [decodeControl, guardOf, guardBits_fields, getLsbD_eq_field, BitVec.extractLsb'_append_eq_of_le,
      BitVec.extractLsb'_append_eq_of_add_le, Nat.reduceSub, BitVec.extractLsb'_eq_self,
      field_ofBool, BitVec.reduceToNat, if_true]
  | endloop =>
    cases h
    cases hp
    simp (disch := decide) only [decodeControl, BitVec.extractLsb'_append_eq_of_le,
      BitVec.extractLsb'_append_eq_of_add_le, Nat.reduceSub, BitVec.extractLsb'_eq_self,
      BitVec.reduceToNat]
    obtain ⟨ht, hb⟩ := Bool.and_eq_true_iff.mp hw
    exact if_neg (not_or.mpr ⟨of_decide_eq_true (Bool.and_eq_true_iff.mp ht).2, of_decide_eq_true hb⟩)
  | idle | setskip =>
    cases h
    cases hp
    simp (disch := decide) only [decodeControl, BitVec.extractLsb'_append_eq_of_le,
      BitVec.extractLsb'_append_eq_of_add_le, Nat.reduceSub, BitVec.extractLsb'_eq_self,
      BitVec.reduceToNat]
    exact if_pos ⟨trivial, of_decide_eq_true (Bool.and_eq_true_iff.mp hw).2⟩
  | _ => exact absurd h.symm (Option.some_ne_none _)

/-- A form that a cylinder may hold is well-formed only where R115 permits it. -/
theorem vectorOk_of_wf {i : Instr} (h : i.wf = true) : vectorOk i = true := by
  cases i with
  | vadd | vsub | vmul | vfma | vmax | vmin | vabs | vneg | exp2 | log2 | rcp | rsqrt | sigm | tanh | rsum | rmax |
  rmin | ramax | iadd | isub | vand | vor | vxor | vshl | vshr | vbcast | vperm | viota | vcmp | mlog | vcvtBf16 |
  vcvtFp16 | vcvtFp8 | vcvtFp4 | vqblk | vunpk | smov =>
    exact (Bool.and_eq_true_iff.mp h).2
  | _ => rfl

/-- R115: a form that R115 permits decodes as it spells. -/
theorem decodeVector_of_raw {i : Instr} {p : At} {w : BitVec 32} (hok : vectorOk i = true)
    (h : decodeVectorRaw p w = some i) : decodeVector p w = some i := by
  rw [decodeVector, h]
  exact if_pos hok

/-- A vector sub-slot spells its opcode and its fields (R113, R114). -/
theorem decodeVectorRaw_encodeVector {i : Instr} {p : At} {w : BitVec 32} (hp : i.issuedAt = some p)
    (h : encodeVector i = some w) : decodeVectorRaw p w = some i := by
  cases i with
  | vnop =>
    cases h
    cases hp
    rfl
  | vadd | vsub | vmul | vfma | vmax | vmin | vabs | vneg | exp2 | log2 | rcp | rsqrt | sigm | tanh | rsum | rmax |
  rmin | ramax | iadd | isub | vand | vor | vxor | vshl | vshr | vsel | vmov | vbcast | vperm | viota | vcmp | mlog |
  mvl | mflg | vcvtBf16 | vcvtFp16 | vcvtFp8 | vcvtFp4 | vqblk | vunpk | vld | vst | vsthOpen | vsthClose | slui |
  slli | smov | sadd =>
    cases h
    cases hp
    simp only [decodeVectorRaw, encodeV_op, encodeC_op, encodeL_op, encodeH_op, encodeS_op, decodeV_encodeV, decodeC_encodeC,
      decodeL_encodeL, decodeH_encodeH, decodeS_encodeS, encodeH_close, BitVec.reduceToNat, Option.map_some,
      Bool.false_eq_true, if_false, if_true]
  | _ => exact absurd h.symm (Option.some_ne_none _)

/-- Settles O12: each format's fields are read back from the word that they make, and R115 permits a well-formed form. -/
theorem encodingsRoundTrip : Obligations.EncodingsRoundTrip := fun _ _ _ hw hp =>
  ⟨fun h => decodeVector_of_raw (vectorOk_of_wf hw) (decodeVectorRaw_encodeVector hp h), decodeMatrix_of_encodeMatrix hp,
    decodeMover_of_encodeMover hw hp, decodeControl_of_encodeControl hw hp⟩

/-! ### O13: encoding what was decoded -/

/-- The word is the vector sub-slot of the operation, which is issued at the place. -/
def SpelledBy (p : At) (w : BitVec 32) (i : Instr) : Prop := i.issuedAt = some p ∧ encodeVector i = some w

section
variable {p : At} {w : BitVec 32} {i : Instr} {n : Nat} (hop : (w.extractLsb' 26 6).toNat = n)
include hop

theorem SpelledBy.ofV {mk : VOp → Instr} (h : (decodeV w).map mk = some i)
    (hm : ∀ o, SpelledBy p (encodeV (BitVec.ofNat 6 n) o) (mk o)) : SpelledBy p w i := by
  obtain ⟨o, ho, rfl⟩ := Option.map_eq_some_iff.mp h
  simpa only [code_of_toNat hop, encodeV_of_decodeV ho] using hm o

theorem SpelledBy.ofC {mk : COp → Instr} (h : (decodeC w).map mk = some i)
    (hm : ∀ o, SpelledBy p (encodeC (BitVec.ofNat 6 n) o) (mk o)) : SpelledBy p w i := by
  obtain ⟨o, ho, rfl⟩ := Option.map_eq_some_iff.mp h
  simpa only [code_of_toNat hop, encodeC_of_decodeC ho] using hm o

theorem SpelledBy.ofL {mk : LOp → Instr} (h : (decodeL w).map mk = some i)
    (hm : ∀ o, SpelledBy p (encodeL (BitVec.ofNat 6 n) o) (mk o)) : SpelledBy p w i := by
  obtain ⟨o, ho, rfl⟩ := Option.map_eq_some_iff.mp h
  simpa only [code_of_toNat hop, encodeL_of_decodeL ho] using hm o

theorem SpelledBy.ofS {mk : SOp → Instr} (h : some (mk (decodeS w)) = some i)
    (hm : ∀ o, SpelledBy p (encodeS (BitVec.ofNat 6 n) o) (mk o)) : SpelledBy p w i := by
  obtain rfl := Option.some.inj h
  simpa only [code_of_toNat hop, encodeS_decodeS] using hm (decodeS w)
end

theorem SpelledBy.ofH {p : At} {w : BitVec 32} {i : Instr} (hop : (w.extractLsb' 26 6).toNat = 0x3A)
    (h : (decodeH w).map (if w.getLsbD 3 then .vsthClose p else .vsthOpen p) = some i) : SpelledBy p w i := by
  obtain ⟨o, ho, rfl⟩ := Option.map_eq_some_iff.mp h
  have he := encodeH_of_decodeH (code_of_toNat hop).symm ho
  by_cases hc : w.getLsbD 3 = true
  · rw [hc] at he ⊢
    exact ⟨rfl, congrArg some he⟩
  · rw [Bool.not_eq_true _ |>.mp hc] at he ⊢
    exact ⟨rfl, congrArg some he⟩

/-- R113, R114: the operation that a vector sub-slot spells encodes to it. -/
theorem SpelledBy.of_decodeVectorRaw {p : At} {w : BitVec 32} {i : Instr} (h : decodeVectorRaw p w = some i) :
    SpelledBy p w i := by
  unfold decodeVectorRaw at h
  split at h
  next hop =>
    split at h
    next hw =>
      cases h
      exact ⟨rfl, congrArg some hw.symm⟩
    next => cases h
  iterate 34 next hop => exact .ofV hop h fun _ => ⟨rfl, rfl⟩
  iterate 6 next hop => exact .ofC hop h fun _ => ⟨rfl, rfl⟩
  iterate 2 next hop => exact .ofL hop h fun _ => ⟨rfl, rfl⟩
  next hop => exact .ofH hop h
  iterate 4 next hop => exact .ofS hop h fun _ => ⟨rfl, rfl⟩
  next => cases h

/-- R113 to R115: the operation that a vector sub-slot decodes to encodes to it. -/
theorem SpelledBy.of_decodeVector {p : At} {w : BitVec 32} {i : Instr} (h : decodeVector p w = some i) : SpelledBy p w i := by
  unfold decodeVector at h
  split at h
  next j hj =>
    split at h
    next =>
      obtain rfl := Option.some.inj h
      exact .of_decodeVectorRaw hj
    next => cases h
  next => cases h

/-- The matrix sub-slot of a drain, from its fields (R138). -/
theorem encodeMatrix_mdrain_of_fields {p : At} {w : BitVec 32} (hop : (w.extractLsb' 28 4).toNat = 2)
    (hr : w.extractLsb' 15 6 = 0 ∧ w.getLsbD 27 = false ∧ w.getLsbD 25 = false) :
    encodeMatrix (.mdrain p (w.getLsbD 26) (w.getLsbD 24) (w.extractLsb' 21 3) (guardOf w)) = some w := by
  obtain ⟨hlow, h27, h25⟩ := hr
  have hword : w.extractLsb' 28 4 ++ w.extractLsb' 27 1 ++ w.extractLsb' 26 1 ++ w.extractLsb' 25 1 ++ w.extractLsb' 24 1 ++
      w.extractLsb' 21 3 ++ w.extractLsb' 15 6 ++ w.extractLsb' 0 15 = w := by
    simp only [append_fields]
    exact BitVec.extractLsb'_eq_self
  rw [← code_of_toNat hop, ← field_of_clear h27, ← field_of_clear h25, hlow, ← ofBool_getLsbD w 26, ← ofBool_getLsbD w 24,
    ← guardBits_guardOf] at hword
  exact congrArg some hword

/-- R138: the operation that a matrix sub-slot decodes to encodes to it. -/
theorem encodeMatrix_of_decodeMatrix {p : At} {w : BitVec 32} {i : Instr} (h : decodeMatrix p w = some i) :
    i.issuedAt = some p ∧ encodeMatrix i = some w := by
  unfold decodeMatrix at h
  split at h
  case h_6 => cases h
  all_goals
    rename_i hop
    split at h
    case isFalse => cases h
    rename_i hr
    cases h
    refine ⟨rfl, ?_⟩
  case h_1.isTrue.refl => exact congrArg some hr.symm
  case h_3.isTrue.refl => exact encodeMatrix_mdrain_of_fields hop hr
  all_goals
    rw [BitVec.ofNat_eq_ofNat] at hr
    refine congrArg some ?_
    simp only [← hr, BitVec.ofNat_eq_ofNat, code_of_toNat hop, shapeBits_shapeOf, ofBool_getLsbD, guardBits_guardOf,
      append_fields]
    exact BitVec.extractLsb'_eq_self

/-- R139: the operation that a data-mover sub-slot decodes to encodes to it. -/
theorem encodeMover_of_decodeMover {p : At} {w : BitVec 32} {i : Instr} (h : decodeMover p w = some i) :
    i.issuedAt = some p ∧ encodeMover i = some w := by
  unfold decodeMover at h
  split at h
  case h_10 => cases h
  case h_1 hop =>
    split at h
    case isFalse => cases h
    case isTrue hw =>
    cases h
    exact ⟨rfl, congrArg some hw.symm⟩
  case h_8 hop | h_9 hop =>
    split at h
    case isFalse => cases h
    case isTrue hr =>
    cases h
    rw [BitVec.ofNat_eq_ofNat] at hr
    refine ⟨rfl, congrArg some ?_⟩
    simp only [← hr, BitVec.ofNat_eq_ofNat, code_of_toNat hop, ofBool_getLsbD, append_fields]
    exact BitVec.extractLsb'_eq_self
  case h_4 hop =>
    split at h
    case isTrue => cases h
    case isFalse =>
    cases h
    exact ⟨rfl, congrArg some (encodeT_of_code hop)⟩
  case h_7 hop =>
    split at h
    case isFalse => cases h
    case isTrue =>
    cases h
    exact ⟨rfl, congrArg some (encodeT_of_code hop)⟩
  all_goals
    rename_i hop
    cases h
    exact ⟨rfl, congrArg some (encodeT_of_code hop)⟩

/-- R140: the operation that a control sub-slot decodes to encodes to it. -/
theorem encodeControl_of_decodeControl {p : At} {w : BitVec 32} {i : Instr} (h : decodeControl p w = some i) :
    i.issuedAt = some p ∧ encodeControl i = some w := by
  unfold decodeControl at h
  split at h
  case h_8 => cases h
  case h_1 hop =>
    split at h
    case isFalse => cases h
    case isTrue hw =>
    cases h
    exact ⟨rfl, congrArg some hw.symm⟩
  case h_3 hop =>
    split at h
    case isTrue => cases h
    case isFalse =>
    cases h
    refine ⟨rfl, congrArg some ?_⟩
    simp only [BitVec.ofNat_eq_ofNat, code_of_toNat hop, append_fields]
    exact BitVec.extractLsb'_eq_self
  case h_4 hop | h_6 hop =>
    split at h
    case isFalse => cases h
    case isTrue hr =>
    obtain ⟨hr, -⟩ := hr
    cases h
    rw [BitVec.ofNat_eq_ofNat] at hr
    refine ⟨rfl, congrArg some ?_⟩
    simp only [← hr, BitVec.ofNat_eq_ofNat, code_of_toNat hop, append_fields]
    exact BitVec.extractLsb'_eq_self
  all_goals
    rename_i hop
    split at h
    case isFalse => cases h
    case isTrue hr =>
    cases h
    rw [BitVec.ofNat_eq_ofNat] at hr
    refine ⟨rfl, congrArg some ?_⟩
    simp only [← hr, BitVec.ofNat_eq_ofNat, code_of_toNat hop, guardBits_guardOf, append_fields]
    exact BitVec.extractLsb'_eq_self

/-- Settles O13: the fields read from a word, with its reserved bits 0, put it together again. -/
theorem decodedWordsEncodeBack : Obligations.DecodedWordsEncodeBack := fun _ _ _ =>
  ⟨SpelledBy.of_decodeVector, encodeMatrix_of_decodeMatrix, encodeMover_of_decodeMover, encodeControl_of_decodeControl⟩

end Sys2Proof.Proofs
end

section
/-!
CANONICAL NANS. What a rounding to a format can answer (R80, R86), and the scale of a quantised block (R87). O17 follows.
-/
namespace Sys2Proof.Proofs
open Sys2Proof.Machine

/-! ### The codes of a format -/

/-- The format has infinities (R78, R86). -/
abbrev HasInf (f : Fmt) : Prop := (f.toInf || decide (f = .e5m2)) = true

theorem maxCode_lt (f : Fmt) : f.maxCode < 2 ^ (f.width - 1) := by cases f <;> decide

theorem maxCode_succ_lt {f : Fmt} (h : HasInf f) : f.maxCode + 1 < 2 ^ (f.width - 1) := by
  cases f <;> revert h <;> decide

/-- The magnitude of a code with its sign (R78). -/
theorem magnitude_signed (f : Fmt) (neg : Bool) {c : Nat} (hc : c < 2 ^ (f.width - 1)) :
    f.signed neg c % 2 ^ f.width % 2 ^ (f.width - 1) = c := by
  have hw : 2 ^ f.width = 2 * 2 ^ (f.width - 1) := by cases f <;> rfl
  unfold Fmt.signed
  generalize 2 ^ (f.width - 1) = h at *
  rw [hw, Nat.mod_mul_left_mod]
  split
  · rw [Nat.add_mod_left, Nat.mod_eq_of_lt hc]
  · rw [Nat.zero_add, Nat.mod_eq_of_lt hc]

/-- A code up to that of the largest finite value stands for no NaN (R78). -/
theorem decode_finite_not_nan (f : Fmt) (neg : Bool) {c : Nat} (hc : c ≤ f.maxCode) :
    (f.decode (f.signed neg c)).isNan = false := by
  have ha := magnitude_signed f neg (Nat.lt_of_le_of_lt hc (maxCode_lt f))
  simp only [Fmt.decode, ha, Nat.not_lt.mpr hc, if_false]
  split <;> rfl

/-- The code after that of the largest finite value is the infinity, where the format has one (R78). -/
theorem decode_infinity_not_nan {f : Fmt} (neg : Bool) (h : HasInf f) :
    (f.decode (f.signed neg (f.maxCode + 1))).isNan = false := by
  have ha := magnitude_signed f neg (maxCode_succ_lt h)
  simp only [Fmt.decode, ha, Nat.lt_succ_self, if_true]
  exact congrArg Fl.isNan (if_pos h)

/-! ### Rounding (R80, R85, R86) -/

theorem round_nan {f : Fmt} {x : Fl} (h : x.isNan = true) : (f.round x).1 = f.nanCode := by
  cases x with
  | nan => rfl
  | inf neg => exact absurd h Bool.false_ne_true
  | fin neg m e => exact absurd h Bool.false_ne_true

/-- What a rounding of a value that is no NaN answers: a finite code, or an infinity of a format that has one (R86). -/
theorem round_code {f : Fmt} {x : Fl} (h : x.isNan = false) :
    (∃ neg c, c ≤ f.maxCode ∧ (f.round x).1 = f.signed neg c) ∨
      HasInf f ∧ ∃ neg, (f.round x).1 = f.signed neg (f.maxCode + 1) := by
  cases x with
  | nan => exact absurd h (by decide)
  | inf neg =>
    by_cases hi : HasInf f
    · exact .inr ⟨hi, neg, congrArg Prod.fst (if_pos hi)⟩
    · exact .inl ⟨neg, f.maxCode, Nat.le_refl _, congrArg Prod.fst (if_neg hi)⟩
  | fin neg m e =>
    simp only [Fmt.round]
    split
    next => exact .inl ⟨neg, 0, Nat.zero_le _, rfl⟩
    next =>
      split
      next =>
        split
        next hi => exact .inr ⟨by rw [HasInf, hi, Bool.true_or], neg, rfl⟩
        next => exact .inl ⟨neg, f.maxCode, Nat.le_refl _, rfl⟩
      next hc => exact .inl ⟨neg, _, Nat.le_of_not_lt hc, rfl⟩

/-- R80: a rounding answers a NaN of a NaN only. -/
theorem isNan_of_round {f : Fmt} {x : Fl} (h : (f.decode (f.round x).1).isNan = true) : x.isNan = true := by
  by_contra hx
  obtain ⟨neg, c, hc, hr⟩ | ⟨hi, neg, hr⟩ := round_code (f := f) (Bool.not_eq_true _ |>.mp hx)
  · rw [hr, decode_finite_not_nan f neg hc] at h
    exact absurd h (by decide)
  · rw [hr, decode_infinity_not_nan neg hi] at h
    exact absurd h (by decide)

/-! ### The scale of a block (R87) -/

theorem scale_of_infinite {f : Fmt} {ssf4 : Bool} {xs : List Fl} (h : xs.any (fun x => !x.isFin) = true) :
    (quantBlock f ssf4 xs).scale = 0xFF :=
  congrArg QBlock.scale (if_pos h)

theorem scale_le_of_finite {f : Fmt} {ssf4 : Bool} {xs : List Fl} (h : ¬ xs.any (fun x => !x.isFin) = true) :
    (quantBlock f ssf4 xs).scale ≤ 254 := by
  unfold quantBlock
  rw [if_neg h]
  split
  next => exact Nat.zero_le _
  next => exact Int.toNat_le.mpr (by omega)

/-- Settles O17: only the NaN rounds to a NaN, to the canonical one, and a scale of finite values is at most 254. -/
theorem canonicalNaNs : Obligations.CanonicalNaNs :=
  ⟨rfl, rfl, rfl, rfl, rfl, fun _ _ => round_nan, fun _ _ h => ⟨isNan_of_round h, round_nan (isNan_of_round h)⟩,
    fun _ _ _ => ⟨round_nan, fun h => round_nan (isNan_of_round h)⟩,
    fun _ _ xs => ⟨fun h => by
      by_contra hx
      have hle := (h ▸ scale_le_of_finite hx : 0xFF ≤ 254)
      omega, scale_of_infinite⟩⟩

end Sys2Proof.Proofs
end

section
/-!
THE FRAME OF A SUB-SLOT (O10). What the issue of each sub-slot may leave in its cell, from the rules of `Laws/Issue`.
-/
namespace Sys2Proof.Proofs
open Sys2Proof.Machine

/-- A pending access that the issue of the sub-slot may leave; `u` is the state that it sees, `c` its cell. -/
def MayLand (i : Instr) (u : State) (c : Cell) (l : Nat × Landing) : Prop :=
  match l.2 with
  | .sram a bs _ _ => (match i with
    | .vst _ o => c.vecAddr o.sbase o.offset.toNat ≤ a ∧ a + bs.length ≤ c.vecAddr o.sbase o.offset.toNat + 256
    | .vsthClose _ h =>
      let start := (c.stream.map (·.base)).getD (c.vecAddr h.sbase h.offset.toNat)
      start ≤ a ∧ a + bs.length ≤ start + 64
    | .mdrain _ bf16 bank d _ =>
      let start := (c.maReg d).toNat * 64
      start ≤ a ∧ a + bs.length ≤ start + (if bf16 = true then 2 else 4) * Sparse.get 0 c.accSize (bankNo bank)
    | _ => False)
  | .copy _ dst _ => (match i with
    | .copy _ o => ∃ j < moverCount o, dst = daSram (c.daReg o.dst) + 128 * j
    | _ => False)
  | .indexBlock _ _ dst count _ _ _ => (match i with
    | .gather _ o => ∃ j < ceilDiv (moverCount o) 32,
      dst = daSram (c.daReg o.dst) + 4096 * j ∧ count = min 32 (moverCount o - 32 * j)
    | _ => False)
  | .toT1 _ dst _ => (match i with
    | .writeT1 _ o => ∃ j < moverCount o, dst = (match u.t1Flits (c.daReg o.dst) j with
      | .addr a => some a
      | _ => none)
    | _ => False)
  | .piece _ _ _ _ _ _ => False
  | _ => True

/-- A piece that the issue of the sub-slot may ask of tier 1. -/
def MayAsk (i : Instr) (p : At) (c : Cell) (x : T1Piece) : Prop :=
  x.cell = p.cell ∧ (match i with
    | .readT1 _ o => ∃ j < moverCount o, x.dst = daSram (c.daReg o.dst) + 128 * j
    | _ => False)

/-- The issue of the sub-slot at `p` leaves only what it may. -/
def LeavesOnly (i : Instr) (p : At) (s t : State) : Prop :=
  (s.atBeat p).Leaves p.cell (MayLand i (s.atBeat p) ((s.atBeat p).cell p.cell)) (MayAsk i p ((s.atBeat p).cell p.cell)) t

theorem mayLand_of_quiet {i : Instr} {u : State} {c : Cell} (v : Nat) (l : Landing) (h : l.writes = false) :
    MayLand i u c (v, l) := by
  cases l
  case sram | copy | toT1 | indexBlock | piece => cases h
  all_goals trivial

theorem lands_quiet {i : Instr} {u : State} {c d : Cell} {v : Nat} {l : Landing} (h : l.writes = false) :
    d.Leaves (MayLand i u c) (d.land v l) := cell_land _ _ _ (mayLand_of_quiet v l h)

section
variable {p : At} {s t : State} (plays : s.plays p = true)
include plays

theorem leavesOnly_idle {i : Instr} (e : issue p (fun s => s) s = .next t) : LeavesOnly i p s t := idle_leaves p s t plays e

/-! ### The vector sub-slot -/

theorem leavesOnly_execVsel {o : VOp} (e : execVsel p o s = .next t) : LeavesOnly (.vsel p o) p s t :=
  vecOp_leaves mayLand_of_quiet p 2 _ (fun _ => lands_quiet rfl) s t plays e

theorem leavesOnly_execVbcast {o : VOp} (e : execVbcast p o s = .next t) : LeavesOnly (.vbcast p o) p s t := by
  unfold execVbcast at e
  split at e
  · exact leavesOnly_idle plays e
  · exact vecOp_leaves mayLand_of_quiet p 2 _ (fun _ => cell_vecResult mayLand_of_quiet ..) s t plays e

theorem leavesOnly_execViota {o : VOp} (e : execViota p o s = .next t) : LeavesOnly (.viota p o) p s t := by
  unfold execViota at e
  split at e
  · exact leavesOnly_idle plays e
  · split at e
    · exact leavesOnly_idle plays e
    · exact vecOp_leaves mayLand_of_quiet p 3 _ (fun _ => cell_vecResult mayLand_of_quiet ..) s t plays e

theorem leavesOnly_execVcmp {o : VOp} (e : execVcmp p o s = .next t) : LeavesOnly (.vcmp p o) p s t := by
  unfold execVcmp at e
  split at e
  · exact leavesOnly_idle plays e
  · exact vecOp_leaves mayLand_of_quiet p 2 _ (fun _ => lands_quiet rfl) s t plays e

theorem leavesOnly_execMlog {o : VOp} (e : execMlog p o s = .next t) : LeavesOnly (.mlog p o) p s t := by
  unfold execMlog at e
  split at e
  · exact leavesOnly_idle plays e
  · exact vecOp_leaves mayLand_of_quiet p 1 _ (fun _ => lands_quiet rfl) s t plays e

theorem leavesOnly_execMvl {o : VOp} (e : execMvl p o s = .next t) : LeavesOnly (.mvl p o) p s t :=
  vecOp_leaves mayLand_of_quiet p 1 _ (fun _ => lands_quiet rfl) s t plays e

theorem leavesOnly_execMflg {o : VOp} (e : execMflg p o s = .next t) : LeavesOnly (.mflg p o) p s t := by
  refine vecOp_leaves mayLand_of_quiet p 1 _ (fun c => ?_) s t plays e
  dsimp only
  split
  · exact (lands_quiet rfl).trans (lands_quiet rfl)
  · exact lands_quiet rfl

theorem leavesOnly_execVqblk {o : COp} (e : execVqblk p o s = .next t) : LeavesOnly (.vqblk p o) p s t := by
  unfold execVqblk at e
  split at e
  · exact leavesOnly_idle plays e
  · exact vecOp_leaves mayLand_of_quiet p 6 _
      (fun _ => (cell_convResult mayLand_of_quiet ..).trans (lands_quiet rfl)) s t plays e

theorem leavesOnly_execVunpk {o : COp} (e : execVunpk p o s = .next t) : LeavesOnly (.vunpk p o) p s t := by
  unfold execVunpk at e
  split at e
  · exact leavesOnly_idle plays e
  · exact vecOp_leaves mayLand_of_quiet p 3 _ (fun _ => cell_vecResult mayLand_of_quiet ..) s t plays e

theorem leavesOnly_execSmov {o : SOp} (e : execSmov p o s = .next t) : LeavesOnly (.smov p o) p s t := by
  unfold execSmov at e
  split at e
  · exact scalarOp_leaves mayLand_of_quiet p o _ s t plays e
  · exact scalarOp_leaves mayLand_of_quiet p o _ s t plays e
  · exact leavesOnly_idle plays e

omit plays in
/-- A load that runs leaves its register, and counts a corrected read (R50). -/
theorem leaves_load {k : Nat} {P : Nat × Landing → Prop} {Q : T1Piece → Prop} (hP : ∀ v l, Landing.writes l = false → P (v, l))
    (r : Ecc) (v : Nat) (l : Cell → Landing) (hl : ∀ c, (l c).writes = false) (u : State) :
    u.Leaves k P Q ((u.onCell k fun c => c.land v (l c)).onCell k
      fun c => if r = .corrected then { c with eccSram := satInc c.eccSram } else c) := by
  have count (c : Cell) : c.Leaves P (if r = .corrected then { c with eccSram := satInc c.eccSram } else c) := by
    split
    · exact cell_same rfl rfl rfl
    · exact .refl _ _
  exact (leaves_onCell _ _ (cell_land _ _ _ (hP _ _ (hl _)))).trans (leaves_onCell _ _ (count _))

theorem leavesOnly_execVld {o : LOp} (e : execVld p o s = .next t) : LeavesOnly (.vld p o) p s t := by
  refine vecIssue_leaves mayLand_of_quiet p 4 _ _ s t plays e (fun g => ?_) fun s => .refl s
  refine (leaves_onCell _ _ (cell_postInc mayLand_of_quiet p.beat o _)).trans ?_
  dsimp only
  generalize Cell.vecAddr _ o.sbase o.offset.toNat = a
  split
  · exact leaves_barrierFault ..
  · refine State.Leaves.trans (leaves_useBanks p.beat (banksOf a 256) 1 _) ?_
    split
    · exact leaves_barrierFault ..
    · exact leaves_load mayLand_of_quiet _ _ _ (fun _ => rfl) _

omit plays in
/-- A guard leaves the address that a load or store names. -/
theorem vecAddr_guarded {k : Nat} (g : Guard) (u : State) (sb : BitVec 4) (off : Nat) :
    ((u.guarded k g).2.cell k).vecAddr sb off = (u.cell k).vecAddr sb off := by
  obtain ⟨-, -, hsc, -⟩ := guarded_cell (k := k) g u
  simp only [Cell.vecAddr, Cell.sreg, hsc]

theorem leavesOnly_execVst {o : LOp} (e : execVst p o s = .next t) : LeavesOnly (.vst p o) p s t := by
  refine vecIssue_leaves mayLand_of_quiet p 2 _ _ s t plays e (fun g => ?_) fun s => .refl s
  refine (leaves_onCell _ _ (cell_postInc mayLand_of_quiet p.beat o _)).trans ?_
  dsimp only
  rw [vecAddr_guarded]
  split
  · exact leaves_barrierFault ..
  · refine (leaves_onCell _ _ ?_).trans (leaves_storeLanes _ _ _ _ _ _ fun b bs q r ha hb => ⟨ha, hb⟩)
    split
    · exact .refl _ _
    · exact cell_same rfl rfl rfl

theorem leavesOnly_execVsthOpen {o : HOp} (e : execVsthOpen p o s = .next t) : LeavesOnly (.vsthOpen p o) p s t :=
  vecIssue_leaves mayLand_of_quiet p 2 _ _ s t plays e (fun _ => leaves_onCell _ _ (cell_same rfl rfl rfl)) fun s => .refl s

omit plays in
/-- A header is 64 bytes long (R128, R163). -/
theorem header_length (y : BitVec 2048) (scale crc : List (BitVec 8)) (hs : scale.length = 4) (hc : crc.length = 4) :
    (((bvBytes 256 y).take 64).take 12 ++ scale ++ crc ++ ((bvBytes 256 y).take 64).drop 20).length = 64 := by
  simp [bvBytes_len, hs, hc]

omit plays in
theorem scale_length (c : Prop) [Decidable c] (n : Nat) (y : BitVec 2048) :
    (if c then leBytes 4 n else (((bvBytes 256 y).take 64).drop 12).take 4).length = 4 := by
  split
  · rfl
  · simp [bvBytes_len]

theorem leavesOnly_execVsthClose {o : HOp} (e : execVsthClose p o s = .next t) : LeavesOnly (.vsthClose p o) p s t := by
  refine vecIssue_leaves mayLand_of_quiet p 2 _ _ s t plays e (fun g => ?_)
    fun s => leaves_onCell _ _ (cell_same rfl rfl rfl)
  obtain ⟨-, -, -, -, hst⟩ := guarded_cell (k := p.cell) g (s.atBeat p)
  refine (leaves_onCell (fun c => { c with stream := none }) _ (cell_same rfl rfl rfl)).trans ?_
  dsimp only
  rw [vecAddr_guarded, hst]
  have allowed (a : Nat) (bs : List (BitVec 8)) (hlen : bs.length = 64) (q : Bool)
      (ha : ((((s.atBeat p).cell p.cell).stream.map (·.base)).getD
        (((s.atBeat p).cell p.cell).vecAddr o.sbase o.offset.toNat)) = a) :
      MayLand (.vsthClose p o) (s.atBeat p) ((s.atBeat p).cell p.cell) (p.beat + 2 + 1, .sram a bs q 1) :=
    ⟨Nat.le_of_eq ha, by rw [ha, hlen]⟩
  have hlen := header_length
  cases hs : ((s.atBeat p).cell p.cell).stream with
  | none =>
    dsimp only
    split
    · exact leaves_barrierFault ..
    · exact leaves_sramStore _ _ _ _ _ _ (allowed _ _ (hlen _ _ _ (scale_length ..) (bvBytes_len 4 _)) _ (by rw [hs]; rfl))
  | some st =>
    dsimp only
    split
    · exact leaves_barrierFault ..
    · exact leaves_sramStore _ _ _ _ _ _ (allowed _ _ (hlen _ _ _ (scale_length ..) (bvBytes_len 4 _)) _ (by rw [hs]; rfl))

/-! ### The matrix sub-slot -/

omit plays in
theorem leaves_operandReads {k : Nat} {P : Nat × Landing → Prop} {Q : T1Piece → Prop} (b d : Nat) (q : PassRec) (u : State) :
    u.Leaves k P Q (u.operandReads k b d q) := by
  refine leaves_foldl _ _ (fun u j _ => ?_) u
  dsimp only
  generalize @List.dedup Nat _ _ = bs
  refine State.Leaves.trans (leaves_useBanks (b + j) bs 0 u) ?_
  split
  · exact .refl _
  · exact leaves_barrierFault ..

omit plays in
/-- A pass that starts leaves the read of its last operand (R47). -/
theorem leaves_startPass {k : Nat} {P : Nat × Landing → Prop} {Q : T1Piece → Prop} (b d : Nat) (q : PassRec) (u : State)
    (h : P (b + d - 1, .operands q)) : u.Leaves k P Q (u.startPass k b d q) := by
  refine (leaves_operandReads b d q u).trans (.trans (leaves_of (t := State.onFreeCount _ _) rfl rfl rfl)
    (leaves_onCell _ _ ?_))
  have seen (a : Nat) (isB : Bool) (x : TileRead) (c : Cell) : c.Leaves P
      (if c.seenTile a q.shape isB then c
      else { c with checked := (a, q.shape.code, isB, 64 + x.payload.length) :: c.checked }) := by
    split
    · exact .refl _ _
    · exact cell_same rfl rfl rfl
  exact ((seen ..).trans (seen ..)).trans (cell_land _ _ _ h)

theorem leavesOnly_execMpass {sh : Shape} {add bank : Bool} {a b : BitVec 3} {g : Guard}
    (e : execMpass p sh add bank a b g s = .next t) : LeavesOnly (.mpass p sh add bank a b g) p s t := by
  refine issue_leaves p _ s t plays ?_ e
  dsimp only
  generalize PassRec.mk _ _ _ _ _ _ _ _ _ _ = q
  generalize passCycles sh _ _ = d
  have steps (c : Cell) : c.Leaves (MayLand (.mpass p sh add bank a b g) (s.atBeat p) ((s.atBeat p).cell p.cell))
      (let c := { c with accSize := Sparse.set 0 c.accSize (bankNo bank) (sh.m * sh.n) }
      if a = b then c.stepMa a else (c.stepMa a).stepMa b) := by
    dsimp only
    split <;> exact cell_same rfl rfl rfl
  refine State.Leaves.trans (leaves_guarded (k := p.cell) g (s.atBeat p)) ?_
  generalize (s.atBeat p).guarded p.cell g = r
  obtain ⟨v, w⟩ := r
  cases v with
  | run =>
    refine State.Leaves.trans ?_ (leaves_onCell _ _ (steps _))
    exact ((leaves_startPass p.beat d q w (mayLand_of_quiet _ _ rfl)).trans (leaves_countRead _ _)).trans
      (leaves_onCell _ _ (cell_signalAt mayLand_of_quiet _ _ _))
  | skipped =>
    refine State.Leaves.trans ?_ (leaves_onCell _ _ (steps _))
    exact leaves_onCell _ _ (cell_signalAt mayLand_of_quiet _ _ _)
  | failed => exact leaves_onCell _ _ (steps _)

omit plays in
/-- The bytes of a drain: 4 for each result, or 2 in BF16 (R164). -/
theorem drainBytes_length (bf : Bool) (vs : List (BitVec 32)) :
    (drainBytes bf vs).1.length = (if bf = true then 2 else 4) * vs.length := by
  cases bf with
  | true =>
    simp only [drainBytes, if_true, List.length_flatMap, List.map_map]
    rw [show ((fun r : Nat × AFlags => (leBytes 2 r.1).length) ∘ fun v : BitVec 32 =>
      Fmt.bf16.round (Fmt.fp32.decode v.toNat)) = Function.const _ 2 from rfl, List.map_const, List.sum_replicate, smul_eq_mul,
      Nat.mul_comm]
  | false =>
    simp only [drainBytes, Bool.false_eq_true, if_false, List.length_flatMap, bvBytes_len, List.map_const', List.sum_replicate,
      smul_eq_mul, Nat.mul_comm]

omit plays in
/-- The stores of a drain lie within the bytes of its results (R47, R164). -/
theorem leaves_drained {k a len cycle : Nat} {P : Nat × Landing → Prop} {Q : T1Piece → Prop} (poison : Bool)
    (bs : List (BitVec 8)) (u : State) (hlen : bs.length = len)
    (h : ∀ v b cs q r, a ≤ b → b + cs.length ≤ a + len → P (v, .sram b cs q r)) :
    u.Leaves k P Q (u.drainStores k a poison (ceilDiv bs.length 256) cycle bs) := by
  subst hlen
  refine leaves_drain _ _ _ _ _ _ ?_ h
  unfold ceilDiv
  omega

theorem leavesOnly_execMdrain {bf bank : Bool} {d : BitVec 3} {g : Guard}
    (e : execMdrain p bf bank d g s = .next t) : LeavesOnly (.mdrain p bf bank d g) p s t := by
  refine issue_leaves p _ s t plays ?_ e
  dsimp only
  have hlen (ws : List (BitVec 32)) (hw : ws.length = Sparse.get 0 ((s.atBeat p).cell p.cell).accSize (bankNo bank)) :=
    hw ▸ drainBytes_length bf ws
  have words (early : Bool) (n : Nat) (c : Cell) (k : Nat) :
      (if early = true then freeWords k n else Sparse.getRun 0 (c.acc bank) 0 n).length = n := by
    split <;> exact (List.length_map ..).trans List.length_range
  specialize hlen _ (words (((s.atBeat p).cell p.cell).passPending bank) _ ((s.atBeat p).cell p.cell) (s.atBeat p).freeCount)
  generalize drainBytes bf _ = r at hlen ⊢
  refine State.Leaves.trans (t := if ((s.atBeat p).cell p.cell).passPending bank = true then
    (s.atBeat p).onFreeCount (· + Sparse.get 0 ((s.atBeat p).cell p.cell).accSize (bankNo bank)) else s.atBeat p) ?_ ?_
  · split
    · exact leaves_of rfl rfl rfl
    · exact .refl _
  generalize ite (((s.atBeat p).cell p.cell).passPending bank = true) (_ : State) _ = u
  refine State.Leaves.trans (leaves_guarded (k := p.cell) g u) ?_
  generalize u.guarded p.cell g = r
  obtain ⟨v, w⟩ := r
  refine State.Leaves.trans ?_ (leaves_onCell _ _ (cell_same rfl rfl rfl))
  cases v with
  | run =>
    refine State.Leaves.trans ?_ (leaves_onCell _ _ (cell_signalAt mayLand_of_quiet _ _ _))
    refine State.Leaves.trans (leaves_onCell _ _ ?_) (leaves_drained _ _ _ hlen fun v b cs q r ha hb => ⟨ha, hb⟩)
    exact cell_same rfl rfl rfl
  | skipped => exact leaves_onCell _ _ (cell_signalAt mayLand_of_quiet _ _ _)
  | failed => exact .refl _

/-! ### The data-mover sub-slot -/

omit plays in
/-- A guard leaves the address registers of the data mover. -/
theorem daReg_guarded {k : Nat} (g : Guard) (u : State) (r : BitVec 3) :
    ((u.guarded k g).2.cell k).daReg r = (u.cell k).daReg r := by
  obtain ⟨hda, -⟩ := guarded_cell (k := k) g u
  rw [Cell.daReg, Cell.daReg, hda]

theorem leavesOnly_execCopy {o : DOp} (e : execCopy p o s = .next t) : LeavesOnly (.copy p o) p s t := by
  refine transfer_leaves mayLand_of_quiet p o _ _ _ _ s t ?_ (fun _ s => .refl s) plays e
  refine leaves_onCell _ _ (cell_perFlit _ _ _ _ fun j hj => ⟨j, hj, ?_⟩)
  rw [daReg_guarded]

theorem leavesOnly_execSend {o : DOp} (e : execSend p o s = .next t) : LeavesOnly (.send p o) p s t := by
  unfold execSend at e
  refine transfer_leaves mayLand_of_quiet p o _ _ _ _ s t ?_ (fun c s => ?_) plays e
  · dsimp only
    split
    · exact .refl _
    · refine leaves_onCell _ _ (cell_perFlit _ _ _ _ fun j hj => ?_)
      exact mayLand_of_quiet _ _ rfl
  · dsimp only
    split
    · exact .refl _
    · exact leaves_flits _ _ rfl rfl rfl rfl

theorem leavesOnly_execGather {o : DOp} (e : execGather p o s = .next t) : LeavesOnly (.gather p o) p s t := by
  unfold execGather at e
  dsimp only at e
  refine transfer_leaves mayLand_of_quiet p o _ _ _ _ s t ?_ (fun _ s => .refl s) plays e
  refine leaves_onCell _ _ (cell_lands _ _ fun l hl => ?_)
  obtain ⟨j, hj, rfl⟩ := List.mem_map.1 hl
  exact ⟨j, List.mem_range.1 hj, by rw [daReg_guarded], rfl⟩

omit plays in
/-- A guard leaves where the flits of tier 1 lie. -/
theorem t1Flits_guarded {k : Nat} (g : Guard) (u : State) (a : BitVec 32) (j : Nat) :
    ((u.guarded k g).2).t1Flits a j = u.t1Flits a j :=
  t1Flits_kept (leaves_guarded (k := k) (P := fun _ => True) (Q := fun _ => True) g u).keeps.kept a j

omit plays in
/-- A piece asked of tier 1. -/
theorem leaves_ask {k : Nat} {P : Nat × Landing → Prop} {Q : T1Piece → Prop} (x : T1Piece) (u : State) (h : Q x) :
    u.Leaves k P Q (u.onGrid fun g => { g with pieces := g.pieces ++ [x] }) :=
  ⟨keeps_of rfl rfl, rfl, .refl P _, fun y hy => (List.mem_append.1 hy).elim .inl fun hy =>
    .inr (by rw [List.mem_singleton.1 hy]; exact h)⟩

theorem leavesOnly_execReadT1 {o : DOp} (e : execReadT1 p o s = .next t) : LeavesOnly (.readT1 p o) p s t := by
  unfold execReadT1 at e
  refine transfer_leaves mayLand_of_quiet p o _ _ _ _ s t ?_ (fun _ s => .refl s) plays e
  refine leaves_foldl _ _ (fun u j hj => ?_) _
  rw [daReg_guarded o.guard (s.atBeat p) o.dst]
  dsimp only
  split
  · exact leaves_ask _ _ ⟨rfl, j, List.mem_range.1 hj, rfl⟩
  · exact leaves_ask _ _ ⟨rfl, j, List.mem_range.1 hj, rfl⟩
  · exact (leaves_ask _ _ ⟨rfl, j, List.mem_range.1 hj, rfl⟩).trans (leaves_barrierFault ..)

theorem leavesOnly_execWriteT1 {o : DOp} (e : execWriteT1 p o s = .next t) : LeavesOnly (.writeT1 p o) p s t := by
  unfold execWriteT1 at e
  dsimp only at e
  refine transfer_leaves mayLand_of_quiet p o _ _ _ _ s t ?_ (fun _ s => .refl s) plays e
  refine (leaves_onCell _ _ (cell_perFlit _ _ _ _ fun j hj => ⟨j, hj, ?_⟩)).trans (leaves_flits _ _ rfl rfl rfl rfl)
  rw [daReg_guarded, t1Flits_guarded] <;> generalize State.t1Flits _ _ j = x <;> cases x <;> rfl

theorem leavesOnly_execSteer {o : DOp} (e : execSteer p o s = .next t) : LeavesOnly (.steer p o) p s t := by
  refine transfer_leaves mayLand_of_quiet p o _ _ _ _ s t ?_ (fun _ s => .refl s) plays e
  refine leaves_onCell _ _ (cell_perFlit _ _ _ _ fun j hj => ?_)
  exact mayLand_of_quiet _ _ rfl

/-! ### The control sub-slot -/

theorem leavesOnly_execString {tm : BitVec 6} {r : BitVec 4} (e : execString p tm r s = .next t) :
    LeavesOnly (.string p tm r) p s t := by
  refine ctl_leaves p _ (fun u => ?_) s t plays e
  split
  · exact .refl _
  · dsimp only
    split
    · exact .refl _
    · exact leaves_flits _ _ rfl rfl rfl rfl

theorem leavesOnly_execSetskip {k : BitVec 3} {vl : BitVec 4} {o : BitVec 12} {d : BitVec 4}
    (e : execSetskip p k vl o d s = .next t) : LeavesOnly (.setskip p k vl o d) p s t := by
  refine ctl_leaves p _ (fun u => ?_) s t plays e
  split
  · exact .refl _
  · exact leaves_onCell _ _ (cell_same rfl rfl rfl)

theorem leavesOnly_cellIssue {i : Instr} {g : Cell → Cell} (e : issue p (fun s => s.onCell p.cell g) s = .next t)
    (h : ∀ c : Cell, c.Leaves (MayLand i (s.atBeat p) ((s.atBeat p).cell p.cell)) (g c)) : LeavesOnly i p s t :=
  cellIssue_leaves p g h s t plays e

theorem leavesOnly_ctlCell {i : Instr} {g : Cell → Cell} (e : ctlIssue p (fun s => s.onCell p.cell g) s = .next t)
    (h : ∀ c : Cell, c.Leaves (MayLand i (s.atBeat p) ((s.atBeat p).cell p.cell)) (g c)) : LeavesOnly i p s t :=
  ctlCell_leaves p g h s t plays e

/-- The issue of a vector sub-slot leaves only what it may. -/
theorem leavesOnly_vector {i : Instr} (place : i.issuedAt = some p) (vector : (encodeVector i).isSome = true)
    (e : exec i s = .next t) : LeavesOnly i p s t := by
  cases i with
  | vnop => cases place; exact leavesOnly_idle plays (show execVnop p s = _ from e)
  | vadd => cases place; exact fpOp_leaves mayLand_of_quiet p _ _ _ _ s t plays (show execVadd p _ s = _ from e)
  | vsub => cases place; exact fpOp_leaves mayLand_of_quiet p _ _ _ _ s t plays (show execVsub p _ s = _ from e)
  | vmul => cases place; exact fpOp_leaves mayLand_of_quiet p _ _ _ _ s t plays (show execVmul p _ s = _ from e)
  | vfma => cases place; exact fpOp_leaves mayLand_of_quiet p _ _ _ _ s t plays (show execVfma p _ s = _ from e)
  | vmax => cases place; exact fpOp_leaves mayLand_of_quiet p _ _ _ _ s t plays (show execVmax p _ s = _ from e)
  | vmin => cases place; exact fpOp_leaves mayLand_of_quiet p _ _ _ _ s t plays (show execVmin p _ s = _ from e)
  | vabs => cases place; exact fpOp_leaves mayLand_of_quiet p _ _ _ _ s t plays (show execVabs p _ s = _ from e)
  | vneg => cases place; exact fpOp_leaves mayLand_of_quiet p _ _ _ _ s t plays (show execVneg p _ s = _ from e)
  | exp2 => cases place; exact fnOp_leaves mayLand_of_quiet p _ _ _ s t plays (show execExp2 p _ s = _ from e)
  | log2 => cases place; exact fnOp_leaves mayLand_of_quiet p _ _ _ s t plays (show execLog2 p _ s = _ from e)
  | rcp => cases place; exact fnOp_leaves mayLand_of_quiet p _ _ _ s t plays (show execRcp p _ s = _ from e)
  | rsqrt => cases place; exact fnOp_leaves mayLand_of_quiet p _ _ _ s t plays (show execRsqrt p _ s = _ from e)
  | sigm => cases place; exact fnOp_leaves mayLand_of_quiet p _ _ _ s t plays (show execSigm p _ s = _ from e)
  | tanh => cases place; exact fnOp_leaves mayLand_of_quiet p _ _ _ s t plays (show execTanh p _ s = _ from e)
  | rsum => cases place; exact reduceOp_leaves mayLand_of_quiet p _ _ _ _ s t plays (show execRsum p _ s = _ from e)
  | rmax => cases place; exact reduceOp_leaves mayLand_of_quiet p _ _ _ _ s t plays (show execRmax p _ s = _ from e)
  | rmin => cases place; exact reduceOp_leaves mayLand_of_quiet p _ _ _ _ s t plays (show execRmin p _ s = _ from e)
  | ramax => cases place; exact reduceOp_leaves mayLand_of_quiet p _ _ _ _ s t plays (show execRamax p _ s = _ from e)
  | iadd => cases place; exact laneOp_leaves mayLand_of_quiet p _ _ _ _ s t plays (show execIadd p _ s = _ from e)
  | isub => cases place; exact laneOp_leaves mayLand_of_quiet p _ _ _ _ s t plays (show execIsub p _ s = _ from e)
  | vand => cases place; exact laneOp_leaves mayLand_of_quiet p _ _ _ _ s t plays (show execVand p _ s = _ from e)
  | vor => cases place; exact laneOp_leaves mayLand_of_quiet p _ _ _ _ s t plays (show execVor p _ s = _ from e)
  | vxor => cases place; exact laneOp_leaves mayLand_of_quiet p _ _ _ _ s t plays (show execVxor p _ s = _ from e)
  | vshl => cases place; exact laneOp_leaves mayLand_of_quiet p _ _ _ _ s t plays (show execVshl p _ s = _ from e)
  | vshr => cases place; exact laneOp_leaves mayLand_of_quiet p _ _ _ _ s t plays (show execVshr p _ s = _ from e)
  | vsel => cases place; exact leavesOnly_execVsel plays e
  | vmov => cases place; exact laneOp_leaves mayLand_of_quiet p _ _ _ _ s t plays (show execVmov p _ s = _ from e)
  | vbcast => cases place; exact leavesOnly_execVbcast plays e
  | vperm => cases place; exact laneOp_leaves mayLand_of_quiet p _ _ _ _ s t plays (show execVperm p _ s = _ from e)
  | viota => cases place; exact leavesOnly_execViota plays e
  | vcmp => cases place; exact leavesOnly_execVcmp plays e
  | mlog => cases place; exact leavesOnly_execMlog plays e
  | mvl => cases place; exact leavesOnly_execMvl plays e
  | mflg => cases place; exact leavesOnly_execMflg plays e
  | vcvtBf16 => cases place; exact convert_leaves mayLand_of_quiet p _ _ _ _ s t plays (show execVcvtBf16 p _ s = _ from e)
  | vcvtFp16 => cases place; exact convert_leaves mayLand_of_quiet p _ _ _ _ s t plays (show execVcvtFp16 p _ s = _ from e)
  | vcvtFp8 => cases place; exact convert_leaves mayLand_of_quiet p _ _ _ _ s t plays (show execVcvtFp8 p _ s = _ from e)
  | vcvtFp4 => cases place; exact convert_leaves mayLand_of_quiet p _ _ _ _ s t plays (show execVcvtFp4 p _ s = _ from e)
  | vqblk => cases place; exact leavesOnly_execVqblk plays e
  | vunpk => cases place; exact leavesOnly_execVunpk plays e
  | vld => cases place; exact leavesOnly_execVld plays e
  | vst => cases place; exact leavesOnly_execVst plays e
  | vsthOpen => cases place; exact leavesOnly_execVsthOpen plays e
  | vsthClose => cases place; exact leavesOnly_execVsthClose plays e
  | slui => cases place; exact scalarOp_leaves mayLand_of_quiet p _ _ s t plays (show execSlui p _ s = _ from e)
  | slli => cases place; exact scalarOp_leaves mayLand_of_quiet p _ _ s t plays (show execSlli p _ s = _ from e)
  | smov => cases place; exact leavesOnly_execSmov plays e
  | sadd => cases place; exact scalarOp_leaves mayLand_of_quiet p _ _ s t plays (show execSadd p _ s = _ from e)
  | _ => exact absurd vector Bool.false_ne_true

/-- The issue of a sub-slot leaves only what it may. -/
theorem leavesOnly_exec {i : Instr} (place : i.issuedAt = some p) (e : exec i s = .next t) : LeavesOnly i p s t := by
  by_cases vector : (encodeVector i).isSome = true
  · exact leavesOnly_vector plays place vector e
  cases i with
  | mpass => cases place; exact leavesOnly_execMpass plays e
  | mdrain => cases place; exact leavesOnly_execMdrain plays e
  | mseta => cases place; exact leavesOnly_cellIssue plays (show execMseta p _ _ s = _ from e) fun _ => cell_same rfl rfl rfl
  | msets => cases place; exact leavesOnly_cellIssue plays (show execMsets p _ _ s = _ from e) fun _ => cell_same rfl rfl rfl
  | mnop => cases place; exact leavesOnly_idle plays (show execMnop p s = _ from e)
  | copy => cases place; exact leavesOnly_execCopy plays e
  | send => cases place; exact leavesOnly_execSend plays e
  | gather => cases place; exact leavesOnly_execGather plays e
  | readT1 => cases place; exact leavesOnly_execReadT1 plays e
  | writeT1 => cases place; exact leavesOnly_execWriteT1 plays e
  | steer => cases place; exact leavesOnly_execSteer plays e
  | dseta => cases place; exact leavesOnly_cellIssue plays (show execDseta p _ _ _ s = _ from e) fun _ => cell_same rfl rfl rfl
  | dsets => cases place; exact leavesOnly_cellIssue plays (show execDsets p _ _ s = _ from e) fun _ => cell_same rfl rfl rfl
  | dnop => cases place; exact leavesOnly_idle plays (show execDnop p s = _ from e)
  | cnop => cases place; exact ctl_leaves p _ (fun u => .refl u) s t plays (show execCnop p s = _ from e)
  | vguard => cases place; exact leavesOnly_ctlCell plays (show execVguard p _ s = _ from e) fun _ => cell_same rfl rfl rfl
  | endloop => cases place; exact leavesOnly_ctlCell plays (show execEndloop p _ _ s = _ from e) fun _ => cell_same rfl rfl rfl
  | idle => cases place; exact leavesOnly_ctlCell plays (show execIdle p _ s = _ from e) fun _ => cell_same rfl rfl rfl
  | string => cases place; exact leavesOnly_execString plays e
  | setskip => cases place; exact leavesOnly_execSetskip plays e
  | steersel => cases place; exact leavesOnly_ctlCell plays (show execSteersel p _ s = _ from e) fun _ => cell_same rfl rfl rfl
    | vnop | vadd | vsub | vmul | vfma | vmax | vmin | vabs | vneg | exp2 | log2 | rcp | rsqrt | sigm | tanh | rsum |
  rmax | rmin | ramax | iadd | isub | vand | vor | vxor | vshl | vshr | vsel | vmov | vbcast | vperm | viota | vcmp |
  mlog | mvl | mflg | vcvtBf16 | vcvtFp16 | vcvtFp8 | vcvtFp4 | vqblk | vunpk | vld | vst | vsthOpen | vsthClose |
  slui | slli | smov | sadd => exact absurd rfl vector
  | _ => exact absurd place.symm (Option.some_ne_none _)

end

/-- A sub-slot changes nothing where the cells do not play. -/
theorem exec_idle {i : Instr} {p : At} {s t : State} (place : i.issuedAt = some p) (plays : s.plays p = false)
    (e : exec i s = .next t) : t = s := by
  by_cases hc : (encodeControl i).isSome = true
  · obtain ⟨body, hb⟩ := exec_control s place hc
    cases (issue_idle { p with fetch := .clean } _ s plays).symm.trans (hb.symm.trans e)
    rfl
  · obtain ⟨body, hb⟩ := isIssue_exec s place (Bool.not_eq_true _ |>.mp hc)
    cases (issue_idle p body s plays).symm.trans (hb.symm.trans e)
    rfl

/-- What keeps the rest of the state, part by part. -/
theorem keeps_parts {k : Nat} {s t : State} (h : s.Keeps k t) :
    { t.cad with tb := s.cad.tb } = s.cad ∧ t.cyl = s.cyl ∧ t.wgt = s.wgt ∧ t.srv = s.srv ∧ t.cmd = s.cmd ∧
    t.hlt = s.hlt ∧ t.fab = s.fab ∧
    t.pwr = s.pwr ∧ t.store = s.store ∧ t.sys = s.sys ∧ t.dma = s.dma ∧ { t.mgt with coreState := s.mgt.coreState } = s.mgt ∧
    t.cfg = s.cfg ∧ t.pins = s.pins ∧ t.pending = s.pending ∧ t.host.mem = s.host.mem ∧ t.mem.t2 = s.mem.t2 ∧
    t.mem.t3 = s.mem.t3 ∧ t.mem.dir2 = s.mem.dir2 ∧ t.mem.dir3 = s.mem.dir3 ∧
    t.grid.fence = s.grid.fence ∧ t.grid.repairs = s.grid.repairs ∧ ∀ j, j ≠ s.hostOf k → t.phys j = s.phys j := by
  obtain ⟨hk, hp⟩ := h
  have part {α : Type} (f : State → α) : f t.kept = f s.kept := congrArg f hk
  refine ⟨?_, part (·.cyl), part (·.wgt), part (·.srv), part (·.cmd), part (·.hlt), part (·.fab), part (·.pwr), part (·.store),
    part (·.sys), part (·.dma), ?_, part (·.cfg), part (·.pins), part (·.pending), part (·.host.mem), part (·.mem.t2),
    part (·.mem.t3), part (·.mem.dir2), part (·.mem.dir3), part (·.grid.fence), part (·.grid.repairs), hp⟩
  · exact congrArg (fun c : Cadence => { c with tb := s.cad.tb }) (part (·.cad))
  · exact congrArg (fun m : Mgt => { m with coreState := s.mgt.coreState }) (part (·.mgt))

/-- Settles O10: the rules of `Laws/Issue`, sub-slot by sub-slot. -/
theorem subSlotFrame : Obligations.SubSlotFrame := by
  intro i p s t place e
  by_cases plays : s.plays p = true
  · have h := leavesOnly_exec plays place e
    refine ⟨keeps_parts ((keeps_atBeat p s).trans h.keeps), fun hn => absurd plays (by rw [hn]; decide), fun _ => ?_⟩
    refine ⟨h.mem, h.cell.sram, h.cell.poisoned, ?_, ?_⟩
    · rintro ⟨v, x⟩ hl
      refine (h.cell.landings _ hl).imp_right fun hm => ?_
      cases x
      case sram | copy | indexBlock | piece => exact hm
      case toT1 =>
        unfold MayLand at hm
        dsimp only at hm
        split at hm
        · obtain ⟨j, hj, rfl⟩ := hm
          refine ⟨j, hj, ?_⟩
          generalize State.t1Flits _ _ j = y
          cases y <;> rfl
        · exact hm.elim
      all_goals trivial
    · exact h.pieces
  · have hs := exec_idle place (Bool.not_eq_true _ |>.mp plays) e
    subst hs
    exact ⟨keeps_parts (.refl p.cell t), fun _ => rfl, fun hp => absurd hp plays⟩

end Sys2Proof.Proofs
end

section
/-!
R110 (O11): a vector sub-slot leaves the registers of its cell as its issue saw them, and what it adds to the cell's pending
accesses becomes visible in a later beat.
-/
namespace Sys2Proof.Proofs
open Sys2Proof.Machine

/-- The cell's registers are as before, and what is pending more becomes visible after beat `b`. -/
structure LandsLater (b : Nat) (c d : Cell) : Prop where
  v : d.v = c.v
  m : d.m = c.m
  sc : d.sc = c.sc
  laneFlags : d.laneFlags = c.laneFlags
  sram : d.sram = c.sram
  acc0 : d.acc0 = c.acc0
  acc1 : d.acc1 = c.acc1
  da : d.da = c.da
  ma : d.ma = c.ma
  beat : d.beat = c.beat
  landings : ∀ x ∈ d.landings, x ∈ c.landings ∨ b < x.1

/-- The same of cell `k` of two states. -/
def CellLater (k b : Nat) (s t : State) : Prop := LandsLater b (s.cell k) (t.cell k)

section
variable {b k : Nat}

theorem LandsLater.refl (c : Cell) : LandsLater b c c := ⟨rfl, rfl, rfl, rfl, rfl, rfl, rfl, rfl, rfl, rfl, fun _ h => .inl h⟩

theorem LandsLater.of_eq {c d : Cell} (h : d = c) : LandsLater b c d := by
  subst h
  exact .refl d

theorem LandsLater.trans {c d e : Cell} (h : LandsLater b c d) (g : LandsLater b d e) : LandsLater b c e :=
  ⟨g.v.trans h.v, g.m.trans h.m, g.sc.trans h.sc, g.laneFlags.trans h.laneFlags, g.sram.trans h.sram, g.acc0.trans h.acc0,
    g.acc1.trans h.acc1, g.da.trans h.da, g.ma.trans h.ma, g.beat.trans h.beat,
    fun x hx => (g.landings x hx).elim (h.landings x) .inr⟩

theorem LandsLater.land {v : Nat} (hv : b < v) (l : Landing) (c : Cell) : LandsLater b c (c.land v l) :=
  ⟨rfl, rfl, rfl, rfl, rfl, rfl, rfl, rfl, rfl, rfl, fun x hx => (List.mem_append.1 hx).elim .inl fun hx =>
    .inr (by rw [List.mem_singleton.1 hx]; exact hv)⟩

theorem LandsLater.signalAt {v : Nat} (hv : b ≤ v) (g : Option (BitVec 4)) (c : Cell) : LandsLater b c (c.signalAt v g) := by
  cases g with
  | none => exact .refl c
  | some n => exact .land (Nat.lt_succ_of_le hv) _ c

theorem LandsLater.addFlags (f : AFlags) (c : Cell) : LandsLater b c (c.addFlags f) := .mk
  rfl rfl rfl rfl rfl rfl rfl rfl rfl rfl fun _ h => .inl h

theorem LandsLater.trackers (ts : SMap Tracker) (c : Cell) : LandsLater b c { c with trackers := ts } := .mk
  rfl rfl rfl rfl rfl rfl rfl rfl rfl rfl fun _ h => .inl h

theorem LandsLater.useBanks (t : Nat) (bs : List Nat) (r : Nat) (c : Cell) : LandsLater b c (c.useBanks t bs r).2.2 := by
  unfold Cell.useBanks
  dsimp only
  split
  · exact .refl c
  · exact ⟨rfl, rfl, rfl, rfl, rfl, rfl, rfl, rfl, rfl, rfl, fun _ h => .inl (List.mem_filter.1 h).1⟩

/-- A result, with its flags where it has any (R110, R130). -/
theorem LandsLater.flagged {v : Nat} (hv : b < v) (l : Landing) (f : AFlags) (fs : BitVec 320) (c : Cell) :
    LandsLater b c ((if f = 0 then c.land v l else (c.land v l).land v (.flags fs)).addFlags f) := by
  refine .trans ?_ (.addFlags f _)
  split
  · exact .land hv l c
  · exact (LandsLater.land hv l c).trans (.land hv _ _)

theorem LandsLater.vecResult {lat : Nat} (hlat : 0 < lat) (vd : BitVec 5) (mask : BitVec 64) (lanes : List (BitVec 32))
    (fs : List AFlags) (poison : Bool) (c : Cell) : LandsLater b c (c.vecResult b lat vd mask lanes fs poison) :=
  .flagged (Nat.lt_add_of_pos_right hlat) _ _ _ c

theorem LandsLater.convResult {lat : Nat} (hlat : 0 < lat) (vd : BitVec 5) (w : Nat) (rs : List (Nat × AFlags)) (poison : Bool)
    (c : Cell) : LandsLater b c (c.convResult b lat vd w rs poison) :=
  .flagged (Nat.lt_add_of_pos_right hlat) _ _ _ c

theorem LandsLater.postInc (o : LOp) (c : Cell) : LandsLater b c (c.postInc b o) := by
  unfold Cell.postInc
  split
  · exact .refl c
  · exact .land (Nat.lt_succ_self b) _ c
  · exact .land (Nat.lt_succ_self b) _ c

/-! ### The operations of an issue -/

theorem CellLater.refl (s : State) : CellLater k b s s := LandsLater.refl _

theorem CellLater.trans {s t u : State} (h : CellLater k b s t) (g : CellLater k b t u) : CellLater k b s u :=
  LandsLater.trans h g

theorem CellLater.onCell {g : Cell → Cell} {s : State} (h : LandsLater b (s.cell k) (g (s.cell k))) :
    CellLater k b s (s.onCell k g) := by
  unfold CellLater
  rw [cell_onCell]
  exact h

theorem CellLater.foldl {α : Type} (f : State → α → State) (h : ∀ (s : State) a, CellLater k b s (f s a)) (as : List α)
    (s : State) : CellLater k b s (as.foldl f s) := by
  induction as generalizing s with
  | nil => exact .refl _
  | cons a r ih => exact CellLater.trans (h s a) (ih _)

theorem CellLater.barrierFault (own : Bool) (s : State) : CellLater k b s (s.barrierFault k own) := by
  have e : (s.barrierFault k own).cell k = (s.onCell k fun c => { c with fltBarrier := satInc c.fltBarrier }).cell k := by
    unfold State.barrierFault
    cases own <;> rfl
  unfold CellLater
  rw [e, cell_onCell]
  exact ⟨rfl, rfl, rfl, rfl, rfl, rfl, rfl, rfl, rfl, rfl, fun _ h => .inl h⟩

theorem CellLater.guarded (g : Guard) (s : State) : CellLater k b s (s.guarded k g).2 := by
  unfold State.guarded
  extract_lets c bind skip claim u own w
  have hu : CellLater k b s u := .onCell ⟨rfl, rfl, rfl, rfl, rfl, rfl, rfl, rfl, rfl, rfl, fun _ h => .inl h⟩
  split
  · exact hu
  · split
    · have hw : CellLater k b u w := by
        simp only [w]
        split
        · exact .refl _
        · exact .onCell ⟨rfl, rfl, rfl, rfl, rfl, rfl, rfl, rfl, rfl, rfl, fun _ h => .inl h⟩
      exact (CellLater.trans hu hw).trans (CellLater.barrierFault _ _)
    · exact hu

/-- An access of the banks, with the faults of what it drops. -/
theorem CellLater.useBanks (v : Nat) (bs : List Nat) (r : Nat) (s : State) :
    CellLater k b s ((List.range ((s.cell k).useBanks v bs r).2.1).foldl (fun s _ => s.barrierFault k false)
      (s.onCell k fun _ => ((s.cell k).useBanks v bs r).2.2)) :=
  CellLater.trans (CellLater.onCell (.useBanks ..)) (CellLater.foldl _ (fun s _ => .barrierFault false s) _ _)

theorem CellLater.sramStore {v : Nat} (hv : b ≤ v) (a : Nat) (bs : List (BitVec 8)) (q : Bool) (r : Nat) (s : State) :
    CellLater k b s (s.sramStore k v a bs q r) := by
  unfold State.sramStore
  refine CellLater.trans (CellLater.useBanks v (banksOf a bs.length) r s) ?_
  dsimp only
  split
  · exact .onCell (.land (Nat.lt_succ_of_le hv) _ _)
  · exact .barrierFault ..

theorem CellLater.storeLanes {v : Nat} (hv : b ≤ v) (a : Nat) (m : BitVec 64) (x : BitVec 2048) (poison : Bool) (s : State) :
    CellLater k b s (s.storeLanes k v a m x poison) := by
  unfold State.storeLanes
  split
  · exact .sramStore hv ..
  · refine CellLater.trans (CellLater.useBanks v (banksOf a 256) 1 s) ?_
    dsimp only
    split
    · exact .barrierFault ..
    · refine CellLater.foldl _ (fun s i => ?_) _ _
      split
      · exact .onCell (.land (Nat.lt_succ_of_le hv) _ _)
      · exact .refl _

/-- What leaves the grid and the fence map leaves the cell. -/
theorem CellLater.of_quiet {s t : State} (h : s.Quiet t) : CellLater k b s t := by
  have e : t.cell k = s.cell k := by rw [State.cell, State.cell, kept_hostOf h.kept, State.phys, State.phys, h.grid]
  exact LandsLater.of_eq e

end

/-- The issue at `p` shows its results in a later beat. -/
abbrev ShowsLater (p : At) (s t : State) : Prop := CellLater p.cell p.beat (s.atBeat p) t

section
variable {p : At} {s t : State} (plays : s.plays p = true)
include plays

theorem showsLater_issue {body : State → State} (e : issue p body s = .next t)
    (h : CellLater p.cell p.beat (s.atBeat p) (body (s.atBeat p))) : ShowsLater p s t := by
  rw [issue_plays _ _ _ plays] at e
  injection e with e
  subst e
  refine CellLater.trans ?_ (CellLater.of_quiet (quiet_settle _))
  split
  · exact .refl _
  · exact h

theorem showsLater_idle (e : issue p (fun s => s) s = .next t) : ShowsLater p s t := showsLater_issue plays e (.refl _)

theorem showsLater_vecIssue {lat : Nat} {body skipped : State → State} (e : vecIssue p lat body skipped s = .next t)
    (h : ∀ u : State, CellLater p.cell p.beat u (body u)) (h' : ∀ u : State, CellLater p.cell p.beat u (skipped u)) :
    ShowsLater p s t := by
  refine showsLater_issue plays e ?_
  unfold State.vecBody
  extract_lets g
  have hg := CellLater.guarded (k := p.cell) (b := p.beat) g (s.atBeat p)
  generalize (s.atBeat p).guarded p.cell g = r at hg ⊢
  obtain ⟨v, w⟩ := r
  cases v with
  | run => exact (hg.trans (h w)).trans (CellLater.onCell (.signalAt (Nat.le_add_right ..) _ _))
  | skipped => exact (hg.trans (h' w)).trans (CellLater.onCell (.signalAt (Nat.le_add_right ..) _ _))
  | failed => exact hg

theorem showsLater_vecOp {lat : Nat} {f : Cell → Cell} (e : vecOp p lat f s = .next t)
    (h : ∀ c : Cell, LandsLater p.beat c (f c)) : ShowsLater p s t :=
  showsLater_vecIssue plays e (fun _ => .onCell (h _)) fun _ => .refl _

theorem showsLater_fpOp {o : VOp} {lat : Nat} {useD : Bool} {f : Fmt → Nat → Nat → Nat → Nat × AFlags}
    (e : fpOp p o lat useD f s = .next t) (hlat : 0 < lat) : ShowsLater p s t := by
  unfold fpOp at e
  split at e
  · exact showsLater_idle plays e
  · exact showsLater_vecOp plays e fun _ => .vecResult hlat ..

theorem showsLater_fnOp {o : VOp} {g : Fl → Fl} {z : Bool} (e : fnOp p o g z s = .next t) : ShowsLater p s t := by
  unfold fnOp at e
  split at e
  · exact showsLater_idle plays e
  · exact showsLater_vecOp plays e fun _ => .vecResult (by decide) ..

theorem showsLater_reduceOp {o : VOp} {leaf : Nat → Nat} {ident : Nat} {g : Fl → Fl → Fl}
    (e : reduceOp p o leaf ident g s = .next t) : ShowsLater p s t := by
  unfold reduceOp at e
  split at e
  · exact showsLater_idle plays e
  · exact showsLater_vecOp plays e fun _ => .flagged (Nat.lt_add_of_pos_right (by decide)) ..

theorem showsLater_laneOp {o : VOp} {lat : Nat} {ok : Bool} {g : Cell → Nat → BitVec 32}
    (e : laneOp p o lat ok g s = .next t) (hlat : 0 < lat) : ShowsLater p s t := by
  unfold laneOp at e
  split at e
  · exact showsLater_idle plays e
  · exact showsLater_vecOp plays e fun _ => .vecResult hlat ..

theorem showsLater_convert {o : COp} {f : Fmt} {n : Nat} {z : Bool} (e : convert p o f n z s = .next t) : ShowsLater p s t := by
  unfold convert at e
  refine showsLater_vecOp plays e fun c => ?_
  dsimp only
  split
  · exact (LandsLater.convResult (by decide) ..).trans (.trackers _ _)
  · exact .convResult (by decide) ..

theorem showsLater_scalarOp {o : SOp} {f : Cell → BitVec 32} (e : scalarOp p o f s = .next t) : ShowsLater p s t :=
  showsLater_vecOp plays e fun _ => .land (Nat.lt_succ_self _) _ _

/-! ### The operations of their own -/

theorem showsLater_execVsel {o : VOp} (e : execVsel p o s = .next t) : ShowsLater p s t :=
  showsLater_vecOp plays e fun _ => .land (Nat.lt_add_of_pos_right (by decide)) _ _

theorem showsLater_execVbcast {o : VOp} (e : execVbcast p o s = .next t) : ShowsLater p s t := by
  unfold execVbcast at e
  split at e
  · exact showsLater_idle plays e
  · exact showsLater_vecOp plays e fun _ => .vecResult (by decide) ..

theorem showsLater_execViota {o : VOp} (e : execViota p o s = .next t) : ShowsLater p s t := by
  unfold execViota at e
  split at e
  · exact showsLater_idle plays e
  · split at e
    · exact showsLater_idle plays e
    · exact showsLater_vecOp plays e fun _ => .vecResult (by decide) ..

theorem showsLater_execVcmp {o : VOp} (e : execVcmp p o s = .next t) : ShowsLater p s t := by
  unfold execVcmp at e
  split at e
  · exact showsLater_idle plays e
  · exact showsLater_vecOp plays e fun _ => .land (Nat.lt_add_of_pos_right (by decide)) _ _

theorem showsLater_execMlog {o : VOp} (e : execMlog p o s = .next t) : ShowsLater p s t := by
  unfold execMlog at e
  split at e
  · exact showsLater_idle plays e
  · exact showsLater_vecOp plays e fun _ => .land (Nat.lt_succ_self _) _ _

theorem showsLater_execMvl {o : VOp} (e : execMvl p o s = .next t) : ShowsLater p s t :=
  showsLater_vecOp plays e fun _ => .land (Nat.lt_succ_self _) _ _

theorem showsLater_execMflg {o : VOp} (e : execMflg p o s = .next t) : ShowsLater p s t := by
  refine showsLater_vecOp plays e fun c => ?_
  dsimp only
  split
  · exact (LandsLater.land (Nat.lt_succ_self _) _ _).trans (.land (Nat.lt_succ_self _) _ _)
  · exact .land (Nat.lt_succ_self _) _ _

theorem showsLater_execVqblk {o : COp} (e : execVqblk p o s = .next t) : ShowsLater p s t := by
  unfold execVqblk at e
  split at e
  · exact showsLater_idle plays e
  · exact showsLater_vecOp plays e fun _ =>
      (LandsLater.convResult (by decide) ..).trans (.land (Nat.lt_add_of_pos_right (by decide)) _ _)

theorem showsLater_execVunpk {o : COp} (e : execVunpk p o s = .next t) : ShowsLater p s t := by
  unfold execVunpk at e
  split at e
  · exact showsLater_idle plays e
  · exact showsLater_vecOp plays e fun _ => .vecResult (by decide) ..

theorem showsLater_execSmov {o : SOp} (e : execSmov p o s = .next t) : ShowsLater p s t := by
  unfold execSmov at e
  split at e
  · exact showsLater_scalarOp plays e
  · exact showsLater_scalarOp plays e
  · exact showsLater_idle plays e

theorem showsLater_execVld {o : LOp} (e : execVld p o s = .next t) : ShowsLater p s t := by
  refine showsLater_vecIssue plays e (fun u => ?_) fun _ => .refl _
  refine CellLater.trans (CellLater.onCell (.postInc o _)) ?_
  dsimp only
  generalize Cell.vecAddr _ o.sbase o.offset.toNat = a
  split
  · exact .barrierFault ..
  · refine CellLater.trans (CellLater.useBanks p.beat (banksOf a 256) 1 _) ?_
    split
    · exact .barrierFault ..
    · have count (c : Cell) : LandsLater p.beat c
          (if p.read = .corrected then { c with eccSram := satInc c.eccSram } else c) := by
        split
        · exact ⟨rfl, rfl, rfl, rfl, rfl, rfl, rfl, rfl, rfl, rfl, fun _ h => .inl h⟩
        · exact .refl _
      exact CellLater.trans (CellLater.onCell (.land (Nat.lt_add_of_pos_right (by decide)) _ _)) (CellLater.onCell (count _))

theorem showsLater_execVst {o : LOp} (e : execVst p o s = .next t) : ShowsLater p s t := by
  refine showsLater_vecIssue plays e (fun u => ?_) fun _ => .refl _
  refine CellLater.trans (CellLater.onCell (.postInc o _)) ?_
  dsimp only
  split
  · exact .barrierFault ..
  · refine CellLater.trans (CellLater.onCell ?_) (CellLater.storeLanes (Nat.le_add_right ..) _ _ _ _ _)
    split
    · exact .refl _
    · exact ⟨rfl, rfl, rfl, rfl, rfl, rfl, rfl, rfl, rfl, rfl, fun _ h => .inl h⟩

theorem showsLater_execVsthOpen {o : HOp} (e : execVsthOpen p o s = .next t) : ShowsLater p s t :=
  showsLater_vecIssue plays e
    (fun _ => .onCell ⟨rfl, rfl, rfl, rfl, rfl, rfl, rfl, rfl, rfl, rfl, fun _ h => .inl h⟩) fun _ => .refl _

theorem showsLater_execVsthClose {o : HOp} (e : execVsthClose p o s = .next t) : ShowsLater p s t := by
  have closed (u : State) : CellLater p.cell p.beat u (u.onCell p.cell fun c => { c with stream := none }) :=
    .onCell ⟨rfl, rfl, rfl, rfl, rfl, rfl, rfl, rfl, rfl, rfl, fun _ h => .inl h⟩
  refine showsLater_vecIssue plays e (fun u => ?_) closed
  refine CellLater.trans (closed u) ?_
  dsimp only
  split
  all_goals
    split
    · exact .barrierFault ..
    · exact .sramStore (Nat.le_add_right ..) ..

/-- A vector sub-slot shows its results in a later beat. -/
theorem showsLater_exec {i : Instr} (place : i.issuedAt = some p) (vector : (encodeVector i).isSome = true)
    (e : exec i s = .next t) : ShowsLater p s t := by
  cases i with
  | vnop => cases place; exact showsLater_idle plays (show execVnop p s = _ from e)
  | vadd => cases place; exact showsLater_fpOp plays (show execVadd p _ s = _ from e) (by decide)
  | vsub => cases place; exact showsLater_fpOp plays (show execVsub p _ s = _ from e) (by decide)
  | vmul => cases place; exact showsLater_fpOp plays (show execVmul p _ s = _ from e) (by decide)
  | vfma => cases place; exact showsLater_fpOp plays (show execVfma p _ s = _ from e) (by decide)
  | vmax => cases place; exact showsLater_fpOp plays (show execVmax p _ s = _ from e) (by decide)
  | vmin => cases place; exact showsLater_fpOp plays (show execVmin p _ s = _ from e) (by decide)
  | vabs => cases place; exact showsLater_fpOp plays (show execVabs p _ s = _ from e) (by decide)
  | vneg => cases place; exact showsLater_fpOp plays (show execVneg p _ s = _ from e) (by decide)
  | exp2 => cases place; exact showsLater_fnOp plays (show execExp2 p _ s = _ from e)
  | log2 => cases place; exact showsLater_fnOp plays (show execLog2 p _ s = _ from e)
  | rcp => cases place; exact showsLater_fnOp plays (show execRcp p _ s = _ from e)
  | rsqrt => cases place; exact showsLater_fnOp plays (show execRsqrt p _ s = _ from e)
  | sigm => cases place; exact showsLater_fnOp plays (show execSigm p _ s = _ from e)
  | tanh => cases place; exact showsLater_fnOp plays (show execTanh p _ s = _ from e)
  | rsum => cases place; exact showsLater_reduceOp plays (show execRsum p _ s = _ from e)
  | rmax => cases place; exact showsLater_reduceOp plays (show execRmax p _ s = _ from e)
  | rmin => cases place; exact showsLater_reduceOp plays (show execRmin p _ s = _ from e)
  | ramax => cases place; exact showsLater_reduceOp plays (show execRamax p _ s = _ from e)
  | iadd => cases place; exact showsLater_laneOp plays (show execIadd p _ s = _ from e) (by decide)
  | isub => cases place; exact showsLater_laneOp plays (show execIsub p _ s = _ from e) (by decide)
  | vand => cases place; exact showsLater_laneOp plays (show execVand p _ s = _ from e) (by decide)
  | vor => cases place; exact showsLater_laneOp plays (show execVor p _ s = _ from e) (by decide)
  | vxor => cases place; exact showsLater_laneOp plays (show execVxor p _ s = _ from e) (by decide)
  | vshl => cases place; exact showsLater_laneOp plays (show execVshl p _ s = _ from e) (by decide)
  | vshr => cases place; exact showsLater_laneOp plays (show execVshr p _ s = _ from e) (by decide)
  | vsel => cases place; exact showsLater_execVsel plays e
  | vmov => cases place; exact showsLater_laneOp plays (show execVmov p _ s = _ from e) (by decide)
  | vbcast => cases place; exact showsLater_execVbcast plays e
  | vperm => cases place; exact showsLater_laneOp plays (show execVperm p _ s = _ from e) (by decide)
  | viota => cases place; exact showsLater_execViota plays e
  | vcmp => cases place; exact showsLater_execVcmp plays e
  | mlog => cases place; exact showsLater_execMlog plays e
  | mvl => cases place; exact showsLater_execMvl plays e
  | mflg => cases place; exact showsLater_execMflg plays e
  | vcvtBf16 => cases place; exact showsLater_convert plays (show execVcvtBf16 p _ s = _ from e)
  | vcvtFp16 => cases place; exact showsLater_convert plays (show execVcvtFp16 p _ s = _ from e)
  | vcvtFp8 => cases place; exact showsLater_convert plays (show execVcvtFp8 p _ s = _ from e)
  | vcvtFp4 => cases place; exact showsLater_convert plays (show execVcvtFp4 p _ s = _ from e)
  | vqblk => cases place; exact showsLater_execVqblk plays e
  | vunpk => cases place; exact showsLater_execVunpk plays e
  | vld => cases place; exact showsLater_execVld plays e
  | vst => cases place; exact showsLater_execVst plays e
  | vsthOpen => cases place; exact showsLater_execVsthOpen plays e
  | vsthClose => cases place; exact showsLater_execVsthClose plays e
  | slui => cases place; exact showsLater_scalarOp plays (show execSlui p _ s = _ from e)
  | slli => cases place; exact showsLater_scalarOp plays (show execSlli p _ s = _ from e)
  | smov => cases place; exact showsLater_execSmov plays e
  | sadd => cases place; exact showsLater_scalarOp plays (show execSadd p _ s = _ from e)
  | _ => exact absurd vector Bool.false_ne_true

end

/-- Settles O11: each result lands at least one beat after its issue, and each signal and store after it. -/
theorem vectorResultsLandLater : Obligations.VectorResultsLandLater := by
  intro i p s t place vector plays e
  obtain ⟨v, m, sc, laneFlags, sram, acc0, acc1, da, ma, beat, landings⟩ := showsLater_exec plays place vector e
  exact ⟨v, m, sc, laneFlags, sram, acc0, acc1, da, ma, beat, landings⟩

end Sys2Proof.Proofs
end

section
/-!
What every step keeps (O3 to O8), as one relation between the state before and a state on the way: the queue behind the
command, the canonical form of every byte memory, the legal entries of the fence map and the bounds on the known cylinders.
-/
namespace Sys2Proof.Proofs
open Sys2Proof.Machine

/-! ### The invariants -/

/-- The byte memories of the memory block are canonical: tiers 1 to 3, and the bytes of pages that arrive (R198, R209). -/
def MemoryWf (m : Memory) : Prop :=
  (Mem.wf m.t1 = true ∧ Mem.wf m.t2 = true ∧ Mem.wf m.t3 = true) ∧ ∀ r ∈ m.remotes, Mem.wf r.bytes = true

/-- The SRAM of every listed cell is canonical (R49). -/
def CellsWf (cells : SMap Cell) : Prop := ∀ c ∈ cells, Mem.wf c.2.sram = true

/-- The tiles that wait for their pages are canonical, in the models held and in those kept through a reset. -/
def StagedWf (models saved : List ModelVer) : Prop :=
  (∀ m ∈ models, Mem.wf m.staged = true) ∧ ∀ m ∈ saved, Mem.wf m.staged = true

/-- The byte memories that move data between one another are canonical. -/
def BytesWf (s : State) : Prop := MemoryWf s.mem ∧ CellsWf s.grid.cells ∧ StagedWf s.wgt.models s.wgt.saved

/-- A fence entry that is not reserved (R63). -/
def LegalEntry (e : BitVec 6) : Prop := e.toNat ≤ 0x20 ∨ e = 0x3F

/-- No copy of the fence map holds a reserved entry. -/
def LegalFence (m : VotedMap) : Prop :=
  (∀ e ∈ m.a, LegalEntry e) ∧ (∀ e ∈ m.b, LegalEntry e) ∧ ∀ e ∈ m.c, LegalEntry e

/-- At most 8 cylinders are known, no two of one identity, at most one `VERIFIED` and at most one `ACTIVE` (R151). -/
def KnownBounded (ks : List KnownCyl) : Prop :=
  ks.length ≤ 8 ∧ (ks.map (·.id)).Nodup ∧
    (ks.filter fun k => decide (k.status = .verified)).length ≤ 1 ∧
    (ks.filter fun k => decide (k.status = .active)).length ≤ 1

/-- Which of the two bounded tables are watched: a vote scan may put any entry into the fence map, and the middle of a
verification may hold two verified cylinders. -/
structure Watch where
  /-- the fence map is watched -/
  fence : Bool
  /-- the known cylinders are watched -/
  known : Bool

/-- From `s` to `t` nothing is lost of what every step keeps. -/
structure Steady (w : Watch) (s t : State) : Prop where
  queue : t.pending = s.pending
  host : Mem.wf s.host.mem = true → Mem.wf t.host.mem = true
  fwSram : Mem.wf s.mgt.fwSram = true → Mem.wf t.mgt.fwSram = true
  bytes : BytesWf s → BytesWf t
  fence : w.fence = true → LegalFence s.grid.fence → LegalFence t.grid.fence
  known : w.known = true → KnownBounded s.cyl.known → KnownBounded t.cyl.known

/-- A meaning answers a next state, and a steady one. -/
def Answers (w : Watch) (s : State) (o : Out) : Prop := ∃ t, o = .next t ∧ Steady w s t

/-- An operation that may fail gives a steady state where it does not. -/
def Yields (w : Watch) (s : State) (o : Option State) : Prop := ∀ t, o = some t → Steady w s t

variable {w : Watch} {s₀ s t u : State}

/-! ### How steadiness composes -/

namespace Steady

theorem refl (w : Watch) (s : State) : Steady w s s := ⟨rfl, id, id, id, fun _ => id, fun _ => id⟩

theorem trans (h : Steady w s t) (g : Steady w t u) : Steady w s u :=
  ⟨g.queue.trans h.queue, g.host ∘ h.host, g.fwSram ∘ h.fwSram, g.bytes ∘ h.bytes, fun f => g.fence f ∘ h.fence f,
    fun f => g.known f ∘ h.known f⟩

theorem ite {c : Prop} [Decidable c] (h : Steady w s₀ s) (g : Steady w s₀ t) : Steady w s₀ (if c then s else t) := by
  split
  · exact h
  · exact g

/-- The same, where the cases know which they are. -/
theorem ite_of {c : Prop} [Decidable c] (h : c → Steady w s₀ s) (g : ¬ c → Steady w s₀ t) :
    Steady w s₀ (if c then s else t) := by
  split
  next hc => exact h hc
  next hc => exact g hc

/-- One more operation, where the condition holds. -/
theorem andThen {c : Prop} [Decidable c] (h : Steady w s₀ s) (g : Steady w s₀ s → Steady w s₀ t) :
    Steady w s₀ (if c then t else s) :=
  ite (g h) h

/-- One more operation, where the condition fails. -/
theorem orElse {c : Prop} [Decidable c] (h : Steady w s₀ s) (g : Steady w s₀ s → Steady w s₀ t) :
    Steady w s₀ (if c then s else t) :=
  ite h (g h)

/-- What several cases begin with, named once. -/
theorem share {p : Prop} (h : Steady w s₀ s) (g : Steady w s₀ s → p) : p := g h

/-- Operations one after another. -/
theorem foldl {α : Type} {f : State → α → State} {as : List α} (h : Steady w s₀ s)
    (hf : ∀ s a, Steady w s₀ s → Steady w s₀ (f s a)) : Steady w s₀ (as.foldl f s) :=
  List.foldlRecOn (motive := Steady w s₀) as f h fun s hs a _ => hf s a hs

/-- Operations one after another, with the state first of two. -/
theorem foldl_fst {α β : Type} {f : State × β → α → State × β} {as : List α} {b : β} (h : Steady w s₀ s)
    (hf : ∀ s b a, Steady w s₀ s → Steady w s₀ (f (s, b) a).1) : Steady w s₀ (as.foldl f (s, b)).1 :=
  List.foldlRecOn (motive := fun r => Steady w s₀ r.1) as f h fun r hr a _ => hf r.1 r.2 a hr

/-- Operations one after another, with the state second of two. -/
theorem foldl_snd {α β : Type} {f : β × State → α → β × State} {as : List α} {b : β} (h : Steady w s₀ s)
    (hf : ∀ b s a, Steady w s₀ s → Steady w s₀ (f (b, s) a).2) : Steady w s₀ (as.foldl f (b, s)).2 :=
  List.foldlRecOn (motive := fun r => Steady w s₀ r.2) as f h fun r hr a _ => hf r.1 r.2 a hr

/-- The state of a pair that is known. -/
theorem of_snd {α : Type} {x : α × State} {a : α} (h : Steady w s₀ x.2) (e : x = (a, t)) : Steady w s₀ t := by
  subst e
  exact h

/-- The state of a pair that is known. -/
theorem of_fst {α : Type} {x : State × α} {a : α} (h : Steady w s₀ x.1) (e : x = (t, a)) : Steady w s₀ t := by
  subst e
  exact h

theorem next (h : Steady w s₀ s) : Answers w s₀ (.next s) := ⟨s, rfl, h⟩

theorem some (h : Steady w s₀ s) : Yields w s₀ (Option.some s) := fun _ e => Option.some.inj e ▸ h

end Steady

namespace Answers

theorem ite {c : Prop} [Decidable c] {o p : Out} (h : Answers w s₀ o) (g : Answers w s₀ p) :
    Answers w s₀ (if c then o else p) := by
  split
  · exact h
  · exact g

end Answers

namespace Yields

theorem none : Yields w s₀ Option.none := fun _ e => nomatch e

theorem ite {c : Prop} [Decidable c] {o p : Option State} (h : Yields w s₀ o) (g : Yields w s₀ p) :
    Yields w s₀ (if c then o else p) := by
  split
  · exact h
  · exact g

theorem map {o : Option State} {f : State → State} (h : Yields w s₀ o) (hf : ∀ s, Steady w s₀ s → Steady w s₀ (f s)) :
    Yields w s₀ (o.map f) := by
  intro t e
  obtain ⟨s, hs, rfl⟩ := Option.map_eq_some_iff.1 e
  exact hf s (h s hs)

theorem bind {o : Option State} {f : State → Option State} (h : Yields w s₀ o)
    (hf : ∀ s, Steady w s₀ s → Yields w s₀ (f s)) : Yields w s₀ (o.bind f) := by
  intro t e
  obtain ⟨s, hs, hft⟩ := Option.bind_eq_some_iff.1 e
  exact hf s (h s hs) t hft

/-- Operations that may fail, one after another. -/
theorem foldl {α : Type} {f : Option State → α → Option State} {as : List α} {o : Option State} (h : Yields w s₀ o)
    (hf : ∀ o a, Yields w s₀ o → Yields w s₀ (f o a)) : Yields w s₀ (as.foldl f o) :=
  List.foldlRecOn (motive := Yields w s₀) as f h fun o ho a _ => hf o a ho

/-- The same, with the state first of two. -/
theorem foldl_fst {α β : Type} {f : Option State × β → α → Option State × β} {as : List α} {r : Option State × β}
    (h : Yields w s₀ r.1) (hf : ∀ r a, Yields w s₀ r.1 → Yields w s₀ (f r a).1) : Yields w s₀ (as.foldl f r).1 :=
  List.foldlRecOn (motive := fun r => Yields w s₀ r.1) as f h fun r hr a _ => hf r a hr

theorem getD {o : Option State} (h : Yields w s₀ o) (hs : Steady w s₀ s) : Steady w s₀ (o.getD s) := by
  cases o with
  | none => exact hs
  | some t => exact h t rfl

end Yields

/-! ### The cells -/

/-- A listed cell or the reset one. -/
theorem CellsWf.get {cells : SMap Cell} (h : CellsWf cells) (k : Nat) : Mem.wf (Sparse.get Cell.reset cells k).sram = true := by
  induction cells with
  | nil => rfl
  | cons x r ih =>
    obtain ⟨j, c⟩ := x
    rw [Sparse.get]
    split
    · exact h _ (.head _)
    · exact ih fun c hr => h c (.tail _ hr)

theorem CellsWf.set {cells : SMap Cell} (h : CellsWf cells) {k : Nat} {c : Cell} (hc : Mem.wf c.sram = true) :
    CellsWf (Sparse.set Cell.reset cells k c) := by
  intro x hx
  simp only [Sparse.set, List.mem_append, List.mem_filter] at hx
  obtain (⟨hx, -⟩ | hx) | ⟨hx, -⟩ := hx
  · exact h x hx
  · split at hx
    · cases hx
    · rw [List.mem_singleton.1 hx]
      exact hc
  · exact h x hx

theorem CellsWf.modify {cells : SMap Cell} (h : CellsWf cells) {k : Nat} {g : Cell → Cell}
    (hg : Mem.wf (Sparse.get Cell.reset cells k).sram = true → Mem.wf (g (Sparse.get Cell.reset cells k)).sram = true) :
    CellsWf (Sparse.modify Cell.reset cells k g) :=
  h.set (hg (h.get k))

/-! ### The updates of one block

What an update needs of the part that is watched is an automatic argument, proved where the part is as before by
`intros; trivial`. The tactic is named through a declaration of Mathlib that holds it: one written here would be a
declaration of this text, whose evaluation waits for every proof above it. -/

namespace Steady

/-- A change of nothing that is watched. -/
theorem elsewhere (h : Steady w s₀ s)
    (e : (t.pending, t.host.mem, t.mgt.fwSram, t.mem, t.grid.cells, t.wgt.models, t.wgt.saved, t.grid.fence, t.cyl.known) =
      (s.pending, s.host.mem, s.mgt.fwSram, s.mem, s.grid.cells, s.wgt.models, s.wgt.saved, s.grid.fence, s.cyl.known)) :
    Steady w s₀ t := by
  simp only [Prod.mk.injEq] at e
  obtain ⟨queue, host, fwSram, memory, cells, models, saved, fence, known⟩ := e
  refine h.trans ⟨queue, ?_, ?_, ?_, ?_, ?_⟩
  · rw [host]; exact id
  · rw [fwSram]; exact id
  · unfold BytesWf; rw [memory, cells, models, saved]; exact id
  · rw [fence]; exact fun _ => id
  · rw [known]; exact fun _ => id

theorem onCad {g : Cadence → Cadence} (h : Steady w s₀ s) : Steady w s₀ (s.onCad g) := h.elsewhere rfl
theorem onStep {g : Step → Step} (h : Steady w s₀ s) : Steady w s₀ (s.onStep g) := h.elsewhere rfl
theorem onArith {g : Arith → Arith} (h : Steady w s₀ s) : Steady w s₀ (s.onArith g) := h.elsewhere rfl
theorem onSrv {g : Serving → Serving} (h : Steady w s₀ s) : Steady w s₀ (s.onSrv g) := h.elsewhere rfl
theorem onCmd {g : Command → Command} (h : Steady w s₀ s) : Steady w s₀ (s.onCmd g) := h.elsewhere rfl
theorem onHlt {g : Health → Health} (h : Steady w s₀ s) : Steady w s₀ (s.onHlt g) := h.elsewhere rfl
theorem onFab {g : Fabric → Fabric} (h : Steady w s₀ s) : Steady w s₀ (s.onFab g) := h.elsewhere rfl
theorem onPwr {g : Power → Power} (h : Steady w s₀ s) : Steady w s₀ (s.onPwr g) := h.elsewhere rfl
theorem onStore {g : Store → Store} (h : Steady w s₀ s) : Steady w s₀ (s.onStore g) := h.elsewhere rfl
theorem onSys {g : Sys → Sys} (h : Steady w s₀ s) : Steady w s₀ (s.onSys g) := h.elsewhere rfl
theorem onIc {g : Ic → Ic} (h : Steady w s₀ s) : Steady w s₀ (s.onIc g) := h.elsewhere rfl
theorem onDma {g : Dma → Dma} (h : Steady w s₀ s) : Steady w s₀ (s.onDma g) := h.elsewhere rfl
theorem onCfg {g : Config_ → Config_} (h : Steady w s₀ s) : Steady w s₀ (s.onCfg g) := h.elsewhere rfl
theorem onPins {g : Pins → Pins} (h : Steady w s₀ s) : Steady w s₀ (s.onPins g) := h.elsewhere rfl
theorem onFreeCount {g : Nat → Nat} (h : Steady w s₀ s) : Steady w s₀ (s.onFreeCount g) := h.elsewhere rfl

theorem onGrid {g : Grid → Grid} (h : Steady w s₀ s)
    (cells : autoParam (CellsWf s.grid.cells → CellsWf (g s.grid).cells) FirstOrder.Language.Hom.map_fun'._autoParam)
    (fence : autoParam (w.fence = true → LegalFence s.grid.fence → LegalFence (g s.grid).fence)
      FirstOrder.Language.Hom.map_fun'._autoParam) :
    Steady w s₀ (s.onGrid g) :=
  h.trans ⟨rfl, id, id, fun ⟨hm, hc, hs⟩ => ⟨hm, cells hc, hs⟩, fence, fun _ => id⟩

theorem onCyl {g : Cylinder → Cylinder} (h : Steady w s₀ s)
    (known : autoParam (w.known = true → KnownBounded s.cyl.known → KnownBounded (g s.cyl).known)
      FirstOrder.Language.Hom.map_fun'._autoParam) :
    Steady w s₀ (s.onCyl g) :=
  h.trans ⟨rfl, id, id, id, fun _ => id, known⟩

theorem onMem {g : Memory → Memory} (h : Steady w s₀ s)
    (memory : autoParam (MemoryWf s.mem → MemoryWf (g s.mem)) FirstOrder.Language.Hom.map_fun'._autoParam) :
    Steady w s₀ (s.onMem g) :=
  h.trans ⟨rfl, id, id, fun ⟨hm, hc, hs⟩ => ⟨memory hm, hc, hs⟩, fun _ => id, fun _ => id⟩

theorem onWgt {g : Weights → Weights} (h : Steady w s₀ s)
    (staged : autoParam (StagedWf s.wgt.models s.wgt.saved → StagedWf (g s.wgt).models (g s.wgt).saved)
      FirstOrder.Language.Hom.map_fun'._autoParam) :
    Steady w s₀ (s.onWgt g) :=
  h.trans ⟨rfl, id, id, fun ⟨hm, hc, hs⟩ => ⟨hm, hc, staged hs⟩, fun _ => id, fun _ => id⟩

theorem onMgt {g : Mgt → Mgt} (h : Steady w s₀ s)
    (fwSram : autoParam (Mem.wf s.mgt.fwSram = true → Mem.wf (g s.mgt).fwSram = true)
      FirstOrder.Language.Hom.map_fun'._autoParam) :
    Steady w s₀ (s.onMgt g) :=
  h.trans ⟨rfl, id, fwSram, id, fun _ => id, fun _ => id⟩

theorem onHost {g : HostSide → HostSide} (h : Steady w s₀ s)
    (host : autoParam (Mem.wf s.host.mem = true → Mem.wf (g s.host).mem = true)
      FirstOrder.Language.Hom.map_fun'._autoParam) :
    Steady w s₀ (s.onHost g) :=
  h.trans ⟨rfl, host, id, id, fun _ => id, fun _ => id⟩

/-- A physical cell is changed, and its SRAM stays canonical. -/
theorem onPhys {k : Nat} {g : Cell → Cell} (h : Steady w s₀ s)
    (sram : autoParam (Mem.wf (s.phys k).sram = true → Mem.wf (g (s.phys k)).sram = true)
      FirstOrder.Language.Hom.map_fun'._autoParam) :
    Steady w s₀ (s.onPhys k g) :=
  h.onGrid fun hc => hc.modify sram

/-- A logical cell is changed, and its SRAM stays canonical. -/
theorem onCell {k : Nat} {g : Cell → Cell} (h : Steady w s₀ s)
    (sram : autoParam (Mem.wf (s.cell k).sram = true → Mem.wf (g (s.cell k)).sram = true)
      FirstOrder.Language.Hom.map_fun'._autoParam) :
    Steady w s₀ (s.onCell k g) :=
  h.onPhys sram

/-- A logical cell is changed, and its SRAM is as before. -/
theorem onCellSame {k : Nat} {g : Cell → Cell} (h : Steady w s₀ s) (sram : (g (s.cell k)).sram = (s.cell k).sram) :
    Steady w s₀ (s.onCell k g) :=
  h.onCell fun hc => sram ▸ hc

end Steady
end Sys2Proof.Proofs
end

section
/-!
The bytes that the operations of one cell and of the memory block may change (O5, O6).
-/
namespace Sys2Proof.Proofs
open Sys2Proof.Machine

/-! ### The SRAM of a cell -/

theorem useBanks_sram (t : Nat) (bs : List Nat) (r : Nat) (c : Cell) : (c.useBanks t bs r).2.2.sram = c.sram :=
  (cell_useBanks (P := fun _ => True) t bs r c).sram

theorem signalAt_sram (t : Nat) (k : Option (BitVec 4)) (c : Cell) : (c.signalAt t k).sram = c.sram :=
  (cell_signalAt (P := fun _ => True) (fun _ _ _ => trivial) c t k).sram

theorem stepPair_sram (o : DOp) (c : Cell) : (c.stepPair o).sram = c.sram :=
  (cell_step (P := fun _ => True) o c).sram

theorem toBeat_sram (t : Nat) (c : Cell) : (c.toBeat t).sram = c.sram := by
  unfold Cell.toBeat
  split <;> rfl

theorem moverRead_sram (t a : Nat) (bad : Bool) (c : Cell) : (c.moverRead t a bad).2.1.sram = c.sram := by
  unfold Cell.moverRead
  dsimp only
  split <;> exact useBanks_sram ..

theorem moverStore_sram (t a : Nat) (d : BitVec 1024) (p : Bool) (c : Cell) : (c.moverStore t a d p).1.sram = c.sram := by
  unfold Cell.moverStore
  dsimp only
  split
  · split <;> exact useBanks_sram ..
  · rfl

theorem setAcc_sram (b : Bool) (vs : List (BitVec 32)) (f : AFlags) (p : Bool) (c : Cell) : (c.setAcc b vs f p).sram = c.sram := by
  cases b <;> rfl

theorem passResults_sram (q : PassRec) (known p : Bool) (c : Cell) : (c.passResults q known p).sram = c.sram := by
  unfold Cell.passResults
  dsimp only
  split <;> exact setAcc_sram ..

/-- Only a write changes bytes of SRAM, and keeps them canonical. -/
theorem act_wf {t : Nat} {l : Landing} {c : Cell} (h : Mem.wf c.sram = true) : Mem.wf (c.act t l).1.sram = true := by
  have read {a bad x} (e : c.moverRead t a bad = x) : Mem.wf x.2.1.sram = true := by
    rw [← e, moverRead_sram]
    exact h
  have store {t a d p} {c : Cell} (h : Mem.wf c.sram = true) : Mem.wf (c.moverStore t a d p).1.sram = true := by
    rw [moverStore_sram]
    exact h
  cases l with
  | sram a bs p r => exact sramWrite_wf c a bs p h
  | mask m | scalar r =>
    unfold Cell.act
    dsimp only
    split <;> exact h
  | results q known p => exact (congrArg Mem.wf (passResults_sram q known p c)).trans h
  | copy src dst bad =>
    unfold Cell.act
    dsimp only
    split
    next e => exact store (read e)
    next e => exact read e
  | inject src f bad | toT1 src dst bad | feed src st bad | indexBlock src =>
    unfold Cell.act
    dsimp only
    split
    next e => exact read e
    next e => exact read e
  | piece e base dst last signal bad =>
    unfold Cell.act
    dsimp only
    split
    · have hs : Mem.wf (if last then c.signalAt (t + 3) signal else c).sram = true := by
        split
        · rw [signalAt_sram]
          exact h
        · exact h
      split
      · exact store hs
      · split
        · exact store hs
        · generalize (if last then c.signalAt (t + 3) signal else c) = d at hs
          split
          next e => exact store (e ▸ (congrArg Mem.wf (moverRead_sram ..)).trans hs :)
          next e => exact (e ▸ (congrArg Mem.wf (moverRead_sram ..)).trans hs :)
    · exact h
  | _ => exact h

theorem settleLoop_wf (t n : Nat) : ∀ {c : Cell} {os : List CellOut}, Mem.wf c.sram = true →
    Mem.wf (Cell.settleLoop t n (c, os)).1.sram = true := by
  induction n with
  | zero => exact fun h => h
  | succ n ih =>
    intro c os h
    unfold Cell.settleLoop
    split
    · exact h
    · exact ih (act_wf h)

theorem settle_wf (t : Nat) {c : Cell} (h : Mem.wf c.sram = true) : Mem.wf (c.settle t).1.sram = true :=
  settleLoop_wf t _ h

/-! ### The bytes of the memory block -/

/-- Everything of the memory block that holds bytes. -/
def tierBytes (m : Memory) : Mem × Mem × Mem × List RemoteMove := (m.t1, m.t2, m.t3, m.remotes)

/-- Where no byte changes, the canonical form is kept. -/
theorem MemoryWf.of_eq {m n : Memory} (e : tierBytes n = tierBytes m) (h : MemoryWf m) : MemoryWf n := by
  simp only [tierBytes, Prod.mk.injEq] at e
  obtain ⟨t1, t2, t3, remotes⟩ := e
  unfold MemoryWf
  rw [t1, t2, t3, remotes]
  exact h

theorem tierBytes_foldl {α : Type} {f : Memory → α → Memory} (hf : ∀ m a, tierBytes (f m a) = tierBytes m) (as : List α)
    (m : Memory) : tierBytes (as.foldl f m) = tierBytes m :=
  List.foldlRecOn (motive := fun n => tierBytes n = tierBytes m) as f rfl fun n hn a _ => (hf n a).trans hn

theorem putEntry_tierBytes (tier slot : Nat) (e : DirEntry) (m : Memory) : tierBytes (m.putEntry tier slot e) = tierBytes m := by
  unfold Memory.putEntry
  dsimp only
  split <;> split <;> rfl

theorem pumpDrives_tierBytes (m : Memory) : tierBytes m.pumpDrives = tierBytes m := by
  refine (tierBytes_foldl (fun m c => ?_) _ _).trans rfl
  split <;> rfl

theorem toDrive_tierBytes (port : Nat) (ops : List (DriveOp × Nat)) (move : Option (BitVec 32)) (m : Memory) :
    tierBytes (m.toDrive port ops move) = tierBytes m :=
  (pumpDrives_tierBytes _).trans rfl

theorem toVolume_tierBytes (r : JournalRec) (es : List (Nat × DirEntry)) (m : Memory) :
    tierBytes (m.toVolume r es) = tierBytes m := by
  unfold Memory.toVolume
  split
  · rfl
  · exact (tierBytes_foldl (fun _ _ => toDrive_tierBytes ..) _ _).trans (toDrive_tierBytes ..)

theorem record_tierBytes (r : JournalRec) (m : Memory) : tierBytes (m.record r) = tierBytes m := by
  unfold Memory.record
  extract_lets third source n entries x
  have hn : tierBytes n = tierBytes m := by
    simp only [n]
    split <;> rfl
  have hx : tierBytes x = tierBytes n := by
    simp only [x]
    split
    · exact toVolume_tierBytes ..
    · rfl
  split
  · exact hn
  · exact hx.trans hn

theorem changeDir_tierBytes (tier slot : Nat) (e : DirEntry) (c : Option (BitVec 4 × Nat)) (m : Memory) :
    tierBytes (m.changeDir tier slot e c) = tierBytes m :=
  (putEntry_tierBytes ..).trans (record_tierBytes ..)

theorem replaceDir_tierBytes (tier : Nat) (d : SMap DirEntry) (m : Memory) : tierBytes (m.replaceDir tier d) = tierBytes m :=
  tierBytes_foldl (fun _ _ => changeDir_tierBytes ..) _ _

/-- Bytes written to tier 1. -/
theorem MemoryWf.t1 {m n : Memory} (h : MemoryWf m) (h1 : Mem.wf m.t1 = true → Mem.wf n.t1 = true) (h2 : n.t2 = m.t2)
    (h3 : n.t3 = m.t3) (hr : n.remotes = m.remotes) : MemoryWf n := by
  obtain ⟨⟨t1, t2, t3⟩, remotes⟩ := h
  exact ⟨⟨h1 t1, h2 ▸ t2, h3 ▸ t3⟩, hr ▸ remotes⟩

end Sys2Proof.Proofs
end

section
/-!
The content of a page is canonical, and so is a memory in which a canonical content replaces bytes (R203, R217 to R220).
-/
namespace Sys2Proof.Proofs
open Sys2Proof.Machine

/-! ### Packed pages -/

theorem decodeSyms_length {ls : List Nat} {r : List Bool} {n len code : Nat} {ss : List Nat}
    (e : decodeSyms ls r n len code = some ss) : ss.length = n := by
  induction r generalizing n len code ss with
  | nil =>
    cases n with
    | zero =>
      cases e
      rfl
    | succ n => cases e
  | cons b r ih =>
    cases n with
    | zero =>
      rw [decodeSyms] at e
      split at e
      · cases e
        rfl
      · cases e
    | succ n =>
      rw [decodeSyms] at e
      split at e
      · obtain ⟨rest, hrest, rfl⟩ := Option.map_eq_some_iff.1 e
        rw [List.length_cons, ih hrest]
      · split at e
        · cases e
        · exact ih e

theorem ofNibbles_length (l : List Nat) : (ofNibbles l).length = l.length / 2 := by
  induction l using ofNibbles.induct with
  | case1 a b r ih =>
    rw [ofNibbles, List.length_cons, ih]
    simp only [List.length_cons]
    omega
  | case2 l short =>
    match l, short with
    | [], _ => rfl
    | [_], _ => simp [ofNibbles]
    | a :: b :: r, short => exact absurd rfl (short a b r)

theorem unpackChunk_length {img bs : List (BitVec 8)} (e : unpackChunk img = some bs) : bs.length = chunkBytes := by
  unfold unpackChunk at e
  extract_lets method n body coded out at e
  have hcoded {a t c : Nat} {back : List Nat → List (BitVec 8)} {x : List (BitVec 8)} (hx : coded a t c back = some x) :
      ∃ ss, ss.length = c ∧ back ss = x := by
    simp only [coded] at hx
    split at hx
    · cases hx
    · obtain ⟨ss, hss, rfl⟩ := Option.map_eq_some_iff.1 hx
      exact ⟨ss, decodeSyms_length hss, rfl⟩
  clear_value method
  have hout {x : List (BitVec 8)} (hbody : body.length = n) (hx : out = some x) : x.length = chunkBytes := by
    simp only [out] at hx
    split at hx
    · split at hx
      next h =>
        cases hx
        exact hbody.trans h
      · cases hx
    · split at hx
      · cases hx
        exact List.length_replicate
      · cases hx
    · obtain ⟨ss, hss, rfl⟩ := hcoded hx
      rw [ofNibbles_length, hss]
      omega
    · obtain ⟨ss, hss, rfl⟩ := hcoded hx
      rw [List.length_map, hss]
  clear_value out
  split at e
  · cases e
  next h =>
    simp only [not_or, ne_eq, Decidable.not_not] at h
    obtain ⟨-, -, -, -, hbody⟩ := h
    split at e
    · cases e
    next x hx =>
      split at e
      · cases e
        exact hout hbody rfl
      · cases e

/-- Canonical, with every key below a bound. -/
def WfBelow (n : Nat) (m : Mem) : Prop := Mem.wf m = true ∧ ∀ p ∈ m, p.1 < n

theorem WfBelow.append_run {n : Nat} {m : Mem} (h : WfBelow n m) (bs : List (BitVec 8)) :
    WfBelow (n + bs.length) (m ++ Sparse.run 0 n bs) := by
  obtain ⟨hm, below⟩ := h
  obtain ⟨sorted, nonzero⟩ := (wf_iff 0 m).1 hm
  obtain ⟨runSorted, runKeys⟩ := run_spec (0 : BitVec 8) n bs
  refine ⟨(wf_iff 0 _).2 ⟨List.pairwise_append.2 ⟨sorted, runSorted, fun p hp q hq => ?_⟩, fun p hp => ?_⟩, fun p hp => ?_⟩
  · exact Nat.lt_of_lt_of_le (below p hp) (runKeys q hq).1
  · exact (List.mem_append.1 hp).elim (nonzero p) fun hp => (runKeys p hp).2.2
  · exact (List.mem_append.1 hp).elim (fun hp => Nat.lt_add_right _ (below p hp)) fun hp => (runKeys p hp).2.1

theorem unpackPage_wf {img : List (BitVec 8)} {m : Mem} (e : unpackPage img = some m) : Mem.wf m = true := by
  unfold unpackPage at e
  split at e
  · cases e
  · have chunks (n : Nat) : ∀ m, (List.range n).foldl (fun (acc : Option Mem) k => match acc, pageChunk img k with
        | some m, some bs => some (m ++ Sparse.run 0 (chunkBytes * k) bs)
        | _, _ => none) (some []) = some m → WfBelow (chunkBytes * n) m := by
      induction n with
      | zero =>
        intro m h
        cases h
        exact ⟨rfl, fun _ h => nomatch h⟩
      | succ n ih =>
        intro m h
        rw [List.range_succ, List.foldl_append, List.foldl_cons, List.foldl_nil] at h
        split at h
        next x bs hx hbs =>
          cases h
          rw [Nat.mul_succ, ← unpackChunk_length (img := img.drop (128 * fieldAt img (4 + 2 * n) 2)) hbs,
            show bs.length = chunkBytes from unpackChunk_length hbs]
          exact unpackChunk_length hbs ▸ (ih x hx).append_run bs
        · cases h
    exact (chunks 32 m e).1

/-! ### Parts of memories -/

theorem slice_wf {m : Mem} (a n : Nat) (h : Mem.wf m = true) : Mem.wf (Mem.slice m a n) = true := by
  obtain ⟨sorted, nonzero⟩ := (wf_iff 0 m).1 h
  refine (wf_iff 0 _).2 ⟨List.pairwise_map.2 ?_, fun p hp => ?_⟩
  · refine List.Pairwise.imp_of_mem (fun {p q} hp hq hpq => ?_) (sorted.filter _)
    have := (List.mem_filter.1 hp).2
    simp only [Bool.and_eq_true, decide_eq_true_eq] at this
    show p.1 - a < q.1 - a
    omega
  · obtain ⟨q, hq, rfl⟩ := List.mem_map.1 hp
    exact nonzero q (List.mem_filter.1 hq).1

theorem lay_wf {m x : Mem} (a n : Nat) (h : Mem.wf m = true) (hx : Mem.wf x = true) : Mem.wf (Mem.lay m a n x) = true := by
  obtain ⟨sorted, nonzero⟩ := (wf_iff 0 m).1 h
  obtain ⟨xSorted, xNonzero⟩ := (wf_iff 0 x).1 hx
  have low {p : Nat × BitVec 8} (hp : p ∈ m.filter fun p => decide (p.1 < a)) : p.1 < a := by
    simpa using (List.mem_filter.1 hp).2
  have high {p : Nat × BitVec 8} (hp : p ∈ m.filter fun p => decide (a + n ≤ p.1)) : a + n ≤ p.1 := by
    simpa using (List.mem_filter.1 hp).2
  have middle {p : Nat × BitVec 8} (hp : p ∈ (x.filter fun p => decide (p.1 < n)).map fun p => (p.1 + a, p.2)) :
      a ≤ p.1 ∧ p.1 < a + n ∧ p.2 ≠ 0 := by
    obtain ⟨q, hq, rfl⟩ := List.mem_map.1 hp
    have : q.1 < n := by simpa using (List.mem_filter.1 hq).2
    exact ⟨Nat.le_add_left .., by show q.1 + a < a + n; omega, xNonzero q (List.mem_filter.1 hq).1⟩
  refine (wf_iff 0 _).2 ⟨List.pairwise_append.2 ⟨List.pairwise_append.2 ⟨sorted.filter _, ?_, fun p hp q hq => ?_⟩,
    sorted.filter _, fun p hp q hq => ?_⟩, fun p hp => ?_⟩
  · exact List.pairwise_map.2 ((xSorted.filter _).imp fun h => Nat.add_lt_add_right h a)
  · exact Nat.lt_of_lt_of_le (low hp) (middle hq).1
  · refine Nat.lt_of_lt_of_le ?_ (high hq)
    obtain hp | hp := List.mem_append.1 hp
    · exact Nat.lt_add_right _ (low hp)
    · exact (middle hp).2.1
  · obtain hp | hp := List.mem_append.1 hp
    · obtain hp | hp := List.mem_append.1 hp
      · exact nonzero p (List.mem_filter.1 hp).1
      · exact (middle hp).2.2
    · exact nonzero p (List.mem_filter.1 hp).1

/-- The content of a slot. -/
theorem content_wf {s : State} {tier slot : Nat} {m : Mem} (h : MemoryWf s.mem) (e : s.content tier slot = some m) :
    Mem.wf m = true := by
  obtain ⟨⟨t1, t2, t3⟩, -⟩ := h
  unfold State.content at e
  dsimp only at e
  split at e
  · cases e
  · split at e
    · split at e
      · cases e
      · split at e
        · cases e
          rfl
        · cases e
          exact slice_wf _ _ t1
    · split at e
      · cases e
        exact slice_wf _ _ t2
      · exact unpackPage_wf e
    · split at e
      · cases e
        exact slice_wf _ _ t3
      · exact unpackPage_wf e

end Sys2Proof.Proofs
end

section
/-!
The tables of cylinders and of models under updates that leave what is watched of them (O6, O8).
-/
namespace Sys2Proof.Proofs
open Sys2Proof.Machine

/-! ### The known cylinders -/

/-- What the bounds on the known cylinders speak of. -/
def labels (ks : List KnownCyl) : List (BitVec 32 × CylStatus) := ks.map fun k => (k.id, k.status)

theorem knownBounded_iff (ks : List KnownCyl) : KnownBounded ks ↔
    (labels ks).length ≤ 8 ∧ ((labels ks).map (·.1)).Nodup ∧
      (labels ks).countP (fun x => decide (x.2 = .verified)) ≤ 1 ∧
      (labels ks).countP (fun x => decide (x.2 = .active)) ≤ 1 := by
  unfold KnownBounded labels
  rw [List.length_map, List.map_map, List.countP_map, List.countP_map, List.countP_eq_length_filter,
    List.countP_eq_length_filter]
  rfl

/-- The bounds speak of the identities and the states only. -/
theorem KnownBounded.of_labels {ks ls : List KnownCyl} (e : labels ls = labels ks) (h : KnownBounded ks) : KnownBounded ls := by
  rw [knownBounded_iff, e]
  exact (knownBounded_iff ks).1 h

/-- Every cylinder changed, each keeping its identity and its state. -/
theorem labels_map {g : KnownCyl → KnownCyl} {ks : List KnownCyl}
    (hg : autoParam (∀ k, ((g k).id, (g k).status) = (k.id, k.status))
      FirstOrder.Language.Hom.map_fun'._autoParam) :
    labels (ks.map g) = labels ks := by
  unfold labels
  rw [List.map_map]
  exact List.map_congr_left fun k _ => hg k

/-- Cylinders are forgotten. -/
theorem KnownBounded.sublist {ks ls : List KnownCyl} (hs : ls.Sublist ks) (h : KnownBounded ks) : KnownBounded ls := by
  rw [knownBounded_iff] at h ⊢
  obtain ⟨count, ids, verified, active⟩ := h
  have e : (labels ls).Sublist (labels ks) := hs.map _
  exact ⟨e.length_le.trans count, (e.map _).nodup ids, e.countP_le.trans verified, e.countP_le.trans active⟩

/-- One identity takes a state. -/
def relabel (id : BitVec 32) (st : CylStatus) (ls : List (BitVec 32 × CylStatus)) : List (BitVec 32 × CylStatus) :=
  ls.map fun x => if x.1 = id then (id, st) else x

theorem labels_relabel {id : BitVec 32} {st : CylStatus} {g : KnownCyl → KnownCyl} {ks : List KnownCyl}
    (hg : ∀ k, ((g k).id, (g k).status) = (k.id, st)) :
    labels (ks.map fun k => if k.id = id then g k else k) = relabel id st (labels ks) := by
  unfold labels relabel
  rw [List.map_map, List.map_map]
  refine List.map_congr_left fun k _ => ?_
  simp only [Function.comp]
  split
  next h => rw [hg, h]
  · rfl

theorem relabel_ids (id : BitVec 32) (st : CylStatus) (ls : List (BitVec 32 × CylStatus)) :
    (relabel id st ls).map (·.1) = ls.map (·.1) := by
  unfold relabel
  rw [List.map_map]
  refine List.map_congr_left fun x _ => ?_
  simp only [Function.comp]
  split
  next h => exact h.symm
  · rfl

/-- A state that no identity takes is not held by more. -/
theorem countP_relabel_le {id : BitVec 32} {st st' : CylStatus} (h : st ≠ st') (ls : List (BitVec 32 × CylStatus)) :
    (relabel id st ls).countP (fun x => decide (x.2 = st')) ≤ ls.countP (fun x => decide (x.2 = st')) := by
  unfold relabel
  rw [List.countP_map]
  refine List.countP_mono_left fun x _ hx => ?_
  simp only [Function.comp] at hx
  split at hx
  · exact absurd (of_decide_eq_true hx) h
  · exact hx

/-- A state that no other holds is held by the identity that takes it only. -/
theorem countP_relabel_self {id : BitVec 32} {st : CylStatus} {ls : List (BitVec 32 × CylStatus)} (nodup : (ls.map (·.1)).Nodup)
    (free : ∀ x ∈ ls, x.2 ≠ st) : (relabel id st ls).countP (fun x => decide (x.2 = st)) ≤ 1 := by
  have one : (ls.map (·.1)).count id ≤ 1 := List.nodup_iff_count_le_one.1 nodup id
  refine Nat.le_trans ?_ one
  unfold relabel
  rw [List.countP_map, List.count, List.countP_map]
  refine List.countP_mono_left fun x hx h => ?_
  simp only [Function.comp] at h ⊢
  split at h
  next e => exact beq_iff_eq.2 e
  · exact absurd (of_decide_eq_true h) (free x hx)

/-- A cylinder is `LOADED` again. -/
theorem KnownBounded.toLoaded {ks ls : List KnownCyl} {id : BitVec 32} (e : labels ls = relabel id .loaded (labels ks))
    (h : KnownBounded ks) : KnownBounded ls := by
  rw [knownBounded_iff] at h ⊢
  obtain ⟨count, ids, verified, active⟩ := h
  rw [e, relabel_ids]
  refine ⟨?_, ids, (countP_relabel_le (by decide) _).trans verified, (countP_relabel_le (by decide) _).trans active⟩
  rw [relabel, List.length_map]
  exact count

/-- A cylinder takes the state that no other holds. -/
theorem KnownBounded.toState {ks ls : List KnownCyl} {id : BitVec 32} {st : CylStatus} (e : labels ls = relabel id st (labels ks))
    (free : ∀ x ∈ labels ks, x.2 ≠ st) (h : KnownBounded ks) : KnownBounded ls := by
  rw [knownBounded_iff] at h ⊢
  obtain ⟨count, ids, verified, active⟩ := h
  have self := countP_relabel_self (id := id) ids free
  rw [e, relabel_ids]
  refine ⟨by rwa [relabel, List.length_map], ids, ?_, ?_⟩
  · by_cases hst : st = .verified
    · exact hst ▸ self
    · exact (countP_relabel_le hst _).trans verified
  · by_cases hst : st = .active
    · exact hst ▸ self
    · exact (countP_relabel_le hst _).trans active

/-- Where one holds a state, none does once it is `LOADED`. -/
theorem free_of_toLoaded {ls : List (BitVec 32 × CylStatus)} {id : BitVec 32} {st : CylStatus} (held : (id, st) ∈ ls)
    (one : ls.countP (fun x => decide (x.2 = st)) ≤ 1) (hst : st ≠ .loaded) : ∀ x ∈ relabel id .loaded ls, x.2 ≠ st := by
  intro x hx hxst
  obtain ⟨y, hy, rfl⟩ := List.mem_map.1 hx
  split at hxst
  · exact hst hxst.symm
  next hid =>
    have two : [(id, st), y].Subperm ls := by
      refine List.subperm_of_subset ?_ ?_
      · simp only [List.nodup_cons, List.mem_singleton, List.not_mem_nil, not_false_eq_true, List.nodup_nil, and_true]
        rintro rfl
        exact hid rfl
      · intro z hz
        simp only [List.mem_cons, List.not_mem_nil, or_false] at hz
        obtain rfl | rfl := hz
        · exact held
        · exact hy
    have le := two.countP_le (fun x => decide (x.2 = st))
    simp [hxst] at le
    omega

/-- A new identity is known, `LOADED`. -/
theorem KnownBounded.append {ks : List KnownCyl} {k : KnownCyl} (room : ks.length < 8) (new : ∀ x ∈ ks, x.id ≠ k.id)
    (loaded : k.status = .loaded) (h : KnownBounded ks) : KnownBounded (ks ++ [k]) := by
  obtain ⟨count, ids, verified, active⟩ := h
  refine ⟨?_, ?_, ?_, ?_⟩
  · rw [List.length_append]
    exact room
  · rw [List.map_append]
    refine List.nodup_append.2 ⟨ids, List.nodup_singleton _, ?_⟩
    intro a ha b hb
    obtain ⟨x, hx, rfl⟩ := List.mem_map.1 ha
    rw [List.mem_singleton.1 hb]
    exact new x hx
  · rw [List.filter_append]
    simpa [loaded] using verified
  · rw [List.filter_append]
    simpa [loaded] using active

/-! ### The models -/

/-- The tiles that wait are canonical in every model of a list. -/
def TilesWf (ms : List ModelVer) : Prop := ∀ m ∈ ms, Mem.wf m.staged = true

theorem TilesWf.map {ms : List ModelVer} {g : ModelVer → ModelVer} (h : TilesWf ms)
    (hg : autoParam (∀ m, Mem.wf m.staged = true → Mem.wf (g m).staged = true)
      FirstOrder.Language.Hom.map_fun'._autoParam) :
    TilesWf (ms.map g) := by
  intro m hm
  obtain ⟨n, hn, rfl⟩ := List.mem_map.1 hm
  exact hg n (h n hn)

theorem TilesWf.filter {ms : List ModelVer} {p : ModelVer → Bool} (h : TilesWf ms) : TilesWf (ms.filter p) :=
  fun m hm => h m (List.mem_filter.1 hm).1

theorem TilesWf.append {ms ns : List ModelVer} (h : TilesWf ms) (g : TilesWf ns) : TilesWf (ms ++ ns) :=
  fun m hm => (List.mem_append.1 hm).elim (h m) (g m)

end Sys2Proof.Proofs
end

section
/-!
Each operation of the model is steady, from `Machine/Ops` to `Machine/Operands`: one lemma for each, over the lemmas
of what it calls.
-/
namespace Sys2Proof.Proofs
open Sys2Proof.Machine
variable {w : Watch} {s₀ s t u : State}

/-! ### Operations of `Machine/Ops` -/

theorem Steady.at_ {tick : Nat} (hs : Steady w s₀ s) : Steady w s₀ (s.at_ tick) :=
  hs.onCad

theorem Steady.drawn (hs : Steady w s₀ s) : Steady w s₀ s.drawn :=
  hs.onFreeCount

theorem Steady.healthEvent (hs : Steady w s₀ s) : Steady w s₀ s.healthEvent :=
  hs.onStep

theorem Steady.raiseCad {b : Nat} (hs : Steady w s₀ s) : Steady w s₀ (s.raiseCad b) :=
  .ite hs.onCad.healthEvent hs

theorem Steady.raiseGrid {b : Nat} (hs : Steady w s₀ s) : Steady w s₀ (s.raiseGrid b) :=
  .ite hs.onGrid.healthEvent hs

theorem Steady.raiseArith {b : Nat} (hs : Steady w s₀ s) : Steady w s₀ (s.raiseArith b) :=
  .ite hs.onArith.healthEvent hs

theorem Steady.raiseCyl {b : Nat} (hs : Steady w s₀ s) : Steady w s₀ (s.raiseCyl b) :=
  .ite hs.onCyl.healthEvent hs

theorem Steady.raiseMem {b : Nat} (hs : Steady w s₀ s) : Steady w s₀ (s.raiseMem b) :=
  .ite hs.onMem.healthEvent hs

theorem Steady.raiseWgt {b : Nat} (hs : Steady w s₀ s) : Steady w s₀ (s.raiseWgt b) :=
  .ite hs.onWgt.healthEvent hs

theorem Steady.raiseSrv {b : Nat} (hs : Steady w s₀ s) : Steady w s₀ (s.raiseSrv b) :=
  .ite hs.onSrv.healthEvent hs

theorem Steady.raiseCmd {b : Nat} (hs : Steady w s₀ s) : Steady w s₀ (s.raiseCmd b) :=
  .ite hs.onCmd.healthEvent hs

theorem Steady.raiseHlt {b : Nat} (hs : Steady w s₀ s) : Steady w s₀ (s.raiseHlt b) :=
  .ite hs.onHlt.healthEvent hs

theorem Steady.raiseFab {b : Nat} (hs : Steady w s₀ s) : Steady w s₀ (s.raiseFab b) :=
  .ite hs.onFab.healthEvent hs

theorem Steady.raisePwr {b : Nat} (hs : Steady w s₀ s) : Steady w s₀ (s.raisePwr b) :=
  hs.onPwr.healthEvent

theorem Steady.raiseSys {b : Nat} (hs : Steady w s₀ s) : Steady w s₀ (s.raiseSys b) :=
  hs.onSys.healthEvent

theorem Steady.raiseIc {b : Nat} (hs : Steady w s₀ s) : Steady w s₀ (s.raiseIc b) :=
  hs.onIc.healthEvent

theorem Steady.raiseMgt {b : Nat} (hs : Steady w s₀ s) : Steady w s₀ (s.raiseMgt b) :=
  hs.onMgt.healthEvent

theorem Steady.raiseCfg {b : Nat} (hs : Steady w s₀ s) : Steady w s₀ (s.raiseCfg b) :=
  hs.onCfg.healthEvent

theorem Steady.hostWrite {f a : Nat} {bs : List (BitVec 8)} (hs : Steady w s₀ s) : Steady w s₀ (s.hostWrite f a bs) := by
  unfold State.hostWrite
  split
  · exact hs.onHost (Mem.wf_writes _ _ _)
  · exact hs

theorem Steady.sendVector {g : Nat} (hs : Steady w s₀ s) : Steady w s₀ (s.sendVector g) :=
  Steady.ite hs.onIc (Steady.ite hs.onIc.onHost hs.onIc)

theorem Steady.vectorEvent {g : Nat} (hs : Steady w s₀ s) : Steady w s₀ (s.vectorEvent g) :=
  .ite hs.sendVector hs.onIc

theorem Steady.gateway (hs : Steady w s₀ s) : Steady w s₀ s.gateway :=
  hs.foldl fun _ _ hs => .ite hs.onIc.vectorEvent hs.onIc.raiseIc

theorem Steady.wakeCore {t : Nat} (hs : Steady w s₀ s) : Steady w s₀ (s.wakeCore t) :=
  hs.onMgt

theorem Steady.line {t : Nat} (hs : Steady w s₀ s) : Steady w s₀ (s.line t) :=
  .ite (.ite hs.onIc hs) (.ite hs (.ite hs.onIc.wakeCore hs))

theorem Steady.lines (hs : Steady w s₀ s) : Steady w s₀ s.lines :=
  hs.foldl fun _ _ hs => hs.line

theorem Steady.icChange {f : Ic → Ic} (hs : Steady w s₀ s) : Steady w s₀ (s.icChange f) :=
  hs.onIc.lines.gateway.lines

theorem Steady.asserted {n : Nat} (hs : Steady w s₀ s) : Steady w s₀ (s.asserted n) :=
  .ite hs.icChange.raiseIc hs.onIc

theorem Steady.signal {n : Nat} {level : Bool} (hs : Steady w s₀ s) : Steady w s₀ (s.signal n level) :=
  .ite hs (hs.icChange.andThen (·.asserted))

theorem Steady.pulse {n : Nat} (hs : Steady w s₀ s) : Steady w s₀ (s.pulse n) :=
  hs.signal.signal

theorem Steady.settle (hs : Steady w s₀ s) : Steady w s₀ s.settle :=
  (hs.foldl fun _ _ hs => hs.signal).foldl fun _ _ hs => hs.signal

theorem Steady.storeWrite {r : StoreRec} {bytes : List (BitVec 8)} (hs : Steady w s₀ s) :
    Steady w s₀ (s.storeWrite r bytes) :=
  hs.onStore

theorem Steady.storeStart {r : StoreRec} {bytes : List (BitVec 8)} {h : Option (BitVec 32)} (hs : Steady w s₀ s) :
    Steady w s₀ (s.storeStart r bytes h) :=
  hs.onStore

theorem Steady.sbAnswer {bs : List (BitVec 8)} (hs : Steady w s₀ s) : Steady w s₀ (s.sbAnswer bs) :=
  hs.onHost

theorem Steady.sbLater (hs : Steady w s₀ s) : Steady w s₀ s.sbLater := by
  unfold State.sbLater
  split
  · exact .ite hs.onPins.sbAnswer hs
  · exact hs

/-! ### Operations of `Machine/Operands` -/

theorem Steady.voidWith {b : Nat} (hs : Steady w s₀ s) : Steady w s₀ (s.voidWith b) :=
  hs.onStep

theorem Steady.charge {k : Nat} (hs : Steady w s₀ s) : Steady w s₀ (s.charge k) :=
  hs.onStep

theorem Steady.checksumFault {logical : Nat} (hs : Steady w s₀ s) : Steady w s₀ (s.checksumFault logical) :=
  hs.onCell.onStep.voidWith.charge

theorem Steady.landingFault {logical : Nat} (hs : Steady w s₀ s) : Steady w s₀ (s.landingFault logical) :=
  hs.onCell.onStep.voidWith

theorem Steady.barrierFault {logical : Nat} {own : Bool} (hs : Steady w s₀ s) :
    Steady w s₀ (s.barrierFault logical own) :=
  hs.onCell.onStep.voidWith.andThen (·.charge)

theorem Steady.steeringFault {logical : Nat} (hs : Steady w s₀ s) : Steady w s₀ (s.steeringFault logical) :=
  hs.onCell.onStep.voidWith.charge

theorem Steady.countRead {logical : Nat} {e : Ecc} (hs : Steady w s₀ s) : Steady w s₀ (s.countRead logical e) :=
  .ite hs.onCell hs

end Sys2Proof.Proofs
end

section
/-!
Each operation of the model is steady, from `Machine/Operands` to `Machine/Matrix`: one lemma for each, over the lemmas
of what it calls.
-/
namespace Sys2Proof.Proofs
open Sys2Proof.Machine
variable {w : Watch} {s₀ s t u : State}

/-! ### Operations of `Machine/Operands` -/

/-- An access of the banks only drops writes, with their barrier faults (R49). -/
theorem Steady.useBanks {k t : Nat} {bs : List Nat} {r : Nat} (hs : Steady w s₀ s) :
    Steady w s₀ ((List.range ((s.cell k).useBanks t bs r).2.1).foldl (fun s _ => s.barrierFault k false)
      (s.onCell k fun _ => ((s.cell k).useBanks t bs r).2.2)) :=
  (hs.onCellSame (useBanks_sram ..)).foldl (fun _ _ hs => hs.barrierFault)

theorem Steady.sramStore {logical cycle a : Nat} {bs : List (BitVec 8)} {poison : Bool} {rank : Nat} (hs : Steady w s₀ s) :
    Steady w s₀ (s.sramStore logical cycle a bs poison rank) := by
  unfold State.sramStore
  dsimp only
  split
  · exact hs.useBanks.onCell
  · exact hs.useBanks.barrierFault

theorem Steady.setDir {tier slot : Nat} {e : DirEntry} {commit : Option (BitVec 4 × Nat)} (hs : Steady w s₀ s) :
    Steady w s₀ (s.setDir tier slot e commit) :=
  hs.onMem (.of_eq (changeDir_tierBytes ..))

theorem Steady.commitDir {tier slot : Nat} {e : DirEntry} {src : Nat × Nat} (hs : Steady w s₀ s) :
    Steady w s₀ (s.commitDir tier slot e src) :=
  hs.setDir.onMem (.of_eq (putEntry_tierBytes ..))

theorem Steady.onDir {tier slot : Nat} {g : DirEntry → DirEntry} (hs : Steady w s₀ s) :
    Steady w s₀ (s.onDir tier slot g) :=
  hs.setDir

theorem Steady.onCtx {n : Nat} {g : Context → Context} (hs : Steady w s₀ s) : Steady w s₀ (s.onCtx n g) :=
  hs.onSrv

theorem Steady.requestPiece {logical : Nat} {entry base : BitVec 32} {dst cycle : Nat} {last : Bool}
    {signal : Option (BitVec 4)} {bad : Bool} (hs : Steady w s₀ s) :
    Steady w s₀ (s.requestPiece logical entry base dst cycle last signal bad) := by
  unfold State.requestPiece
  dsimp only
  split
  · exact hs.onGrid
  · split
    · exact hs.onGrid.barrierFault
    · split
      · exact hs.onGrid
      · exact hs.onGrid
      · exact hs.onGrid.barrierFault

theorem Steady.t1Write {a : Nat} {bs : List (BitVec 8)} (hs : Steady w s₀ s) : Steady w s₀ (s.t1Write a bs) := by
  unfold State.t1Write
  extract_lets f e u
  have hu : Steady w s₀ u := .ite hs.onDir hs
  refine hu.onMem fun h => h.t1 (fun h1 => Mem.wf_writes _ _ _ ?_) rfl rfl rfl
  split
  · exact wf_filter _ _ _ h1
  · exact h1

theorem Steady.t1Store {a : Nat} {d : BitVec 1024} {poison : Bool} (hs : Steady w s₀ s) :
    Steady w s₀ (s.t1Store a d poison) :=
  hs.t1Write.andThen (·.onMem)

theorem Steady.putMirror {o : Nat} {bs : List (BitVec 8)} (hs : Steady w s₀ s) : Steady w s₀ (s.putMirror o bs) := by
  unfold State.putMirror
  refine hs.foldl (fun s x hs1 => ?_)
  split
  · exact hs1
  · exact hs1.t1Write

theorem Steady.carriedWrite {logical a : Nat} {old new : List (BitVec 8)} {poison : Bool} (hs : Steady w s₀ s) :
    Steady w s₀ (s.carriedWrite logical a old new poison) :=
  hs.foldl fun _ _ hs => hs.onStep.putMirror

theorem Steady.rollBack (hs : Steady w s₀ s) : Steady w s₀ s.rollBack := by
  unfold State.rollBack
  exact (hs.foldl fun _ _ hs => (hs.onCell fun h => sramWrite_wf _ _ _ _ h).foldl fun _ _ hs => hs.putMirror).onStep

theorem Steady.emit {logical : Nat} {o : CellOut} (hs : Steady w s₀ s) : Steady w s₀ (s.emit logical o) := by
  unfold State.emit
  split
  · exact hs.onGrid
  · exact hs.t1Store
  · exact hs.requestPiece
  · exact hs.barrierFault
  · exact hs.checksumFault
  · exact hs.landingFault
  · exact hs.carriedWrite

theorem Steady.settleCell {logical t : Nat} (hs : Steady w s₀ s) : Steady w s₀ (s.settleCell logical t) :=
  (hs.onCell (settle_wf t)).foldl (fun _ _ hs1 => hs1.emit)

theorem Steady.settleAll {t : Nat} (hs : Steady w s₀ s) : Steady w s₀ (s.settleAll t) := by
  unfold State.settleAll
  refine hs.foldl (fun s k hs1 => ?_)
  split
  · exact hs1
  · exact hs1.settleCell

theorem Steady.guarded {logical : Nat} {g : Guard} (hs : Steady w s₀ s) : Steady w s₀ (s.guarded logical g).2 := by
  unfold State.guarded
  extract_lets c b skip claim u own x
  have hu : Steady w s₀ u := hs.onCell
  split
  · exact hu
  · split
    · have hx : Steady w s₀ x := by
        simp only [x]
        split
        · exact hu
        · exact hu.onCell
      exact hx.barrierFault
    · exact hu

theorem Steady.atBeat {p : At} (hs : Steady w s₀ s) : Steady w s₀ (s.atBeat p) :=
  hs.at_.settleCell.onCellSame (toBeat_sram ..)

theorem Steady.issued {p : At} {body : State → State} (hs : Steady w s₀ s)
    (hbody : ∀ t, Steady w s₀ t → Steady w s₀ (body t)) :
    Steady w s₀ (s.issued p body) :=
  (Steady.ite hs.atBeat (hbody _ hs.atBeat)).settle

theorem Steady.issue {p : At} {body : State → State} (hs : Steady w s₀ s)
    (hbody : ∀ t, Steady w s₀ t → Steady w s₀ (body t)) :
    Answers w s₀ (issue p body s) :=
  (Steady.ite (hs.issued hbody) hs).next

/-! ### Operations of `Machine/Control` -/

theorem Steady.ctlIssue {p : At} {body : State → State} (hs : Steady w s₀ s)
    (hbody : ∀ t, Steady w s₀ t → Steady w s₀ (body t)) :
    Answers w s₀ (ctlIssue p body s) := by
  unfold Machine.ctlIssue
  refine hs.issue (fun s hs1 => ?_)
  split
  · exact hbody _ hs1
  · exact hbody _ hs1.onCell
  · exact hs1.checksumFault

theorem Steady.execCnop {p : At} (hs : Steady w s₀ s) : Answers w s₀ (execCnop p s) :=
  hs.ctlIssue fun _ hs => hs

theorem Steady.execVguard {p : At} {guard : Guard} (hs : Steady w s₀ s) : Answers w s₀ (execVguard p guard s) :=
  hs.ctlIssue fun _ hs => hs.onCell

theorem Steady.execEndloop {p : At} {trip : BitVec 16} {body : BitVec 12} (hs : Steady w s₀ s) :
    Answers w s₀ (execEndloop p trip body s) :=
  hs.ctlIssue fun _ hs => hs.onCell

theorem Steady.execIdle {p : At} {beats : BitVec 16} (hs : Steady w s₀ s) : Answers w s₀ (execIdle p beats s) :=
  hs.ctlIssue fun _ hs => hs.onCell

theorem Steady.sendToken {t : StrToken} (hs : Steady w s₀ s) : Steady w s₀ (s.sendToken t) :=
  hs.onGrid

theorem Steady.execString {p : At} {template : BitVec 6} {scalar : BitVec 4} (hs : Steady w s₀ s) :
    Answers w s₀ (execString p template scalar s) := by
  unfold Machine.execString
  refine hs.ctlIssue (fun s hs1 => ?_)
  split
  · exact hs1
  · exact Steady.ite hs1 hs1.sendToken

theorem Steady.execSetskip {p : At} {binding : BitVec 3} {vl : BitVec 4} {origin : BitVec 12} {stride : BitVec 4}
    (hs : Steady w s₀ s) :
    Answers w s₀ (execSetskip p binding vl origin stride s) :=
  hs.ctlIssue fun _ hs => .ite hs hs.onCell

theorem Steady.execSteersel {p : At} {stream : BitVec 4} (hs : Steady w s₀ s) : Answers w s₀ (execSteersel p stream s) :=
  hs.ctlIssue fun _ hs => hs.onCell

/-! ### Operations of `Machine/Edge` -/

theorem Steady.setOut {o : OutStream} (hs : Steady w s₀ s) : Steady w s₀ (s.setOut o) :=
  hs.onFab

theorem Steady.queueFrame {e : EdgeDecl} {o : OutStream} {last : Bool} (hs : Steady w s₀ s) :
    Steady w s₀ (s.queueFrame e o last) := by
  unfold State.queueFrame
  dsimp only
  split
  · exact hs.setOut
  · split
    · exact hs.setOut
    · exact hs.setOut.orElse (·.onFab)

theorem Steady.edgeArrive {i : Nat} {data : Option (BitVec 1024)} {poison fin : Bool} (hs : Steady w s₀ s) :
    Steady w s₀ (s.edgeArrive i data poison fin) := by
  unfold State.edgeArrive
  split
  · exact hs
  · split
    · exact hs
    · dsimp only
      split
      · exact hs
      · split
        · exact .ite hs.queueFrame hs.setOut
        · exact .ite hs.queueFrame (.ite hs.queueFrame hs.setOut)

theorem Steady.edgeOpen (hs : Steady w s₀ s) : Steady w s₀ s.edgeOpen :=
  hs.onFab.foldl fun _ _ hs => .ite hs.queueFrame hs

/-! ### Operations of `Machine/Mover` -/

theorem Steady.cellSignal {k t : Nat} {c : Option (BitVec 4)} (hs : Steady w s₀ s) : Steady w s₀
    (s.onCell k (Cell.signalAt t c)) :=
  hs.onCellSame (signalAt_sram ..)

theorem Steady.transfer {p : At} {o : DOp} {signals : Bool} {fin : Cell → Nat} {run skipped : Cell → State → State}
    (hs : Steady w s₀ s) (hrun : ∀ c t, Steady w s₀ t → Steady w s₀ (run c t))
    (hskipped : ∀ c t, Steady w s₀ t → Steady w s₀ (skipped c t)) :
    Answers w s₀ (transfer p o signals fin run skipped s) := by
  unfold Machine.transfer
  refine hs.issue fun s hs => ?_
  have hg : Steady w s₀ (s.guarded p.cell o.guard).2 := hs.guarded
  generalize s.guarded p.cell o.guard = r at hg
  obtain ⟨v, u⟩ := r
  refine Steady.onCellSame ?_ (stepPair_sram ..)
  cases v with
  | run => exact .ite (hrun _ _ hg).countRead.cellSignal (hrun _ _ hg).countRead
  | skipped => exact (hskipped _ _ hg).cellSignal
  | failed => exact hg

theorem Steady.execCopy {p : At} {o : DOp} (hs : Steady w s₀ s) : Answers w s₀ (execCopy p o s) :=
  hs.transfer (fun _ _ hs => hs.onCell) fun _ _ hs => hs

theorem Steady.execSend {p : At} {o : DOp} (hs : Steady w s₀ s) : Answers w s₀ (execSend p o s) := by
  unfold Machine.execSend
  refine hs.transfer (fun c s hs1 => ?_) (fun c s hs2 => ?_)
  · dsimp only
    split
    · exact hs1
    · exact hs1.onCell
  · dsimp only
    split
    · exact hs2
    · exact hs2.onGrid

theorem Steady.execGather {p : At} {o : DOp} (hs : Steady w s₀ s) : Answers w s₀ (execGather p o s) := by
  unfold Machine.execGather
  refine hs.transfer (fun c s hs => ?_) fun _ _ hs => hs
  exact hs.onCell

theorem Steady.execReadT1 {p : At} {o : DOp} (hs : Steady w s₀ s) : Answers w s₀ (execReadT1 p o s) := by
  unfold Machine.execReadT1
  refine hs.transfer (fun c s hs1 => (hs1.foldl (fun s j hs2 => ?_))) (fun x s hs3 => hs3)
  dsimp only
  split
  · exact hs2.onGrid
  · exact hs2.onGrid
  · exact hs2.onGrid.barrierFault

theorem Steady.execWriteT1 {p : At} {o : DOp} (hs : Steady w s₀ s) : Answers w s₀ (execWriteT1 p o s) := by
  unfold Machine.execWriteT1
  refine hs.transfer (fun c s hs => ?_) fun _ _ hs => hs
  exact hs.onCell.onGrid

theorem Steady.execSteer {p : At} {o : DOp} (hs : Steady w s₀ s) : Answers w s₀ (execSteer p o s) :=
  hs.transfer (fun _ _ hs => hs.onCell) fun _ _ hs => hs

theorem Steady.execDseta {p : At} {reg : BitVec 3} {high : Bool} {imm : BitVec 16} (hs : Steady w s₀ s) :
    Answers w s₀ (execDseta p reg high imm s) :=
  hs.issue fun _ hs => hs.onCell

theorem Steady.execDsets {p : At} {reg : BitVec 3} {stride : BitVec 16} (hs : Steady w s₀ s) :
    Answers w s₀ (execDsets p reg stride s) :=
  hs.issue fun _ hs => hs.onCell

theorem Steady.execDnop {p : At} (hs : Steady w s₀ s) : Answers w s₀ (execDnop p s) :=
  hs.issue fun _ hs => hs

/-! ### Operations of `Machine/Landings` -/

theorem Steady.arrive {cycle : Nat} {body : State → State} (hs : Steady w s₀ s)
    (hbody : ∀ t, Steady w s₀ t → Steady w s₀ (body t)) :
    Answers w s₀ (arrive cycle body s) :=
  .ite (hbody _ hs.at_.settleAll).settle.next hs.next

theorem Steady.bridgeFailure {row : Nat} (hs : Steady w s₀ s) : Steady w s₀ (s.bridgeFailure row) :=
  hs.onGrid.onStep.voidWith

theorem Steady.takeFlit {f : Flit → Bool} {x : Flit} (hs : Steady w s₀ s) (e : s.takeFlit f = Option.some (x, t)) : Steady
    w s₀ t := by
  unfold State.takeFlit at e
  split at e
  · cases e
  · cases e
    exact hs.onGrid

theorem Steady.takeToken {cell cycle kind : Nat} {x : StrToken} (hs : Steady w s₀ s)
    (e : s.takeToken cell cycle kind = Option.some (x, t)) : Steady w s₀ t := by
  unfold State.takeToken at e
  dsimp only at e
  split at e
  · cases e
  · cases e
    exact hs.onGrid

theorem Steady.execLandingFlit {dest cycle : Nat} {bridgeBad : Bool} (hs : Steady w s₀ s) :
    Answers w s₀ (execLandingFlit dest cycle bridgeBad s) := by
  unfold Machine.execLandingFlit
  refine hs.arrive fun s hs => ?_
  split
  · exact hs
  next f u e =>
    have hu : Steady w s₀ (if bridgeBad && f.bridge then u.bridgeFailure f.row else u) :=
      .ite (hs.takeFlit e).bridgeFailure (hs.takeFlit e)
    refine .ite hu.edgeArrive ?_
    dsimp only
    exact .ite (Steady.ite hu hu.sramStore).cellSignal (.ite hu hu.sramStore)

theorem Steady.execEmptyFlit {dest cycle : Nat} {bridgeBad : Bool} (hs : Steady w s₀ s) :
    Answers w s₀ (execEmptyFlit dest cycle bridgeBad s) := by
  unfold Machine.execEmptyFlit
  refine hs.arrive fun s hs => ?_
  split
  · exact hs
  next f u e =>
    have hu : Steady w s₀ (if bridgeBad && f.bridge then u.bridgeFailure f.row else u) :=
      .ite (hs.takeFlit e).bridgeFailure (hs.takeFlit e)
    exact .ite hu.edgeArrive hu.cellSignal

theorem Steady.tileLanded {logical cycle : Nat} {ok : Bool} {spans : List (Nat × Nat)} (hs : Steady w s₀ s) :
    Steady w s₀ (s.tileLanded logical cycle ok spans) :=
  .ite hs hs.onCell

theorem Steady.landPiece {logical cycle a : Nat} {head tile : Bool} {bs : List (BitVec 8)} {poison : Bool}
    (hs : Steady w s₀ s) :
    Steady w s₀ (s.landPiece logical cycle a head tile bs poison) := by
  unfold State.landPiece
  dsimp only
  split
  · split
    · exact .ite hs.onCell hs
    · exact hs
  · refine Steady.onCell ?_
    split
    · exact .ite hs.onCell hs
    · exact hs
  · refine (Steady.onCell ?_).tileLanded
    split
    · exact .ite hs.onCell hs
    · exact hs

theorem Steady.execT1PieceArrival {cell cycle : Nat} {uncorrectable : Bool} (hs : Steady w s₀ s) :
    Answers w s₀ (execT1PieceArrival cell cycle uncorrectable s) := by
  unfold Machine.execT1PieceArrival
  refine hs.arrive fun s hs => ?_
  split
  · exact hs
  · exact .ite hs.onGrid.sramStore.landPiece.cellSignal hs.onGrid.sramStore.landPiece

theorem Steady.execT1WriteAck {cell cycle : Nat} (hs : Steady w s₀ s) : Answers w s₀ (execT1WriteAck cell cycle s) := by
  unfold Machine.execT1WriteAck
  refine hs.arrive fun s hs => ?_
  split
  · exact hs
  · exact hs.onGrid.cellSignal

theorem Steady.tokenArrives {kind cell cycle : Nat} {bridgeBad : Bool} {body : StrToken → State → State} (hs : Steady w s₀ s)
    (hbody : ∀ x t, Steady w s₀ t → Steady w s₀ (body x t)) :
    Answers w s₀ (tokenArrives kind cell cycle bridgeBad body s) := by
  unfold Machine.tokenArrives
  refine hs.arrive fun s hs => ?_
  split
  · exact hs
  next e => exact hbody _ _ (.ite (hs.takeToken e).bridgeFailure (hs.takeToken e))

theorem Steady.execValidLengthToken {cell cycle : Nat} {bridgeBad : Bool} (hs : Steady w s₀ s) :
    Answers w s₀ (execValidLengthToken cell cycle bridgeBad s) :=
  hs.tokenArrives fun _ _ hs => hs.onCell

theorem Steady.execRemoteBarrierToken {cell cycle : Nat} {bridgeBad : Bool} (hs : Steady w s₀ s) :
    Answers w s₀ (execRemoteBarrierToken cell cycle bridgeBad s) :=
  hs.tokenArrives (fun t s hs1 => (Steady.ite hs1.onCell hs1.onCell.drawn))

theorem Steady.steer {cell t : Nat} {stream : BitVec 4} {value : BitVec 32} {data : BitVec 1024} {poison header : Bool}
    (hs : Steady w s₀ s) :
    Steady w s₀ (s.steer cell t stream value data poison header) :=
  .ite hs.steeringFault (.ite hs (.ite hs.steeringFault (hs.onCell.orElse (·.onGrid))))

theorem Steady.execSteeringControlToken {cell cycle : Nat} {bridgeBad : Bool} (hs : Steady w s₀ s) :
    Answers w s₀ (execSteeringControlToken cell cycle bridgeBad s) := by
  unfold Machine.execSteeringControlToken
  refine hs.tokenArrives (fun t s hs1 => ?_)
  dsimp only
  split
  · exact hs1.onCell.steer
  · exact Steady.ite hs1.steeringFault hs1.onCell

theorem Steady.execZeroLengthHeaderToken {cell cycle : Nat} {bridgeBad : Bool} (hs : Steady w s₀ s) :
    Answers w s₀ (execZeroLengthHeaderToken cell cycle bridgeBad s) := by
  unfold Machine.execZeroLengthHeaderToken
  refine hs.tokenArrives (fun t s hs1 => ?_)
  split
  · exact hs1.steeringFault
  · exact hs1.steer

theorem Steady.execSteerFlitArrival {cell cycle : Nat} (hs : Steady w s₀ s) :
    Answers w s₀ (execSteerFlitArrival cell cycle s) := by
  unfold Machine.execSteerFlitArrival
  refine hs.arrive (fun s hs1 => ?_)
  split
  · exact hs1
  · dsimp only
    split
    · exact hs1.onCell.onCell.steer
    · exact Steady.ite hs1.onCell.steeringFault hs1.onCell.onCell

theorem Steady.execSteerWindowExpiry {cell cycle : Nat} (hs : Steady w s₀ s) :
    Answers w s₀ (execSteerWindowExpiry cell cycle s) :=
  hs.arrive fun _ hs => hs.onCell.foldl fun _ _ hs => hs.steeringFault

theorem Steady.execHubStringInject {entry : Nat} (hs : Steady w s₀ s) : Answers w s₀ (execHubStringInject entry s) := by
  unfold Machine.execHubStringInject
  split
  · split
    · exact hs.next
    · exact .ite hs.next hs.sendToken.next
  · exact hs.next

/-! ### Operations of `Machine/Matrix` -/

theorem Steady.operandReads {logical t d : Nat} {q : PassRec} (hs : Steady w s₀ s) :
    Steady w s₀ (s.operandReads logical t d q) :=
  hs.foldl fun _ _ hs => .ite hs.useBanks hs.useBanks.barrierFault

theorem Steady.startPass {logical t d : Nat} {q : PassRec} (hs : Steady w s₀ s) :
    Steady w s₀ (s.startPass logical t d q) := by
  unfold State.startPass
  refine hs.operandReads.onFreeCount.onCellSame ?_
  have seen (a : Nat) (b : Bool) (x : TileRead) (c : Cell) :
      (if c.seenTile a q.shape b then c
        else { c with checked := (a, q.shape.code, b, 64 + x.payload.length) :: c.checked }).sram = c.sram := by
    split <;> rfl
  exact (seen ..).trans (seen ..)

theorem Steady.execMpass {p : At} {shape : Shape} {add bank : Bool} {a b : BitVec 3} {guard : Guard} (hs : Steady w s₀ s) :
    Answers w s₀ (execMpass p shape add bank a b guard s) := by
  unfold Machine.execMpass
  refine hs.issue fun s hs => ?_
  have hg : Steady w s₀ (s.guarded p.cell guard).2 := hs.guarded
  extract_lets c addrA addrB ta tb d q
  generalize s.guarded p.cell guard = r at hg
  obtain ⟨v, u⟩ := r
  refine Steady.onCellSame ?_ ?_
  · cases v with
    | run => exact hg.startPass.countRead.cellSignal
    | skipped => exact hg.cellSignal
    | failed => exact hg
  · dsimp only
    split <;> rfl

theorem Steady.drainStores {logical : Nat} {poison : Bool} {n : Nat} : ∀ {s : State} {a cycle : Nat} {bs : List (BitVec 8)},
    Steady w s₀ s → Steady w s₀ (s.drainStores logical a poison n cycle bs) := by
  induction n with
  | zero => exact fun hs => hs
  | succ n ih => exact fun hs => ih (.ite hs.sramStore hs.barrierFault)

end Sys2Proof.Proofs
end

section
/-!
Each operation of the model is steady, from `Machine/Matrix` to `Machine/Paging`: one lemma for each, over the lemmas
of what it calls.
-/
namespace Sys2Proof.Proofs
open Sys2Proof.Machine
variable {w : Watch} {s₀ s t u : State}

/-! ### Operations of `Machine/Matrix` -/

theorem Steady.execMdrain {p : At} {bf16 bank : Bool} {d : BitVec 3} {guard : Guard} (hs : Steady w s₀ s) :
    Answers w s₀ (execMdrain p bf16 bank d guard s) := by
  unfold Machine.execMdrain
  refine hs.issue fun s hs => ?_
  dsimp only
  have hu {c : Prop} [Decidable c] {g : Nat → Nat} : Steady w s₀ (if c then s.onFreeCount g else s) := .ite hs.onFreeCount hs
  refine Steady.onCell ?_
  split
  · split
    · refine Steady.drainStores ?_
      exact hu.guarded.onCell
    · exact hu.guarded
  · refine Steady.cellSignal ?_
    split
    · refine Steady.drainStores ?_
      exact hu.guarded.onCell
    · exact hu.guarded

theorem Steady.execMseta {p : At} {reg : BitVec 3} {addr : BitVec 14} (hs : Steady w s₀ s) :
    Answers w s₀ (execMseta p reg addr s) :=
  hs.issue fun _ hs => hs.onCell

theorem Steady.execMsets {p : At} {reg : BitVec 3} {stride : BitVec 14} (hs : Steady w s₀ s) :
    Answers w s₀ (execMsets p reg stride s) :=
  hs.issue fun _ hs => hs.onCell

theorem Steady.execMnop {p : At} (hs : Steady w s₀ s) : Answers w s₀ (execMnop p s) :=
  hs.issue fun _ hs => hs

/-! ### Operations of `Machine/Protocol` -/

theorem Steady.onFunc {f : Nat} {g : Func → Func} (hs : Steady w s₀ s) : Steady w s₀ (s.onFunc f g) :=
  hs.onCmd

theorem Steady.onQueue {f q : Nat} {g : Queue → Queue} (hs : Steady w s₀ s) : Steady w s₀ (s.onQueue f q g) :=
  hs.onFunc

theorem Steady.putRecord {f q : Nat} {tag handle : BitVec 32} {status : BitVec 16} {kind : BitVec 8} {detail : BitVec 32}
    (hs : Steady w s₀ s) :
    Steady w s₀ (s.putRecord f q tag handle status kind detail) :=
  .ite hs.hostWrite.onQueue hs

theorem Steady.onLive {h : BitVec 32} {g : Live → Live} (hs : Steady w s₀ s) : Steady w s₀ (s.onLive h g) :=
  hs.onCmd

theorem Steady.working {h : BitVec 32} (hs : Steady w s₀ s) : Steady w s₀ (s.working h) :=
  hs.onLive

theorem Steady.atBoundary {h : BitVec 32} (hs : Steady w s₀ s) : Steady w s₀ (s.atBoundary h) :=
  hs.onLive

theorem Steady.complete {h : BitVec 32} {status : BitVec 16} {detail : BitVec 32} (hs : Steady w s₀ s) :
    Steady w s₀ (s.complete h status detail) := by
  unfold State.complete
  split
  · exact hs
  · exact .ite hs (hs.putRecord.andThen (·.vectorEvent)).onCmd.onQueue

theorem Steady.endHandles (hs : Steady w s₀ s) : Steady w s₀ s.endHandles :=
  hs.onCmd

theorem Steady.completeAll {handles : List (BitVec 32)} {status : BitVec 16} {detail : BitVec 32} (hs : Steady w s₀ s) :
    Steady w s₀ (s.completeAll handles status detail) :=
  hs.foldl fun _ _ hs => hs.complete

theorem Steady.completeOpt {h : Option (BitVec 32)} {status : BitVec 16} {detail : BitVec 32} (hs : Steady w s₀ s) :
    Steady w s₀ (s.completeOpt h status detail) := by
  unfold State.completeOpt
  split
  · exact hs
  · exact hs.complete

theorem Steady.ringFault {f q : Nat} (hs : Steady w s₀ s) : Steady w s₀ (s.ringFault f q) :=
  hs.onQueue.raiseCmd

theorem Steady.packetTaken {f q : Nat} (hs : Steady w s₀ s) : Steady w s₀ (s.packetTaken f q) :=
  hs.onCmd.onQueue

theorem Steady.accept {f q slot : Nat} {p : List (BitVec 8)} (hs : Steady w s₀ s) : Steady w s₀ (s.accept f q slot p) :=
  hs.putRecord.onCmd.packetTaken.onQueue

theorem Steady.refusePacket {f q : Nat} {p : List (BitVec 8)} {status : BitVec 16} {detail : BitVec 32}
    (hs : Steady w s₀ s) :
    Steady w s₀ (s.refusePacket f q p status detail) :=
  hs.putRecord.onCmd.packetTaken

theorem Steady.nextPacket {f q : Nat} (hs : Steady w s₀ s) : Yields w s₀ (s.nextPacket f q) := by
  unfold State.nextPacket
  dsimp only
  split
  · exact Yields.none
  · split
    · exact hs.onQueue.some
    · split
      · exact hs.ringFault.some
      · split
        · exact Yields.none
        · split
          · exact hs.onQueue.some
          · split
            · exact hs.refusePacket.some
            · exact hs.accept.some

theorem Steady.pump {f q n : Nat} : ∀ {s : State}, Steady w s₀ s → Steady w s₀ (s.pump f q n) := by
  induction n with
  | zero => exact fun hs => hs
  | succ n ih =>
    intro s hs
    unfold State.pump
    dsimp only
    split
    · exact hs.onQueue
    next e => exact .ite (hs.onQueue.nextPacket _ e) (ih (hs.onQueue.nextPacket _ e))

theorem Steady.pumpAll (hs : Steady w s₀ s) : Steady w s₀ s.pumpAll := by
  unfold State.pumpAll
  dsimp only
  exact hs.foldl fun _ _ hs => .ite (hs.foldl fun _ _ hs => .ite hs.pump hs) hs

theorem Steady.stepEnd (hs : Steady w s₀ s) : Steady w s₀ s.stepEnd :=
  hs.pumpAll.settle

theorem Steady.finish (hs : Steady w s₀ s) : Answers w s₀ (finish s) :=
  hs.stepEnd.next

theorem Steady.carryOut {op : BitVec 8} {open_ : Bool} {h : BitVec 32} {body : Live → State → State} (hs : Steady w s₀ s)
    (hbody : ∀ x0 t, Steady w s₀ t → Steady w s₀ (body x0 t)) :
    Answers w s₀ (carryOut op open_ h body s) := by
  unfold Machine.carryOut
  split
  · exact hs.next
  · exact .ite (.ite (hbody _ _ hs).finish hs.complete.finish) hs.next

/-! ### Operations of `Machine/Tiers` -/

/-- A page's bytes are written to its slot, of a canonical content. -/
theorem Steady.fill {tier slot granule : Nat} {f : Bool × List (BitVec 8)} {m : Mem} (hs : Steady w s₀ s)
    (content : BytesWf s₀ → Mem.wf m = true) : Steady w s₀ (s.fill tier slot granule f m) := by
  have put {x : Mem} {a : Nat} (hm : Mem.wf m = true) (hx : Mem.wf x = true) :
      Mem.wf (if f.1 then Mem.lay x a pageBytes m else Mem.writes x a f.2) = true := by
    split
    · exact lay_wf _ _ hx hm
    · exact Mem.wf_writes _ _ _ hx
  refine ⟨hs.queue, hs.host, hs.fwSram, fun h0 => ?_, hs.fence, hs.known⟩
  have hm := content h0
  obtain ⟨⟨⟨t1, t2, t3⟩, remotes⟩, cells, staged⟩ := hs.bytes h0
  refine ⟨?_, cells, staged⟩
  unfold State.fill State.onMem
  dsimp only
  split
  · exact ⟨⟨lay_wf _ _ t1 hm, t2, t3⟩, remotes⟩
  · exact ⟨⟨t1, put hm t2, t3⟩, remotes⟩
  · exact ⟨⟨t1, t2, put hm t3⟩, remotes⟩

theorem Steady.spilled (hs : Steady w s₀ s) : Steady w s₀ s.spilled :=
  hs.onMem.raiseMem

theorem Steady.placePage {pref : Nat} {strict : Bool} {kind : BitVec 4} {id : BitVec 28} {index : Nat} {raw zero : Bool}
    {m : Mem}
    (hs : Steady w s₀ s) (content : BytesWf s₀ → Mem.wf m = true) :
    Steady w s₀ (s.placePage pref strict kind id index raw zero m).2 := by
  unfold State.placePage
  split
  · exact hs.drawn
  · exact .ite (hs.drawn.setDir.fill content) (hs.drawn.setDir.fill content).spilled

theorem Steady.freeSlotAt {tier slot : Nat} (hs : Steady w s₀ s) : Steady w s₀ (s.freeSlotAt tier slot) :=
  hs.setDir

theorem Steady.losePage {tier slot : Nat} (hs : Steady w s₀ s) : Steady w s₀ (s.losePage tier slot) :=
  hs.onDir.onMem.raiseMem

theorem Steady.uncorrectable {tier slot : Nat} (hs : Steady w s₀ s) : Steady w s₀ (s.uncorrectable tier slot) :=
  hs.onMem.raiseMem.orElse (·.onHlt)

theorem Steady.noteRead {g : BitVec 64} {n : Nat} (hs : Steady w s₀ s) : Steady w s₀ (s.noteRead g n) := by
  unfold State.noteRead
  split
  · exact hs
  · split
    · exact hs.uncorrectable
    · exact hs

theorem Steady.writeHome {tier slot o : Nat} {bs : List (BitVec 8)} (hs : Steady w s₀ s) :
    Steady w s₀ (s.writeHome tier slot o bs) := by
  unfold State.writeHome
  dsimp only
  split
  · exact hs.t1Write
  · refine (Steady.ite hs.onDir hs).onMem fun h => ?_
    obtain ⟨⟨t1, t2, t3⟩, remotes⟩ := h
    split
    · exact ⟨⟨t1, Mem.wf_writes _ _ _ t2, t3⟩, remotes⟩
    · exact ⟨⟨t1, t2, Mem.wf_writes _ _ _ t3⟩, remotes⟩

theorem Steady.writeSlot {who : Option Nat} {tier slot o : Nat} {bs : List (BitVec 8)} (hs : Steady w s₀ s) :
    Yields w s₀ (s.writeSlot who tier slot o bs) := by
  unfold State.writeSlot
  dsimp only
  split
  · exact Yields.none
  · split
    · exact Yields.none
    · exact hs.writeHome.some
    · exact hs.onMem.some

theorem Steady.writeGa {who : Option Nat} {g : BitVec 64} {bs : List (BitVec 8)} (hs : Steady w s₀ s) :
    Yields w s₀ (s.writeGa who g bs) := by
  unfold State.writeGa
  dsimp only
  split
  · exact Yields.none
  · split
    · exact .ite .none (hs.onCell fun h => sramWrite_wf _ _ _ _ h).some
    · exact hs.hostWrite.some
    · exact Yields.none
    · exact .ite .none hs.writeSlot

/-! ### Operations of `Machine/Wire` -/

theorem Steady.toWire {port slot : Nat} {frame : List (BitVec 8)} (hs : Steady w s₀ s) :
    Steady w s₀ (s.toWire port slot frame) := by
  unfold State.toWire
  exact hs.onFab

/-! ### Operations of `Machine/Message` -/

theorem Steady.sendMsg {prio : Nat} {dest : BitVec 12} {multicast : Bool} {port : Option Nat} {body : MsgBody}
    (hs : Steady w s₀ s) :
    Steady w s₀ (s.sendMsg prio dest multicast port body) :=
  hs.onFab

theorem Steady.remoteSend {dest : BitVec 12} {write : Bool} {addr : BitVec 64} {len : Nat} {data : List (BitVec 8)}
    {owner : ReqOwner} (hs : Steady w s₀ s) :
    Steady w s₀ (s.remoteSend dest write addr len data owner) :=
  hs.onFab.sendMsg

theorem Steady.onPort {p : Nat} {g : Port → Port} (hs : Steady w s₀ s) : Steady w s₀ (s.onPort p g) :=
  hs.onFab

theorem Steady.sendGroups {prio : Nat} {body : MsgBody} (hs : Steady w s₀ s) : Steady w s₀ (s.sendGroups prio body) :=
  hs.foldl fun _ _ hs => hs.sendMsg.sendMsg

theorem Steady.sendLeave {cause : BitVec 8} (hs : Steady w s₀ s) : Steady w s₀ (s.sendLeave cause) :=
  hs.foldl fun _ _ hs => hs.foldl fun _ _ hs => hs.sendMsg

theorem Steady.departMsg {port slot : Nat} {m : OutMsg} (hs : Steady w s₀ s) : Steady w s₀ (s.departMsg port slot m) :=
  hs.onFab.toWire

theorem Steady.departData {slot : Nat} {f : OutFrame} (hs : Steady w s₀ s) : Steady w s₀ (s.departData slot f) :=
  hs.onFab.toWire

theorem Steady.lastNotices (hs : Steady w s₀ s) : Steady w s₀ s.lastNotices := by
  unfold State.lastNotices
  refine hs.foldl (fun s m hs1 => ?_)
  split
  · exact hs1.departMsg
  · exact hs1

theorem Steady.heard {h : FrameHdr} (hs : Steady w s₀ s) : Steady w s₀ (s.heard h) :=
  hs.at_.onPort

theorem Steady.receiveIf {service : State → Bool} {h : FrameHdr} {body : State → State} (hs : Steady w s₀ s)
    (hbody : ∀ t, Steady w s₀ t → Steady w s₀ (body t)) :
    Answers w s₀ (receiveIf service h body s) :=
  .ite hs.at_.finish (.ite (hbody _ hs.heard).finish hs.heard.onFab.finish)

theorem Steady.receive {h : FrameHdr} {body : State → State} (hs : Steady w s₀ s)
    (hbody : ∀ t, Steady w s₀ t → Steady w s₀ (body t)) :
    Answers w s₀ (receive h body s) :=
  hs.receiveIf hbody

/-! ### Operations of `Machine/Paging` -/

theorem Steady.rename {old new : BitVec 64} (hs : Steady w s₀ s) : Steady w s₀ (s.rename old new) := by
  unfold State.rename
  extract_lets ctx u v f f'
  have hv : Steady w s₀ v := hs.onSrv.onWgt fun ⟨models, saved⟩ => ⟨TilesWf.map models, saved⟩
  exact .ite (hv.onCyl fun _ => .of_labels labels_map) hv

theorem Steady.restore {tier slot : Nat} {m : Mem} (hs : Steady w s₀ s) (content : BytesWf s₀ → Mem.wf m = true) :
    Steady w s₀ (s.restore tier slot m) := by
  unfold State.restore
  dsimp only
  split
  · split
    · exact hs.onDir
    · exact hs.setDir.fill content
  · exact hs.onDir.fill content

/-- A content that is read. -/
theorem Steady.content {tier slot : Nat} {m : Mem} (hs : Steady w s₀ s) (e : s.content tier slot = Option.some m)
    (h : BytesWf s₀) :
    Mem.wf m = true :=
  content_wf (hs.bytes h).1 e

theorem Steady.applyHeld {from_ home : Nat × Nat} (hs : Steady w s₀ s) : Steady w s₀ (s.applyHeld from_ home) := by
  unfold State.applyHeld
  refine hs.onMem.foldl fun s x hs => .ite hs.writeHome ?_
  split
  · exact hs
  next e => exact hs.restore fun h => Mem.wf_writes _ _ _ (hs.content e h)

theorem Steady.onJob {id : Nat} {g : PageJob → PageJob} (hs : Steady w s₀ s) : Steady w s₀ (s.onJob id g) :=
  hs.onMem

theorem Steady.pageEnd {id : Nat} {old new : BitVec 64} {r : PageEnd} (hs : Steady w s₀ s) :
    Steady w s₀ (s.pageEnd id old new r) :=
  hs.onJob

theorem Steady.pumpDrives (hs : Steady w s₀ s) : Steady w s₀ s.pumpDrives :=
  hs.onMem (.of_eq (pumpDrives_tierBytes _))

theorem Steady.toDrive {port : Nat} {ops : List (DriveOp × Nat)} {move : Option (BitVec 32)} (hs : Steady w s₀ s) :
    Steady w s₀ (s.toDrive port ops move) :=
  hs.onMem (.of_eq (toDrive_tierBytes ..))

theorem Steady.deallocate {slot : Nat} (hs : Steady w s₀ s) : Steady w s₀ (s.deallocate slot) :=
  hs.toDrive

theorem Steady.moveDrive {srcTier src dstTier dst : Nat} {seq : BitVec 32} (hs : Steady w s₀ s) :
    Steady w s₀ (s.moveDrive srcTier src dstTier dst seq) :=
  (Steady.ite hs.toDrive hs).andThen (·.toDrive)

theorem Steady.endDrive {seq : BitVec 32} (hs : Steady w s₀ s) : Steady w s₀ (s.endDrive seq) :=
  hs.onMem.pumpDrives

theorem Steady.writeLabels (hs : Steady w s₀ s) : Steady w s₀ s.writeLabels := by
  unfold State.writeLabels
  refine hs.onMem.foldl (fun s p hs1 => ?_)
  split
  · exact hs1
  · exact hs1.toDrive

theorem Steady.keepLabels (hs : Steady w s₀ s) : Steady w s₀ s.keepLabels :=
  .ite hs.writeLabels hs

theorem Steady.launch {id : Nat} {g : BitVec 64} {src : Nat × Nat} {t d gr : Nat} {m : Mem} (hs : Steady w s₀ s) :
    Steady w s₀ (s.launch id g src t d gr m) := by
  unfold State.launch
  dsimp only
  exact hs.setDir.onDir.onMem.moveDrive

theorem Steady.beginLocal {id : Nat} {g : BitVec 64} {pref : Nat} {strict : Bool} (hs : Steady w s₀ s) :
    Steady w s₀ (s.beginLocal id g pref strict) := by
  unfold State.beginLocal
  dsimp only
  split
  · exact hs.pageEnd
  · split
    · exact .ite hs.drawn.spilled.pageEnd hs.drawn.pageEnd
    · exact .ite hs.drawn.spilled.pageEnd (hs.drawn.orElse (·.spilled)).launch

theorem Steady.sendMove {chip : BitVec 12} {b : MoveBody} (hs : Steady w s₀ s) : Steady w s₀ (s.sendMove chip b) :=
  hs.sendMsg

theorem Steady.readFails {tier slot : Nat} (hs : Steady w s₀ s) : Steady w s₀ (s.readFails tier slot) := by
  unfold State.readFails
  exact (Steady.ite hs.uncorrectable hs).onDir

/-- A remote move begins, its bytes still to come. -/
theorem MemoryWf.addRemote {m n : Memory} {r : RemoteMove} (h : MemoryWf m) (e : (n.t1, n.t2, n.t3) = (m.t1, m.t2, m.t3))
    (hn : n.remotes = m.remotes ++ [r]) (hr : Mem.wf r.bytes = true) : MemoryWf n := by
  simp only [Prod.mk.injEq] at e
  obtain ⟨t1, t2, t3⟩ := e
  obtain ⟨tiers, remotes⟩ := h
  refine ⟨t1 ▸ t2 ▸ t3 ▸ tiers, fun x hx => ?_⟩
  rw [hn] at hx
  obtain hx | hx := List.mem_append.1 hx
  · exact remotes x hx
  · exact List.mem_singleton.1 hx ▸ hr

theorem Steady.beginRemote {id : Nat} {g : BitVec 64} {chip : BitVec 12} (hs : Steady w s₀ s) :
    Steady w s₀ (s.beginRemote id g chip) := by
  unfold State.beginRemote
  split
  dsimp only
  split
  · exact hs.readFails.pageEnd
  · exact (hs.onMem fun h => h.addRemote rfl rfl rfl).sendMove

theorem Steady.beginPage {id : Nat} (hs : Steady w s₀ s) : Steady w s₀ (s.beginPage id) := by
  unfold State.beginPage
  split
  · exact hs
  · split
    · exact hs
    · dsimp only
      split
      · exact hs.onJob.pageEnd
      · split
        · exact hs.onJob.beginRemote
        · exact .ite hs.onJob.pageEnd hs.onJob.beginLocal

theorem Steady.runJob {id n : Nat} : ∀ {s : State}, Steady w s₀ s → Steady w s₀ (s.runJob id n) := by
  induction n with
  | zero => exact fun hs => hs
  | succ n ih =>
    intro s hs
    unfold State.runJob
    split
    · exact hs
    · split
      · exact hs
      · exact .ite hs (ih hs.beginPage)

theorem Steady.startJob {j : PageJob} {pages : List (BitVec 64)} (hs : Steady w s₀ s) :
    Steady w s₀ (s.startJob j pages) := by
  unfold State.startJob
  dsimp only
  exact hs.onMem.runJob

theorem Steady.stopJob {id : Nat} (hs : Steady w s₀ s) : Steady w s₀ (s.stopJob id) :=
  hs.onJob

theorem Steady.sourceBack {tier slot : Nat} {pair : Option Nat} (hs : Steady w s₀ s) :
    Steady w s₀ (s.sourceBack tier slot pair) :=
  hs.onDir

theorem Steady.failLocal {mv : LocalMove} (hs : Steady w s₀ s) : Steady w s₀ (s.failLocal mv) :=
  hs.freeSlotAt.sourceBack.applyHeld.pageEnd

theorem Steady.commitLocal {mv : LocalMove} {m : Mem} (hs : Steady w s₀ s) (content : BytesWf s₀ → Mem.wf m = true) :
    Steady w s₀ (s.commitLocal mv m) := by
  unfold State.commitLocal
  extract_lets src dst sg dg pref se de u x y z
  have hu : Steady w s₀ u := hs.fill content
  have hy : Steady w s₀ y := by
    simp only [y]
    split
    · exact hu.commitDir.freeSlotAt.rename
    · exact hu.commitDir
  have hz : Steady w s₀ z := .ite hu.setDir.onDir (.ite hy.deallocate hy)
  exact hz.rename.applyHeld.pageEnd

theorem Steady.endLocal {mv : LocalMove} {mismatch uncorrectable : Bool} (hs : Steady w s₀ s) :
    Steady w s₀ (s.endLocal mv mismatch uncorrectable) := by
  unfold State.endLocal
  dsimp only
  generalize hu : (s.onMem fun m => { m with moves := m.moves.filter fun x => decide (x.seq ≠ mv.seq) }).endDrive mv.seq = u
  have hs : Steady w s₀ u := hu ▸ hs.onMem.endDrive
  split
  · exact hs.readFails.failLocal
  next e =>
    refine .ite hs.failLocal (hs.commitLocal (hs.content (tier := mv.srcTier.toNat) (slot := mv.src) ?_))
    split at e
    · cases e
    · exact e

/-- A remote move changes or ends, the bytes that have arrived staying canonical. -/
theorem Steady.remoteTo {r : RemoteMove} {new : Option RemoteMove} (hs : Steady w s₀ s)
    (bytes : ∀ n ∈ new, Mem.wf r.bytes = true → Mem.wf n.bytes = true) : Steady w s₀ (s.setRemote r new) := by
  refine hs.onMem fun ⟨tiers, remotes⟩ => ⟨tiers, fun x hx => ?_⟩
  obtain ⟨y, hy, hx⟩ := List.mem_flatMap.1 hx
  split at hx
  next e => exact bytes x (Option.mem_toList.1 hx) (e ▸ remotes y hy)
  · exact List.mem_singleton.1 hx ▸ remotes y hy

theorem Steady.setRemote {r n : RemoteMove} (hs : Steady w s₀ s)
    (same : autoParam (n.bytes = r.bytes) LawfulMonad.mk'._auto_9) :
    Steady w s₀ (s.setRemote r (Option.some n)) :=
  hs.remoteTo fun _ e h => by rw [← Option.some.inj e, same]; exact h

theorem Steady.endRemote {r : RemoteMove} (hs : Steady w s₀ s) : Steady w s₀ (s.setRemote r Option.none) :=
  hs.remoteTo fun _ e => absurd e (Option.not_mem_none _)

theorem Steady.abortMove {r : RemoteMove} (hs : Steady w s₀ s) : Steady w s₀ (s.abortMove r) :=
  hs.setRemote.sendMove

theorem Steady.homePage {t sl : Nat} (hs : Steady w s₀ s) : Steady w s₀ (s.homePage t sl) :=
  hs.onDir.applyHeld.andThen (·.onCtx)

theorem Steady.importFails {n : Nat} {st : BitVec 16} (hs : Steady w s₀ s) : Steady w s₀ (s.importFails n st) :=
  .ite hs.onCtx hs

theorem Steady.pageImportFails {t sl : Nat} {st : BitVec 16} (hs : Steady w s₀ s) :
    Steady w s₀ (s.pageImportFails t sl st) :=
  .ite hs.importFails hs

theorem Steady.dropInbound {r : RemoteMove} (hs : Steady w s₀ s) : Steady w s₀ (s.dropInbound r) :=
  (hs.onMem.foldl fun _ _ hs => hs.foldl fun _ _ hs => hs.remoteSend).freeSlotAt

theorem Steady.resolveRemote {r : RemoteMove} (hs : Steady w s₀ s) : Steady w s₀ (s.resolveRemote r) := by
  unfold State.resolveRemote
  dsimp only
  split
  · split
    · exact hs.endRemote
    · split
      · refine Steady.pageEnd ?_
        split
        · exact hs.endRemote.losePage.freeSlotAt
        · exact hs.endRemote.losePage
      · exact hs.endRemote.pageEnd
  · exact hs.endRemote.pageImportFails.share fun hs => .ite hs.homePage hs.onMem.freeSlotAt

theorem Steady.resolvePeer {chip : BitVec 12} (hs : Steady w s₀ s) : Steady w s₀ (s.resolvePeer chip) :=
  (hs.foldl fun _ _ hs => hs.resolveRemote).foldl fun _ _ hs => hs.importFails

end Sys2Proof.Proofs
end

section
/-!
Each operation of the model is steady, from `Machine/Paging` to `Machine/Jobs`: one lemma for each, over the lemmas
of what it calls.
-/
namespace Sys2Proof.Proofs
open Sys2Proof.Machine
variable {w : Watch} {s₀ s t u : State}

/-! ### Operations of `Machine/Paging` -/

theorem Steady.beginWriteBack {f : Nat} (hs : Steady w s₀ s) : Steady w s₀ (s.beginWriteBack f) :=
  .ite hs hs.onMem

theorem Steady.writeBackAll (hs : Steady w s₀ s) : Steady w s₀ s.writeBackAll :=
  hs.foldl fun _ _ hs => hs.beginWriteBack

/-! ### Operations of `Machine/Vector` -/

theorem Steady.vecBody {p : At} {lat : Nat} {body skipped : State → State} (hs : Steady w s₀ s)
    (hbody : ∀ t, Steady w s₀ t → Steady w s₀ (body t)) (hskipped : ∀ t, Steady w s₀ t → Steady w s₀ (skipped t)) :
    Steady w s₀ (s.vecBody p lat body skipped) := by
  unfold State.vecBody
  dsimp only
  split
  · exact (hbody _ hs.guarded).cellSignal
  · exact (hskipped _ hs.guarded).cellSignal
  · exact hs.guarded

theorem Steady.vecIssue {p : At} {lat : Nat} {body skipped : State → State} (hs : Steady w s₀ s)
    (hbody : ∀ t, Steady w s₀ t → Steady w s₀ (body t))
    (hskipped : ∀ t, Steady w s₀ t → Steady w s₀ (skipped t)) :
    Answers w s₀ (vecIssue p lat body skipped s) :=
  hs.issue fun _ hs => hs.vecBody hbody hskipped

theorem vecResult_sram (t lat : Nat) (vd : BitVec 5) (mask : BitVec 64) (lanes : List (BitVec 32)) (fs : List AFlags)
    (poison : Bool)
    (c : Cell) : (c.vecResult t lat vd mask lanes fs poison).sram = c.sram :=
  (cell_vecResult (P := fun _ => True) (fun _ _ _ => trivial) ..).sram

theorem convResult_sram (t lat : Nat) (vd : BitVec 5) (n : Nat) (rs : List (Nat × AFlags)) (poison : Bool) (c : Cell) :
    (c.convResult t lat vd n rs poison).sram = c.sram :=
  (cell_convResult (P := fun _ => True) (fun _ _ _ => trivial) ..).sram

theorem postInc_sram (t : Nat) (o : LOp) (c : Cell) : (c.postInc t o).sram = c.sram :=
  (cell_postInc (P := fun _ => True) (fun _ _ _ => trivial) ..).sram

theorem Steady.vecOp {p : At} {lat : Nat} {f : Cell → Cell} (hs : Steady w s₀ s) (sram : ∀ c, (f c).sram = c.sram) :
    Answers w s₀ (vecOp p lat f s) :=
  hs.vecIssue (fun _ hs => hs.onCellSame (sram _)) fun _ hs => hs

theorem Steady.fpOp {p : At} {o : VOp} {lat : Nat} {useD : Bool} {f : Fmt → Nat → Nat → Nat → Nat × AFlags}
    (hs : Steady w s₀ s) :
    Answers w s₀ (fpOp p o lat useD f s) :=
  .ite (hs.issue fun _ hs => hs) (hs.vecOp fun _ => vecResult_sram ..)

theorem Steady.execVnop {p : At} (hs : Steady w s₀ s) : Answers w s₀ (execVnop p s) :=
  hs.issue fun _ hs => hs

theorem Steady.execVadd {p : At} {o : VOp} (hs : Steady w s₀ s) : Answers w s₀ (execVadd p o s) :=
  hs.fpOp

theorem Steady.execVsub {p : At} {o : VOp} (hs : Steady w s₀ s) : Answers w s₀ (execVsub p o s) :=
  hs.fpOp

theorem Steady.execVmul {p : At} {o : VOp} (hs : Steady w s₀ s) : Answers w s₀ (execVmul p o s) :=
  hs.fpOp

theorem Steady.execVfma {p : At} {o : VOp} (hs : Steady w s₀ s) : Answers w s₀ (execVfma p o s) :=
  hs.fpOp

theorem Steady.execVmax {p : At} {o : VOp} (hs : Steady w s₀ s) : Answers w s₀ (execVmax p o s) :=
  hs.fpOp

theorem Steady.execVmin {p : At} {o : VOp} (hs : Steady w s₀ s) : Answers w s₀ (execVmin p o s) :=
  hs.fpOp

theorem Steady.execVabs {p : At} {o : VOp} (hs : Steady w s₀ s) : Answers w s₀ (execVabs p o s) :=
  hs.fpOp

theorem Steady.execVneg {p : At} {o : VOp} (hs : Steady w s₀ s) : Answers w s₀ (execVneg p o s) :=
  hs.fpOp

theorem Steady.fnOp {p : At} {o : VOp} {g : Fl → Fl} {zeroOverflows : Bool} (hs : Steady w s₀ s) :
    Answers w s₀ (fnOp p o g zeroOverflows s) :=
  .ite (hs.issue fun _ hs => hs) (hs.vecOp fun _ => vecResult_sram ..)

theorem Steady.execExp2 {p : At} {o : VOp} (hs : Steady w s₀ s) : Answers w s₀ (execExp2 p o s) :=
  hs.fnOp

theorem Steady.execLog2 {p : At} {o : VOp} (hs : Steady w s₀ s) : Answers w s₀ (execLog2 p o s) :=
  hs.fnOp

theorem Steady.execRcp {p : At} {o : VOp} (hs : Steady w s₀ s) : Answers w s₀ (execRcp p o s) :=
  hs.fnOp

theorem Steady.execRsqrt {p : At} {o : VOp} (hs : Steady w s₀ s) : Answers w s₀ (execRsqrt p o s) :=
  hs.fnOp

theorem Steady.execSigm {p : At} {o : VOp} (hs : Steady w s₀ s) : Answers w s₀ (execSigm p o s) :=
  hs.fnOp

theorem Steady.execTanh {p : At} {o : VOp} (hs : Steady w s₀ s) : Answers w s₀ (execTanh p o s) :=
  hs.fnOp

theorem Steady.reduceOp {p : At} {o : VOp} {leaf : Nat → Nat} {ident : Nat} {g : Fl → Fl → Fl} (hs : Steady w s₀ s) :
    Answers w s₀ (reduceOp p o leaf ident g s) := by
  refine .ite (hs.issue fun _ hs => hs) (hs.vecOp fun c => ?_)
  show (if _ then _ else _ : Cell).sram = _
  split <;> rfl

theorem Steady.execRsum {p : At} {o : VOp} (hs : Steady w s₀ s) : Answers w s₀ (execRsum p o s) :=
  hs.reduceOp

theorem Steady.execRmax {p : At} {o : VOp} (hs : Steady w s₀ s) : Answers w s₀ (execRmax p o s) :=
  hs.reduceOp

theorem Steady.execRmin {p : At} {o : VOp} (hs : Steady w s₀ s) : Answers w s₀ (execRmin p o s) :=
  hs.reduceOp

theorem Steady.execRamax {p : At} {o : VOp} (hs : Steady w s₀ s) : Answers w s₀ (execRamax p o s) :=
  hs.reduceOp

theorem Steady.laneOp {p : At} {o : VOp} {lat : Nat} {ok : Bool} {g : Cell → Nat → BitVec 32} (hs : Steady w s₀ s) :
    Answers w s₀ (laneOp p o lat ok g s) :=
  .ite (hs.issue fun _ hs => hs) (hs.vecOp fun _ => vecResult_sram ..)

theorem Steady.intOp {p : At} {o : VOp} {f : BitVec 32 → BitVec 32 → BitVec 32} (hs : Steady w s₀ s) :
    Answers w s₀ (intOp p o f s) :=
  hs.laneOp

theorem Steady.execIadd {p : At} {o : VOp} (hs : Steady w s₀ s) : Answers w s₀ (execIadd p o s) :=
  hs.intOp

theorem Steady.execIsub {p : At} {o : VOp} (hs : Steady w s₀ s) : Answers w s₀ (execIsub p o s) :=
  hs.intOp

theorem Steady.execVand {p : At} {o : VOp} (hs : Steady w s₀ s) : Answers w s₀ (execVand p o s) :=
  hs.intOp

theorem Steady.execVor {p : At} {o : VOp} (hs : Steady w s₀ s) : Answers w s₀ (execVor p o s) :=
  hs.intOp

theorem Steady.execVxor {p : At} {o : VOp} (hs : Steady w s₀ s) : Answers w s₀ (execVxor p o s) :=
  hs.intOp

theorem Steady.execVshl {p : At} {o : VOp} (hs : Steady w s₀ s) : Answers w s₀ (execVshl p o s) :=
  hs.intOp

theorem Steady.execVshr {p : At} {o : VOp} (hs : Steady w s₀ s) : Answers w s₀ (execVshr p o s) :=
  hs.intOp

theorem Steady.execVsel {p : At} {o : VOp} (hs : Steady w s₀ s) : Answers w s₀ (execVsel p o s) :=
  hs.vecOp fun _ => rfl

theorem Steady.execVmov {p : At} {o : VOp} (hs : Steady w s₀ s) : Answers w s₀ (execVmov p o s) :=
  hs.laneOp

theorem Steady.execVbcast {p : At} {o : VOp} (hs : Steady w s₀ s) : Answers w s₀ (execVbcast p o s) := by
  unfold Machine.execVbcast
  split
  · exact hs.issue fun _ hs => hs
  · exact hs.vecOp fun _ => vecResult_sram ..

theorem Steady.execVperm {p : At} {o : VOp} (hs : Steady w s₀ s) : Answers w s₀ (execVperm p o s) :=
  hs.laneOp

theorem Steady.execViota {p : At} {o : VOp} (hs : Steady w s₀ s) : Answers w s₀ (execViota p o s) := by
  unfold Machine.execViota
  split
  · exact hs.issue fun _ hs => hs
  · exact .ite (hs.issue fun _ hs => hs) (hs.vecOp fun _ => vecResult_sram ..)

theorem Steady.execVcmp {p : At} {o : VOp} (hs : Steady w s₀ s) : Answers w s₀ (execVcmp p o s) := by
  refine .ite (hs.issue fun _ hs => hs) (hs.vecOp fun c => ?_)
  rfl

theorem Steady.execMlog {p : At} {o : VOp} (hs : Steady w s₀ s) : Answers w s₀ (execMlog p o s) := by
  unfold Machine.execMlog
  split
  · exact hs.issue fun _ hs => hs
  · exact hs.vecOp fun _ => rfl

theorem Steady.execMvl {p : At} {o : VOp} (hs : Steady w s₀ s) : Answers w s₀ (execMvl p o s) :=
  hs.vecOp fun _ => rfl

theorem Steady.execMflg {p : At} {o : VOp} (hs : Steady w s₀ s) : Answers w s₀ (execMflg p o s) := by
  refine hs.vecOp fun c => ?_
  dsimp only
  split <;> rfl

theorem Steady.convert {p : At} {o : COp} {f : Fmt} {regs : Nat} {scales : Bool} (hs : Steady w s₀ s) :
    Answers w s₀ (convert p o f regs scales s) := by
  refine hs.vecOp fun c => ?_
  dsimp only
  split <;> exact convResult_sram ..

theorem Steady.execVcvtBf16 {p : At} {o : COp} (hs : Steady w s₀ s) : Answers w s₀ (execVcvtBf16 p o s) :=
  hs.convert

theorem Steady.execVcvtFp16 {p : At} {o : COp} (hs : Steady w s₀ s) : Answers w s₀ (execVcvtFp16 p o s) :=
  hs.convert

theorem Steady.execVcvtFp8 {p : At} {o : COp} (hs : Steady w s₀ s) : Answers w s₀ (execVcvtFp8 p o s) :=
  hs.convert

theorem Steady.execVcvtFp4 {p : At} {o : COp} (hs : Steady w s₀ s) : Answers w s₀ (execVcvtFp4 p o s) :=
  hs.convert

theorem Steady.execVqblk {p : At} {o : COp} (hs : Steady w s₀ s) : Answers w s₀ (execVqblk p o s) :=
  .ite (hs.issue fun _ hs => hs) (hs.vecOp fun _ => convResult_sram ..)

theorem Steady.execVunpk {p : At} {o : COp} (hs : Steady w s₀ s) : Answers w s₀ (execVunpk p o s) := by
  unfold Machine.execVunpk
  split
  · exact hs.issue fun _ hs => hs
  · exact hs.vecOp fun _ => vecResult_sram ..

theorem Steady.execVld {p : At} {o : LOp} (hs : Steady w s₀ s) : Answers w s₀ (execVld p o s) := by
  refine hs.vecIssue (fun s hs => ?_) fun _ hs => hs
  have hp : Steady w s₀ (s.onCell p.cell (Cell.postInc p.beat o)) := hs.onCellSame (postInc_sram ..)
  refine .ite hp.barrierFault (.ite hp.useBanks.barrierFault (hp.useBanks.onCell.onCellSame ?_))
  split <;> rfl

theorem Steady.storeLanes {logical cycle a : Nat} {mask : BitVec 64} {v : BitVec 2048} {poison : Bool} (hs : Steady w s₀ s) :
    Steady w s₀ (s.storeLanes logical cycle a mask v poison) := by
  refine .ite hs.sramStore (.ite hs.useBanks.barrierFault (hs.useBanks.foldl fun _ _ hs => ?_))
  exact .ite hs.onCell hs

theorem Steady.execVst {p : At} {o : LOp} (hs : Steady w s₀ s) : Answers w s₀ (execVst p o s) := by
  refine hs.vecIssue (fun s hs => ?_) fun _ hs => hs
  have hp : Steady w s₀ (s.onCell p.cell (Cell.postInc p.beat o)) := hs.onCellSame (postInc_sram ..)
  refine .ite hp.barrierFault (Steady.storeLanes (hp.onCellSame ?_))
  split <;> rfl

theorem Steady.execVsthOpen {p : At} {o : HOp} (hs : Steady w s₀ s) : Answers w s₀ (execVsthOpen p o s) :=
  hs.vecIssue (fun _ hs => hs.onCell) fun _ hs => hs

theorem Steady.execVsthClose {p : At} {o : HOp} (hs : Steady w s₀ s) : Answers w s₀ (execVsthClose p o s) :=
  hs.vecIssue (fun _ hs => .ite hs.onCell.barrierFault hs.onCell.sramStore) fun _ hs => hs.onCell

theorem Steady.scalarOp {p : At} {o : SOp} {f : Cell → BitVec 32} (hs : Steady w s₀ s) : Answers w s₀ (scalarOp p o f s) :=
  hs.vecOp fun _ => rfl

theorem Steady.execSlui {p : At} {o : SOp} (hs : Steady w s₀ s) : Answers w s₀ (execSlui p o s) :=
  hs.scalarOp

theorem Steady.execSlli {p : At} {o : SOp} (hs : Steady w s₀ s) : Answers w s₀ (execSlli p o s) :=
  hs.scalarOp

theorem Steady.execSmov {p : At} {o : SOp} (hs : Steady w s₀ s) : Answers w s₀ (execSmov p o s) := by
  unfold Machine.execSmov
  split
  · exact hs.scalarOp
  · exact hs.scalarOp
  · exact hs.issue fun _ hs => hs

theorem Steady.execSadd {p : At} {o : SOp} (hs : Steady w s₀ s) : Answers w s₀ (execSadd p o s) :=
  hs.scalarOp

/-! ### Operations of `Machine/Models` -/

/-- A model of the table has canonical tiles. -/
theorem Steady.model {id : BitVec 28} {v : BitVec 8} {m : ModelVer} (hs : Steady w s₀ s) (e : s.model id v = Option.some m)
    (h : BytesWf s₀) : Mem.wf m.staged = true := by
  obtain ⟨-, -, models, -⟩ := hs.bytes h
  exact models m (List.mem_of_find?_eq_some e)

/-- A model changes, its tiles staying canonical. -/
theorem Steady.onModel {id : BitVec 28} {v : BitVec 8} {g : ModelVer → ModelVer} (hs : Steady w s₀ s)
    (staged : autoParam (∀ m, Mem.wf m.staged = true → Mem.wf (g m).staged = true)
      FirstOrder.Language.Hom.map_fun'._autoParam) :
    Steady w s₀ (s.onModel id v g) := by
  refine hs.onWgt fun ⟨models, saved⟩ => ⟨TilesWf.map models fun m h => ?_, saved⟩
  split
  · exact staged m h
  · exact h

theorem Steady.freePage {g : BitVec 64} (hs : Steady w s₀ s) : Steady w s₀ (s.freePage g) :=
  (hs.freeSlotAt.andThen (·.deallocate)).andThen (·.freeSlotAt)

theorem Steady.tryFree {m : ModelVer} (hs : Steady w s₀ s) : Steady w s₀ (s.tryFree m) := by
  unfold State.tryFree
  split
  · exact hs
  · refine .ite (Steady.completeOpt (Steady.raiseWgt (Steady.onWgt ?_ ?_))) hs
    · exact hs.foldl fun _ _ hs => hs.freePage
    · exact fun ⟨models, saved⟩ => ⟨TilesWf.filter models, saved⟩

theorem Steady.freeRetired (hs : Steady w s₀ s) : Steady w s₀ s.freeRetired :=
  hs.foldl fun _ _ hs => hs.tryFree

theorem Steady.beginActivate {id : BitVec 28} {v : BitVec 8} (hs : Steady w s₀ s) : Steady w s₀ (s.beginActivate id v) := by
  unfold State.beginActivate
  split
  · exact hs
  · exact hs.onModel.startJob.startJob

theorem Steady.beginRest {id : BitVec 28} {v : BitVec 8} (hs : Steady w s₀ s) : Steady w s₀ (s.beginRest id v) := by
  unfold State.beginRest
  split
  · exact hs
  · exact hs.onModel.startJob

theorem Steady.retireOlder {id : BitVec 28} {v : BitVec 8} (hs : Steady w s₀ s) : Steady w s₀ (s.retireOlder id v) := by
  refine hs.onWgt fun ⟨models, saved⟩ => ⟨TilesWf.map models fun m h => ?_, saved⟩
  split <;> exact h

theorem Steady.endActivate {id : BitVec 28} {v : BitVec 8} {j : PageJob} (hs : Steady w s₀ s) :
    Steady w s₀ (s.endActivate id v j) := by
  unfold State.endActivate
  split
  · exact hs
  · dsimp only
    split
    · exact hs.onModel.onModel.completeOpt.completeOpt
    · split
      · exact (Steady.ite hs.onModel.onModel.retireOlder hs.onModel.onModel).completeOpt.completeOpt
      · exact Steady.ite hs.onModel.onModel hs.onModel.onModel.completeOpt.completeOpt

theorem Steady.endRest {id : BitVec 28} {v : BitVec 8} {j : PageJob} (hs : Steady w s₀ s) :
    Steady w s₀ (s.endRest id v j) := by
  unfold State.endRest
  split
  · exact hs
  · exact hs.onModel.completeOpt

theorem Steady.recheckRoom (hs : Steady w s₀ s) : Steady w s₀ s.recheckRoom :=
  hs.foldl fun _ _ hs => .ite (.ite hs.onModel.raiseWgt hs) (.ite (.ite hs.beginActivate.raiseWgt hs) hs)

theorem Steady.imageComplete {id : BitVec 28} {v : BitVec 8} (hs : Steady w s₀ s) : Steady w s₀ (s.imageComplete id v) := by
  unfold State.imageComplete
  split
  · exact hs
  · refine .ite (hs.onModel.raiseWgt.onModel fun m h => ?_) hs.onModel.raiseWgt
    split
    · split <;> exact h
    · exact h

theorem Steady.checkLoaded {id : BitVec 28} {v : BitVec 8} (hs : Steady w s₀ s) : Steady w s₀ (s.checkLoaded id v) := by
  unfold State.checkLoaded
  split
  · exact hs
  · split
    · exact hs
    · split
      · dsimp only
        split
        · exact hs.imageComplete.beginActivate
        · exact hs.imageComplete.onModel.completeOpt.andThen (·.beginActivate)
      · exact hs.onModel.completeOpt

theorem Steady.writeImagePage {id : BitVec 28} {v : BitVec 8} {p : Nat} (hs : Steady w s₀ s) :
    Yields w s₀ (s.writeImagePage id v p) := by
  unfold State.writeImagePage
  split
  · exact hs.some
  next m e =>
    have content : BytesWf s₀ → Mem.wf (Mem.slice m.staged (p * pageBytes) pageBytes) = true :=
      fun h => slice_wf _ _ (hs.model e h)
    dsimp only
    split
    · exact .none
    next e =>
      have hu := (hs.placePage content).of_snd e
      exact .ite hu.onModel.onModel.some (.ite hu.onModel.onModel.some hu.onModel.freePage.onModel.some)

theorem Steady.writePages {id : BitVec 28} {v : BitVec 8} (hs : Steady w s₀ s) : Steady w s₀ (s.writePages id v).2 := by
  unfold State.writePages
  split
  · exact hs
  · refine (hs.foldl_snd fun _ _ _ hs => ?_).onModel fun _ h => wf_filter _ _ _ h
    split
    next e => exact hs.writeImagePage _ e
    · exact hs.drawn

theorem Steady.setShard {id : BitVec 28} {v : BitVec 8} {i : Nat} {st : ShardState} (hs : Steady w s₀ s) :
    Steady w s₀ (s.setShard id v i st) :=
  hs.onModel

theorem Steady.shardFails {x : Ingest} {st : BitVec 16} {detail : BitVec 32} (hs : Steady w s₀ s) :
    Steady w s₀ (s.shardFails x st detail) :=
  hs.setShard.raiseWgt.onWgt.onModel.complete.checkLoaded

theorem Steady.noteFail {f : ReadFail} (hs : Steady w s₀ s) : Steady w s₀ (s.noteFail f) := by
  unfold State.noteFail
  split
  · exact hs
  · exact hs.noteRead

theorem Steady.shardRefused {x : Ingest} {st : BitVec 16} {detail : BitVec 32} (hs : Steady w s₀ s) :
    Steady w s₀ (s.shardRefused x st detail) :=
  hs.setShard.complete.checkLoaded

theorem writes_foldl_wf {ts : List (Nat × List (BitVec 8))} {m : Mem} (h : Mem.wf m = true) :
    Mem.wf (ts.foldl (fun mem t => Mem.writes mem t.1 t.2) m) = true :=
  List.foldlRecOn (motive := fun m => Mem.wf m = true) ts _ h fun _ h _ _ => Mem.wf_writes _ _ _ h

theorem Steady.ingest {x : Ingest} {l : Live} (hs : Steady w s₀ s) : Steady w s₀ (s.ingest x l) := by
  unfold State.ingest
  split
  · exact hs.complete
  · dsimp only
    split
    · exact hs.complete
    · split
      · exact .ite hs.noteFail.shardRefused hs.noteFail.shardFails
      · split
        · exact hs.drawn.onWgt.shardFails
        · split
          · exact hs.drawn.onWgt.shardFails
          · split
            · exact hs.drawn.onWgt.onWgt.onFreeCount.shardFails
            next u e =>
              have hu : Steady w s₀ u := by
                refine Steady.of_snd (Steady.writePages (Steady.setShard (hs.drawn.onWgt.onWgt.onModel fun _ h => ?_))) e
                exact writes_foldl_wf h
              exact (Steady.ite hu.imageComplete hu).complete.checkLoaded

theorem Steady.nextShard (hs : Steady w s₀ s) : Steady w s₀ s.nextShard := by
  unfold State.nextShard
  split
  · exact hs
  · split
    · exact hs
    · split
      · exact hs.onWgt
      · exact hs.onWgt

theorem Steady.startScrub {m : ModelVer} (hs : Steady w s₀ s) : Steady w s₀ (s.startScrub m) :=
  hs.onModel

theorem Steady.startScrubs (hs : Steady w s₀ s) : Steady w s₀ s.startScrubs :=
  hs.foldl fun _ _ hs => hs.startScrub

theorem Steady.scrubMismatch {m : ModelVer} {p : Nat} (hs : Steady w s₀ s) : Steady w s₀ (s.scrubMismatch m p) :=
  (hs.onDir.raiseWgt.onWgt.foldl fun _ _ hs => .ite hs hs.setShard).onModel

theorem Steady.restoreSuspects (hs : Steady w s₀ s) : Steady w s₀ s.restoreSuspects :=
  hs.foldl fun _ _ hs => Steady.raiseWgt <| Steady.onModel <| hs.foldl fun _ _ hs =>
    .ite (hs.rename.freePage.onCyl fun _ => .of_labels labels_map) hs.rename.freePage

/-! ### Operations of `Machine/Serving` -/

theorem Steady.ctxPage {n index : Nat} {g : BitVec 64} (hs : Steady w s₀ s) (e : s.ctxPage n index = Option.some (g, t)) :
    Steady w s₀ t := by
  unfold State.ctxPage at e
  split at e
  next h =>
    cases e
    exact (hs.placePage fun _ => rfl).of_snd h
  · cases e

theorem Steady.growList {n region want k : Nat} : ∀ {s : State}, Steady w s₀ s → Yields w s₀
    (s.growList n region want k) := by
  induction k with
  | zero => exact fun hs => hs.some
  | succ k ih =>
    intro s hs
    unfold State.growList
    extract_lets c l
    split
    · exact hs.some
    · split
      · exact .none
      next e => exact ih (hs.ctxPage e).onCtx

theorem Steady.giveKv {n region h r : Nat} (hs : Steady w s₀ s) : Yields w s₀ (s.giveKv n region h r) := by
  unfold State.giveKv
  dsimp only
  exact hs.growList

theorem Steady.giveHist {n : Nat} (hs : Steady w s₀ s) : Yields w s₀ (s.giveHist n) := by
  unfold State.giveHist
  split
  · exact hs.some
  · split
    · exact .none
    next e => exact (hs.ctxPage e).onCtx.some

theorem Steady.holdHist {n : Nat} (hs : Steady w s₀ s) : Steady w s₀ (s.holdHist n) :=
  .ite (Yields.getD hs.giveHist hs) hs

theorem Steady.putHist {n pos : Nat} {ts : List (BitVec 32)} (hs : Steady w s₀ s) : Steady w s₀ (s.putHist n pos ts) := by
  unfold State.putHist
  split
  · exact hs
  · exact .ite hs.t1Write hs

theorem Steady.dropHist {n : Nat} (hs : Steady w s₀ s) : Steady w s₀ (s.dropHist n) :=
  (hs.foldl fun _ _ hs => hs.freePage).onCtx

theorem Steady.dropPages {n : Nat} (hs : Steady w s₀ s) : Steady w s₀ (s.dropPages n) :=
  (hs.foldl fun _ _ hs => hs.freePage).onCtx

theorem Steady.freeCtx {n : Nat} (hs : Steady w s₀ s) : Steady w s₀ (s.freeCtx n) :=
  hs.dropPages.onCtx

theorem Steady.tokenRecord {n : Nat} {bs : List (BitVec 8)} (hs : Steady w s₀ s) : Steady w s₀ (s.tokenRecord n bs) :=
  hs.hostWrite.hostWrite.onCtx.onStep.orElse (·.vectorEvent)

theorem Steady.putToken {n : Nat} {token step : BitVec 32} {logprob flags : BitVec 16} {counts : Bool} (hs : Steady w s₀ s) :
    Steady w s₀ (s.putToken n token step logprob flags counts) :=
  .ite hs (.ite hs.onCtx.onCtx hs.onCtx.tokenRecord)

theorem Steady.marker {n : Nat} {step : BitVec 32} (hs : Steady w s₀ s) : Steady w s₀ (s.marker n step) :=
  hs.putToken

theorem Steady.due {h : BitVec 32} {st : BitVec 16} {d : BitVec 32} (hs : Steady w s₀ s) : Steady w s₀ (s.due h st d) :=
  hs.onStep

theorem Steady.dueEnd {n : Nat} {h : BitVec 32} {st : BitVec 16} {d : BitVec 32} (hs : Steady w s₀ s) :
    Steady w s₀ (s.dueEnd n h st d) :=
  .ite hs.due hs.onCtx

theorem Steady.flushHeld {n : Nat} (hs : Steady w s₀ s) : Steady w s₀ (s.flushHeld n) :=
  (hs.foldl fun _ _ hs => hs.tokenRecord).onCtx.orElse fun hs => hs.onCtx.foldl fun _ _ hs => hs.due

theorem Steady.dueBefore {h gen : BitVec 32} {st : BitVec 16} (hs : Steady w s₀ s) :
    Steady w s₀ (s.dueBefore h gen st) :=
  hs.onStep

theorem Steady.writeDues (hs : Steady w s₀ s) : Steady w s₀ s.writeDues :=
  hs.onStep.foldl fun _ _ hs => hs.complete

theorem Steady.endGen {n : Nat} {st : BitVec 16} {reason : Nat} (hs : Steady w s₀ s) :
    Steady w s₀ (s.endGen n st reason) := by
  unfold State.endGen
  dsimp only
  split
  · exact hs
  · exact ((hs.foldl fun _ _ hs => .ite hs.due hs.dueBefore).foldl fun _ _ hs => hs.dueBefore).onCtx.onSrv.dueEnd

theorem Steady.endCancels {n : Nat} {st : BitVec 16} (hs : Steady w s₀ s) : Steady w s₀ (s.endCancels n st) :=
  hs.onCtx.foldl fun _ _ hs => hs.due

theorem Steady.cancelGen {n : Nat} (hs : Steady w s₀ s) : Steady w s₀ (s.cancelGen n) :=
  hs.marker.endGen.endCancels

theorem Steady.putServing {o : Nat} {bs : List (BitVec 8)} (hs : Steady w s₀ s) : Steady w s₀ (s.putServing o bs) := by
  unfold State.putServing
  split
  · exact hs
  · exact hs.t1Write

theorem Steady.putInput {slot : Nat} (hs : Steady w s₀ s) : Steady w s₀ (s.putInput slot) := by
  unfold State.putInput
  dsimp only
  split
  · exact Steady.ite hs.putServing hs.putServing.putServing
  · exact hs.putServing

theorem Steady.stageInputs (hs : Steady w s₀ s) : Steady w s₀ s.stageInputs :=
  hs.onSrv.onSrv.andThen fun hs => hs.foldl fun _ _ hs => hs.putInput

theorem Steady.addToken {n : Nat} {t : BitVec 32} (hs : Steady w s₀ s) : Steady w s₀ (s.addToken n t) :=
  hs.putHist.onCtx

theorem Steady.commitFed {x : Nat × BatchSlot} (hs : Steady w s₀ s) : Steady w s₀ (s.commitFed x) :=
  hs.onCtx

theorem Steady.publishSlot {x : Nat × BatchSlot} (hs : Steady w s₀ s) : Steady w s₀ (s.publishSlot x) := by
  unfold State.publishSlot
  dsimp only
  split
  · exact hs.commitFed
  · split
    · split
      · exact hs.commitFed.cancelGen
      · split
        · split
          · exact hs.commitFed.raiseSrv.endGen
          · exact hs.commitFed.putToken.addToken.onCtx.orElse (·.endGen)
        · exact hs.commitFed.andThen (·.endGen)
    · split
      · exact hs.commitFed.cancelGen
      · split
        · split
          · exact hs.commitFed.raiseSrv.endGen
          · exact hs.commitFed.putToken.addToken.onCtx.orElse (·.endGen)
        · exact hs.commitFed.andThen (·.endGen)

theorem Steady.publishWaiting {n : Nat} (hs : Steady w s₀ s) : Steady w s₀ (s.publishWaiting n) := by
  unfold State.publishWaiting
  dsimp only
  split
  · exact .ite hs.cancelGen.onCtx (.ite hs.endGen.onCtx hs)
  · exact hs

theorem Steady.settleCtx {n : Nat} (hs : Steady w s₀ s) : Steady w s₀ (s.settleCtx n) := by
  unfold State.settleCtx
  dsimp only
  split
  · exact (hs.foldl fun _ _ hs => hs.due).onCtx
  · split
    · exact (hs.foldl fun _ _ hs => hs.due).onCtx.endCancels
    · split
      · exact (hs.foldl fun _ _ hs => hs.due).onCtx.endCancels.due.onCtx
      · exact (hs.foldl fun _ _ hs => hs.due).onCtx.endCancels

theorem Steady.publish (hs : Steady w s₀ s) : Steady w s₀ s.publish :=
  ((hs.foldl fun _ _ hs => .ite hs hs.flushHeld).foldl fun _ _ hs => hs.publishSlot).foldl fun _ _ hs =>
    hs.publishWaiting.settleCtx

theorem Steady.publishPeer {es : List SlotEntry} (hs : Steady w s₀ s) : Steady w s₀ (s.publishPeer es) := by
  unfold State.publishPeer
  refine (hs.foldl (fun _ _ hs1 => hs1.commitFed)).foldl (fun s e hs2 => ?_)
  split
  · split
    · exact hs2.addToken
    · exact hs2
  · exact hs2

theorem Steady.noteSlot {e : SlotEntry} (hs : Steady w s₀ s) : Steady w s₀ (s.noteSlot e) :=
  hs.onStep

theorem Steady.leaveSlot {slot : Nat} (hs : Steady w s₀ s) : Steady w s₀ (s.leaveSlot slot) := by
  unfold State.leaveSlot
  split
  · exact hs
  · exact hs.onSrv.orElse (·.onCtx)

theorem Steady.phase7 (hs : Steady w s₀ s) : Steady w s₀ s.phase7 :=
  hs.foldl fun _ _ hs => hs.noteSlot.onStep.leaveSlot

theorem Steady.enterSlot {slot n region chunk : Nat} (hs : Steady w s₀ s) :
    Steady w s₀ (s.enterSlot slot n region chunk) :=
  hs.onSrv.onCtx

theorem Steady.notePlacement {slot n chunk : Nat} (hs : Steady w s₀ s) : Steady w s₀ (s.notePlacement slot n chunk) := by
  unfold State.notePlacement
  refine Steady.noteSlot ?_
  split
  · exact hs.noteSlot
  · exact hs

theorem Steady.placeFallback {slot n chunk : Nat} (hs : Steady w s₀ s) : Steady w s₀ (s.placeFallback slot n chunk) := by
  unfold State.placeFallback
  refine (Steady.onCtx ?_).onStep.onSrv.raiseSrv.enterSlot
  split
  · exact hs
  · exact hs.onSrv

theorem Steady.join {slot n chunk : Nat} (hs : Steady w s₀ s) : Steady w s₀ (s.join slot n chunk) :=
  hs.onStep.onSrv.enterSlot

theorem Steady.preempt {slot : Nat} (hs : Steady w s₀ s) : Steady w s₀ (s.preempt slot) :=
  hs.leaveSlot.onSrv.raiseSrv

theorem Steady.missOne {n : Nat} (hs : Steady w s₀ s) : Steady w s₀ (s.missOne n) :=
  hs.onStep

theorem Steady.monitor {b n : Nat} {r : State × List Nat} (hs : Steady w s₀ r.1) : Steady w s₀ (State.monitor b n r).1 := by
  obtain ⟨s, done⟩ := r
  unfold State.monitor
  dsimp only
  split
  · split
    · split
      · exact hs
      · dsimp only
        exact hs.noteSlot.preempt.onSrv
    · exact hs
  · split
    · exact hs.missOne
    · split
      · exact hs.missOne
      next e => exact (hs.giveKv _ e).notePlacement.placeFallback

theorem Steady.phase8 {b : Nat} (hs : Steady w s₀ s) : Steady w s₀ (s.phase8 b) :=
  .ite (hs.foldl fun _ _ hs => .ite hs hs.missOne) (hs.foldl_fst fun _ _ _ hs => hs.monitor)

theorem Steady.remoteHistory {n : Nat} {h : BitVec 32} {pos : Nat} {ts : List (BitVec 32)} (hs : Steady w s₀ s) :
    Steady w s₀ (s.remoteHistory n h pos ts) :=
  hs.drawn.foldl fun _ _ hs => hs.remoteSend

theorem Steady.resendHistory {n : Nat} (hs : Steady w s₀ s) : Steady w s₀ (s.resendHistory n) :=
  .ite hs (hs.onCtx.foldl_fst fun _ _ _ hs => .ite hs hs.remoteHistory)

theorem Steady.admitOne {n : Nat} {a : Addition} (hs : Steady w s₀ s) : Steady w s₀ (s.admitOne n a) := by
  unfold State.admitOne
  extract_lets c s1 region h given
  have h1 : Steady w s₀ s1 := hs.onCtx
  have hgiven : Yields w s₀ given := .ite .none (.ite h1.giveKv h1.some)
  clear_value s1 given
  split
  · exact h1.complete.onStep.resendHistory
  next u =>
    have hu : Steady w s₀ u := hgiven u rfl
    exact (hu.putHist.onCtx.andThen (·.onCtx)).andThen (·.onCtx)

theorem Steady.enrol (hs : Steady w s₀ s) : Steady w s₀ s.enrol := by
  unfold State.enrol
  refine hs.foldl (fun s x hs1 => ?_)
  split
  · exact hs1
  · split
    · exact hs1
    next _ _ e3 =>
      exact (hs1.giveHist _ e3).admitOne

theorem Steady.rewinds (hs : Steady w s₀ s) : Steady w s₀ s.rewinds := by
  unfold State.rewinds
  refine hs.foldl (fun s n hs1 => ?_)
  dsimp only
  split
  · refine Steady.onCtx ?_
    split
    · exact hs1.noteSlot
    · exact hs1
  · exact hs1

theorem Steady.tryJoin {slot n : Nat} (hs : Steady w s₀ s) : Steady w s₀ (s.tryJoin slot n) := by
  unfold State.tryJoin
  dsimp only
  split
  · exact hs.onStep
  next _ _ e2 =>
    exact (hs.giveKv _ e2).noteSlot.join

theorem Steady.countNotes (hs : Steady w s₀ s) : Steady w s₀ s.countNotes :=
  (hs.onSrv.andThen (·.raiseSrv)).foldl fun _ _ hs => .ite hs.onCtx.raiseSrv hs

theorem Steady.endHeld {n : Nat} (hs : Steady w s₀ s) : Steady w s₀ (s.endHeld n) :=
  hs.foldl fun _ _ hs => hs.complete

theorem Steady.freeClosing (hs : Steady w s₀ s) : Steady w s₀ s.freeClosing := by
  unfold State.freeClosing
  refine hs.foldl (fun s n hs1 => ?_)
  dsimp only
  split
  · exact hs1
  · split
    · exact hs1.endHeld.freeCtx.completeOpt
    · split
      · exact Steady.ite hs1.freeCtx.complete hs1
      · exact hs1

theorem Steady.slotPages {n region : Nat} (hs : Steady w s₀ s) : Yields w s₀ (s.slotPages n region) :=
  .ite hs.giveKv (.ite hs.some hs.growList)

theorem Steady.withdraw (hs : Steady w s₀ s) : Steady w s₀ s.withdraw :=
  .ite hs hs.onHlt.raiseHlt

theorem Steady.applyBatch {op : Nat} {told : Option (List SlotEntry)} (hs : Steady w s₀ s) :
    Steady w s₀ (s.applyBatch op told) := by
  unfold State.applyBatch
  refine hs.foldl (fun s b hs1 => (hs1.foldl (fun s e hs2 => ?_)))
  dsimp only
  split
  · exact hs2.onSrv
  · split
    · exact Steady.ite hs2.onSrv hs2.noteSlot.onStep.leaveSlot
    · split
      · split
        · exact hs2.onSrv
        · split
          · exact Steady.ite hs2.onStep hs2.withdraw
          next _ _ e7 =>
            exact Steady.ite (hs2.slotPages _ e7).notePlacement.placeFallback (hs2.slotPages _ e7).noteSlot.join
      · split
        · exact hs2.onSrv
        · split
          · exact Steady.ite hs2.onStep hs2.withdraw
          next _ _ e10 =>
            exact Steady.ite (hs2.slotPages _ e10).notePlacement.placeFallback (hs2.slotPages _ e10).noteSlot.join

theorem Steady.phase9 (hs : Steady w s₀ s) : Steady w s₀ s.phase9 := by
  unfold State.phase9
  refine Steady.rewinds ?_
  split
  · exact (hs.enrol.applyBatch.foldl (fun _ _ hs5 => hs5.tryJoin)).onSrv
  · refine (hs.enrol.applyBatch.foldl (fun _ _ hs6 => hs6.tryJoin)).onSrv.foldl (fun s n hs7 => ?_)
    split
    · split
      · exact hs7
      · exact hs7.tryJoin
    · exact hs7

theorem Steady.batchesApplied (hs : Steady w s₀ s) : Steady w s₀ s.batchesApplied := by
  unfold State.batchesApplied
  exact hs.onSrv

theorem Steady.completeBatches (hs : Steady w s₀ s) : Steady w s₀ s.completeBatches :=
  hs.onSrv.foldl fun _ _ hs => hs.due

theorem Steady.plan {b : Nat} (hs : Steady w s₀ s) : Steady w s₀ (s.plan b) :=
  hs.applyBatch.phase7.freeClosing.applyBatch.phase8.phase9

theorem Steady.takeReleases (hs : Steady w s₀ s) : Steady w s₀ s.takeReleases := by
  unfold State.takeReleases
  refine hs.foldl (fun s x hs1 => (Steady.working ?_).onCyl.due)
  split
  · exact hs1.due
  · exact hs1

theorem Steady.markAnnounced {as : List (Nat × Addition)} (hs : Steady w s₀ s) : Steady w s₀ (s.markAnnounced as) :=
  hs.foldl fun _ _ hs => hs.onCtx

theorem Steady.histReady {as : List (Nat × Addition)} (hs : Steady w s₀ s) : Steady w s₀ (s.histReady as).2 := by
  unfold State.histReady
  refine hs.foldl_snd (fun b s a hs1 => ?_)
  split
  · exact hs1
  next _ _ e3 =>
    exact hs1.giveHist _ e3

theorem Steady.announce (hs : Steady w s₀ s) : Steady w s₀ s.announce := by
  unfold State.announce
  refine ((hs.onStep.foldl_snd (fun b s a hs1 => ?_)).markAnnounced.markAnnounced.foldl
    (fun _ _ hs2 => (Yields.getD hs2.giveKv hs2))).onStep
  split
  · exact hs1
  next _ _ e4 =>
    exact hs1.giveHist _ e4

theorem Steady.applyEnter {e : SlotEntry} {region : Nat} (hs : Steady w s₀ s) : Steady w s₀ (s.applyEnter e region) := by
  unfold State.applyEnter
  dsimp only
  split
  · exact hs.withdraw
  next _ _ e2 =>
    exact .ite (hs.slotPages _ e2).placeFallback (hs.slotPages _ e2).join

theorem Steady.applySerial {es : List SlotEntry} {adds : List (BitVec 32 × BitVec 16)} (hs : Steady w s₀ s) :
    Steady w s₀ (s.applySerial es adds) := by
  unfold State.applySerial
  extract_lets formed has s1 s2 s3 s4 s5 s6 s7
  have h3 : Steady w s₀ s3 := ((Steady.ite hs.applyBatch hs).foldl fun _ _ hs => .ite hs.onStep.leaveSlot hs).freeClosing
  have h4 : Steady w s₀ s4 := h3.foldl fun _ _ hs => hs.preempt
  have h5 : Steady w s₀ s5 := .ite h4.applyBatch (h4.foldl fun _ _ hs => hs.applyEnter)
  have h6 : Steady w s₀ s6 := .ite h5.enrol (h5.foldl fun _ _ hs => (hs.holdHist.andThen (·.withdraw)).onCtx)
  have h7 : Steady w s₀ s7 := .ite h6.applyBatch (h6.foldl fun _ _ hs => hs.applyEnter)
  exact h7.foldl fun _ _ hs => hs.onCtx

theorem Steady.loseCtx {n : Nat} {st : BitVec 16} (hs : Steady w s₀ s) : Steady w s₀ (s.loseCtx n st) := by
  unfold State.loseCtx
  dsimp only
  split
  · exact hs
  · refine ((Steady.foldl ?_) fun _ _ hs => hs.due).onCtx
    split
    · exact hs.foldl fun _ _ hs => hs.dueBefore
    · exact (hs.foldl fun _ _ hs => hs.dueBefore).dueEnd

theorem Steady.losePartition (hs : Steady w s₀ s) : Steady w s₀ s.losePartition :=
  (hs.foldl fun _ _ hs => hs.loseCtx).andThen (·.raiseSrv)

theorem Steady.forcedLeaves (hs : Steady w s₀ s) : Steady w s₀ s.forcedLeaves :=
  hs.foldl fun _ _ hs => hs.onSrv.onStep.onHlt.raiseHlt

theorem Steady.unserved (hs : Steady w s₀ s) : Steady w s₀ s.unserved := by
  unfold State.unserved
  refine hs.foldl (fun s n hs1 => ?_)
  dsimp only
  split
  · split
    · exact hs1
    · exact hs1.completeAll.complete.onCtx
  · exact hs1

/-! ### Operations of `Machine/Jobs` -/

theorem Steady.endMove {j : PageJob} (hs : Steady w s₀ s) : Steady w s₀ (s.endMove j) := by
  unfold State.endMove
  split
  · exact hs
  · exact hs.hostWrite.complete

theorem Steady.beginResume {n : Nat} (hs : Steady w s₀ s) : Steady w s₀ (s.beginResume n) :=
  hs.startJob

theorem Steady.endPark {n : Nat} {j : PageJob} (hs : Steady w s₀ s) : Steady w s₀ (s.endPark n j) :=
  .ite hs hs.onCtx.completeOpt

theorem Steady.endToTier3 {n : Nat} {j : PageJob} (hs : Steady w s₀ s) : Steady w s₀ (s.endToTier3 n j) :=
  (hs.onCtx.andThen (·.onSrv)).share fun hs => .ite hs.onCtx (hs.andThen (·.onCtx.beginResume))

theorem Steady.endResume {n : Nat} {j : PageJob} (hs : Steady w s₀ s) : Steady w s₀ (s.endResume n j) :=
  .ite hs (Steady.ite hs.onCtx hs.onCtx).completeOpt

theorem Steady.exported {n : Nat} (hs : Steady w s₀ s) : Steady w s₀ (s.exported n) :=
  hs.dropPages.onCtx.holdHist

theorem Steady.endExport {n : Nat} {j : PageJob} (hs : Steady w s₀ s) : Steady w s₀ (s.endExport n j) :=
  Steady.ite hs (Steady.ite hs.onCtx.exported.completeOpt
    (Steady.ite hs.onCtx.completeOpt hs.onCtx.completeOpt.loseCtx.raiseSrv.writeDues))

theorem Steady.endFailedImport {n : Nat} (hs : Steady w s₀ s) : Steady w s₀ (s.endFailedImport n) := by
  unfold State.endFailedImport
  dsimp only
  split
  · exact hs
  · exact .ite hs (.ite hs.onCtx.holdHist.completeOpt hs.loseCtx.raiseSrv.writeDues)

theorem Steady.endImports (hs : Steady w s₀ s) : Steady w s₀ s.endImports :=
  hs.foldl fun _ _ hs => hs.endFailedImport

theorem Steady.endJob {j : PageJob} (hs : Steady w s₀ s) : Steady w s₀ (s.endJob j) := by
  unfold State.endJob
  dsimp only
  split
  · exact hs.onMem.onJob
  · split
    · exact hs.onMem.endMove
    · exact hs.onMem.endActivate
    · exact hs.onMem.endRest
    · exact hs.onMem.endPark
    · exact hs.onMem.endToTier3
    · exact hs.onMem.endResume
    · exact hs.onMem.endExport
    · exact hs.onMem
    · exact hs.onMem

theorem Steady.endJobs {n : Nat} : ∀ {s : State}, Steady w s₀ s → Steady w s₀ (s.endJobs n) := by
  induction n with
  | zero => exact fun hs => hs
  | succ n ih =>
    intro s hs
    unfold State.endJobs
    dsimp only
    split
    · exact hs.foldl fun _ _ hs => hs.runJob
    · exact ih (Steady.endJob (hs.foldl fun _ _ hs => hs.runJob))

theorem Steady.freeOwned {f : Nat} (hs : Steady w s₀ s) : Steady w s₀ (s.freeOwned f) :=
  hs.foldl fun _ _ hs => hs.foldl fun _ _ hs => hs.freePage

theorem Steady.freeStopped (hs : Steady w s₀ s) : Steady w s₀ s.freeStopped :=
  hs.foldl fun _ _ hs => .ite hs.freeOwned hs

theorem Steady.settleWork (hs : Steady w s₀ s) : Steady w s₀ s.settleWork := by
  unfold State.settleWork
  extract_lets fuel a b c
  have ha : Steady w s₀ a := hs.endJobs
  have hb : Steady w s₀ b := ha.freeRetired.recheckRoom
  have hc : Steady w s₀ c := hb.endJobs.endImports.keepLabels.freeStopped
  exact .ite hc.freeClosing hc

theorem Steady.workEnd (hs : Steady w s₀ s) : Steady w s₀ s.workEnd :=
  hs.settleWork.stepEnd

theorem Steady.close (hs : Steady w s₀ s) : Answers w s₀ (close s) :=
  hs.workEnd.next

theorem Steady.carry {op : BitVec 8} {open_ : Bool} {h : BitVec 32} {body : Live → State → State} (hs : Steady w s₀ s)
    (hbody : ∀ x0 t, Steady w s₀ t → Steady w s₀ (body x0 t)) :
    Answers w s₀ (carry op open_ h body s) :=
  hs.carryOut fun _ _ hs => (hbody _ _ hs).settleWork

theorem Steady.receiveWork {h : FrameHdr} {body : State → State} (hs : Steady w s₀ s)
    (hbody : ∀ t, Steady w s₀ t → Steady w s₀ (body t)) :
    Answers w s₀ (receiveWork h body s) :=
  hs.receive fun _ hs => (hbody _ hs).settleWork

end Sys2Proof.Proofs
end

section
/-!
Each operation of the model is steady, from `Machine/CylCmd` to `Machine/Remote`: one lemma for each, over the lemmas
of what it calls.
-/
namespace Sys2Proof.Proofs
open Sys2Proof.Machine
variable {w : Watch} {s₀ s t u : State}

/-! ### Operations of `Machine/CylCmd` -/

theorem Steady.refuseCheck {h : BitVec 32} {st : BitVec 16} {code loc : Nat} (hs : Steady w s₀ s) :
    Steady w s₀ (s.refuseCheck h st code loc) :=
  hs.onCyl.raiseCyl.complete

theorem Steady.execCylLoad {handle : BitVec 32} (hs : Steady w s₀ s) : Answers w s₀ (execCylLoad handle s) := by
  unfold Machine.execCylLoad
  refine hs.carry (fun l s hs1 => ?_)
  dsimp only
  split
  · exact hs1.complete
  · split
    · exact hs1.complete
    · split
      · exact hs1.complete
      · exact hs1.working

theorem Steady.cylFrames {id : BitVec 32} {ps : List (Option (List (BitVec 8)))} : ∀ {s : State} {i : Nat} {fs : List Nat},
    Steady w s₀ s → s.cylFrames id i ps = Option.some (fs, t) → Steady w s₀ t := by
  induction ps with
  | nil =>
    intro s i fs hs e
    cases e
    exact hs
  | cons p ps ih =>
    intro s i fs hs e
    unfold State.cylFrames at e
    split at e
    · cases e
    next h =>
      obtain ⟨r, hr, hrt⟩ := Option.map_eq_some_iff.1 e
      cases hrt
      exact ih ((hs.placePage fun _ => Mem.wf_writes _ _ _ rfl).of_snd h) hr

theorem placePage_cyl (s : State) (pref : Nat) (strict : Bool) (kind : BitVec 4) (id : BitVec 28) (index : Nat)
    (raw zero : Bool)
    (m : Mem) : (s.placePage pref strict kind id index raw zero m).2.cyl = s.cyl := by
  have spilled (c : Prop) [Decidable c] (s : State) : (if c then s else s.spilled).cyl = s.cyl := by
    split
    · rfl
    · unfold State.spilled State.raiseMem
      split <;> rfl
  unfold State.placePage
  split
  · rfl
  · exact (spilled _ _).trans rfl

/-- Frames of tier 1 change nothing of the cylinders. -/
theorem cylFrames_cyl {id : BitVec 32} {ps : List (Option (List (BitVec 8)))} : ∀ {s : State} {i : Nat} {fs : List Nat},
    s.cylFrames id i ps = Option.some (fs, t) → t.cyl = s.cyl := by
  induction ps with
  | nil =>
    intro s i fs e
    cases e
    rfl
  | cons p ps ih =>
    intro s i fs e
    unfold State.cylFrames at e
    split at e
    · cases e
    next h =>
      obtain ⟨r, hr, hrt⟩ := Option.map_eq_some_iff.1 e
      cases hrt
      rw [ih hr]
      exact (congrArg (·.2.cyl) h).symm.trans (placePage_cyl ..)

/-- A change of the known cylinders that is judged from the start. -/
theorem Steady.onCylFrom {g : Cylinder → Cylinder} (hs : Steady w s₀ s)
    (known : w.known = true → KnownBounded s₀.cyl.known → KnownBounded (g s.cyl).known) : Steady w s₀ (s.onCyl g) :=
  ⟨hs.queue, hs.host, hs.fwSram, hs.bytes, hs.fence, known⟩

/-- Where `CYL_LOAD` is not barred there is room for one more cylinder (R152). -/
theorem loadBar_room {l : Live} (e : s.loadBar l = none) : s.cyl.known.length < 8 := by
  unfold State.loadBar at e
  dsimp only at e
  split at e
  · cases e
  next h => exact Nat.lt_of_not_le fun full => h (.inl full)

/-- A cylinder of a new identity is known. -/
theorem Steady.addKnown {id : BitVec 32} {img : List (BitVec 8)} {fs : List Nat} (hs : Steady w s₀ t) (same : t.cyl = s.cyl)
    (room : s.cyl.known.length < 8) (absent : ¬ (s.cylById id).isSome = true) :
    Steady w s₀ (t.onCyl fun y => { y with known := y.known ++
      [{ KnownCyl.reset with id := id, image := img, frames := fs }] }) := by
  refine hs.onCyl fun _ h => h.append (same ▸ room) (fun x hx e => absent ?_) rfl
  exact List.find?_isSome.2 ⟨x, same ▸ hx, decide_eq_true e⟩

theorem Steady.execCylLoadChecked {handle : BitVec 32} (hs : Steady w s₀ s) :
    Answers w s₀ (execCylLoadChecked handle s) := by
  unfold Machine.execCylLoadChecked
  split
  · exact hs.next
  · refine .ite hs.next (Steady.close ?_)
    split
    · exact hs.complete
    · exact hs.complete
    · exact hs.noteRead.refuseCheck
    next bar _ =>
      split
      · exact hs.refuseCheck
      · refine Steady.ite_of (fun _ => hs.complete) fun absent => ?_
        split
        · exact hs.drawn.complete
        next e => exact ((hs.cylFrames e).addKnown (cylFrames_cyl e) (loadBar_room bar) absent).complete

/-- A known cylinder changes. -/
theorem Steady.onKnown {id : BitVec 32} {g : KnownCyl → KnownCyl} (hs : Steady w s₀ s)
    (known : w.known = true → KnownBounded s₀.cyl.known → KnownBounded
      (s.cyl.known.map fun k => if k.id = id then g k else k)) :
    Steady w s₀ (s.onKnown id g) :=
  hs.onCylFrom known

theorem Steady.unallocate {id : BitVec 32} (hs : Steady w s₀ s) : Steady w s₀ (s.unallocate id) := by
  unfold State.unallocate
  split
  · exact hs
  next k _ =>
    have hf : Steady w s₀ (k.allocated.foldl (fun s f => s.freeSlotAt 1 f) s) := hs.foldl fun _ _ hs => hs.freeSlotAt
    exact hf.onKnown fun hw h0 => (hf.known hw h0).toLoaded (labels_relabel fun _ => rfl)

/-- The cylinder that holds a state is `LOADED` again, and no other holds it. -/
theorem unallocate_free {st : CylStatus} {o : KnownCyl} (hst : st ≠ .loaded) (held : s.cylOf st = Option.some o)
    (one : (labels s.cyl.known).countP (fun x => decide (x.2 = st)) ≤ 1) :
    ∀ x ∈ labels (s.unallocate o.id).cyl.known, x.2 ≠ st := by
  have mem : o ∈ s.cyl.known := List.mem_of_find?_eq_some held
  have status : o.status = st := by simpa using List.find?_some held
  unfold State.unallocate
  split
  next h =>
    exact absurd (List.find?_isSome.2 ⟨o, mem, decide_eq_true rfl⟩) (by rw [show s.cyl.known.find? _ = none from h]; simp)
  next k _ =>
    have frames : (k.allocated.foldl (fun s f => s.freeSlotAt 1 f) s).cyl = s.cyl :=
      List.foldlRecOn (motive := fun (t : State) => t.cyl = s.cyl) _ _ rfl fun t ht _ _ => ht
    show ∀ x ∈ labels ((k.allocated.foldl (fun s f => s.freeSlotAt 1 f) s).cyl.known.map _), x.2 ≠ st
    rw [labels_relabel (st := .loaded) fun _ => rfl, frames]
    exact free_of_toLoaded (List.mem_map.2 ⟨o, mem, by rw [status]⟩) one hst

/-- Where no cylinder holds a state. -/
theorem cylOf_free {st : CylStatus} (none_ : s.cylOf st = none) : ∀ x ∈ labels s.cyl.known, x.2 ≠ st := by
  intro x hx e
  obtain ⟨k, hk, rfl⟩ := List.mem_map.1 hx
  exact absurd e (by simpa using List.find?_eq_none.1 none_ k hk)

/-- Frames are found and the cylinder is `VERIFIED`, where no other is. -/
theorem Steady.allocateCyl {k : KnownCyl} (hs : Steady w s₀ s)
    (free : w.known = true → KnownBounded s₀.cyl.known → ∀ x ∈ labels s.cyl.known, x.2 ≠ .verified) :
    Yields w s₀ (s.allocateCyl k) := by
  intro t e
  unfold State.allocateCyl at e
  extract_lets zeros windows r at e
  have hr {ws : List (Nat × List Nat)} {u : State} (hu : r = Option.some (ws, u)) : Steady w s₀ u ∧ u.cyl = s.cyl := by
    have all := List.foldlRecOn (motive := fun (o : Option (List (Nat × List Nat) × State)) =>
        ∀ p, o = Option.some p → Steady w s₀ p.2 ∧ p.2.cyl = s.cyl) windows
      (fun (r : Option (List (Nat × List Nat) × State)) x => r.bind fun (ws, s) =>
        (s.cylFrames k.id (512 * (x.addr + 1)) (zeros (x.len / pageBytes))).map fun y => (ws ++ [(x.addr, y.1)], y.2))
      (b := Option.some ([], s)) (fun p hp => by cases hp; exact ⟨hs, rfl⟩) (fun o ho x _ p hp => by
        obtain ⟨q, hq, hp⟩ := Option.bind_eq_some_iff.1 hp
        obtain ⟨y, hy, rfl⟩ := Option.map_eq_some_iff.1 hp
        obtain ⟨steady, same⟩ := ho q hq
        exact ⟨steady.cylFrames hy, (cylFrames_cyl hy).trans same⟩)
    exact all _ hu
  obtain ⟨⟨ws, u⟩, hu, e⟩ := Option.bind_eq_some_iff.1 e
  obtain ⟨y, hy, rfl⟩ := Option.map_eq_some_iff.1 e
  obtain ⟨steady, same⟩ := hr hu
  have hy' := steady.cylFrames hy
  refine hy'.onKnown fun hw h0 => (hy'.known hw h0).toState (st := .verified) (labels_relabel fun _ => rfl) ?_
  rw [cylFrames_cyl hy, same]
  exact free hw h0

theorem Steady.giveWay (hs : Steady w s₀ s) : Steady w s₀ s.giveWay := by
  unfold State.giveWay
  split
  · exact hs
  · exact hs.unallocate.onCyl.completeOpt

theorem complete_cyl (h : BitVec 32) (status : BitVec 16) (detail : BitVec 32) (s : State) :
    (s.complete h status detail).cyl = s.cyl := by
  have record (f q : Nat) (tag h : BitVec 32) (st : BitVec 16) (k : BitVec 8) (d : BitVec 32) (s : State) :
      (s.putRecord f q tag h st k d).cyl = s.cyl := by
    unfold State.putRecord
    dsimp only
    split
    · unfold State.hostWrite
      split <;> rfl
    · rfl
  have vector (c : Prop) [Decidable c] (g : Nat) (s : State) : (if c then s.vectorEvent g else s).cyl = s.cyl := by
    split
    · exact congrArg (·.cyl) (quiet_vectorEvent g s).kept
    · rfl
  unfold State.complete
  split
  · rfl
  · dsimp only
    split
    · rfl
    · exact (vector _ _ _).trans (record ..)

theorem completeOpt_cyl (h : Option (BitVec 32)) (status : BitVec 16) (detail : BitVec 32) (s : State) :
    (s.completeOpt h status detail).cyl = s.cyl := by
  cases h with
  | none => rfl
  | some h => exact complete_cyl ..

/-- Once another has given way none is `VERIFIED` (R153). -/
theorem giveWay_free (h : KnownBounded s.cyl.known) : ∀ x ∈ labels s.giveWay.cyl.known, x.2 ≠ .verified := by
  unfold State.giveWay
  split
  next e => exact cylOf_free e
  next e =>
    rw [completeOpt_cyl]
    exact unallocate_free (by decide) e ((knownBounded_iff _).1 h).2.2.1

theorem Steady.execCylVerify {handle : BitVec 32} (hs : Steady w s₀ s) : Answers w s₀ (execCylVerify handle s) := by
  unfold Machine.execCylVerify
  refine hs.carry fun l s hs => ?_
  dsimp only
  split
  · exact hs.complete
  · refine .ite hs.complete (.ite hs.complete (.ite hs.complete ?_))
    split
    · exact .ite hs.onCyl.working hs.refuseCheck
    · refine .ite hs.onCyl.working ?_
      split
      · exact hs.drawn.refuseCheck
      next e =>
        have free (hw : w.known = true) (h0 : KnownBounded s₀.cyl.known) := giveWay_free (hs.known hw h0)
        exact (hs.giveWay.allocateCyl free _ e).onCyl.working

theorem Steady.loadBank {bank : Bool} {img : List (BitVec 8)} (hs : Steady w s₀ s) : Steady w s₀ (s.loadBank bank img) := by
  refine hs.foldl fun _ _ hs => hs.onCellSame ?_
  split <;> rfl

theorem Steady.execStagingComplete {cycles : Nat} (hs : Steady w s₀ s) : Answers w s₀ (execStagingComplete cycles s) := by
  unfold Machine.execStagingComplete
  split
  · exact hs.next
  · split
    · exact hs.next
    · extract_lets u x
      have hu : Steady w s₀ u := hs.loadBank
      clear_value u
      have hx : Steady w s₀ x := hu.onCyl
      exact .ite hs.next hx.raiseCyl.completeOpt.close

theorem Steady.release {handle : BitVec 32} (hs : Steady w s₀ s) : Steady w s₀ (s.release handle) :=
  hs.onCyl.completeOpt.complete

theorem Steady.execDrain {handle : BitVec 32} (hs : Steady w s₀ s) : Answers w s₀ (execDrain handle s) :=
  hs.carry fun _ _ hs => .ite hs.complete
    (.ite (.ite hs.complete (.ite hs.release hs.atBoundary)) (.ite hs.complete (.ite hs.onCyl.complete hs.onCyl.working)))

/-- Every listed cell changes, its SRAM as before. -/
theorem CellsWf.mapVals {cells : SMap Cell} {g : Cell → Cell} (h : CellsWf cells) (hg : ∀ c, (g c).sram = c.sram) :
    CellsWf (Sparse.mapVals Cell.reset g cells) := by
  intro x hx
  obtain ⟨y, hy, rfl⟩ := List.mem_map.1 (List.mem_filter.1 hx).1
  show Mem.wf (g y.2).sram = true
  rw [hg]
  exact h y hy

theorem Steady.startTrackers {img : List (BitVec 8)} (hs : Steady w s₀ s) : Steady w s₀ (s.startTrackers img) :=
  (hs.onGrid fun h => h.mapVals (g := fun c => { c with trackers := [] }) fun _ => rfl).foldl fun _ _ hs => hs.onCell

theorem Steady.discardEpoch (hs : Steady w s₀ s) : Steady w s₀ s.discardEpoch :=
  hs.onGrid.onFab.onSrv.orElse (·.onCyl.raiseCyl)

/-- The active cylinder is `LOADED` again, where there is one. -/
theorem Steady.unallocateOf {o : Option KnownCyl} (hs : Steady w s₀ s) :
    Steady w s₀ (match o with | Option.some o => s.unallocate o.id | none => s) := by
  cases o with
  | none => exact hs
  | some o => exact hs.unallocate

/-- Then none is `ACTIVE`. -/
theorem unallocateOf_free (h : KnownBounded s.cyl.known) :
    ∀ x ∈ labels (match s.cylOf .active with | Option.some o => s.unallocate o.id | none => s).cyl.known, x.2 ≠ .active := by
  cases e : s.cylOf .active with
  | none => exact cylOf_free e
  | some o => exact unallocate_free (by decide) e ((knownBounded_iff _).1 h).2.2.2

theorem Steady.switchTo {k : KnownCyl} (hs : Steady w s₀ s) : Steady w s₀ (s.switchTo k) := by
  have hu := hs.unallocateOf (o := s.cylOf .active)
  refine Steady.unserved (Steady.raiseCyl (Steady.discardEpoch (Steady.startTrackers (Steady.onCyl ?_))))
  exact hu.onKnown fun hw h0 =>
    (hu.known hw h0).toState (st := .active) (labels_relabel fun _ => rfl) (unallocateOf_free (hs.known hw h0))

theorem Steady.trySwitch {p : PendSwitch} (hs : Steady w s₀ s) : Steady w s₀ (s.trySwitch p).2 := by
  unfold State.trySwitch
  split
  · exact hs
  · split
    · exact hs.unallocate.onCyl.refuseCheck
    · exact hs.switchTo

theorem Steady.execCylSwitch {handle : BitVec 32} (hs : Steady w s₀ s) : Answers w s₀ (execCylSwitch handle s) :=
  hs.carry fun _ _ hs => .ite hs.complete
    (.ite hs.complete (.ite hs.complete
    (.ite hs.complete (.ite (hs.working.trySwitch.andThen (·.onCyl)) hs.working.onCyl))))

theorem Steady.execCylUnload {handle : BitVec 32} (hs : Steady w s₀ s) : Answers w s₀ (execCylUnload handle s) := by
  unfold Machine.execCylUnload
  refine hs.carry fun l s hs => ?_
  split
  · exact hs.complete
  · refine .ite hs.complete (Steady.complete (Steady.onCyl ?_ fun _ h => h.sublist List.filter_sublist))
    exact hs.foldl fun _ _ hs => hs.freeSlotAt

/-- Bytes are written to the SRAM of a cell. -/
theorem Steady.cellWrite {k a : Nat} {bs : List (BitVec 8)} {poison : Bool} (hs : Steady w s₀ s) :
    Steady w s₀ (s.onCell k (Cell.sramWrite a bs poison)) :=
  hs.onCell fun h => sramWrite_wf _ _ _ _ h

theorem Steady.writeResident {img : List (BitVec 8)} {b : Buffer} (hs : Steady w s₀ s) :
    Steady w s₀ (s.writeResident img b) := by
  unfold State.writeResident
  split
  · exact hs.cellWrite
  · exact hs.cellWrite

theorem Steady.putTable {b : Buffer} {o : Nat} (hs : Steady w s₀ s) : Steady w s₀ (s.putTable b o) :=
  hs.cellWrite.putMirror

theorem Steady.startCarried {x : Buffer × Nat} (hs : Steady w s₀ s) : Steady w s₀ (s.startCarried x) :=
  .ite hs.putTable hs.cellWrite.putMirror

theorem Steady.fillCells (hs : Steady w s₀ s) : Steady w s₀ s.fillCells :=
  (hs.foldl fun _ _ hs => hs.writeResident).foldl fun _ _ hs => hs.startCarried

theorem Steady.execSwitchFillStart (hs : Steady w s₀ s) : Answers w s₀ (execSwitchFillStart s) :=
  .ite hs.onCyl.finish hs.next

theorem Steady.execSwitchFillDone {cycles : Nat} (hs : Steady w s₀ s) : Answers w s₀ (execSwitchFillDone cycles s) :=
  .ite hs.fillCells.onCyl.raiseCyl.completeOpt.close hs.next

/-! ### Operations of `Machine/Fabric` -/

theorem Steady.setIn {o : InStream} (hs : Steady w s₀ s) : Steady w s₀ (s.setIn o) :=
  hs.onFab

theorem Steady.landStreamFlit {e : EdgeDecl} {cycle : Nat} {d : BitVec 1024} {fin : Bool} (hs : Steady w s₀ s) :
    Steady w s₀ (s.landStreamFlit e cycle d fin) :=
  hs.sramStore.setIn.andThen (·.onCell.tileLanded)

theorem Steady.landFrame {e : EdgeDecl} {cycle : Nat} {f : OutFrame} (hs : Steady w s₀ s) :
    Steady w s₀ (s.landFrame e cycle f) :=
  ((hs.foldl fun _ _ hs => hs.onCell).foldl fun _ _ hs => hs.landStreamFlit).setIn

theorem Steady.landReady {e : EdgeDecl} {n : Nat} : ∀ {s : State} {cycle : Nat}, Steady w s₀ s →
    Steady w s₀ (s.landReady e cycle n) := by
  induction n with
  | zero => exact fun hs => hs
  | succ n ih =>
    intro s cycle hs
    unfold State.landReady
    dsimp only
    split
    · exact hs
    · exact ih hs.setIn.landFrame

theorem Steady.takeFrame {e : EdgeDecl} {h : FrameHdr} {cycle : Nat} {flits : List (BitVec 1024)} (hs : Steady w s₀ s) :
    Steady w s₀ (s.takeFrame e h cycle flits) :=
  .ite hs hs.setIn.landReady

theorem Steady.execDataFrame {hdr : FrameHdr} {cycle : Nat} {flits : List (BitVec 1024)} (hs : Steady w s₀ s) :
    Answers w s₀ (execDataFrame hdr cycle flits s) := by
  unfold Machine.execDataFrame
  refine hs.receive (fun s hs1 => ?_)
  split
  · exact hs1.onCyl.raiseCyl
  · split
    · exact hs1
    · exact Steady.ite hs1.at_.settleAll.takeFrame hs1

theorem Steady.landTiles {e : EdgeDecl} {at_ : Nat → Nat} {n : Nat} : ∀ {s : State} {o : Nat} {bs : List (BitVec 8)},
    Steady w s₀ s → Steady w s₀ (s.landTiles e at_ n o bs) := by
  induction n with
  | zero => exact fun hs => hs
  | succ n ih => exact fun hs => .ite hs (.ite (ih hs.cellSignal.tileLanded) hs.cellSignal.tileLanded)

theorem Steady.landTier2 {e : EdgeDecl} (hs : Steady w s₀ s) : Steady w s₀ (s.landTier2 e) := by
  unfold State.landTier2
  extract_lets flits at_ u put
  have hput (bs : List (BitVec 8)) (bad : Bool) : Steady w s₀ (put bs bad u) :=
    hs.settleAll.foldl fun _ _ hs => .ite hs.sramStore hs
  split
  · exact (hput _ _).tileLanded
  · exact (hput _ _).landTiles

theorem Steady.streamEnd {e : EdgeDecl} (hs : Steady w s₀ s) : Steady w s₀ (s.streamEnd e) :=
  .ite hs (.ite (hs.setIn.orElse (·.onFab.voidWith)) (.ite hs.setIn.landTier2 hs))

theorem Steady.execStreamWindowEnd {stream : Nat} (hs : Steady w s₀ s) : Answers w s₀ (execStreamWindowEnd stream s) := by
  unfold Machine.execStreamWindowEnd
  split
  · exact hs.next
  · exact .ite hs.streamEnd.finish hs.next

theorem Steady.execSlotTransmit {port tick : Nat} (hs : Steady w s₀ s) : Answers w s₀ (execSlotTransmit port tick s) := by
  unfold Machine.execSlotTransmit
  dsimp only
  split
  · exact hs.at_.finish
  · split
    · exact hs.at_.onPort.departData.finish
    · split
      · exact hs.at_.onPort.departMsg.finish
      · exact hs.at_.onPort.finish

theorem Steady.execVerdictFrame {hdr : FrameHdr} {body : VerdictBody} (hs : Steady w s₀ s) :
    Answers w s₀ (execVerdictFrame hdr body s) :=
  hs.receive fun _ hs => .ite hs (.ite (hs.onFab.orElse (·.raiseHlt.withdraw)) (hs.onFab.orElse (·.onStep)))

theorem Steady.execLeaveNotice {hdr : FrameHdr} {cause : BitVec 8} {lastStep : BitVec 64} (hs : Steady w s₀ s) :
    Answers w s₀ (execLeaveNotice hdr cause lastStep s) :=
  hs.receiveWork fun _ hs => (Steady.ite hs.raiseFab.onHlt hs.raiseFab).resolvePeer

theorem Steady.portLost {p : Nat} (hs : Steady w s₀ s) : Steady w s₀ (s.portLost p) :=
  .ite hs.raiseFab.onFab hs

theorem Steady.retrainDone (hs : Steady w s₀ s) : Steady w s₀ s.retrainDone :=
  hs.onFab.foldl fun _ _ hs => hs.complete

theorem Steady.portRises {p width : Nat} {lanes : BitVec 8} (hs : Steady w s₀ s) :
    Steady w s₀ (s.portRises p width lanes) :=
  hs.onPort.raiseFab

theorem Steady.portFails {p : Nat} (hs : Steady w s₀ s) : Steady w s₀ (s.portFails p) :=
  hs.onPort.raiseFab

theorem Steady.execPortStateDone {port : Nat} {good : BitVec 8} (hs : Steady w s₀ s) :
    Answers w s₀ (execPortStateDone port good s) := by
  unfold Machine.execPortStateDone
  dsimp only
  split
  · exact (Steady.ite hs.onPort hs).finish
  · exact .ite hs.finish hs.onPort.sendMsg.finish
  · exact .ite hs.portRises.retrainDone.finish hs.finish
  · split
    · exact hs.onPort.portRises.raiseFab.retrainDone.finish
    · exact hs.onPort.portFails.retrainDone.finish
  · exact hs.finish

theorem Steady.execPortStateTimeout {port : Nat} {miss : TrainMiss} (hs : Steady w s₀ s) :
    Answers w s₀ (execPortStateTimeout port miss s) :=
  .ite (.ite hs.at_.onPort.portFails.retrainDone.finish hs.at_.onPort.onPort.finish) hs.at_.finish

theorem Steady.execPortRetryTimer {port tick : Nat} (hs : Steady w s₀ s) :
    Answers w s₀ (execPortRetryTimer port tick s) :=
  .ite hs.at_.onPort.finish hs.at_.finish

theorem Steady.identified {port : Nat} {plane : BitVec 8} {switchPort : BitVec 16} (hs : Steady w s₀ s) :
    Steady w s₀ (s.identified port plane switchPort) :=
  .ite hs (.ite hs.onPort.onPort.raiseFab.retrainDone (hs.onPort.onPort.foldl fun _ _ hs => hs.sendMsg))

theorem Steady.execIdentFrame {hdr : FrameHdr} {plane : BitVec 8} {switchPort : BitVec 16} (hs : Steady w s₀ s) :
    Answers w s₀ (execIdentFrame hdr plane switchPort s) :=
  hs.receiveIf fun _ hs => hs.identified

theorem Steady.echoed {port : Nat} {trip : Int} (hs : Steady w s₀ s) : Steady w s₀ (s.echoed port trip) :=
  .ite hs (hs.onPort.orElse fun hs => (hs.orElse (·.drawn)).onPort)

theorem Steady.execEchoFrame {hdr : FrameHdr} {departure arrival turnaround : Nat} (hs : Steady w s₀ s) :
    Answers w s₀ (execEchoFrame hdr departure arrival turnaround s) :=
  hs.receiveIf fun _ hs => hs.echoed

theorem Steady.execLaneFailure {port : Nat} {fault : LaneFault} (hs : Steady w s₀ s) :
    Answers w s₀ (execLaneFailure port fault s) :=
  .ite (hs.onPort.portLost.onPort.share fun hs => .ite hs.finish hs.portFails.retrainDone.finish)
    (.ite hs.onPort.onPort.finish hs.onPort.finish)

theorem Steady.execLinkStatus {handle : BitVec 32} (hs : Steady w s₀ s) : Answers w s₀ (execLinkStatus handle s) := by
  unfold Machine.execLinkStatus
  refine hs.carry (fun l s hs1 => ?_)
  split
  · exact hs1.hostWrite.onFab.complete
  · split
    · exact hs1.complete
    · exact (hs1.foldl (fun _ _ hs5 => (Steady.ite hs5.portLost.onPort hs5))).working.onFab.retrainDone
  · exact Steady.ite hs1.complete hs1.complete

theorem Steady.execRouteSet {handle : BitVec 32} (hs : Steady w s₀ s) : Answers w s₀ (execRouteSet handle s) := by
  unfold Machine.execRouteSet
  refine hs.carry (fun l s hs1 => ?_)
  dsimp only
  split
  · exact hs1.complete
  · split
    · exact hs1.complete
    · split
      · exact hs1.complete
      · exact hs1.onFab.complete

theorem Steady.execPlaneMask {handle : BitVec 32} (hs : Steady w s₀ s) : Answers w s₀ (execPlaneMask handle s) :=
  hs.carry fun _ _ hs => .ite hs.complete (.ite hs.complete (.ite hs.onFab.complete hs.atBoundary))

theorem Steady.takeMasks (hs : Steady w s₀ s) : Steady w s₀ s.takeMasks := by
  unfold State.takeMasks
  refine hs.foldl (fun s h hs1 => ?_)
  split
  · exact hs1
  · exact hs1.working.onFab

theorem Steady.masksDone (hs : Steady w s₀ s) : Steady w s₀ s.masksDone :=
  hs.onFab.foldl fun _ _ hs => hs.due

theorem Steady.restripe (hs : Steady w s₀ s) : Steady w s₀ s.restripe :=
  hs.onFab.orElse (·.raiseFab)

theorem Steady.fabricShort (hs : Steady w s₀ s) : Steady w s₀ s.fabricShort :=
  .ite hs.sendLeave.raiseFab.onHlt hs

/-! ### Operations of `Machine/Stop` -/

theorem Steady.stopCells (hs : Steady w s₀ s) : Steady w s₀ s.stopCells :=
  hs.onStep

theorem Steady.halt {cause leave : BitVec 8} {records : Bool} (hs : Steady w s₀ s) :
    Steady w s₀ (s.halt cause leave records) := by
  unfold State.halt
  extract_lets u x y
  have hu : Steady w s₀ u := hs.stopCells.sendLeave
  have hx : Steady w s₀ x := .ite hu.completeAll hu
  exact .ite hs hx.onHlt.raiseHlt.onPins

theorem Steady.voted {α : Type} {r : Option (α × Bool)} {set : α → State → State} {count : State → State}
    (hs : Steady w s₀ s)
    (hset : ∀ x0 t, Steady w s₀ t → Steady w s₀ (set x0 t))
    (hcount : ∀ t, Steady w s₀ t → Steady w s₀ (count t)) :
    Steady w s₀ (s.voted r set count) := by
  unfold State.voted
  split
  · exact hs.halt
  · exact hcount _ (hset _ _ hs)
  · exact hs

theorem Steady.sysFixed (hs : Steady w s₀ s) : Steady w s₀ s.sysFixed :=
  hs.onSys.raiseSys

theorem Steady.gridFixed (hs : Steady w s₀ s) : Steady w s₀ s.gridFixed :=
  hs.onGrid.raiseGrid

/-- A majority is the value of a copy. -/
theorem vote3_mem {α : Type} [DecidableEq α] {a b c v : α} {d : Bool} (e : vote3 a b c = Option.some (v, d)) : v = a ∨ v =
    b := by
  unfold vote3 at e
  split at e
  · cases e
    exact .inl rfl
  · split at e
    · cases e
      exact .inl rfl
    · split at e
      · cases e
        exact .inr rfl
      · cases e

/-- An entry of a map, or the reset one. -/
theorem legalEntry_getD {es : List (BitVec 6)} (h : ∀ e ∈ es, LegalEntry e) (i : Nat) : LegalEntry (es.getD i 0x3F) := by
  rw [List.getD_eq_getElem?_getD]
  cases he : es[i]? with
  | none => exact .inr rfl
  | some e => exact h e (List.mem_of_getElem? he)

theorem legalEntry_set {es : List (BitVec 6)} (h : ∀ e ∈ es, LegalEntry e) {i : Nat} {v : BitVec 6} (hv : LegalEntry v) :
    ∀ e ∈ es.set i v, LegalEntry e := fun e he =>
  (List.mem_or_eq_of_mem_set he).elim (h e) fun e' => e' ▸ hv

/-- A legal entry in every copy of a row. -/
theorem LegalFence.set {m : VotedMap} (h : LegalFence m) {i : Nat} {v : BitVec 6} (hv : LegalEntry v) :
    LegalFence ⟨m.a.set i v, m.b.set i v, m.c.set i v⟩ := by
  obtain ⟨a, b, c⟩ := h
  exact ⟨legalEntry_set a hv, legalEntry_set b hv, legalEntry_set c hv⟩

theorem Steady.voteFence (hs : Steady w s₀ s) : Steady w s₀ s.voteFence := by
  refine hs.foldl fun s i hs => ?_
  dsimp only
  unfold State.voted
  split
  · exact hs.halt
  next v e =>
    refine Steady.gridFixed (hs.onGrid (fence := fun _ h => h.set ?_))
    obtain ⟨a, b, -⟩ := h
    obtain rfl | rfl := vote3_mem e
    · exact legalEntry_getD a i
    · exact legalEntry_getD b i
  · exact hs

theorem Steady.voteField {n : Nat} {runs : Bool} {get : State → Voted n} {set : Voted n → State → State} (hs : Steady w s₀ s)
    (hset : ∀ x0 t, Steady w s₀ t → Steady w s₀ (set x0 t)) :
    Steady w s₀ (s.voteField runs get set) :=
  .ite hs (hs.voted (fun _ _ hs => hset _ _ hs) fun _ hs => hs.sysFixed)

theorem Steady.voteAll (hs : Steady w s₀ s) : Steady w s₀ s.voteAll := by
  unfold State.voteAll
  refine Steady.voteField ?_ fun _ _ hs => hs.onSys
  refine Steady.voteField ?_ fun _ _ hs => hs.onPwr
  refine Steady.voteField ?_ fun _ _ hs => hs.onPwr
  refine Steady.voteField ?_ fun _ _ hs => hs.onFab
  refine Steady.voteField ?_ fun _ _ hs => hs.onCad
  refine Steady.voteField ?_ fun _ _ hs => hs.onCad
  exact .ite hs.voteFence hs

/-- An upset may leave any entry in the fence map. -/
theorem Steady.upset {u : Upset} (unwatched : w.fence = false) (hs : Steady w s₀ s) : Steady w s₀ (s.upset u) := by
  unfold State.upset
  split
  · exact hs.onGrid (fence := fun watched => absurd watched (by simp [unwatched]))
  · exact hs.onCad
  · exact hs.onCad
  · exact hs.onFab
  · exact hs.onPwr
  · exact hs.onPwr
  · exact hs.onSys

theorem Steady.execVoteScan {upsets : List Upset} (unwatched : w.fence = false) (hs : Steady w s₀ s) :
    Answers w s₀ (execVoteScan upsets s) :=
  (hs.foldl fun _ _ hs => hs.upset unwatched).voteAll.finish

theorem Steady.resolveMoves (hs : Steady w s₀ s) : Steady w s₀ s.resolveMoves :=
  (hs.foldl fun _ _ hs => hs.sourceBack.freeSlotAt).foldl fun _ _ hs => hs.resolveRemote

theorem Steady.enterReset {cause : BitVec 4} {retain : Bool} (hs : Steady w s₀ s) :
    Steady w s₀ (s.enterReset cause retain) := by
  have hr : Steady w s₀ s.resolveMoves := hs.resolveMoves
  unfold State.enterReset
  refine ⟨hr.queue, hr.host, fun _ => rfl, fun h0 => ?_, fun _ _ => ?_, fun _ _ => ?_⟩
  · obtain ⟨⟨⟨t1, t2, t3⟩, -⟩, -, models, saved⟩ := hr.bytes h0
    refine ⟨⟨⟨rfl, ?_, t3⟩, fun _ h => absurd h List.not_mem_nil⟩, fun _ h => absurd h List.not_mem_nil,
      fun _ h => absurd h List.not_mem_nil, ?_⟩
    · dsimp only
      split
      · exact t2
      · rfl
    · dsimp only
      split
      · split
        · exact saved
        · exact TilesWf.map models
      · exact fun _ h => absurd h List.not_mem_nil
  · refine ⟨?_, ?_, ?_⟩ <;> exact fun e h => .inr (List.eq_of_mem_replicate h)
  · exact ⟨Nat.zero_le _, List.nodup_nil, Nat.zero_le _, Nat.zero_le _⟩

theorem Steady.leaveToReset (hs : Steady w s₀ s) : Steady w s₀ s.leaveToReset :=
  .ite hs hs.sendLeave.lastNotices

theorem Steady.requestReset {cause : BitVec 4} {retain : Bool} (hs : Steady w s₀ s) :
    Steady w s₀ (s.requestReset cause retain) :=
  hs.leaveToReset.enterReset

/-! ### Operations of `Machine/PowerOps` -/

theorem Steady.tunePll (hs : Steady w s₀ s) : Steady w s₀ s.tunePll :=
  .ite hs hs.onPwr

theorem Steady.commandVolts {op : BitVec 3} (hs : Steady w s₀ s) : Steady w s₀ (s.commandVolts op) :=
  hs.onPwr

theorem Steady.cancelCal {reason : BitVec 32} (hs : Steady w s₀ s) : Steady w s₀ (s.cancelCal reason) := by
  unfold State.cancelCal
  split
  · exact hs
  · exact hs.onPwr.onStore.raisePwr.complete.tunePll

theorem Steady.applyEntries {c : CalRun} (hs : Steady w s₀ s) : Steady w s₀ (s.applyEntries c) := by
  unfold State.applyEntries
  exact hs.onPwr

theorem Steady.endCal (hs : Steady w s₀ s) : Steady w s₀ s.endCal :=
  hs.onPwr.tunePll

theorem Steady.switchPll {op : BitVec 3} (hs : Steady w s₀ s) : Steady w s₀ (s.switchPll op) :=
  hs.onPwr.raisePwr.cancelCal.tunePll

theorem Steady.vrFault {west east : Bool} (hs : Steady w s₀ s) : Steady w s₀ (s.vrFault west east) :=
  hs.onPwr.raisePwr.commandVolts

theorem Steady.sequenceTransition {west east : Bool} (hs : Steady w s₀ s) :
    Steady w s₀ (s.sequenceTransition west east) := by
  unfold State.sequenceTransition
  split
  · exact hs
  · split
    · exact hs.onPwr.commandVolts
    · exact .ite (.ite hs.onPwr.switchPll hs) (.ite hs.vrFault hs)

theorem Steady.sequence {west east : Bool} (hs : Steady w s₀ s) : Steady w s₀ (s.sequence west east) :=
  .ite hs.sequenceTransition
    (.ite hs.sequenceTransition.switchPll.commandVolts (hs.sequenceTransition.andThen (·.onPwr.commandVolts)))

theorem Steady.writeOpReq {v : BitVec 32} (hs : Steady w s₀ s) : Steady w s₀ (s.writeOpReq v) :=
  Steady.ite hs.onPwr hs.onPwr.tunePll

theorem Steady.writeOpLimits {v : BitVec 32} (hs : Steady w s₀ s) : Steady w s₀ (s.writeOpLimits v) :=
  .ite hs.raisePwr hs.onPwr.tunePll

theorem Steady.writeTherm {v : BitVec 32} (hs : Steady w s₀ s) : Steady w s₀ (s.writeTherm v) := by
  unfold State.writeTherm
  exact hs.onPwr

/-! ### Operations of `Machine/Remote` -/

theorem Steady.historyEnd {n : Nat} {h : BitVec 32} {done : Bool} (hs : Steady w s₀ s) :
    Steady w s₀ (s.historyEnd n h done) :=
  hs.onCtx

end Sys2Proof.Proofs
end

section
/-!
Each operation of the model is steady, from `Machine/RegOps` to `Machine/FuncCmd`: one lemma for each, over the lemmas
of what it calls.
-/
namespace Sys2Proof.Proofs
open Sys2Proof.Machine
variable {w : Watch} {s₀ s t u : State}

/-! ### Operations of `Machine/RegOps` -/

theorem Steady.claim {t : Nat} (hs : Steady w s₀ s) : Steady w s₀ (s.claim t).2 := by
  have changed (f : Ic → Ic) : Steady w s₀ (s.icChange f) := hs.icChange
  unfold State.claim
  extract_lets ic n notice clear u c
  have hu : Steady w s₀ u := changed _
  clear_value u
  split
  · dsimp only
    exact changed _
  · split
    · exact hu
    · split
      · exact hu
      · split
        · exact hu
        · exact hu

theorem Steady.mailTaken (hs : Steady w s₀ s) : Steady w s₀ s.mailTaken :=
  hs.onFreeCount.onPins.signal

theorem Steady.endService {t n : Nat} (hs : Steady w s₀ s) : Steady w s₀ (s.endService t n) :=
  (Steady.ite hs.mailTaken hs).share fun hs => .ite (hs.icChange.andThen (·.asserted)) hs.onIc.raiseIc

theorem Steady.doorbell {n : Nat} (hs : Steady w s₀ s) : Steady w s₀ (s.doorbell n) :=
  .ite hs hs.icChange.asserted

theorem Steady.pendRead {n : Nat} (hs : Steady w s₀ s) : Steady w s₀ (s.pendRead n) :=
  hs.foldl fun _ _ hs => hs.icChange.andThen (·.icChange.asserted)

theorem Steady.writeSrcCfg {n : Nat} {v : BitVec 32} (hs : Steady w s₀ s) : Steady w s₀ (s.writeSrcCfg n v) :=
  hs.icChange.andThen (·.asserted)

theorem Steady.unmaskVector {g : Nat} (hs : Steady w s₀ s) : Steady w s₀ (s.unmaskVector g) :=
  hs.onIc.andThen (·.sendVector)

theorem Steady.msixControl {f : BitVec 4} {c : MsixControl} (hs : Steady w s₀ s) : Steady w s₀ (s.msixControl f c) :=
  hs.onIc.andThen fun hs => hs.foldl fun _ _ hs => .ite hs.sendVector hs

theorem Steady.writeMsix {base o : Nat} {v : BitVec 32} (hs : Steady w s₀ s) : Steady w s₀ (s.writeMsix base o v) := by
  unfold State.writeMsix
  dsimp only
  split
  · exact hs.onIc
  · exact hs.onIc
  · exact hs.onIc
  · exact .ite hs.onIc (.ite hs.unmaskVector hs)

theorem Steady.onCh {c : Nat} {g : DmaCh → DmaCh} (hs : Steady w s₀ s) : Steady w s₀ (s.onCh c g) :=
  hs.onDma

theorem Steady.dmaLeave {c : Nat} {st : BitVec 3} {code : BitVec 4} (hs : Steady w s₀ s) :
    Steady w s₀ (s.dmaLeave c st code) :=
  hs.onCh.onDma.andThen (·.pulse)

theorem Steady.dmaStop {c : Nat} {st : BitVec 3} {code : BitVec 4} {addr : Option (BitVec 64)} (hs : Steady w s₀ s) :
    Steady w s₀ (s.dmaStop c st code addr) := by
  unfold State.dmaStop
  dsimp only
  split
  · exact .ite hs.dmaLeave hs.onCh
  · exact .ite hs.onCh.dmaLeave hs.onCh.onCh

theorem Steady.dmaAck {c : Nat} {n : Nat × Nat} (hs : Steady w s₀ s) : Steady w s₀ (s.dmaAck c n) := by
  unfold State.dmaAck
  dsimp only
  split
  · exact hs.onCh.andThen (·.dmaLeave)
  · exact hs.onCh.andThen (·.dmaLeave)

theorem Steady.dmaRequest {c : Nat} (hs : Steady w s₀ s) : Steady w s₀ (s.dmaRequest c) :=
  .ite hs.dmaStop hs.onCh.remoteSend

theorem Steady.dmaServe (hs : Steady w s₀ s) : Steady w s₀ s.dmaServe := by
  unfold State.dmaServe
  refine hs.foldl (fun s x hs1 => ?_)
  split
  · exact Steady.ite hs1 hs1.onDma.dmaRequest
  · exact hs1

theorem Steady.dmaStart {c : Nat} (hs : Steady w s₀ s) : Steady w s₀ (s.dmaStart c) := by
  unfold State.dmaStart
  dsimp only
  split
  · exact hs.onCh.dmaLeave
  · split
    · exact hs.onCh.onCh
    · exact hs.onCh.onCh.dmaServe

theorem Steady.dmaAbort {c : Nat} (hs : Steady w s₀ s) : Steady w s₀ (s.dmaAbort c) :=
  hs.onCh.andThen (·.dmaStop.dmaServe)

theorem Steady.writeDmaCtrl {c : Nat} {v : BitVec 32} (hs : Steady w s₀ s) : Steady w s₀ (s.writeDmaCtrl c v) :=
  (hs.onCh.andThen (·.dmaStart)).andThen (·.dmaAbort)

theorem Steady.enableQueue {f q : Nat} (hs : Steady w s₀ s) : Steady w s₀ (s.enableQueue f q) :=
  hs.onQueue

theorem Steady.disableQueue {f q : Nat} (hs : Steady w s₀ s) : Steady w s₀ (s.disableQueue f q) :=
  hs.onQueue

theorem Steady.writeQueueCtrl {f q : Nat} {v : BitVec 32} (hs : Steady w s₀ s) : Steady w s₀ (s.writeQueueCtrl f q v) :=
  (Steady.ite hs hs.onQueue).share fun hs => .ite hs.enableQueue (hs.andThen (·.disableQueue))

theorem Steady.writeQueueVector {f q : Nat} {v : BitVec 32} (hs : Steady w s₀ s) :
    Steady w s₀ (s.writeQueueVector f q v) :=
  hs.onQueue

theorem Steady.writeTail {f q : Nat} {v : BitVec 32} (hs : Steady w s₀ s) : Steady w s₀ (s.writeTail f q v) :=
  hs.onQueue.andThen (·.ringFault)

theorem Steady.writeHead {f q : Nat} {v : BitVec 32} (hs : Steady w s₀ s) : Steady w s₀ (s.writeHead f q v) :=
  .ite hs.ringFault hs.onQueue

theorem Steady.writeToken {f n : Nat} {v : BitVec 32} (hs : Steady w s₀ s) : Steady w s₀ (s.writeToken f n v) :=
  .ite hs.raiseCmd hs.onFunc.onCtx

/-! ### Operations of `Machine/MemCmd` -/

theorem Steady.withList {h : BitVec 32} {f a n : Nat} {body : List (BitVec 64) → State} (hs : Steady w s₀ s)
    (hbody : ∀ gs, Steady w s₀ (body gs)) : Steady w s₀ (withList h f a n s body) := by
  unfold Machine.withList
  split
  · exact hs.complete
  · exact hbody _

theorem Steady.allocPages {f : BitVec 4} {tier : Nat} {flags : BitVec 8} {n : Nat} :
    ∀ {s t : State} {gs : List (BitVec 64)} {low : Nat}, Steady w s₀ s → s.allocPages f tier flags n = Option.some
      (gs, low, t) →
      Steady w s₀ t := by
  induction n with
  | zero =>
    intro s t gs low hs e
    cases e
    exact hs
  | succ n ih =>
    intro s t gs low hs e
    unfold State.allocPages at e
    dsimp only at e
    split at e
    · cases e
    next h =>
      have hu := (hs.placePage fun _ => rfl).of_snd h
      split at e
      · cases e
      next h =>
        cases e
        exact ih (.ite hu.onDir hu) h

theorem Steady.execAlloc {handle : BitVec 32} (hs : Steady w s₀ s) : Answers w s₀ (execAlloc handle s) := by
  unfold Machine.execAlloc
  refine hs.carry fun l s hs => .ite hs.complete (.ite hs.complete (.ite hs.complete ?_))
  split
  · exact hs.drawn.complete
  next e => exact (hs.allocPages e).hostWrite.complete

theorem Steady.execFree {handle : BitVec 32} (hs : Steady w s₀ s) : Answers w s₀ (execFree handle s) := by
  unfold Machine.execFree
  refine hs.carry fun l s hs => ?_
  extract_lets free
  have hfree (gs : List (BitVec 64)) : Steady w s₀ (free gs) := by
    simp only [free]
    split
    · exact hs.complete
    · exact Steady.complete (hs.foldl fun _ _ hs => hs.freePage)
  exact .ite hs.complete (.ite (hfree _) (hs.withList hfree))

theorem Steady.execMove {handle : BitVec 32} (hs : Steady w s₀ s) : Answers w s₀ (execMove handle s) := by
  unfold Machine.execMove
  refine hs.carry fun l s hs => .ite hs.complete (.ite hs.complete (.ite hs.complete (.ite hs.complete
    (hs.withList fun gs => ?_))))
  split
  · exact hs.complete
  · exact hs.working.startJob

theorem Steady.execPageQuery {handle : BitVec 32} (hs : Steady w s₀ s) : Answers w s₀ (execPageQuery handle s) :=
  hs.carry fun _ _ hs => .ite hs.complete (.ite hs.complete hs.hostWrite.complete)

theorem Steady.leaveWriteBack {handles : List (BitVec 32)} (hs : Steady w s₀ s) : Steady w s₀ (s.leaveWriteBack handles) :=
  hs.onMem

theorem Steady.execMemMode {handle : BitVec 32} (hs : Steady w s₀ s) : Answers w s₀ (execMemMode handle s) := by
  unfold Machine.execMemMode
  refine hs.carry (fun l s hs1 => ?_)
  dsimp only
  split
  · exact hs1.complete
  · split
    · exact hs1.complete
    · split
      · exact hs1.complete
      · split
        · exact Steady.ite hs1.complete (Steady.ite hs1.working.leaveWriteBack hs1.complete)
        · exact hs1.onMem.complete
        · exact Steady.ite hs1.complete hs1.working.writeBackAll.onMem

theorem Steady.checkFlush (hs : Steady w s₀ s) : Steady w s₀ s.checkFlush := by
  unfold State.checkFlush
  split
  · exact hs.onMem.completeAll
  · exact hs

theorem Steady.execWriteBackComplete {frame tick : Nat} (hs : Steady w s₀ s) :
    Answers w s₀ (execWriteBackComplete frame tick s) := by
  unfold Machine.execWriteBackComplete
  extract_lets u
  have hu : Steady w s₀ u := hs.at_
  split
  · exact hu.next
  · extract_lets x home y
    have hx : Steady w s₀ x := hu.onMem
    have hy : Steady w s₀ y := by
      simp only [y]
      split
      · split
        next e => exact (hx.restore (hx.content e)).onDir
        · exact hx
      · exact hx
    exact hy.checkFlush.close

theorem Steady.convertOne {frame : Nat} (hs : Steady w s₀ s) : Steady w s₀ (s.convertOne frame) :=
  hs.commitDir

theorem Steady.convertMoving {frame home : Nat} (hs : Steady w s₀ s) : Steady w s₀ (s.convertMoving frame home) := by
  unfold State.convertMoving
  refine hs.commitDir.onMem fun ⟨tiers, remotes⟩ => ⟨tiers, fun r hr => ?_⟩
  obtain ⟨x, hx, rfl⟩ := List.mem_map.1 hr
  split <;> exact remotes x hx

theorem Steady.execConversionPassDone (hs : Steady w s₀ s) : Answers w s₀ (execConversionPassDone s) :=
  .ite (((hs.foldl fun _ _ hs => hs.convertMoving).foldl fun _ _ hs => hs.convertOne).onMem.checkFlush.foldl fun _ _ hs =>
    hs.complete).close hs.next

theorem Steady.execLocalMoveComplete {move : BitVec 32} {tick : Nat} {mismatch uncorrectable : Bool} (hs : Steady w s₀ s) :
    Answers w s₀ (execLocalMoveComplete move tick mismatch uncorrectable s) := by
  unfold Machine.execLocalMoveComplete
  dsimp only
  split
  · exact hs.at_.next
  · exact (hs.at_.andThen (·.uncorrectable)).endLocal.close

theorem Steady.execMoveOffer {hdr : FrameHdr} {body : MoveBody} (hs : Steady w s₀ s) :
    Answers w s₀ (execMoveOffer hdr body s) := by
  unfold Machine.execMoveOffer
  refine hs.receiveWork fun s hs => .ite hs (.ite hs.sendMove ?_)
  split
  · refine Steady.sendMove (Steady.drawn ?_)
    split
    · exact hs.importFails
    · exact hs
  · exact (hs.drawn.setDir.onMem fun h => h.addRemote rfl rfl rfl).sendMove

theorem Steady.execMoveAccept {hdr : FrameHdr} {body : MoveBody} (hs : Steady w s₀ s) :
    Answers w s₀ (execMoveAccept hdr body s) := by
  unfold Machine.execMoveAccept
  refine hs.receiveWork (fun s hs1 => ?_)
  split
  · exact hs1
  · split
    · exact hs1
    · dsimp only
      split
      · exact hs1.abortMove
      · split
        · exact hs1.readFails.abortMove
        · exact hs1.onDir.drawn.setRemote.foldl (fun _ _ hs7 => hs7.sendMove)

theorem Steady.execMoveRefuse {hdr : FrameHdr} {body : MoveBody} (hs : Steady w s₀ s) :
    Answers w s₀ (execMoveRefuse hdr body s) := by
  unfold Machine.execMoveRefuse
  refine hs.receiveWork (fun s hs1 => ?_)
  split
  · exact hs1
  · split
    · exact hs1.endRemote.pageEnd
    · exact hs1.abortMove
    · exact hs1

theorem Steady.arrived {r : RemoteMove} (hs : Steady w s₀ s) (bytes : BytesWf s₀ → Mem.wf r.bytes = true) :
    Steady w s₀ (s.arrived r) := by
  refine .ite hs.sendMove (Steady.sendMove (Steady.remoteTo (hs.setDir.fill bytes) fun n hn _ => ?_))
  cases hn
  rfl

theorem Steady.execMoveData {hdr : FrameHdr} {body : MoveBody} (hs : Steady w s₀ s) :
    Answers w s₀ (execMoveData hdr body s) := by
  unfold Machine.execMoveData
  refine hs.receiveWork fun s hs => ?_
  split
  · exact hs
  next r e =>
    have held (h : BytesWf s₀) : Mem.wf r.bytes = true := (hs.bytes h).1.2 r (List.mem_of_find?_eq_some e)
    extract_lets a n x u
    have hu : Steady w s₀ u := hs.remoteTo fun y hy h => by
      cases hy
      exact Mem.wf_writes _ _ _ h
    exact .ite hs (.ite (hu.arrived fun h => Mem.wf_writes _ _ _ (held h)) hu)

theorem Steady.execMoveReady {hdr : FrameHdr} {body : MoveBody} (hs : Steady w s₀ s) :
    Answers w s₀ (execMoveReady hdr body s) := by
  unfold Machine.execMoveReady
  refine hs.receiveWork (fun s hs1 => ?_)
  split
  · exact hs1
  · split
    · exact hs1
    · refine (Steady.setRemote ?_).pageEnd.sendMove
      split
      · refine Steady.deallocate ?_
        split
        · exact hs1.drawn.setDir.freeSlotAt
        · exact hs1.drawn.setDir
      · split
        · exact hs1.drawn.setDir.freeSlotAt
        · exact hs1.drawn.setDir

theorem Steady.endImport {n : Nat} (hs : Steady w s₀ s) : Steady w s₀ (s.endImport n) :=
  hs.drawn.orElse (·.drawn.onCtx.drawn.holdHist.completeOpt)

theorem Steady.execMoveCommit {hdr : FrameHdr} {body : MoveBody} (hs : Steady w s₀ s) :
    Answers w s₀ (execMoveCommit hdr body s) := by
  unfold Machine.execMoveCommit
  refine hs.receiveWork (fun s hs1 => ?_)
  dsimp only
  split
  · exact hs1.sendMove
  · split
    · exact hs1.sendMove
    · exact Steady.ite hs1.sendMove.endRemote.homePage.endImport hs1.sendMove.endRemote.homePage

theorem Steady.execMoveAbort {hdr : FrameHdr} {body : MoveBody} (hs : Steady w s₀ s) :
    Answers w s₀ (execMoveAbort hdr body s) := by
  unfold Machine.execMoveAbort
  refine hs.receiveWork (fun s hs1 => ?_)
  dsimp only
  split
  · exact hs1.sendMove
  · exact hs1.sendMove.endRemote.pageImportFails.dropInbound

theorem Steady.execMoveAck {hdr : FrameHdr} {body : MoveBody} (hs : Steady w s₀ s) :
    Answers w s₀ (execMoveAck hdr body s) := by
  unfold Machine.execMoveAck
  refine hs.receiveWork (fun s hs1 => ?_)
  split
  · exact hs1
  · exact Steady.ite hs1.endRemote (Steady.ite (Steady.ite hs1.endRemote.sourceBack hs1.endRemote).pageEnd hs1)

theorem Steady.execMoveReadyTimeout {move : BitVec 32} {tick : Nat} (hs : Steady w s₀ s) :
    Answers w s₀ (execMoveReadyTimeout move tick s) := by
  unfold Machine.execMoveReadyTimeout
  dsimp only
  split
  · exact hs.at_.next
  · exact hs.at_.abortMove.close

theorem Steady.execMoveCommitResend {move : BitVec 32} {tick : Nat} (hs : Steady w s₀ s) :
    Answers w s₀ (execMoveCommitResend move tick s) := by
  unfold Machine.execMoveCommitResend
  dsimp only
  split
  · exact hs.at_.next
  · exact hs.at_.setRemote.sendMove.close

theorem Steady.execMoveAbortResend {move : BitVec 32} {tick : Nat} (hs : Steady w s₀ s) :
    Answers w s₀ (execMoveAbortResend move tick s) := by
  unfold Machine.execMoveAbortResend
  dsimp only
  split
  · exact hs.at_.next
  · exact hs.at_.setRemote.sendMove.close

theorem Steady.execMemoryPatrolScrub {tier : BitVec 4} {unit corrected : Nat} {row : Option Nat} {tick : Nat}
    (hs : Steady w s₀ s) :
    Answers w s₀ (execMemoryPatrolScrub tier unit corrected row tick s) := by
  unfold Machine.execMemoryPatrolScrub
  dsimp only
  split
  · split
    · exact hs.at_.onMem.finish
    · exact .ite hs.at_.onMem.onMem.onMem.raiseMem.storeStart.finish hs.at_.onMem.onMem.finish
  · exact .ite hs.at_.onMem.finish hs.at_.next

/-- Pieces of a run are written one after another. -/
theorem Steady.writePieces {who : Option Nat} {ps : List (BitVec 64 × Nat)} {bs : List (BitVec 8)} (hs : Steady w s₀ s) :
    Yields w s₀ (ps.foldl (fun (r : Option State × List (BitVec 8)) p =>
      (r.1.bind fun s => s.writeGa who p.1 (r.2.take p.2), r.2.drop p.2)) (Option.some s, bs)).1 :=
  Yields.foldl_fst hs.some fun _ _ h => h.bind fun _ hs => hs.writeGa

theorem Steady.execBar4Access {func : BitVec 4} {off : Nat} {op : Bar4Op} (hs : Steady w s₀ s) :
    Answers w s₀ (execBar4Access func off op s) := by
  unfold Machine.execBar4Access
  refine .ite hs.next (.ite hs.onHost.finish ?_)
  split
  · dsimp only
    split
    · exact hs.noteRead.onHost.finish
    · exact hs.noteRead.onHost.finish
    · exact hs.noteRead.onHost.finish
  · dsimp only
    split
    next e => exact (hs.writePieces _ e).onHost.finish
    · exact hs.onHost.finish

/-! ### Operations of `Machine/SrvCmd` -/

theorem Steady.ctxCommand {op : BitVec 8} {handle : BitVec 32} {bad : Live → Option Nat}
    {body : Live → Nat → State → State} (hs : Steady w s₀ s)
    (hbody : ∀ x0 x1 t, Steady w s₀ t → Steady w s₀ (body x0 x1 t)) :
    Answers w s₀ (ctxCommand op handle bad body s) := by
  unfold Machine.ctxCommand
  refine hs.carry (fun l s hs1 => ?_)
  split
  · exact hs1.complete
  · split
    · exact hs1.complete
    · exact hbody _ _ _ hs1

theorem Steady.execCtxOpen {handle : BitVec 32} (hs : Steady w s₀ s) : Answers w s₀ (execCtxOpen handle s) := by
  unfold Machine.execCtxOpen
  refine hs.carry (fun l s hs1 => ?_)
  dsimp only
  split
  · exact hs1.complete
  · split
    · exact hs1.complete
    · split
      · exact hs1.complete
      · split
        · exact hs1.complete
        · split
          · exact hs1.complete
          · split
            · exact hs1.complete
            · exact hs1.onCtx.holdHist.complete

theorem Steady.execFallbackBind {handle : BitVec 32} (hs : Steady w s₀ s) : Answers w s₀ (execFallbackBind handle s) := by
  unfold Machine.execFallbackBind
  refine hs.ctxCommand (fun l n s hs1 => ?_)
  split
  · exact hs1.complete
  · split
    · exact hs1.onCtx.complete
    · split
      · exact hs1.complete
      · exact hs1.onCtx.complete

theorem Steady.execDeadlineSet {handle : BitVec 32} (hs : Steady w s₀ s) : Answers w s₀ (execDeadlineSet handle s) :=
  hs.ctxCommand fun _ _ _ hs => hs.onCtx.complete

theorem Steady.addInput {n : Nat} {a : Addition} (hs : Steady w s₀ s) : Steady w s₀ (s.addInput n a) :=
  hs.onCtx.andThen (·.remoteHistory)

theorem Steady.execPromptSubmit {handle : BitVec 32} (hs : Steady w s₀ s) : Answers w s₀ (execPromptSubmit handle s) := by
  unfold Machine.execPromptSubmit
  refine hs.ctxCommand (fun l n s hs1 => ?_)
  dsimp only
  split
  · exact hs1.complete
  · split
    · exact hs1.complete
    · split
      · exact hs1.complete
      · split
        · exact hs1.complete
        · split
          · exact hs1.complete
          · split
            · exact hs1.complete
            · exact hs1.onCtx.onSrv.atBoundary.addInput

theorem Steady.execAppend {handle : BitVec 32} (hs : Steady w s₀ s) : Answers w s₀ (execAppend handle s) := by
  unfold Machine.execAppend
  refine hs.ctxCommand (fun l n s hs1 => ?_)
  dsimp only
  split
  · exact hs1.complete
  · split
    · exact hs1.complete
    · split
      · exact hs1.complete
      · exact hs1.atBoundary.addInput

theorem Steady.cancelNow {n : Nat} (hs : Steady w s₀ s) : Steady w s₀ (s.cancelNow n) :=
  hs.marker.endGen.writeDues.onCtx

theorem Steady.execCancel {handle : BitVec 32} (hs : Steady w s₀ s) : Answers w s₀ (execCancel handle s) :=
  hs.ctxCommand fun _ _ _ hs => .ite hs.complete (.ite hs.cancelNow.complete hs.atBoundary.onCtx)

theorem Steady.execCtxClose {handle : BitVec 32} (hs : Steady w s₀ s) : Answers w s₀ (execCtxClose handle s) :=
  hs.ctxCommand fun _ _ _ hs => .ite hs.complete
    (.ite ((Steady.ite hs.cancelNow hs).share fun hs => .ite hs.freeCtx.complete hs.atBoundary.onCtx)
    (.ite hs.atBoundary.onCtx hs.freeCtx.complete))

theorem Steady.execCtxPark {handle : BitVec 32} (hs : Steady w s₀ s) : Answers w s₀ (execCtxPark handle s) :=
  hs.ctxCommand fun _ _ _ hs => hs.onCtx.working.startJob

theorem Steady.execCtxResume {handle : BitVec 32} (hs : Steady w s₀ s) : Answers w s₀ (execCtxResume handle s) :=
  hs.ctxCommand fun _ _ _ hs => .ite hs.onCtx.holdHist.complete (hs.onCtx.working.orElse (·.beginResume))

theorem Steady.expire {n : Nat} (hs : Steady w s₀ s) : Steady w s₀ (s.expire n) :=
  hs.dropPages.onCtx.onSrv.raiseSrv

theorem Steady.ttl2Due {n : Nat} (hs : Steady w s₀ s) : Steady w s₀ (s.ttl2Due n) :=
  .ite hs (.ite hs.expire hs.onCtx.startJob)

theorem Steady.ttl3Due {n : Nat} (hs : Steady w s₀ s) : Steady w s₀ (s.ttl3Due n) :=
  .ite hs.expire hs

theorem Steady.reach {t : Option Nat} (hs : Steady w s₀ s) : Steady w s₀ (s.reach t) :=
  hs.at_

theorem Steady.execTtl2Expiry {ctx : Nat} (hs : Steady w s₀ s) : Answers w s₀ (execTtl2Expiry ctx s) :=
  hs.reach.close

theorem Steady.execTtl3Expiry {ctx : Nat} (hs : Steady w s₀ s) : Answers w s₀ (execTtl3Expiry ctx s) :=
  hs.reach.close

theorem Steady.writeRun {who : Option Nat} {g : BitVec 64} {bs : List (BitVec 8)} (hs : Steady w s₀ s) :
    Yields w s₀ (s.writeRun who g bs) :=
  .ite hs.writeGa hs.writePieces

theorem Steady.putImage {who : Nat} {g : BitVec 64} {runs : List (Nat × List (BitVec 8))} (hs : Steady w s₀ s) :
    Yields w s₀ (s.putImage who g runs) :=
  Yields.foldl hs.some fun _ _ h => h.bind fun _ hs => hs.writeRun

theorem Steady.execKvExport {handle : BitVec 32} (hs : Steady w s₀ s) : Answers w s₀ (execKvExport handle s) :=
  hs.ctxCommand fun _ _ _ hs => hs.working.onCtx.orElse (·.startJob)

theorem Steady.execKvImport {handle : BitVec 32} (hs : Steady w s₀ s) : Answers w s₀ (execKvImport handle s) :=
  hs.ctxCommand fun _ _ _ hs => .ite hs.complete hs.working.dropHist.onCtx

/-- What holds of every state on the way of operations that may fail. -/
theorem foldl_some {α β : Type} {P : β → Prop} {f : Option β → α → Option β} {as : List α} {b x : β} (hb : P b)
    (hf : ∀ o, ∀ a ∈ as, (∀ y, o = Option.some y → P y) → ∀ y, f o a = Option.some y → P y)
    (e : as.foldl f (Option.some b) = Option.some x) : P x :=
  List.foldlRecOn (motive := fun o => ∀ y, o = Option.some y → P y) as f (fun _ h => Option.some.inj h ▸ hb)
    (fun o ho a ha => hf o a ha ho) x e

/-- The pages that an image carries are canonical. -/
theorem kvPagesAt_wf {who : Nat} {g : BitVec 64} {flags : List (Nat × Nat)} {ps : List (Bool × Mem × Nat)}
    (e : s.kvPagesAt who g flags = .ok ps) : ∀ p ∈ ps, Mem.wf p.2.1 = true := by
  have all := List.foldlRecOn (motive := fun (r : Except ReadFail (List (Bool × Mem × Nat)) × Nat) =>
      ∀ ps, r.1 = .ok ps → ∀ p ∈ ps, Mem.wf p.2.1 = true) flags
    (fun (r : Except ReadFail (List (Bool × Mem × Nat)) × Nat) e =>
      match r with
      | (.error x, k) => (.error x, k)
      | (.ok ps, k) =>
        let hist := decide (e.2 % 2 = 1)
        if e.2 / 2 % 2 = 1 then (.ok (ps ++ [(hist, [], e.1)]), k)
        else
          let at_ := g + BitVec.ofNat 64 (kvDataAt flags.length + pageBytes * k)
          match s.readRun (Option.some who) at_ pageBytes with
          | .ok bs => (.ok (ps ++ [(hist, Mem.writes [] 0 bs, e.1)]), k + 1)
          | a => (.error (a.fail at_ pageBytes), k))
    (b := (.ok [], 0)) (fun ps h => by cases h; exact fun _ hp => absurd hp List.not_mem_nil) ?_
  · exact all ps e
  · intro r hr x _ qs h
    have append {ps : List (Bool × Mem × Nat)} {y : Bool × Mem × Nat} (hps : ∀ p ∈ ps, Mem.wf p.2.1 = true)
        (hy : Mem.wf y.2.1 = true) : ∀ p ∈ ps ++ [y], Mem.wf p.2.1 = true := fun p hp =>
      (List.mem_append.1 hp).elim (hps p) fun hp => List.mem_singleton.1 hp ▸ hy
    obtain ⟨r, k⟩ := r
    cases r with
    | error x => cases h
    | ok ps =>
      dsimp only at h
      split at h
      · cases h
        exact append (hr ps rfl) rfl
      · split at h
        · cases h
          exact append (hr ps rfl) (Mem.wf_writes _ _ _ rfl)
        · cases h

theorem Steady.importImage {who n kvMax : Nat} {g : BitVec 64} {layout : BitVec 32} (hs : Steady w s₀ s)
    (e : s.importImage who n kvMax g layout = .ok t) : Steady w s₀ t := by
  unfold State.importImage at e
  extract_lets c at e
  split at e
  · extract_lets k hist len ad entries at e
    split at e
    · cases e
    · split at e
      · cases e
      · split at e
        · cases e
        · split at e
          · cases e
          · split at e
            · extract_lets flags at e
              split at e
              · cases e
              · split at e
                · cases e
                next ps hps =>
                  split at e
                  · cases e
                  next u k hu =>
                    have placed : Steady w s₀ u :=
                      foldl_some (P := fun x : State × Nat => Steady w s₀ x.1) hs (fun o p hp ho x hx => by
                        obtain ⟨y, hy, hx⟩ := Option.bind_eq_some_iff.1 hx
                        extract_lets idx at hx
                        split at hx
                        · cases hx
                        next h =>
                          cases hx
                          exact (((ho y hy).placePage fun _ => kvPagesAt_wf hps p hp).of_snd h).onCtx) hu
                    split at e
                    · cases e
                      exact placed.onCtx
                    · cases e
            · cases e
  · cases e

theorem Steady.execKvImageTransferDone {handle : BitVec 32} {tick : Nat} (hs : Steady w s₀ s) :
    Answers w s₀ (execKvImageTransferDone handle tick s) := by
  unfold Machine.execKvImageTransferDone
  extract_lets u
  have hu : Steady w s₀ u := hs.at_
  split
  · dsimp only
    split
    · split
      · exact hu.onCtx.holdHist.complete.close
      · split
        · exact hu.onCtx.holdHist.complete.close
        next e => exact (hu.putImage _ e).exported.complete.close
    · split
      · exact hu.noteFail.drawn.onCtx.holdHist.complete.close
      next e => exact (hu.importImage e).onCtx.holdHist.complete.close
  · exact hu.next

theorem Steady.execBatchStep {handle : BitVec 32} (hs : Steady w s₀ s) : Answers w s₀ (execBatchStep handle s) := by
  unfold Machine.execBatchStep
  refine hs.carry (fun l s hs1 => ?_)
  dsimp only
  split
  · exact hs1.complete
  · split
    · exact hs1.complete
    · split
      · exact hs1.complete
      · split
        · exact hs1.complete
        · split
          · exact hs1.complete
          · split
            · exact hs1.complete
            · exact hs1.atBoundary.onSrv

/-! ### Operations of `Machine/WgtCmd` -/

theorem if_wf {c : Prop} [Decidable c] {m n : ModelVer} (h : Mem.wf m.staged = true) (g : Mem.wf n.staged = true) :
    Mem.wf (if c then m else n).staged = true := by
  split
  · exact h
  · exact g

theorem Steady.declare {h : BitVec 32} {l : Live} {man : List (BitVec 8)} {adapter replace : Bool} (hs : Steady w s₀ s) :
    Steady w s₀ (s.declare h l man adapter replace) := by
  unfold State.declare
  refine Steady.working (Steady.onWgt (.ite (hs.onModel fun m h => ?_) hs) ?_)
  · dsimp only
    split <;> exact h
  · refine fun ⟨models, saved⟩ => ⟨TilesWf.append models fun m hm => ?_, saved⟩
    rw [List.mem_singleton.1 hm]
    exact if_wf rfl rfl

theorem Steady.declareBody {h : BitVec 32} {adapter replace : Bool} {l : Live} (hs : Steady w s₀ s) :
    Steady w s₀ (declareBody h adapter replace l s) := by
  unfold Machine.declareBody
  refine .ite hs.complete (.ite hs.complete (.ite hs.complete ?_))
  split
  · exact hs.complete
  · exact hs.noteRead.complete
  · refine .ite hs.complete (.ite hs.complete (.ite hs.complete (.ite hs.complete (.ite hs.complete ?_))))
    extract_lets b base baseHeld
    split
    · exact hs.complete
    · exact .ite hs.complete (.ite hs.complete (.ite hs.complete hs.declare))

theorem Steady.execModelDeclare {handle : BitVec 32} (hs : Steady w s₀ s) : Answers w s₀ (execModelDeclare handle s) :=
  hs.carry fun _ _ hs => hs.declareBody

theorem Steady.execAdapterLoad {handle : BitVec 32} (hs : Steady w s₀ s) : Answers w s₀ (execAdapterLoad handle s) :=
  hs.carry fun _ _ hs => hs.declareBody

theorem Steady.execAdapterReplace {handle : BitVec 32} (hs : Steady w s₀ s) :
    Answers w s₀ (execAdapterReplace handle s) :=
  hs.carry fun _ _ hs => hs.declareBody

theorem Steady.execModelReplace {handle : BitVec 32} (hs : Steady w s₀ s) : Answers w s₀ (execModelReplace handle s) :=
  hs.carry fun _ _ hs => hs.declareBody

theorem Steady.fetchList {h : BitVec 32} (hs : Steady w s₀ s) : Steady w s₀ (s.fetchList h) := by
  unfold State.fetchList
  split
  · exact hs
  · exact hs.remoteSend

theorem Steady.shardBody {h : BitVec 32} {flash : Bool} {l : Live} (hs : Steady w s₀ s) :
    Steady w s₀ (shardBody h flash l s) := by
  unfold Machine.shardBody
  dsimp only
  split
  · exact hs.complete
  · split
    · exact hs.complete
    · split
      · exact hs.complete
      · split
        · split
          · exact hs.complete
          · split
            · exact hs.complete
            · split
              · exact hs.complete
              · split
                · exact hs.complete
                · split
                  · exact hs.complete
                  · split
                    · exact hs.working.fetchList
                    · exact hs.noteFail.complete
                    · exact hs.onLive.working.setShard.onWgt.nextShard
        · exact hs.complete

theorem Steady.execShardLoad {handle : BitVec 32} (hs : Steady w s₀ s) : Answers w s₀ (execShardLoad handle s) :=
  hs.carry fun _ _ hs => hs.shardBody

theorem Steady.execShardFromFlash {handle : BitVec 32} (hs : Steady w s₀ s) :
    Answers w s₀ (execShardFromFlash handle s) :=
  hs.carry fun _ _ hs => hs.shardBody

theorem Steady.listEnd {h : BitVec 32} {status : BitVec 8} {data : List (BitVec 8)} (hs : Steady w s₀ s) :
    Steady w s₀ (s.listEnd h status data) := by
  unfold State.listEnd
  split
  · exact hs
  · exact .ite hs.complete (.ite hs.complete (.ite hs.onLive.shardBody hs.onLive.fetchList))

theorem Steady.execShardIngestDone {handle : BitVec 32} {tick : Nat} (hs : Steady w s₀ s) :
    Answers w s₀ (execShardIngestDone handle tick s) := by
  unfold Machine.execShardIngestDone
  split
  · exact hs.at_.onWgt.ingest.nextShard.close
  · exact hs.next

theorem Steady.execShardDeadlineExpiry {model : BitVec 28} {version : BitVec 8} {tick : Nat} (hs : Steady w s₀ s) :
    Answers w s₀ (execShardDeadlineExpiry model version tick s) := by
  unfold Machine.execShardDeadlineExpiry
  dsimp only
  split
  · exact hs.at_.next
  · split
    · split
      · exact (hs.at_.foldl fun _ _ hs => hs.setShard).onWgt.next
      · exact (hs.at_.foldl fun _ _ hs => hs.setShard).onWgt.raiseWgt.checkLoaded.close
    · exact hs.at_.next

theorem Steady.execModelActivate {handle : BitVec 32} (hs : Steady w s₀ s) : Answers w s₀ (execModelActivate handle s) := by
  unfold Machine.execModelActivate
  refine hs.carry (fun l s hs1 => ?_)
  dsimp only
  split
  · exact hs1.complete
  · split
    · exact hs1.complete
    · split
      · exact hs1.complete
      · exact Steady.ite hs1.complete (Steady.ite hs1.complete hs1.onModel.working.beginActivate)

theorem Steady.cancelShards {id : BitVec 28} {v : BitVec 8} (hs : Steady w s₀ s) : Steady w s₀ (s.cancelShards id v) := by
  unfold State.cancelShards
  dsimp only
  exact hs.onWgt.completeAll.nextShard

theorem Steady.retire {handle : BitVec 32} {m : ModelVer} (hs : Steady w s₀ s) : Steady w s₀ (s.retire handle m) := by
  refine .ite (Steady.complete (Steady.completeOpt ?_)) (.ite hs.complete ?_)
  · exact hs.onWgt fun ⟨models, saved⟩ => ⟨TilesWf.filter models, saved⟩
  · have hu := (hs.onModel (id := m.id) (v := m.version) (g := fun m => { m with
      state := .retiring, retireHandle := Option.some handle, deadline := none, waitRoom := false })).working (h := handle)
    refine .ite (hu.foldl fun _ _ hs => hs.stopJob) (Steady.completeOpt (Steady.onModel ?_))
    exact .ite (hu.cancelShards.onModel fun _ _ => rfl) hu

theorem Steady.execModelRetire {handle : BitVec 32} (hs : Steady w s₀ s) : Answers w s₀ (execModelRetire handle s) := by
  unfold Machine.execModelRetire
  refine hs.carry (fun l s hs1 => ?_)
  dsimp only
  split
  · exact hs1.complete
  · split
    · exact hs1.complete
    · split
      · exact hs1.complete
      · split
        · exact hs1.complete
        · exact Steady.ite hs1.retire (Steady.ite hs1.complete hs1.onModel.working.beginRest)

theorem Steady.execScrubDue {model : BitVec 28} {version : BitVec 8} (hs : Steady w s₀ s) :
    Answers w s₀ (execScrubDue model version s) := by
  unfold Machine.execScrubDue
  split
  · exact hs.next
  · exact .ite hs.at_.finish hs.next

theorem Steady.execScrubPageRead {model : BitVec 28} {version : BitVec 8} {page : Nat} (hs : Steady w s₀ s) :
    Answers w s₀ (execScrubPageRead model version page s) := by
  unfold Machine.execScrubPageRead
  split
  · exact hs.next
  · split
    · refine Steady.finish (Steady.onModel ?_ fun m h => ?_)
      · split
        · exact hs.onModel.onModel.onWgt
        · split
          · exact hs.onModel.scrubMismatch
          · exact .ite hs.onModel hs.onModel.scrubMismatch
      · split <;> exact h
    · exact hs.next

theorem Steady.execScrubSet {handle : BitVec 32} (hs : Steady w s₀ s) : Answers w s₀ (execScrubSet handle s) := by
  unfold Machine.execScrubSet
  refine hs.carry fun l s hs => .ite hs.complete (.ite hs.complete (.ite hs.complete (.ite hs.complete (.ite hs.complete
    (Steady.complete ?_)))))
  have hu {interval : BitVec 64} {named : List ModelVer} {c : Prop} [Decidable c] :
      Steady w s₀ (if c then s.onWgt fun w => { w with scrubDef := interval }
        else named.foldl (fun s m => s.onModel m.id m.version fun m => { m with interval := Option.some interval }) s) :=
    .ite hs.onWgt (hs.foldl fun _ _ hs => hs.onModel)
  refine .ite (hu.foldl fun _ _ hs => hs.onModel fun m h => ?_) hu
  split <;> exact h

theorem Steady.execModelStatus {handle : BitVec 32} (hs : Steady w s₀ s) : Answers w s₀ (execModelStatus handle s) := by
  unfold Machine.execModelStatus
  refine hs.carry (fun l s hs1 => ?_)
  dsimp only
  split
  · exact hs1.complete
  · split
    · exact hs1.complete
    · exact hs1.hostWrite.complete

/-! ### Operations of `Machine/FuncCmd` -/

theorem Steady.onFuncs {g : Func → Func} (hs : Steady w s₀ s) : Steady w s₀ (s.onFuncs g) :=
  hs.onCmd

theorem Steady.cancelJobs {mine : PageJob → Bool} (hs : Steady w s₀ s) : Steady w s₀ (s.cancelJobs mine) :=
  hs.foldl fun _ _ hs => hs.onJob.stopJob

theorem Steady.abandonVersion {m : ModelVer} (hs : Steady w s₀ s) : Steady w s₀ (s.abandonVersion m) :=
  (hs.onModel fun _ _ => rfl).cancelJobs.cancelShards

theorem Steady.abandonShard {h : BitVec 32} {l : Live} (hs : Steady w s₀ s) : Steady w s₀ (s.abandonShard h l) :=
  (hs.onWgt.andThen (·.setShard)).nextShard

theorem Steady.abandonCyl {h : BitVec 32} (hs : Steady w s₀ s) : Steady w s₀ (s.abandonCyl h) := by
  unfold State.abandonCyl
  refine Steady.onCyl ?_
  split
  · exact (Steady.ite hs.unallocate.onCyl hs).andThen (·.onCyl)
  · exact .ite hs.onCyl hs

theorem Steady.forget {h : BitVec 32} (hs : Steady w s₀ s) : Steady w s₀ (s.forget h) :=
  hs.onMem.onSrv.onFab.onCfg.onCad.onGrid.onStore.onFuncs

theorem Steady.stopCommand {h : BitVec 32} (hs : Steady w s₀ s) : Steady w s₀ (s.stopCommand h) := by
  unfold State.stopCommand
  split
  · exact hs
  · dsimp only
    split
    · exact hs.complete
    · split
      · exact hs
      · split
        · exact hs.cancelJobs
        · exact hs.cancelJobs
        · exact .ite hs.onModel.complete hs.cancelJobs
        · exact hs.abandonShard.complete
        · exact hs.abandonShard.complete
        · exact .ite hs.cancelCal hs.complete.raisePwr
        · refine (Steady.abandonCyl ?_).forget.complete
          split
          · exact hs.abandonVersion
          · exact hs

theorem Steady.stopCtx {n order : Nat} (hs : Steady w s₀ s) : Steady w s₀ (s.stopCtx n order) := by
  unfold State.stopCtx
  dsimp only
  split
  · split
    · exact (hs.cancelJobs.onCtx.completeOpt.onCtx.andThen (·.cancelNow)).onCtx.completeAll
    · exact hs.cancelJobs.onCtx.completeOpt.onCtx
  · split
    · exact (hs.cancelJobs.onCtx.andThen (·.cancelNow)).onCtx.completeAll
    · exact hs.cancelJobs.onCtx

theorem Steady.abortHost (hs : Steady w s₀ s) : Steady w s₀ s.abortHost :=
  hs.foldl fun _ _ hs => .ite hs.dmaAbort hs

theorem Steady.stopFunc {f : Nat} {stopper : Option (BitVec 32)} (hs : Steady w s₀ s) :
    Steady w s₀ (s.stopFunc f stopper) := by
  unfold State.stopFunc
  extract_lets order a b c mine d x
  have hc : Steady w s₀ c := hs.onFunc.onCmd.foldl fun _ _ hs => hs.stopCtx
  have hd : Steady w s₀ d := hc.foldl fun _ _ hs => hs.stopCommand
  have hx : Steady w s₀ x := hd.onWgt fun ⟨models, saved⟩ => ⟨TilesWf.map models fun m h => by split <;> exact h, saved⟩
  exact .ite hx.abortHost hx

theorem Steady.setLimits {f : Nat} {l : Live} (hs : Steady w s₀ s) : Steady w s₀ (s.setLimits f l) :=
  hs.onFunc

theorem Steady.startFunc {f : Nat} {starters : List (BitVec 32)} (hs : Steady w s₀ s) :
    Steady w s₀ (s.startFunc f starters) :=
  hs.onFunc.onIc.andThen (·.onCmd)

theorem Steady.tryPf (hs : Steady w s₀ s) : Steady w s₀ s.tryPf :=
  .ite hs.startFunc hs

theorem Steady.applyHeldCmd {f : Nat} (hs : Steady w s₀ s) : Steady w s₀ (s.applyHeldCmd f) := by
  unfold State.applyHeldCmd
  dsimp only
  split
  · split
    · refine Steady.startFunc ?_
      split
      · exact hs.setLimits
      · exact hs
    · exact hs.onFunc.complete
  · exact .ite hs.startFunc hs

theorem Steady.execFuncStopComplete {func : BitVec 4} (hs : Steady w s₀ s) :
    Answers w s₀ (execFuncStopComplete func s) :=
  .ite hs.onFunc.raiseCmd.completeOpt.applyHeldCmd.tryPf.close hs.next

theorem Steady.execFuncSetupDone {func : BitVec 4} (hs : Steady w s₀ s) : Answers w s₀ (execFuncSetupDone func s) := by
  unfold Machine.execFuncSetupDone
  dsimp only
  split
  · split
    · exact hs.onFunc.raiseCmd.completeAll.close
    · exact hs.onFunc.raiseCmd.completeAll.onFunc.stopFunc.onFunc.close
  · exact hs.next

theorem Steady.execFuncWedgeTimeout {func : BitVec 4} {tick : Nat} (hs : Steady w s₀ s) :
    Answers w s₀ (execFuncWedgeTimeout func tick s) := by
  unfold Machine.execFuncWedgeTimeout
  dsimp only
  split
  · exact (hs.at_.completeAll.onFunc.raiseHlt.foldl fun _ _ hs => .ite hs hs.freeCtx).tryPf.close
  · exact hs.at_.next

theorem Steady.msixReset {mine : Nat → Bool} (hs : Steady w s₀ s) : Steady w s₀ (s.msixReset mine) := by
  unfold State.msixReset
  exact hs.onIc

theorem Steady.flrVf {f : Nat} (hs : Steady w s₀ s) : Steady w s₀ (s.flrVf f) := by
  unfold State.flrVf
  dsimp only
  split
  · exact hs.msixReset.stopFunc.onFunc
  · exact hs.msixReset.onFunc
  · exact hs.msixReset
  · exact .ite hs.onFunc hs
  · exact hs

theorem Steady.flrPf (hs : Steady w s₀ s) : Steady w s₀ s.flrPf := by
  unfold State.flrPf
  dsimp only
  split
  · exact (hs.msixReset.abortHost.foldl fun _ _ hs => .ite hs.stopFunc hs).onFuncs.onFunc
  · exact (hs.msixReset.abortHost.foldl fun _ _ hs => .ite hs.stopFunc hs).onFuncs.onFunc
  · exact hs.msixReset.abortHost
  · exact hs.abortHost.onFunc
  · exact hs

theorem Steady.execFunctionLevelReset {func : BitVec 4} {tick : Nat} (hs : Steady w s₀ s) :
    Answers w s₀ (execFunctionLevelReset func tick s) :=
  .ite hs.next (Steady.ite hs.at_.raiseCmd.flrPf hs.at_.raiseCmd.flrVf).close

theorem Steady.funcCommand {op : BitVec 8} {handle : BitVec 32} {body : Live → Nat → State → State} (hs : Steady w s₀ s)
    (hbody : ∀ x0 x1 t, Steady w s₀ t → Steady w s₀ (body x0 x1 t)) :
    Answers w s₀ (funcCommand op handle body s) :=
  hs.carry fun _ _ hs => .ite hs.complete (hbody _ _ _ hs)

theorem Steady.hold {f : Nat} {handle : BitVec 32} {enable : Bool} (hs : Steady w s₀ s) :
    Steady w s₀ (s.hold f handle enable) :=
  .ite hs.complete hs.working.onFunc

theorem Steady.execFuncEnable {handle : BitVec 32} (hs : Steady w s₀ s) : Answers w s₀ (execFuncEnable handle s) := by
  unfold Machine.execFuncEnable
  refine hs.funcCommand (fun l f s hs1 => ?_)
  split
  · exact hs1.working.setLimits.startFunc
  · exact hs1.working.setLimits.onFunc
  · exact hs1.setLimits.complete
  · exact hs1.hold
  · exact hs1.complete

theorem Steady.execFuncDisable {handle : BitVec 32} (hs : Steady w s₀ s) : Answers w s₀ (execFuncDisable handle s) := by
  unfold Machine.execFuncDisable
  refine hs.funcCommand (fun x f s hs1 => ?_)
  split
  · exact hs1.complete
  · exact hs1.hold
  · exact hs1.hold
  · exact hs1.working.stopFunc
  · exact hs1.complete

theorem Steady.execFuncStatus {handle : BitVec 32} (hs : Steady w s₀ s) : Answers w s₀ (execFuncStatus handle s) :=
  hs.carry fun _ _ hs => .ite hs.complete hs.complete

theorem Steady.linkDown (hs : Steady w s₀ s) : Steady w s₀ s.linkDown :=
  .ite (((hs.onPins.andThen (·.onHlt.raiseHlt)).orElse (·.withdraw)).signal.share fun hs => .ite
    (hs.foldl fun _ _ hs => hs.flrVf) hs.flrPf) hs

theorem Steady.execPcieLinkDown (hs : Steady w s₀ s) : Answers w s₀ (execPcieLinkDown s) :=
  hs.linkDown.close

theorem Steady.linkRise (hs : Steady w s₀ s) : Steady w s₀ s.linkRise :=
  .ite hs (hs.onPins.andThen (·.onHlt)).signal

theorem Steady.execPcieLinkUp (hs : Steady w s₀ s) : Answers w s₀ (execPcieLinkUp s) :=
  hs.linkRise.close

theorem Steady.execHostPerst {high : Bool} (hs : Steady w s₀ s) : Answers w s₀ (execHostPerst high s) :=
  (hs.onPins.orElse (·.linkDown)).close

theorem Steady.execPcieConfigRequest {req : ConfigRequest} (hs : Steady w s₀ s) :
    Answers w s₀ (execPcieConfigRequest req s) := by
  unfold Machine.execPcieConfigRequest
  split
  · dsimp only
    split
    · exact (hs.onHost.orElse (·.msixControl)).finish
    · exact hs.onHost.finish
  · exact hs.next

end Sys2Proof.Proofs
end

section
/-!
Each operation of the model is steady, from `Machine/Regs` to `Machine/Health`: one lemma for each, over the lemmas
of what it calls.
-/
namespace Sys2Proof.Proofs
open Sys2Proof.Machine
variable {w : Watch} {s₀ s t u : State}

/-! ### Operations of `Machine/Regs` -/

theorem Steady.clearRead {b : Block} {o : Nat} (hs : Steady w s₀ s) : Steady w s₀ (s.clearRead b o) := by
  unfold State.clearRead
  split
  · exact hs.onSys
  · exact hs.onSys
  · exact hs.onSys
  · exact hs.onCad
  · exact hs.onCad
  · exact hs.onCad
  · exact hs.onCad
  · exact hs.onGrid
  · exact hs.onGrid
  · exact hs.onGrid
  · exact hs.onPhys
  · exact hs.onPhys
  · exact hs.onPhys
  · exact .ite hs hs.onPhys
  · exact hs.onArith
  · exact hs.onCyl
  · exact hs.onCyl
  · exact hs.onMem
  · exact hs.onMem
  · exact hs.onMem
  · exact hs.onMem
  · exact hs.onMem
  · exact hs.onWgt
  · exact hs.onWgt
  · exact hs.onWgt
  · exact hs.onWgt
  · exact hs.onSrv
  · exact hs.onSrv
  · exact hs.onSrv
  · exact hs.onSrv
  · exact hs.onSrv
  · exact hs.onSrv
  · exact hs.onSrv
  · exact hs.onCmd
  · exact hs.onCmd
  · exact hs.onCmd
  · exact hs.onHlt
  · exact hs.onHlt
  · exact hs.onHlt
  · exact hs.onFab
  · exact hs.onFab
  · exact hs.onFab
  · exact hs.onFab
  · exact hs.onPort
  · exact hs.onPort
  · exact hs.onFab
  · exact hs.onPwr
  · exact hs.onPwr
  · exact hs.onPwr
  · exact hs.onPwr
  · exact hs.onCfg
  · exact hs.onIc
  · exact hs.onIc
  · exact hs.onIc
  · exact .ite hs.pendRead hs
  · exact hs.onDma
  · exact hs.onMgt
  · exact hs

theorem Steady.setLatch {r : Requester} {off : Nat} {v : BitVec 32} (hs : Steady w s₀ s) :
    Steady w s₀ (s.setLatch r off v) :=
  hs.onSys

theorem Steady.recordError {a : Access} {write : Bool} {cause : Nat} (hs : Steady w s₀ s) :
    Steady w s₀ (s.recordError a write cause) :=
  hs.onSys.raiseSys

theorem Steady.regRead {a : Access} (hs : Steady w s₀ s) : Steady w s₀ (s.regRead a).2 := by
  unfold State.regRead
  extract_lets s1
  have h1 : Steady w s₀ s1 := hs.voteAll
  clear_value s1
  split
  · exact h1.recordError
  · split
    · exact h1
    · exact h1
    · split
      · exact h1
      · split
        · exact h1.claim
        · extract_lets v low high
          clear_value low high
          split
          · exact h1.setLatch
          · exact h1
          · exact .ite h1 h1.clearRead

theorem Steady.writePend {i : Nat} {v : BitVec 32} (hs : Steady w s₀ s) : Steady w s₀ (s.writePend i v) :=
  .ite hs (hs.foldl fun _ _ hs => .ite hs.onGrid hs)

theorem Steady.writeCellSel {v : BitVec 32} (hs : Steady w s₀ s) : Steady w s₀ (s.writeCellSel v) := by
  unfold State.writeCellSel
  exact hs.onGrid

theorem Steady.setLocks {b : BitVec 4} (hs : Steady w s₀ s) : Steady w s₀ (s.setLocks b) :=
  hs.onSys

theorem Steady.writeCad {o : Nat} {v : BitVec 32} (hs : Steady w s₀ s) : Steady w s₀ (s.writeCad o v) := by
  unfold State.writeCad
  split
  · exact .ite hs.onCad hs
  · exact .ite hs.onCad hs
  · exact hs.onCad
  · exact hs.onCad
  · exact hs.onCad
  · exact hs.onCad
  · exact hs.onCad
  · exact hs.onCad
  · exact hs

theorem Steady.writeIc {o : Nat} {v : BitVec 32} (hs : Steady w s₀ s) : Steady w s₀ (s.writeIc o v) := by
  unfold State.writeIc
  dsimp only
  split
  · exact hs.icChange
  · split
    · exact hs.onIc.endService
    · split
      · exact hs.icChange
      · split
        · exact hs.writeSrcCfg
        · split
          · exact hs.onIc
          · split
            · exact hs.onIc
            · split
              · exact hs.foldl fun _ _ hs => hs.doorbell
              · exact hs.foldl fun _ _ hs => hs.doorbell
              · exact hs.onIc.endService
              · exact hs

theorem Steady.writeDma {r : Requester} {o : Nat} {v : BitVec 32} (hs : Steady w s₀ s) :
    Steady w s₀ (s.writeDma r o v) := by
  unfold State.writeDma
  split
  · dsimp only
    split
    · exact .ite hs hs.onCh
    · exact .ite hs hs.onCh
    · exact .ite hs hs.onCh
    · exact .ite hs hs.onCh
    · exact .ite hs hs.onCh
    · exact hs.writeDmaCtrl
    · exact hs
  · exact .ite hs.onDma hs

theorem Steady.writeFloor {v : BitVec 32} (hs : Steady w s₀ s) : Steady w s₀ (s.writeFloor v) :=
  .ite hs hs.onMgt.storeWrite.raiseMgt

theorem Steady.writeBeat {c : Nat} {v : BitVec 32} (hs : Steady w s₀ s) : Steady w s₀ (s.writeBeat c v) :=
  hs.onMgt

theorem Steady.writeMgt {o : Nat} {v : BitVec 32} (hs : Steady w s₀ s) : Steady w s₀ (s.writeMgt o v) :=
  .ite hs.writeBeat (.ite hs.onMgt (.ite hs.writeFloor hs))

theorem Steady.writeRstCtrl {v : BitVec 32} (hs : Steady w s₀ s) : Steady w s₀ (s.writeRstCtrl v) :=
  hs.onCfg.andThen (·.requestReset)

theorem Steady.writeGridCtrl {v : BitVec 32} (hs : Steady w s₀ s) : Steady w s₀ (s.writeGridCtrl v) :=
  .ite hs hs.onGrid

theorem Steady.writeBlock {r : Requester} {b : Block} {o : Nat} {v : BitVec 32} (hs : Steady w s₀ s) :
    Steady w s₀ (s.writeBlock r b o v) := by
  unfold State.writeBlock
  split
  · exact hs.onSys
  · exact hs.setLocks
  · exact hs.onSys
  · exact hs.writeCad
  · exact hs.writeGridCtrl
  · exact .ite hs.setLocks hs
  · exact hs.writeCellSel
  · exact .ite hs.writePend hs
  · exact hs.onArith
  · exact hs.onArith
  · exact hs.onWgt
  · exact hs.onWgt
  · exact hs.onFab
  · exact hs.onFab
  · exact hs.writeOpLimits
  · exact hs.writeOpReq
  · exact hs.writeTherm
  · exact hs.onPwr
  · exact hs.writeRstCtrl
  · exact hs.writeIc
  · exact hs.writeDma
  · exact hs.writeMgt
  · exact .ite hs.writeMsix hs
  · exact hs

theorem Steady.writeBar2 {f o : Nat} {v : BitVec 32} (hs : Steady w s₀ s) : Steady w s₀ (s.writeBar2 f o v) := by
  unfold State.writeBar2
  split
  · exact hs.writeToken
  · split
    · dsimp only
      split
      · exact .ite hs hs.onQueue
      · exact .ite hs hs.onQueue
      · exact .ite hs hs.onQueue
      · exact .ite hs hs.onQueue
      · exact hs.writeQueueCtrl
      · exact hs.writeQueueVector
      · exact hs.writeTail
      · exact hs.writeHead
      · exact hs
    · exact .ite hs.onCmd hs

theorem Steady.regWrite {a : Access} {v : BitVec 32} (hs : Steady w s₀ s) : Steady w s₀ (s.regWrite a v).2 := by
  unfold State.regWrite
  split
  · exact hs.recordError
  · split
    · exact .ite hs.writeMsix hs
    · exact hs.writeBar2
    · split
      · exact hs
      · exact hs.writeBlock

/-! ### Operations of `Machine/SysCmd` -/

theorem Steady.execIdentify {handle : BitVec 32} (hs : Steady w s₀ s) : Answers w s₀ (execIdentify handle s) :=
  hs.carry fun _ _ hs => hs.hostWrite.complete

theorem Steady.execTelemetry {handle : BitVec 32} (hs : Steady w s₀ s) : Answers w s₀ (execTelemetry handle s) :=
  hs.carry fun _ _ hs => hs.hostWrite.complete

theorem Steady.execHandleQuery {handle : BitVec 32} (hs : Steady w s₀ s) : Answers w s₀ (execHandleQuery handle s) := by
  unfold Machine.execHandleQuery
  refine hs.carry (fun l s hs1 => ?_)
  dsimp only
  split
  · exact Steady.ite hs1.complete hs1.complete
  · exact hs1.complete

theorem Steady.execDiagNop {handle : BitVec 32} (hs : Steady w s₀ s) : Answers w s₀ (execDiagNop handle s) :=
  hs.carry fun _ _ hs => hs.complete

/-- A manufacturing test that is refused answers no state; one that is not completes, or does nothing. -/
theorem Steady.execManufacturingTest {handle : BitVec 32} (hs : Steady w s₀ s)
    (e : execManufacturingTest handle s = .next t) : Steady w s₀ t := by
  unfold Machine.execManufacturingTest at e
  split at e
  · split at e
    · split at e
      · nomatch e
      · obtain ⟨u, hu, steady⟩ := hs.complete.finish
        cases hu.symm.trans e
        exact steady
    · cases e
      exact hs
  · cases e
    exact hs

theorem Steady.execDeviceReset {handle : BitVec 32} (hs : Steady w s₀ s) : Answers w s₀ (execDeviceReset handle s) :=
  hs.carry fun _ _ hs => .ite hs.complete
    (Steady.enterReset (Steady.complete (Steady.completeAll (Steady.cancelCal (Steady.leaveToReset hs.onCmd)))))

theorem Steady.execRoleSet {handle : BitVec 32} (hs : Steady w s₀ s) : Answers w s₀ (execRoleSet handle s) := by
  unfold Machine.execRoleSet
  refine hs.carry (fun l s hs1 => ?_)
  dsimp only
  split
  · exact hs1.complete
  · split
    · exact hs1.complete
    · split
      · exact hs1.complete
      · split
        · exact hs1.complete
        · split
          · exact hs1.complete
          · split
            · exact hs1.complete
            · exact Steady.ite hs1.complete hs1.onFab.onCad.complete

theorem Steady.storeUnits {h : BitVec 32} {src : BitVec 64} {unit n : Nat} (hs : Steady w s₀ s) :
    Steady w s₀ (State.storeUnits h src unit n s) := by
  induction n generalizing src unit s with
  | zero => exact hs.complete
  | succ n ih =>
    unfold State.storeUnits
    split
    · exact ih hs.onCfg
    · exact hs.noteRead.complete
    · exact hs.noteRead.complete

theorem Steady.execCfgWrite {handle : BitVec 32} (hs : Steady w s₀ s) : Answers w s₀ (execCfgWrite handle s) := by
  unfold Machine.execCfgWrite
  dsimp only
  exact hs.carry fun _ _ hs => .ite hs.complete (.ite hs.complete (.ite hs.complete (.ite hs.complete hs.storeUnits)))

theorem Steady.trainPorts {all : Bool} (hs : Steady w s₀ s) : Steady w s₀ (s.trainPorts all) :=
  hs.foldl fun _ _ hs => .ite hs.portLost.onPort hs.onPort

theorem Steady.commitBlock {h : BitVec 32} {b : List (BitVec 8)} (hs : Steady w s₀ s) :
    Steady w s₀ (s.commitBlock h b) :=
  hs.onCfg.onFab.onCmd.onPwr.onWgt.onSys.tunePll.trainPorts.complete.raiseCfg

theorem Steady.checkCommit {h : BitVec 32} (hs : Steady w s₀ s) : Steady w s₀ (s.checkCommit h) := by
  unfold State.checkCommit
  dsimp only
  split
  · exact hs.onCfg
  · split
    · exact hs.onCfg.onCfg.complete.raiseCfg
    · exact hs.onCfg.commitBlock

theorem Steady.execCfgCommit {handle : BitVec 32} (hs : Steady w s₀ s) : Answers w s₀ (execCfgCommit handle s) :=
  hs.carry fun _ _ hs => .ite hs.complete (.ite hs.complete (.ite hs.checkCommit hs.working.onCfg))

theorem Steady.fenceBody {handle : BitVec 32} {l : Live} (hs : Steady w s₀ s) : Steady w s₀ (fenceBody handle l s) :=
  .ite hs.complete (.ite hs.complete (.ite hs.complete (.ite hs.complete hs.atBoundary)))

theorem Steady.execFenceCell {handle : BitVec 32} (hs : Steady w s₀ s) : Answers w s₀ (execFenceCell handle s) :=
  hs.carry fun _ _ hs => hs.fenceBody

theorem Steady.execUnfenceCell {handle : BitVec 32} (hs : Steady w s₀ s) : Answers w s₀ (execUnfenceCell handle s) :=
  hs.carry fun _ _ hs => hs.fenceBody

theorem Steady.execCalibrate {handle : BitVec 32} (hs : Steady w s₀ s) : Answers w s₀ (execCalibrate handle s) :=
  hs.carry fun _ _ hs => .ite hs.complete
    (.ite hs.complete (.ite hs.complete (.ite hs.complete (.ite hs.complete (.ite hs.complete hs.atBoundary)))))

theorem Steady.execCalStatus {handle : BitVec 32} (hs : Steady w s₀ s) : Answers w s₀ (execCalStatus handle s) :=
  hs.carry fun _ _ hs => hs.hostWrite.complete

theorem Steady.execHealthRead {handle : BitVec 32} (hs : Steady w s₀ s) : Answers w s₀ (execHealthRead handle s) :=
  hs.carry fun _ _ hs => .ite hs.complete (hs.hostWrite.andThen (·.onHlt)).complete

/-! ### Operations of `Machine/Cadence` -/

theorem Steady.closeWindow (hs : Steady w s₀ s) : Steady w s₀ s.closeWindow :=
  hs.onCad.andThen (·.raiseCad)

theorem Steady.passWindow {t : Int} (hs : Steady w s₀ s) : Steady w s₀ (s.passWindow t) :=
  .ite hs.closeWindow hs

theorem Steady.execAssociationWindowClose (hs : Steady w s₀ s) : Answers w s₀ (execAssociationWindowClose s) :=
  .ite hs.at_.closeWindow.finish hs.next

theorem Steady.fixB0 {opened b0 : Nat} (hs : Steady w s₀ s) : Steady w s₀ (s.fixB0 opened b0) := by
  unfold State.fixB0
  exact hs.onCad

theorem Steady.execArmTimeout (hs : Steady w s₀ s) : Answers w s₀ (execArmTimeout s) :=
  .ite hs.at_.onCad.raiseCad.fixB0.finish hs.next

theorem Steady.rejectMarker {t : Nat} (hs : Steady w s₀ s) : Steady w s₀ (s.rejectMarker t) :=
  hs.onCad.andThen (·.onCad.raiseCad)

theorem Steady.loadTimebase {h : BitVec 32} {mark : Int} (hs : Steady w s₀ s) : Steady w s₀ (s.loadTimebase h mark) :=
  hs.onCad.complete

theorem Steady.markBefore {mark : Int} (hs : Steady w s₀ s) : Steady w s₀ (s.markBefore mark) := by
  unfold State.markBefore
  split
  · exact hs.loadTimebase
  · exact .ite hs.fixB0 hs

theorem Steady.selectedMarker {t : Nat} {mark : Int} (hs : Steady w s₀ s) : Steady w s₀ (s.selectedMarker t mark) :=
  .ite (.ite hs.passWindow.rejectMarker (.ite hs.passWindow.onCad.markBefore hs.passWindow.onCad.onCad.onCad)) hs

theorem Steady.execCadenceMarker {tick : Nat} (hs : Steady w s₀ s) : Answers w s₀ (execCadenceMarker tick s) :=
  (hs.at_.orElse (·.selectedMarker)).finish

theorem Steady.leaderMark {sender : BitVec 12} {t : Nat} {mark : Int} (hs : Steady w s₀ s) :
    Steady w s₀ (s.leaderMark sender t mark) :=
  Steady.ite hs.onCad.onCad hs.onCad

theorem Steady.leaderActs {sender : BitVec 12} {t : Nat} {mark : Int} (hs : Steady w s₀ s) :
    Steady w s₀ (s.leaderActs sender t mark) := by
  unfold State.leaderActs
  split
  · exact .ite hs.onCad hs
  · exact .ite hs.leaderMark.onCad hs
  · exact .ite hs.leaderMark hs
  · exact hs

theorem Steady.leaderFrame {t : Nat} {mark : Int} {b : CadenceBody} (hs : Steady w s₀ s) :
    Steady w s₀ (s.leaderFrame t mark b) :=
  .ite hs.passWindow.raiseCad (hs.passWindow.andThen (·.raiseCad)).leaderActs

theorem Steady.execCadenceFrame {hdr : FrameHdr} {body : CadenceBody} (hs : Steady w s₀ s) :
    Answers w s₀ (execCadenceFrame hdr body s) :=
  hs.receiveIf fun _ hs => .ite hs (.ite hs.onCad.selectedMarker hs.onCad.leaderFrame)

theorem Steady.execLeaderFrameTimeout (hs : Steady w s₀ s) : Answers w s₀ (execLeaderFrameTimeout s) :=
  .ite hs.at_.closeWindow.finish hs.next

theorem Steady.enterHoldover (hs : Steady w s₀ s) : Steady w s₀ s.enterHoldover :=
  hs.onCad.raiseCad

theorem Steady.elect (hs : Steady w s₀ s) : Steady w s₀ s.elect := by
  unfold State.elect
  split
  · exact hs
  · exact Steady.ite hs.onCad.raiseCad hs.onCad

theorem Steady.holdoverTurn (hs : Steady w s₀ s) : Steady w s₀ s.holdoverTurn := by
  unfold State.holdoverTurn
  split
  · exact hs.onCad
  · exact (Steady.ite hs.onCad hs).andThen (·.elect)

theorem Steady.leaveHoldover (hs : Steady w s₀ s) : Steady w s₀ s.leaveHoldover :=
  hs.onCad.raiseCad

theorem Steady.cadenceTurn (hs : Steady w s₀ s) : Steady w s₀ s.cadenceTurn := by
  unfold State.cadenceTurn
  refine Steady.onCad ?_
  split
  · exact .ite (Steady.ite hs.onCad hs).enterHoldover (Steady.ite hs.onCad hs).onCad
  · exact .ite (Steady.ite hs.onCad hs).enterHoldover (Steady.ite hs.onCad hs).onCad
  · exact .ite (Steady.ite hs.onCad hs).enterHoldover (Steady.ite hs.onCad hs).onCad
  · split
    · exact (Steady.ite hs.onCad hs).enterHoldover.onCad
    · split
      · exact (Steady.ite hs.onCad hs).onCad.holdoverTurn
      · split
        · exact (Steady.ite hs.onCad hs).leaveHoldover
        · split
          · exact (Steady.ite hs.onCad hs).holdoverTurn
          · exact (Steady.ite hs.onCad hs).andThen (·.enterHoldover.raiseCad)
          · split
            · exact (Steady.ite hs.onCad hs).onCad.raiseCad
            · exact .ite hs.onCad hs
  · split
    · exact (Steady.ite hs.onCad hs).enterHoldover.onCad
    · split
      · exact (Steady.ite hs.onCad hs).onCad.holdoverTurn
      · split
        · exact (Steady.ite hs.onCad hs).leaveHoldover
        · split
          · exact (Steady.ite hs.onCad hs).holdoverTurn
          · exact (Steady.ite hs.onCad hs).andThen (·.enterHoldover.raiseCad)
          · split
            · exact (Steady.ite hs.onCad hs).onCad.raiseCad
            · exact .ite hs.onCad hs
  · split
    · exact (Steady.ite hs.onCad hs).enterHoldover.onCad
    · split
      · exact (Steady.ite hs.onCad hs).onCad.holdoverTurn
      · split
        · exact (Steady.ite hs.onCad hs).leaveHoldover
        · split
          · exact (Steady.ite hs.onCad hs).holdoverTurn
          · exact (Steady.ite hs.onCad hs).andThen (·.enterHoldover.raiseCad)
          · split
            · exact (Steady.ite hs.onCad hs).onCad.raiseCad
            · exact .ite hs.onCad hs
  · exact .ite hs.onCad hs

theorem Steady.sendLeader (hs : Steady w s₀ s) : Steady w s₀ s.sendLeader :=
  .ite (hs.foldl fun _ _ hs => hs.foldl fun _ _ hs => hs.sendMsg) hs

theorem Steady.enableInput (hs : Steady w s₀ s) : Steady w s₀ s.enableInput :=
  hs.onCad

theorem Steady.setSource {l : Live} (hs : Steady w s₀ s) : Steady w s₀ (s.setSource l) := by
  unfold State.setSource
  exact hs.onCad

theorem Steady.setPeriod {l : Live} (hs : Steady w s₀ s) : Steady w s₀ (s.setPeriod l) :=
  hs.onCad

theorem Steady.startArming {h : BitVec 32} {l : Live} (hs : Steady w s₀ s) : Steady w s₀ (s.startArming h l) := by
  unfold State.startArming
  exact hs.enableInput.setSource.setPeriod.onCad.onStep.onHlt.onFab

theorem Steady.arm {h : BitVec 32} {l : Live} (hs : Steady w s₀ s) : Steady w s₀ (s.arm h l) := by
  unfold State.arm
  split
  · exact hs.complete
  · split
    · exact hs.complete
    · split
      · exact hs.complete
      · exact .ite hs.complete hs.working.startArming

theorem Steady.cadenceNow {h : BitVec 32} {act : State → State} (hs : Steady w s₀ s)
    (hact : ∀ t, Steady w s₀ t → Steady w s₀ (act t)) :
    Steady w s₀ (s.cadenceNow h act) :=
  .ite (hact _ hs).complete hs.atBoundary

theorem Steady.execCadenceSet {handle : BitVec 32} (hs : Steady w s₀ s) : Answers w s₀ (execCadenceSet handle s) := by
  refine hs.carry fun l s hs => ?_
  split
  · exact hs.arm
  · exact hs.complete
  · exact .ite hs.complete (hs.cadenceNow fun _ hs => hs.setPeriod)
  · exact .ite hs.complete (.ite hs.complete hs.working.enableInput.onCad)
  · exact hs.enableInput.complete
  · exact .ite hs.complete (hs.cadenceNow fun _ hs => hs)
  · exact hs.enableInput.cadenceNow fun _ hs => hs.setSource

theorem Steady.execCadenceStatus {handle : BitVec 32} (hs : Steady w s₀ s) : Answers w s₀ (execCadenceStatus handle s) :=
  hs.carry fun _ _ hs => hs.hostWrite.complete

theorem Steady.takeCadence {b : Nat} {commit : Bool} (hs : Steady w s₀ s) : Steady w s₀ (s.takeCadence b commit) :=
  (hs.foldl fun _ _ hs => (Steady.ite hs.setPeriod hs.setSource).working.onCad).andThen fun hs => hs.onCad.foldl
    fun _ _ hs => hs.due

theorem Steady.unarmCtx {n : Nat} (hs : Steady w s₀ s) : Steady w s₀ (s.unarmCtx n) := by
  unfold State.unarmCtx
  extract_lets c s1 s2
  refine .ite hs ?_
  have h2 : Steady w s₀ s2 := (Steady.ite hs.cancelNow hs).onCtx.completeAll
  clear_value s2
  split
  · exact h2.freeCtx.complete
  · exact h2

theorem Steady.unarm (hs : Steady w s₀ s) : Steady w s₀ s.unarm := by
  unfold State.unarm
  extract_lets s1 s2 ds s3 s4 s5 s6 handles s7 s8 s9 s10 s11
  have h4 : Steady w s₀ s4 := (hs.onStep.onPwr.onCad.foldl fun _ _ hs => hs.complete).onCad
  have h5 : Steady w s₀ s5 := h4.foldl fun s x hs => Steady.complete (by
    split
    · exact hs.setPeriod
    · exact hs.setSource
    · exact hs)
  have h7 : Steady w s₀ s7 := (h5.foldl fun _ _ hs => hs.onFab.complete).onFab.completeAll
  have h8 : Steady w s₀ s8 := by
    clear_value s7
    unfold s8
    split
    · exact h7.onCyl.complete
    · exact h7
  have h10 : Steady w s₀ s10 := (h8.foldl fun _ _ hs => hs.release).foldl fun _ _ hs => hs.unarmCtx
  exact (h10.foldl fun _ _ hs => hs.complete.raisePwr).cancelCal

/-! ### Operations of `Machine/Fence` -/

/-- The value of a voted map is that of a copy. -/
theorem LegalFence.value {m : VotedMap} (h : LegalFence m) : ∀ e ∈ m.value, LegalEntry e := by
  obtain ⟨a, b, -⟩ := h
  unfold VotedMap.value
  split
  · exact b
  · exact a

theorem legalFence_all {es : List (BitVec 6)} (h : ∀ e ∈ es, LegalEntry e) : LegalFence (VotedMap.all es) := ⟨h, h, h⟩

/-- A column of a command, or the one that fences none, is no reserved entry. -/
theorem fenceEntryOf_legal (col : Nat) : LegalEntry (fenceEntryOf col) := by
  refine .inl ?_
  rw [fenceEntryOf, BitVec.toNat_ofNat]
  omega

theorem Steady.setFence {e : Nat} {v : BitVec 6} (hs : Steady w s₀ s) (hv : LegalEntry v) : Steady w s₀ (s.setFence e v) :=
  hs.onGrid (fence := fun _ h => legalFence_all (legalEntry_set h.value hv))

theorem Steady.keepFence {e : Nat} {v : BitVec 6} (hs : Steady w s₀ s) : Steady w s₀ (s.keepFence e v) :=
  .ite hs.onStore hs.storeStart

theorem Steady.repairDue {e : Nat} {old new : BitVec 6} {h : Option (BitVec 32)} (hs : Steady w s₀ s) :
    Steady w s₀ (s.repairDue e old new h) :=
  hs.onGrid

theorem Steady.fenceDone {h : Option (BitVec 32)} {st : BitVec 16} {d : BitVec 32} (hs : Steady w s₀ s) :
    Steady w s₀ (s.fenceDone h st d) := by
  unfold State.fenceDone
  split
  · exact hs
  · exact hs.onGrid

theorem Steady.fenced (hs : Steady w s₀ s) : Steady w s₀ s.fenced :=
  hs.onHlt.raiseGrid

theorem Steady.unfenced (hs : Steady w s₀ s) : Steady w s₀ s.unfenced :=
  hs.onHlt.raiseGrid

theorem Steady.changeEntry {e : Nat} {v : BitVec 6} {keep : Bool} {h : Option (BitVec 32)} (hs : Steady w s₀ s)
    (hv : LegalEntry v) : Steady w s₀ (s.changeEntry e v keep h) := by
  have set : Steady w s₀ (s.setFence e v) := hs.setFence hv
  have kept : Steady w s₀ (if keep then (s.setFence e v).keepFence e v else s.setFence e v) := .ite set.keepFence set
  exact .ite kept.repairDue kept.fenceDone

theorem Steady.exhausted (hs : Steady w s₀ s) : Steady w s₀ s.exhausted :=
  hs.onGrid.raiseGrid.orElse (·.sendLeave.onHlt)

theorem Steady.autoFences {due : List Nat} (hs : Steady w s₀ s) : Steady w s₀ (s.autoFences due) := by
  unfold State.autoFences
  refine hs.foldl fun s e hs => ?_
  split
  · exact hs
  · exact .ite hs.exhausted (hs.changeEntry (fenceEntryOf_legal _)).fenced

theorem Steady.applyFence {due : List Nat} {h : BitVec 32} {l : Live} (hs : Steady w s₀ s) :
    Steady w s₀ (s.applyFence due h l) :=
  .ite hs.working.fenceDone (.ite hs.working.fenceDone (hs.working.changeEntry (fenceEntryOf_legal _)).fenced)

theorem Steady.applyUnfence {h : BitVec 32} {l : Live} (hs : Steady w s₀ s) : Steady w s₀ (s.applyUnfence h l) :=
  .ite (hs.working.changeEntry (.inr rfl)).unfenced hs.working.fenceDone

theorem Steady.fenceCommands {due : List Nat} (hs : Steady w s₀ s) : Steady w s₀ (s.fenceCommands due) := by
  unfold State.fenceCommands
  refine hs.foldl (fun s h hs1 => ?_)
  split
  · exact hs1
  · exact Steady.ite hs1 (Steady.ite hs1.applyFence (Steady.ite hs1.applyUnfence hs1))

theorem Steady.pendEntries (hs : Steady w s₀ s) : Steady w s₀ s.pendEntries := by
  unfold State.pendEntries
  refine (hs.foldl fun s x hs => Steady.ite_of (fun _ => hs) fun hx => ?_).onGrid
  have changed : Steady w s₀ (s.changeEntry x.1 x.2 true none) := hs.changeEntry (.inl (by omega))
  exact (Steady.ite changed.unfenced changed).fenced

theorem Steady.fencePhase {due : List Nat} (hs : Steady w s₀ s) : Steady w s₀ (s.fencePhase due) :=
  hs.autoFences.fenceCommands.pendEntries

theorem Steady.chargeCells (hs : Steady w s₀ s) : Steady w s₀ s.chargeCells.2 :=
  hs.foldl_snd fun _ _ _ hs => hs.onPhys

theorem Steady.bridgeRows (hs : Steady w s₀ s) : Steady w s₀ s.bridgeRows :=
  hs.foldl fun _ _ hs => hs.onGrid.andThen (·.exhausted.raiseHlt)

theorem Steady.execRepairStart {sourceBad : Bool} (hs : Steady w s₀ s) : Answers w s₀ (execRepairStart sourceBad s) :=
  .ite hs.next (hs.onGrid.onCyl.andThen (·.withdraw)).close

/-- What a column had read before any was written is canonical with the cells it was read from. -/
theorem Steady.moveColumns {row die : Nat} {moves : List (Nat × Nat)} (hs : Steady w s₀ s) :
    Steady w s₀ (s.moveColumns row die moves) := by
  unfold State.moveColumns
  refine List.foldlRecOn (motive := Steady w s₀) _ _ hs fun t ht m hm => ?_
  obtain ⟨n, -, rfl⟩ := List.mem_map.1 hm
  refine ⟨ht.queue, ht.host, ht.fwSram, fun h => ?_, ht.fence, ht.known⟩
  obtain ⟨memory, cells, staged⟩ := ht.bytes h
  exact ⟨memory, cells.modify fun _ => (hs.bytes h).2.1.get _, staged⟩

theorem Steady.loadCell {logical : Nat} {trackers : SMap Tracker} (hs : Steady w s₀ s) :
    Steady w s₀ (s.loadCell logical trackers) :=
  ((hs.onCell fun _ => rfl).foldl fun _ _ hs => hs.writeResident).foldl fun _ _ hs => hs.cellWrite

theorem Steady.repairRow {r : RepairRec} (hs : Steady w s₀ s) : Steady w s₀ (s.repairRow r) :=
  (Steady.ite hs.moveColumns hs).onGrid.andThen (·.moveColumns.loadCell)

theorem Steady.execRepairDone {cycles : Nat} (hs : Steady w s₀ s) : Answers w s₀ (execRepairDone cycles s) :=
  .ite hs.next (((hs.foldl fun _ _ hs => hs.repairRow).onGrid.onCyl.foldl fun _ _ hs => hs.fenceDone).raiseGrid.andThen
    (·.raiseGrid)).close

/-! ### Operations of `Machine/Phases` -/

/-- A cell whose trackers take what the boundary gives them. -/
def rescaled (lock : Bool) (c : Cell) : Cell :=
  { c with trackers := Sparse.mapVals Tracker.reset (fun t => (t.update lock).1) c.trackers }

theorem Steady.scales (hs : Steady w s₀ s) : Steady w s₀ s.scales := by
  unfold State.scales
  refine Steady.foldl ?_ fun s x hs => .ite hs.putTable hs
  have updated : Steady w s₀ ((s.onArith fun a => { a with lockInForce := s.arith.scaleLock }).onGrid fun g => { g with
      cells := Sparse.mapVals Cell.reset (rescaled s.arith.scaleLock) g.cells }) :=
    hs.onArith.onGrid fun h => h.mapVals fun _ => rfl
  exact .ite updated.raiseArith updated

theorem Steady.lowerCap (hs : Steady w s₀ s) : Steady w s₀ s.lowerCap :=
  .ite ((hs.onPwr.andThen (·.raisePwr)).andThen (·.raisePwr)).tunePll hs

theorem Steady.stretchedBy {n : Nat} (hs : Steady w s₀ s) : Steady w s₀ (s.stretchedBy n) := by
  unfold State.stretchedBy
  exact hs.onPwr.onStep

theorem Steady.guard {east : Bool} (hs : Steady w s₀ s) : Steady w s₀ (s.guard east) :=
  .ite hs.onPwr.raisePwr hs

theorem Steady.finishCal {c : CalRun} (hs : Steady w s₀ s) : Steady w s₀ (s.finishCal c) :=
  .ite hs.endCal.complete.raisePwr (.ite hs.applyEntries.endCal.complete.raisePwr hs.storeStart.onPwr)

theorem Steady.calStep {commit skipped overrun : Bool} {junction : Int} (hs : Steady w s₀ s) :
    Steady w s₀ (s.calStep commit skipped overrun junction) := by
  unfold State.calStep
  split
  · exact hs
  · exact .ite hs.cancelCal (.ite hs (hs.onPwr.andThen (·.finishCal)))

theorem Steady.startCal (hs : Steady w s₀ s) : Steady w s₀ s.startCal :=
  hs.foldl fun _ _ hs => .ite hs.complete.raisePwr hs.working.onPwr

theorem Steady.phase6 {west east : Bool} (hs : Steady w s₀ s) : Steady w s₀ (s.phase6 west east) :=
  hs.lowerCap.guard.guard.sequence.startCal.orElse (·.commandVolts)

theorem Steady.beat0 (hs : Steady w s₀ s) : Steady w s₀ s.beat0 :=
  (hs.onGrid fun h => h.mapVals (g := Cell.beat0) fun _ => rfl).onFab.edgeOpen

/-! ### Operations of `Machine/Boundary` -/

theorem Steady.sendVerdict {commit : Bool} {cause : BitVec 8} (hs : Steady w s₀ s) :
    Steady w s₀ (s.sendVerdict commit cause) := by
  unfold State.sendVerdict
  exact hs.sendGroups.onFab.onStep

theorem Steady.execLastBeat (hs : Steady w s₀ s) : Answers w s₀ (execLastBeat s) :=
  .ite hs.next ((hs.at_.settleAll.foldl fun _ _ hs => hs.streamEnd).settleAll.onStep.share fun hs => .ite
    (hs.andThen (·.announce)).sendVerdict.close hs.close)

theorem Steady.declareLost {c : BitVec 12} (hs : Steady w s₀ s) : Steady w s₀ (s.declareLost c) :=
  hs.onHlt.raiseHlt.resolvePeer.cancelCal

theorem Steady.countStretch (hs : Steady w s₀ s) : Steady w s₀ s.countStretch :=
  .ite hs.drawn.stretchedBy hs

theorem Steady.resolvePeers (hs : Steady w s₀ s) : Steady w s₀ s.resolvePeers :=
  (hs.foldl fun _ _ hs => hs.resolvePeer).cancelCal

theorem Steady.judge {b : Nat} {west east : Bool} (hs : Steady w s₀ s) : Steady w s₀ (s.judge b west east).2 := by
  unfold State.judge
  extract_lets s1 overrun lost withdrew missing s2 s3 s4 s5 s6 j
  have h1 : Steady w s₀ s1 := hs.countStretch
  have h2 : Steady w s₀ s2 := h1.foldl fun _ _ hs => hs.declareLost
  have h3 : Steady w s₀ s3 := h2.onHlt
  have h4 : Steady w s₀ s4 := .ite h3.resolvePeers h3
  have h5 : Steady w s₀ s5 := .ite h4.losePartition h4
  have h6 : Steady w s₀ s6 := .ite h5.onCad.raiseCad h5
  clear_value s6
  split
  next commit skipped cause _ =>
    have charged : Steady w s₀ (if commit || skipped then (([] : List Nat), s6) else s6.chargeCells).2 := by
      split
      · exact h6
      · exact h6.chargeCells
    exact .ite charged charged.bridgeRows

theorem Steady.actOnRead {tier slot : Nat} (hs : Steady w s₀ s) : Steady w s₀ (s.actOnRead tier slot) := by
  unfold State.actOnRead
  dsimp only
  split
  · exact hs
  · split
    · split
      · exact hs
      · split
        · exact hs
        · exact hs.scrubMismatch
    · split
      · exact .ite hs.losePage.loseCtx.raiseSrv hs.losePage.withdraw
      · exact .ite (.ite hs.losePage.withdraw hs) hs.losePage.withdraw

theorem Steady.actOnReads (hs : Steady w s₀ s) : Steady w s₀ s.actOnReads :=
  hs.onHlt.foldl fun _ _ hs => hs.actOnRead

theorem Steady.publishAll (hs : Steady w s₀ s) : Steady w s₀ s.publishAll := by
  unfold State.publishAll
  refine (Steady.onGrid ?_).foldl fun _ _ hs => hs.due
  split
  · exact (Steady.ite hs.publish hs.publishPeer).completeBatches.masksDone.takeReleases.onCyl.due
  · exact (Steady.ite hs.publish hs.publishPeer).completeBatches.masksDone.takeReleases

theorem Steady.takeDrain {empty : Bool} (hs : Steady w s₀ s) : Steady w s₀ (s.takeDrain empty) := by
  unfold State.takeDrain
  split
  · exact .ite hs.onCyl.due hs
  · exact hs

theorem Steady.writeReport {bs : List (BitVec 8)} (hs : Steady w s₀ s) : Steady w s₀ (s.writeReport bs) :=
  .ite hs (.ite hs.onStep (.ite hs.onStep (hs.hostWrite.onCmd.onStep.orElse (·.vectorEvent))))

theorem Steady.countOutcome {k : Closing} (hs : Steady w s₀ s) : Steady w s₀ (s.countOutcome k) :=
  .ite hs.onHlt.onStep (.ite hs.onHlt hs.onHlt)

theorem Steady.phase5 (hs : Steady w s₀ s) : Steady w s₀ s.phase5 := by
  unfold State.phase5
  split
  · exact hs
  · exact .ite (hs.trySwitch.andThen (·.onCyl)) hs

theorem Steady.forceOut (hs : Steady w s₀ s) : Steady w s₀ s.forceOut :=
  hs.forcedLeaves.andThen fun hs => hs.foldl fun _ _ hs => hs.putInput

theorem Steady.slotChanges {b : Nat} (hs : Steady w s₀ s) : Steady w s₀ (s.slotChanges b) := by
  unfold State.slotChanges
  exact (Steady.ite hs.plan hs.applySerial).countNotes.batchesApplied.onSrv

theorem Steady.phases3to9 {k : Closing} (hs : Steady w s₀ s) : Steady w s₀ (s.phases3to9 k) := by
  unfold State.phases3to9
  dsimp only
  split
  · exact ((Steady.ite hs.scales hs).fencePhase.phase5.orElse (·.calStep)).phase6.forceOut.slotChanges
  · exact ((Steady.ite hs.scales hs).fencePhase.orElse (·.calStep)).phase6.forceOut

theorem Steady.phase2 {k : Closing} (hs : Steady w s₀ s) : Steady w s₀ (s.phase2 k) :=
  (((hs.actOnReads.andThen (·.publishAll)).orElse (·.takeCadence)).andThen (·.takeDrain)).writeDues.writeReport.countOutcome

theorem Steady.phase2First {b : Nat} (hs : Steady w s₀ s) : Steady w s₀ (s.phase2First b) :=
  .ite hs.onCad.onMem (.ite (.ite hs.onCad.leaveWriteBack hs.onCad.onMem.completeOpt) hs.onCad.completeOpt)

theorem Steady.phase10 (hs : Steady w s₀ s) : Steady w s₀ s.phase10 :=
  (hs.foldl fun _ _ hs => hs.ttl2Due.ttl3Due).startScrubs.restoreSuspects.andThen (·.writeBackAll)

theorem Steady.phase11 {k : Closing} (hs : Steady w s₀ s) : Steady w s₀ (s.phase11 k) :=
  .ite (Steady.ite hs hs.onCad).stageInputs hs

theorem Steady.replayed (hs : Steady w s₀ s) : Steady w s₀ s.replayed :=
  .ite hs.onHlt.onHlt (hs.onHlt.andThen (·.onHlt.raiseHlt))

theorem Steady.beginStep {k : Closing} (hs : Steady w s₀ s) : Steady w s₀ (s.beginStep k) := by
  unfold State.beginStep
  extract_lets skip s1 s2 still s3 blank s4 s5 s6
  have h1 : Steady w s₀ s1 := .ite hs.onPwr.raisePwr hs.onPwr
  have h2 : Steady w s₀ s2 := .ite h1.cancelCal h1
  have h3 : Steady w s₀ s3 := h2.onCad
  have h4 : Steady w s₀ s4 := h3.onStep
  have h5 : Steady w s₀ s5 := h4.onGrid
  have h6 : Steady w s₀ s6 := h5.replayed.beat0.sendLeader
  exact .ite h6.sendVerdict h6

theorem Steady.quiesce (hs : Steady w s₀ s) : Steady w s₀ s.quiesce := by
  unfold State.quiesce
  exact hs.stopCells.sendLeave.endHandles.onHlt.onPins

theorem Steady.vacate (hs : Steady w s₀ s) : Steady w s₀ s.vacate :=
  (hs.foldl fun _ _ hs => hs.leaveSlot).freeClosing.onSrv

theorem Steady.takeDisarm {b : Nat} (hs : Steady w s₀ s) : Yields w s₀ (s.takeDisarm b) := by
  unfold State.takeDisarm
  split
  · exact .none
  · exact Steady.some (Steady.completeAll (hs.foldl fun _ _ hs => hs.working).vacate.unarm)

theorem Steady.afterReport {k : Closing} (hs : Steady w s₀ s) : Steady w s₀ (s.afterReport k) := by
  unfold State.afterReport
  dsimp only
  split
  next _ _ e1 =>
    exact hs.phases3to9.phase10.phase11.takeMasks.onCad.pulse.takeDisarm _ e1
  · exact hs.phases3to9.phase10.phase11.takeMasks.onCad.pulse.restripe.fabricShort.cadenceTurn.beginStep

theorem Steady.firstBoundary {b : Nat} {west east : Bool} (hs : Steady w s₀ s) :
    Steady w s₀ (s.firstBoundary b west east) :=
  (hs.countStretch.onStep.andThen
    (·.onHlt.resolvePeers.losePartition)).phase2First.actOnReads.takeCadence.writeDues.afterReport

theorem Steady.closingBoundary {b : Nat} {west east : Bool} (hs : Steady w s₀ s) :
    Steady w s₀ (s.closingBoundary b west east) := by
  unfold State.closingBoundary
  dsimp only
  split
  · exact .ite hs.judge.phase2.quiesce hs.judge.phase2.afterReport
  · exact hs.judge.rollBack.phase2.share fun hs => .ite hs.quiesce hs.afterReport

theorem Steady.execBoundary {vrWest vrEast : Bool} (hs : Steady w s₀ s) : Answers w s₀ (execBoundary vrWest vrEast s) :=
  .ite hs.next ((Steady.ite hs.closeWindow hs).at_.onStep.voteAll.share fun hs => .ite hs.close
    (hs.share fun hs => .ite hs.closingBoundary.close hs.firstBoundary.close))

/-! ### Operations of `Machine/Health` -/

theorem Steady.modelLoses {m : ModelVer} {pages : List Nat} (hs : Steady w s₀ s) : Steady w s₀ (s.modelLoses m pages) :=
  .ite hs (hs.foldl fun _ _ hs => hs.foldl fun _ _ hs => hs.setShard).onModel

theorem Steady.ownersLearn {tier : Nat} {slots : List Nat} (hs : Steady w s₀ s) :
    Steady w s₀ (s.ownersLearn tier slots) :=
  (hs.foldl fun _ _ hs => hs.modelLoses).orElse fun hs => (hs.foldl fun _ _ hs => hs.loseCtx).raiseSrv.writeDues

theorem Steady.pageFails {tier slot : Nat} (hs : Steady w s₀ s) : Steady w s₀ (s.pageFails tier slot) := by
  unfold State.pageFails
  dsimp only
  split
  · exact ((hs.foldl fun _ _ hs => hs.endLocal).foldl fun _ _ hs => hs.endLocal).foldl fun _ _ hs => hs.resolveRemote
  · exact ((hs.foldl fun _ _ hs => hs.endLocal).foldl fun _ _ hs => hs.endLocal).foldl fun _ _ hs => hs.resolveRemote
  · exact ((hs.foldl fun _ _ hs => hs.endLocal).foldl fun _ _ hs => hs.endLocal).foldl fun _ _ hs => hs.resolveRemote
  · split
    · exact (((hs.foldl fun _ _ hs => hs.endLocal).foldl fun _ _ hs => hs.endLocal).foldl fun _ _ hs =>
        hs.resolveRemote).losePage.freeSlotAt
    · exact (((hs.foldl fun _ _ hs => hs.endLocal).foldl fun _ _ hs => hs.endLocal).foldl fun _ _ hs =>
        hs.resolveRemote).losePage

end Sys2Proof.Proofs
end

section
/-!
Each operation of the model is steady, from `Machine/Health` to `Machine/Step`: one lemma for each, over the lemmas
of what it calls.
-/
namespace Sys2Proof.Proofs
open Sys2Proof.Machine
variable {w : Watch} {s₀ s t u : State}

/-! ### Operations of `Machine/Health` -/

theorem Steady.execUncorrectableRead {tier : BitVec 4} {slot unit tick : Nat} (hs : Steady w s₀ s) :
    Answers w s₀ (execUncorrectableRead tier slot unit tick s) :=
  .ite hs.at_.next ((hs.at_.uncorrectable.orElse (·.signal)).share fun hs => .ite
    (hs.onHlt.share fun hs => .ite hs.halt.close hs.finish) hs.finish)

theorem Steady.execHbmStackFailure {stack : Nat} (hs : Steady w s₀ s) : Answers w s₀ (execHbmStackFailure stack s) :=
  .ite hs.signal.halt.close hs.next

theorem Steady.execDdrChannelFailure {channel : Nat} (hs : Steady w s₀ s) :
    Answers w s₀ (execDdrChannelFailure channel s) :=
  .ite hs.next (hs.onMem.raiseMem.signal.foldl fun _ _ hs => hs.pageFails).ownersLearn.close

theorem Steady.driveFails {port : Nat} (hs : Steady w s₀ s) : Steady w s₀ (s.driveFails port) := by
  unfold State.driveFails
  extract_lets member s1 s2 slots s3
  have h2 : Steady w s₀ s2 := hs.onMem.signal
  have h3 : Steady w s₀ s3 := (h2.foldl fun _ _ hs => hs.pageFails).ownersLearn
  clear_value s3
  exact .ite (h3.onMem (.of_eq rfl)).raiseMem h2

theorem Steady.execFlashDriveTimeout {port : Nat} (hs : Steady w s₀ s) : Answers w s₀ (execFlashDriveTimeout port s) :=
  .ite hs.driveFails.close hs.next

theorem Steady.labelWritten {c : DriveCmd} {second : Bool} {bytes : List (BitVec 8)} (hs : Steady w s₀ s) :
    Steady w s₀ (s.labelWritten c second bytes) :=
  hs.onMem.orElse (·.toDrive)

theorem Steady.driveError {c : DriveCmd} (hs : Steady w s₀ s) : Steady w s₀ (s.driveError c) := by
  unfold State.driveError
  split
  · exact hs
  · exact .ite hs.uncorrectable.endLocal hs.endLocal

theorem Steady.execNvmeCompletion {port command : Nat} {status : NvmeStatus} (hs : Steady w s₀ s) :
    Answers w s₀ (execNvmeCompletion port command status s) := by
  unfold Machine.execNvmeCompletion
  split
  · exact hs.next
  · split
    · exact hs.next
    · dsimp only
      split
      · exact hs.onMem.pumpDrives.labelWritten.finish
      · exact hs.onMem.pumpDrives.finish
      · exact hs.onMem.pumpDrives.driveError.close
      · exact hs.driveFails.close

theorem Steady.execFirmwareSramUncorrectable (hs : Steady w s₀ s) : Answers w s₀ (execFirmwareSramUncorrectable s) :=
  .ite hs.onMgt.next hs.onMgt.halt.close

theorem Steady.sampleCores (hs : Steady w s₀ s) : Steady w s₀ s.sampleCores :=
  hs.onFreeCount.onMgt.lines

theorem Steady.execHeartbeatInterval (hs : Steady w s₀ s) : Answers w s₀ (execHeartbeatInterval s) :=
  (hs.onMgt.andThen (·.raiseMgt)).sampleCores.share fun hs => .ite hs.halt.close hs.finish

theorem Steady.calStored {ok : Bool} (hs : Steady w s₀ s) : Steady w s₀ (s.calStored ok) := by
  unfold State.calStored
  split
  · exact hs
  · split
    · exact Steady.ite hs.applyEntries.endCal.complete.raisePwr hs.applyEntries.endCal.complete.raisePwr
    · exact hs

theorem Steady.execCalibrationStoreWriteDone {record : StoreRec} {ok : Bool} (hs : Steady w s₀ s) :
    Answers w s₀ (execCalibrationStoreWriteDone record ok s) := by
  unfold Machine.execCalibrationStoreWriteDone
  split
  · exact hs.next
  · dsimp only
    split
    · exact ((hs.onStore.andThen (·.storeWrite)).andThen (·.onPwr)).calStored.close
    · exact (hs.onStore.andThen (·.storeWrite)).finish

theorem Steady.execPwrfail {tick : Nat} (hs : Steady w s₀ s) : Answers w s₀ (execPwrfail tick s) := by
  unfold Machine.execPwrfail
  extract_lets s1 u s2 k
  have hu : Steady w s₀ u := hs.at_.onHlt.raiseHlt
  exact .ite hs.at_.next (.ite hu.quiesce.onCfg.close (.ite hu.quiesce.close (.ite hu.close
    hu.countStretch.stopCells.writeReport.countOutcome.quiesce.close)))

/-! ### Operations of `Machine/PowerRows` -/

theorem Steady.trip (hs : Steady w s₀ s) : Steady w s₀ s.trip := by
  unfold State.trip
  exact hs.halt.endHandles.onPins.onHlt

theorem Steady.execThermalScan {tick : Nat} {hottest coolest : Int} {power : BitVec 32} (hs : Steady w s₀ s) :
    Answers w s₀ (execThermalScan tick hottest coolest power s) :=
  .ite hs.at_.next (.ite hs.at_.onPwr.trip.close hs.at_.onPwr.finish)

theorem Steady.execThermalCapRaise {tick : Nat} (hs : Steady w s₀ s) : Answers w s₀ (execThermalCapRaise tick s) :=
  .ite hs.at_.onPwr.tunePll.finish hs.at_.next

theorem Steady.execRailCurrentRead {west east : BitVec 32} (hs : Steady w s₀ s) :
    Answers w s₀ (execRailCurrentRead west east s) :=
  .ite hs.next hs.onPwr.finish

theorem Steady.execMarginTrip {west east : Bool} (hs : Steady w s₀ s) : Answers w s₀ (execMarginTrip west east s) :=
  .ite hs.next (hs.onPwr.andThen (·.onStep)).finish

theorem Steady.execStretchEnd {cycles : Nat} (hs : Steady w s₀ s) : Answers w s₀ (execStretchEnd cycles s) := by
  unfold Machine.execStretchEnd
  split
  · exact hs.next
  · exact hs.onPwr.stretchedBy.finish

theorem Steady.execPllLock {pll : Pll} (hs : Steady w s₀ s) : Answers w s₀ (execPllLock pll s) :=
  (hs.onPwr.andThen (·.onPwr)).finish

theorem Steady.execPllSlip {pll : Pll} (hs : Steady w s₀ s) : Answers w s₀ (execPllSlip pll s) :=
  .ite hs.next ((hs.onPwr.raisePwr.andThen (·.onPwr)).andThen (·.withdraw)).finish

theorem Steady.execClockQualification {src : ClockSrc} {count : Nat} (hs : Steady w s₀ s) :
    Answers w s₀ (execClockQualification src count s) := by
  unfold Machine.execClockQualification
  split
  · exact hs.next
  · split
    · exact hs.onPwr.finish
    · split
      · exact hs.onPwr.finish
      · dsimp only
        split
        · exact hs.onPwr.raisePwr.finish
        · exact hs.onPwr.raisePwr.linkDown.close
        · exact (hs.onPwr.raisePwr.orElse (·.withdraw)).close

theorem Steady.execUnarmedOpTick {vrWest vrEast : Bool} {tick : Nat} (hs : Steady w s₀ s) :
    Answers w s₀ (execUnarmedOpTick vrWest vrEast tick s) :=
  .ite hs.at_.next (hs.at_.sequence.orElse (·.commandVolts)).finish

/-! ### Operations of `Machine/Boot` -/

theorem Steady.execPowerOn {tick : Nat} (hs : Steady w s₀ s) : Answers w s₀ (execPowerOn tick s) :=
  .ite hs.next hs.enterReset.onPins.onCfg.at_.finish

theorem Steady.auxDown (hs : Steady w s₀ s) : Steady w s₀ s.auxDown := by
  unfold State.auxDown
  exact hs.onPins.onCfg

theorem Steady.execPowerRemoved (hs : Steady w s₀ s) : Answers w s₀ (execPowerRemoved s) :=
  .ite (hs.drawn.enterReset.onPins.onCfg.orElse (·.auxDown)).finish (.ite hs.auxDown.finish hs.next)

theorem Steady.execResetNAssert {tick : Nat} (hs : Steady w s₀ s) : Answers w s₀ (execResetNAssert tick s) :=
  .ite hs.next hs.at_.enterReset.onPins.finish

theorem Steady.released (hs : Steady w s₀ s) : Steady w s₀ s.released :=
  .ite hs.onCfg hs

theorem Steady.debugRelease (hs : Steady w s₀ s) : Steady w s₀ s.debugRelease :=
  .ite hs.drawn.onMgt hs

theorem Steady.execResetNRelease {strap : BitVec 8} {tick : Nat} (hs : Steady w s₀ s) :
    Answers w s₀ (execResetNRelease strap tick s) :=
  .ite hs.next hs.at_.debugRelease.onPins.onCfg.released.finish

theorem Steady.execResetPulseEnd {tick : Nat} (hs : Steady w s₀ s) : Answers w s₀ (execResetPulseEnd tick s) :=
  .ite hs.next hs.at_.onCfg.released.finish

theorem Steady.bootFails {e : BitVec 8} (hs : Steady w s₀ s) : Steady w s₀ (s.bootFails e) :=
  hs.onCfg

theorem Steady.clockFails {e : BitVec 8} (hs : Steady w s₀ s) : Steady w s₀ (s.clockFails e) :=
  .ite hs.onCfg hs.bootFails

theorem Steady.enterStage {n : BitVec 8} (hs : Steady w s₀ s) : Steady w s₀ (s.enterStage n) :=
  hs.onCfg

theorem Steady.stageAux {r : BootReport} (hs : Steady w s₀ s) : Steady w s₀ (s.stageAux r) :=
  .ite hs.onPwr.enterStage hs.clockFails

theorem Steady.stageClocks {r : BootReport} (hs : Steady w s₀ s) : Steady w s₀ (s.stageClocks r) :=
  .ite hs.clockFails (.ite hs.clockFails hs.onPwr.enterStage)

theorem Steady.stageRom {r : BootReport} (hs : Steady w s₀ s) : Steady w s₀ (s.stageRom r) := by
  unfold State.stageRom
  extract_lets floor s1
  have h1 : Steady w s₀ s1 := hs.onMgt
  clear_value s1
  split
  · exact h1.bootFails
  · refine .ite h1.bootFails ?_
    extract_lets img body s2 s3
    have h3 : Steady w s₀ s3 := (h1.onMgt fun h => Mem.wf_writes _ _ _ h).onCfg
    exact (Steady.ite h3.raiseCfg h3).enterStage

/-- A byte of the persistent record as the map takes it. -/
theorem legalEntry_ofRecord (b : BitVec 8) :
    LegalEntry (if decide (b.toNat ≤ 0x20) || decide (b = 0x3F) then b.setWidth 6 else 0x3F) := by
  split
  next h =>
    rcases (Bool.or_eq_true _ _).mp h with h | h
    · have hb := of_decide_eq_true h
      refine .inl ?_
      rw [BitVec.toNat_setWidth]
      omega
    · rw [of_decide_eq_true h]
      exact .inr rfl
  · exact .inr rfl

theorem Steady.bootFences (hs : Steady w s₀ s) : Steady w s₀ s.bootFences := by
  have entered {es : List (BitVec 8)} : Steady w s₀ (s.onGrid fun g => { g with
      fence := VotedMap.all (es.map fun b => if decide (b.toNat ≤ 0x20) || decide (b = 0x3F) then b.setWidth 6 else 0x3F)
        }) := by
    refine hs.onGrid (fence := fun _ _ => legalFence_all fun e he => ?_)
    obtain ⟨b, -, rfl⟩ := List.mem_map.1 he
    exact legalEntry_ofRecord b
  exact .ite entered entered.raiseCfg

theorem Steady.bootCal (hs : Steady w s₀ s) : Steady w s₀ s.bootCal := by
  unfold State.bootCal
  split
  · exact hs
  · exact hs.onPwr

theorem Steady.stageFirmware (hs : Steady w s₀ s) : Steady w s₀ s.stageFirmware :=
  hs.onMgt.onSys.bootCal.commandVolts.bootFences.onPins.onCfg.enterStage

theorem Steady.stageHost (hs : Steady w s₀ s) : Steady w s₀ s.stageHost :=
  hs.onFunc.raiseCmd.onPins.enterStage

theorem Steady.bootDrives {rs : List DriveReport} (hs : Steady w s₀ s) : Steady w s₀ (s.bootDrives rs) := by
  unfold State.bootDrives
  dsimp only
  split
  · exact (hs.onMem.andThen (·.raiseMem)).onMem
  · exact (hs.onMem.andThen (·.raiseMem)).raiseMem

theorem Steady.training {r : StoreRec} {stored : Option (List (BitVec 8))} (hs : Steady w s₀ s) :
    Steady w s₀ (s.training r stored).2 := by
  unfold State.training
  split
  · exact hs
  · exact hs.drawn.storeStart

theorem Steady.trainMemory (hs : Steady w s₀ s) : Steady w s₀ s.trainMemory := by
  unfold State.trainMemory
  exact hs.training.training.onMem

theorem Steady.hardRepair (hs : Steady w s₀ s) : Steady w s₀ s.hardRepair := by
  unfold State.hardRepair
  exact hs.onMem

theorem Steady.stageMemory {r : BootReport} (hs : Steady w s₀ s) : Steady w s₀ (s.stageMemory r) :=
  (hs.onMem.onPins.orElse (·.raiseMem)).trainMemory.hardRepair.bootDrives.onPwr.onCfg.enterStage

/-- The tiles that waited are lost with the reset. -/
theorem restoredTiles_wf (d1 : SMap DirEntry) (ms : List ModelVer) :
    StagedWf (ms.map fun m => restoredModel d1 m) [] := by
  refine ⟨fun m hm => ?_, List.forall_mem_nil _⟩
  obtain ⟨n, -, rfl⟩ := List.mem_map.1 hm
  rfl

theorem Steady.restoreModels (hs : Steady w s₀ s) : Steady w s₀ s.restoreModels := by
  unfold State.restoreModels
  extract_lets saved s1 ms
  have h1 : Steady w s₀ s1 := hs.foldl fun _ _ hs => hs.foldl fun _ _ hs => hs.freePage
  exact h1.onWgt fun _ => restoredTiles_wf _ _

theorem Steady.freeOrphans (hs : Steady w s₀ s) : Steady w s₀ s.freeOrphans := by
  unfold State.freeOrphans
  extract_lets kept s1
  have h1 : Steady w s₀ s1 := hs.onMem (.of_eq ((replaceDir_tierBytes ..).trans (replaceDir_tierBytes ..)))
  exact .ite ((h1.onMem (.of_eq (replaceDir_tierBytes ..))).foldl fun _ _ hs => hs.deallocate) h1

theorem Steady.countLost (hs : Steady w s₀ s) : Steady w s₀ s.countLost :=
  hs.onMem.orElse (·.raiseMem)

theorem Steady.loseTier2 (hs : Steady w s₀ s) : Steady w s₀ s.loseTier2 := by
  unfold State.loseTier2
  extract_lets before s1 s2 s3 s4
  have h1 : Steady w s₀ s1 := hs.onMem (.of_eq (replaceDir_tierBytes ..))
  have h2 : Steady w s₀ s2 := h1.onMem.countLost
  have h3 : Steady w s₀ s3 := h2.onMem fun ⟨⟨t1, _, t3⟩, remotes⟩ =>
    .of_eq (replaceDir_tierBytes ..) ⟨⟨t1, rfl, t3⟩, remotes⟩
  have h4 : Steady w s₀ s4 := h3.onWgt fun ⟨models, _⟩ => ⟨models, fun _ hm => nomatch hm⟩
  exact .ite h4.raiseCfg h4

theorem Steady.keepTier2 (hs : Steady w s₀ s) : Steady w s₀ s.keepTier2 :=
  hs.onMem.onCfg.countLost.restoreModels

theorem Steady.stageDirectory {r : BootReport} (hs : Steady w s₀ s) : Steady w s₀ (s.stageDirectory r) := by
  unfold State.stageDirectory
  dsimp only
  split
  · exact ((Steady.ite hs.keepTier2 hs.loseTier2).freeOrphans.andThen (·.writeLabels)).onCfg.enterStage.checkCommit
  · exact ((Steady.ite hs.keepTier2 hs.loseTier2).freeOrphans.andThen (·.writeLabels)).onCfg.enterStage

theorem Steady.execBootStageDone {r : BootReport} (hs : Steady w s₀ s) : Answers w s₀ (execBootStageDone r s) :=
  .ite hs.at_.next (.ite hs.at_.stageAux.close
    (.ite hs.at_.stageClocks.close
    (.ite hs.at_.stageRom.close
    (.ite hs.at_.stageFirmware.close
    (.ite hs.at_.stageHost.close (.ite hs.at_.stageMemory.close (.ite hs.at_.stageDirectory.close hs.at_.next)))))))

theorem Steady.execBootStageRetry (hs : Steady w s₀ s) : Answers w s₀ (execBootStageRetry s) :=
  .ite hs.onCfg.finish hs.next

/-! ### Operations of `Machine/RegRows` -/

theorem Steady.requested {req : Requester} (hs : Steady w s₀ s) : Steady w s₀ (s.requested req) := by
  unfold State.requested
  split
  · exact hs.wakeCore
  · exact hs.wakeCore
  · exact hs

theorem Steady.readRow {a : Access} (hs : Steady w s₀ s) : Answers w s₀ (readRow a s) :=
  hs.requested.regRead.onHost.finish

theorem Steady.writeRow {a : Access} {v : BitVec 32} (hs : Steady w s₀ s) : Answers w s₀ (writeRow a v s) :=
  hs.requested.regWrite.onHost.finish

theorem Steady.execIcClaimRead {req : Requester} {target : Fin 5} (hs : Steady w s₀ s) :
    Answers w s₀ (execIcClaimRead req target s) :=
  hs.readRow

theorem Steady.execIcCompleteWrite {req : Requester} {target : Fin 5} {value : BitVec 32} (hs : Steady w s₀ s) :
    Answers w s₀ (execIcCompleteWrite req target value s) :=
  hs.writeRow

theorem Steady.execIcGwAckWrite {req : Requester} {value : BitVec 32} (hs : Steady w s₀ s) :
    Answers w s₀ (execIcGwAckWrite req value s) :=
  hs.writeRow

theorem Steady.execIcPendRead {req : Requester} {word : Fin 32} (hs : Steady w s₀ s) :
    Answers w s₀ (execIcPendRead req word s) :=
  hs.readRow

theorem Steady.execIcDoorbellWrite {req : Requester} {high : Bool} {value : BitVec 32} (hs : Steady w s₀ s) :
    Answers w s₀ (execIcDoorbellWrite req high value s) :=
  hs.writeRow

theorem Steady.execIcStormUnmask {req : Requester} {source : Nat} {value : BitVec 32} (hs : Steady w s₀ s) :
    Answers w s₀ (execIcStormUnmask req source value s) :=
  hs.writeRow

theorem Steady.execDmaGo {req : Requester} {channel : Fin 16} {value : BitVec 32} (hs : Steady w s₀ s) :
    Answers w s₀ (execDmaGo req channel value s) :=
  hs.writeRow

theorem Steady.execDmaAbort {req : Requester} {channel : Fin 16} {value : BitVec 32} (hs : Steady w s₀ s) :
    Answers w s₀ (execDmaAbort req channel value s) :=
  hs.writeRow

theorem Steady.execQueueEnable {func : BitVec 4} {queue : Fin 8} {value : BitVec 32} (hs : Steady w s₀ s) :
    Answers w s₀ (execQueueEnable func queue value s) :=
  hs.writeRow

theorem Steady.execQueueDisable {func : BitVec 4} {queue : Fin 8} {value : BitVec 32} (hs : Steady w s₀ s) :
    Answers w s₀ (execQueueDisable func queue value s) :=
  hs.writeRow

theorem Steady.execCmdTailDoorbell {func : BitVec 4} {queue : Fin 8} {value : BitVec 32} {tick : Nat} (hs : Steady w s₀ s) :
    Answers w s₀ (execCmdTailDoorbell func queue value tick s) :=
  hs.at_.writeRow

theorem Steady.execRspHeadDoorbell {func : BitVec 4} {queue : Fin 8} {value : BitVec 32} {tick : Nat} (hs : Steady w s₀ s) :
    Answers w s₀ (execRspHeadDoorbell func queue value tick s) :=
  hs.at_.writeRow

theorem Steady.execSrHeadDoorbell {value : BitVec 32} (hs : Steady w s₀ s) : Answers w s₀ (execSrHeadDoorbell value s) :=
  hs.writeRow

theorem Steady.execTokenDoorbell {func : BitVec 4} {ctx : Fin 1024} {value : BitVec 32} (hs : Steady w s₀ s) :
    Answers w s₀ (execTokenDoorbell func ctx value s) :=
  hs.writeRow

theorem Steady.execGridPendWrite {req : Requester} {reg : Fin 12} {value : BitVec 32} (hs : Steady w s₀ s) :
    Answers w s₀ (execGridPendWrite req reg value s) :=
  hs.writeRow

theorem Steady.execGridCellSelWrite {req : Requester} {value : BitVec 32} (hs : Steady w s₀ s) :
    Answers w s₀ (execGridCellSelWrite req value s) :=
  hs.writeRow

theorem Steady.execGridLockWrite {req : Requester} {value : BitVec 32} (hs : Steady w s₀ s) :
    Answers w s₀ (execGridLockWrite req value s) :=
  hs.writeRow

theorem Steady.execArithCtrlWrite {req : Requester} {value : BitVec 32} (hs : Steady w s₀ s) :
    Answers w s₀ (execArithCtrlWrite req value s) :=
  hs.writeRow

theorem Steady.execSysClkEnWrite {req : Requester} {value : BitVec 32} (hs : Steady w s₀ s) :
    Answers w s₀ (execSysClkEnWrite req value s) :=
  hs.writeRow

theorem Steady.execSysLockWrite {req : Requester} {value : BitVec 32} (hs : Steady w s₀ s) :
    Answers w s₀ (execSysLockWrite req value s) :=
  hs.writeRow

theorem Steady.execPwrOpReqWrite {req : Requester} {value : BitVec 32} (hs : Steady w s₀ s) :
    Answers w s₀ (execPwrOpReqWrite req value s) :=
  hs.writeRow

theorem Steady.execPwrOpLimitsWrite {req : Requester} {value : BitVec 32} (hs : Steady w s₀ s) :
    Answers w s₀ (execPwrOpLimitsWrite req value s) :=
  hs.writeRow

theorem Steady.execMgtFwFloorWrite {req : Requester} {value : BitVec 32} (hs : Steady w s₀ s) :
    Answers w s₀ (execMgtFwFloorWrite req value s) :=
  hs.writeRow

theorem Steady.execHeartbeatWrite {req : Requester} {core : Fin 5} {value : BitVec 32} (hs : Steady w s₀ s) :
    Answers w s₀ (execHeartbeatWrite req core value s) :=
  hs.writeRow

theorem Steady.execRstCtrlReset {req : Requester} {value : BitVec 32} (hs : Steady w s₀ s) :
    Answers w s₀ (execRstCtrlReset req value s) :=
  hs.writeRow

theorem Steady.execRcRegisterRead {acc : Access} (hs : Steady w s₀ s) : Answers w s₀ (execRcRegisterRead acc s) :=
  hs.readRow

theorem Steady.execLatchedLowRead {acc : Access} (hs : Steady w s₀ s) : Answers w s₀ (execLatchedLowRead acc s) :=
  hs.readRow

theorem Steady.execRegisterWrite {acc : Access} {value : BitVec 32} (hs : Steady w s₀ s) :
    Answers w s₀ (execRegisterWrite acc value s) :=
  hs.writeRow

theorem Steady.execSourceAssert {source : Nat} {level : Bool} (hs : Steady w s₀ s) :
    Answers w s₀ (execSourceAssert source level s) :=
  .ite hs.signal.finish hs.finish

theorem Steady.execNotifyModerationTimeout {target : Fin 5} {tick : Nat} (hs : Steady w s₀ s) :
    Answers w s₀ (execNotifyModerationTimeout target tick s) :=
  hs.at_.line.finish

theorem Steady.execStormWindow (hs : Steady w s₀ s) : Answers w s₀ (execStormWindow s) :=
  (hs.foldl fun _ _ hs => hs.onIc).finish

theorem Steady.execVectorModerationTimeout {vector tick : Nat} (hs : Steady w s₀ s) :
    Answers w s₀ (execVectorModerationTimeout vector tick s) :=
  .ite hs.at_.sendVector.finish hs.at_.finish

theorem Steady.execMsixVectorUnmask {vector : Nat} (hs : Steady w s₀ s) : Answers w s₀ (execMsixVectorUnmask vector s) :=
  .ite hs.unmaskVector.finish hs.finish

theorem Steady.sideband {op : BitVec 8} {okLength : Nat → Bool} {request : SbRequest} {act : State → State}
    (hs : Steady w s₀ s)
    (hact : ∀ t, Steady w s₀ t → Steady w s₀ (act t)) :
    Answers w s₀ (sideband op okLength request act s) :=
  .ite hs.next (.ite hs.sbAnswer.finish
    (.ite (Steady.ite hs hs.onPins).sbAnswer.finish (hact _ (Steady.ite hs hs.onPins)).finish))

theorem Steady.sbTakes {busy answer : List (BitVec 8)} (hs : Steady w s₀ s) : Steady w s₀ (s.sbTakes busy answer) :=
  .ite hs.drawn.sbAnswer hs.drawn.onPins.sbAnswer

theorem Steady.execSbRegisterRead {request : SbRequest} (hs : Steady w s₀ s) :
    Answers w s₀ (execSbRegisterRead request s) :=
  hs.sideband fun _ hs => hs.regRead.sbTakes

theorem Steady.execSbRegisterWrite {request : SbRequest} (hs : Steady w s₀ s) :
    Answers w s₀ (execSbRegisterWrite request s) :=
  hs.sideband fun _ hs => hs.regWrite.sbTakes

theorem Steady.execSbReset {request : SbRequest} (hs : Steady w s₀ s) : Answers w s₀ (execSbReset request s) :=
  hs.sideband fun _ hs => .ite hs.requestReset.sbAnswer hs.sbAnswer

theorem Steady.execSbMailboxWrite {request : SbRequest} (hs : Steady w s₀ s) :
    Answers w s₀ (execSbMailboxWrite request s) := by
  unfold Machine.execSbMailboxWrite
  extract_lets n
  exact hs.sideband fun _ hs => .ite hs.sbAnswer hs.onPins.sbAnswer

theorem Steady.execSbMailboxRead {request : SbRequest} (hs : Steady w s₀ s) :
    Answers w s₀ (execSbMailboxRead request s) := by
  unfold Machine.execSbMailboxRead
  refine hs.sideband (fun s hs1 => ?_)
  split
  · exact hs1.sbAnswer
  · exact hs1.onPins.sbAnswer

theorem Steady.execI3cAddressAssignment {cmd : I3cCommand} (hs : Steady w s₀ s) :
    Answers w s₀ (execI3cAddressAssignment cmd s) := by
  unfold Machine.execI3cAddressAssignment
  dsimp only
  split
  · exact hs.next
  · refine Steady.finish ?_
    split
    · exact .ite hs hs.onPins
    · exact .ite (.ite hs hs.onPins) hs
    · exact hs.onPins
    · exact hs
    · exact hs
    · exact hs.onFreeCount.sbAnswer
    · exact hs.onFreeCount.sbAnswer
    · exact hs.onFreeCount.sbAnswer
    · exact hs.onFreeCount.sbAnswer

theorem Steady.execJtagInstruction {instr : JtagInstr} (hs : Steady w s₀ s) :
    Answers w s₀ (execJtagInstruction instr s) := by
  unfold Machine.execJtagInstruction
  split
  · exact hs.next
  · refine Steady.finish ?_
    split
    · exact hs.onPins.onHost
    · exact hs.onPins.drawn.onPins
    · exact hs.onPins

/-! ### Operations of `Machine/DmaRows` -/

theorem Steady.readRegs {req : Requester} {n off : Nat} (hs : Steady w s₀ s) :
    Steady w s₀ (State.readRegs req n off s).2 := by
  induction n generalizing off s with
  | zero => exact hs
  | succ n ih =>
    unfold State.readRegs
    dsimp only
    split
    · exact hs.regRead
    · split
      · exact ih hs.regRead
      · exact ih hs.regRead

theorem Steady.writeRegs {req : Requester} {bs : List (BitVec 8)} {off : Nat} (hs : Steady w s₀ s) :
    Steady w s₀ (State.writeRegs req bs off s).2 := by
  fun_induction State.writeRegs req bs off s with
  | case1 a b c d r off s t ok ih => exact ih hs.regWrite
  | case2 a b c d r off s t bad => exact hs.regWrite
  | case3 => exact hs

theorem Steady.dmaPut {c off : Nat} {bs : List (BitVec 8)} (hs : Steady w s₀ s) : Steady w s₀ (s.dmaPut c off bs) := by
  unfold State.dmaPut
  extract_lets x g wait r k u
  have waits {t : State} (ht : Steady w s₀ t) : Steady w s₀ (wait t) := ht.onCh
  have hr : Steady w s₀ r.2 := hs.writeRegs
  clear_value wait r
  refine .ite hs (.ite (.ite hs.dmaStop (waits hs).remoteSend) (.ite ?_ ?_))
  · split
    · exact waits hr
    · exact (Steady.ite hr hr.onCh).dmaStop
  · split
    · exact hs.dmaStop
    next t e => exact waits (hs.writeGa t e)

theorem Steady.dmaDrain {c : Nat} (hs : Steady w s₀ s) : Steady w s₀ (s.dmaDrain c) :=
  hs.onCh.foldl fun _ _ hs => hs.dmaPut

theorem Steady.dmaTake {c : Nat} {bs : List (BitVec 8)} (hs : Steady w s₀ s) : Steady w s₀ (s.dmaTake c bs) :=
  hs.onCh.dmaDrain

theorem Steady.dmaRead {c : Nat} {uncorrectable : Bool} (hs : Steady w s₀ s) : Steady w s₀ (s.dmaRead c uncorrectable) := by
  unfold State.dmaRead
  extract_lets s1 x g n r
  have h1 : Steady w s₀ s1 := hs.onDma
  have hr : Steady w s₀ r.2 := h1.readRegs
  clear_value s1 r
  refine .ite ?_ (.ite h1.dmaStop ?_)
  · split
    · exact hr.dmaTake
    · exact hr.dmaStop
  · split
    · exact h1.dmaTake
    · exact h1.noteRead.dmaStop
    · exact h1.dmaStop

theorem Steady.execDmaReadComplete {channel : Fin 16} {uncorrectable : Bool} (hs : Steady w s₀ s) :
    Answers w s₀ (execDmaReadComplete channel uncorrectable s) :=
  .ite hs.dmaRead.dmaServe.close hs.finish

theorem Steady.execDmaWriteResponse {channel : Fin 16} (hs : Steady w s₀ s) :
    Answers w s₀ (execDmaWriteResponse channel s) := by
  unfold Machine.execDmaWriteResponse
  dsimp only
  split
  · exact hs.finish
  · split
    · exact hs.finish
    · exact .ite hs.dmaAck.finish (.ite (hs.foldl fun _ _ hs => hs.dmaAck).finish hs.finish)

/-- The pieces of a write by global address, one after another. -/
theorem Steady.served {ps : List (BitVec 64 × Nat)} {data : List (BitVec 8)} (hs : Steady w s₀ s) {o : Nat}
    (e : ps.foldl (fun (acc : Option (Nat × State)) p => match acc with
        | Option.none => Option.none
        | Option.some (o, s) => (s.writeGa Option.none p.1 ((data.drop o).take p.2)).map fun s => (o + p.2, s))
      (Option.some (0, s)) = Option.some (o, t)) : Steady w s₀ t := by
  refine List.foldlRecOn (motive := fun acc => ∀ o t, acc = Option.some (o, t) → Steady w s₀ t) ps _ (fun o t e => ?_)
    (fun acc hacc p _ o t e => ?_) o t e
  · cases e
    exact hs
  · split at e
    · nomatch e
    · obtain ⟨u, hu, e⟩ := Option.map_eq_some_iff.1 e
      cases e
      exact (hacc _ _ rfl).writeGa _ hu

theorem Steady.serve {src : BitVec 12} {write : Bool} {addr : BitVec 64} {len : Nat} {data : List (BitVec 8)}
    (hs : Steady w s₀ s) : Steady w s₀ (s.serve src write addr len data).2.2 := by
  unfold State.serve
  extract_lets tier wr rd pieces
  have wrote : Steady w s₀ wr.2 := hs.writeRegs
  have readOut : Steady w s₀ rd.2 := hs.readRegs
  clear_value wr rd
  split
  · exact hs
  · split
    · split
      · exact wrote
      · split
        · exact readOut
        · exact readOut
    · split
      · split
        · exact hs
        next e => exact hs.served e
      · split
        · exact hs
        · exact hs.noteRead
        · exact hs

theorem Steady.execRemoteRequest {hdr : FrameHdr} {id : BitVec 32} {write : Bool} {addr : BitVec 64} {len : Nat}
    {data : List (BitVec 8)} (hs : Steady w s₀ s) :
    Answers w s₀ (execRemoteRequest hdr id write addr len data s) :=
  hs.receiveWork fun _ hs => hs.serve.sendMsg

theorem Steady.remoteEnd {r : RemoteReq} {status : BitVec 8} {lost : Bool} {data : List (BitVec 8)} (hs : Steady w s₀ s) :
    Steady w s₀ (s.remoteEnd r status lost data) := by
  unfold State.remoteEnd
  dsimp only
  split
  · exact hs
  · exact hs.historyEnd
  · exact .ite hs (Steady.ite hs.dmaTake hs.dmaStop).dmaServe
  · exact hs.listEnd
  · exact hs.onMgt
  · split
    · exact hs
    · split
      · exact hs.dmaAck
      · split
        · split
          · exact hs.onCh.andThen (·.dmaLeave)
          · exact hs.onCh
        · exact hs.onCh.dmaStop.dmaServe

theorem Steady.execRemoteResponse {hdr : FrameHdr} {id : BitVec 32} {status : BitVec 8} {data : List (BitVec 8)}
    (hs : Steady w s₀ s) :
    Answers w s₀ (execRemoteResponse hdr id status data s) := by
  unfold Machine.execRemoteResponse
  refine hs.receiveWork (fun s hs1 => ?_)
  split
  · exact hs1
  · exact hs1.onFab.remoteEnd

theorem Steady.execRemoteRequestTimeout {id : BitVec 32} {tick : Nat} (hs : Steady w s₀ s) :
    Answers w s₀ (execRemoteRequestTimeout id tick s) := by
  unfold Machine.execRemoteRequestTimeout
  dsimp only
  split
  · exact hs.at_.finish
  · exact .ite hs.at_.finish (.ite hs.at_.onFab.sendMsg.finish hs.at_.onFab.remoteEnd.close)

/-! ### Operations of `Machine/Dispatch` -/

/-- Every command but a manufacturing test answers a next state, and a steady one: a vote scan where the fence map is not
watched. -/
theorem Steady.exec {i : Instr} (hs : Steady w s₀ s) (tests : ∀ h, i ≠ .manufacturingTest h)
    (scans : ∀ us, i = .voteScan us → w.fence = false) : Answers w s₀ (exec i s) := by
  cases i with
  | boundary => exact hs.execBoundary
  | lastBeat => exact hs.execLastBeat
  | cadenceMarker => exact hs.execCadenceMarker
  | cadenceFrame => exact hs.execCadenceFrame
  | associationWindowClose => exact hs.execAssociationWindowClose
  | armTimeout => exact hs.execArmTimeout
  | leaderFrameTimeout => exact hs.execLeaderFrameTimeout
  | mpass => exact hs.execMpass
  | mdrain => exact hs.execMdrain
  | mseta => exact hs.execMseta
  | msets => exact hs.execMsets
  | mnop => exact hs.execMnop
  | copy => exact hs.execCopy
  | send => exact hs.execSend
  | gather => exact hs.execGather
  | readT1 => exact hs.execReadT1
  | writeT1 => exact hs.execWriteT1
  | steer => exact hs.execSteer
  | dseta => exact hs.execDseta
  | dsets => exact hs.execDsets
  | dnop => exact hs.execDnop
  | cnop => exact hs.execCnop
  | vguard => exact hs.execVguard
  | endloop => exact hs.execEndloop
  | idle => exact hs.execIdle
  | string => exact hs.execString
  | setskip => exact hs.execSetskip
  | steersel => exact hs.execSteersel
  | vnop => exact hs.execVnop
  | vadd => exact hs.execVadd
  | vsub => exact hs.execVsub
  | vmul => exact hs.execVmul
  | vfma => exact hs.execVfma
  | vmax => exact hs.execVmax
  | vmin => exact hs.execVmin
  | vabs => exact hs.execVabs
  | vneg => exact hs.execVneg
  | exp2 => exact hs.execExp2
  | log2 => exact hs.execLog2
  | rcp => exact hs.execRcp
  | rsqrt => exact hs.execRsqrt
  | sigm => exact hs.execSigm
  | tanh => exact hs.execTanh
  | rsum => exact hs.execRsum
  | rmax => exact hs.execRmax
  | rmin => exact hs.execRmin
  | ramax => exact hs.execRamax
  | iadd => exact hs.execIadd
  | isub => exact hs.execIsub
  | vand => exact hs.execVand
  | vor => exact hs.execVor
  | vxor => exact hs.execVxor
  | vshl => exact hs.execVshl
  | vshr => exact hs.execVshr
  | vsel => exact hs.execVsel
  | vmov => exact hs.execVmov
  | vbcast => exact hs.execVbcast
  | vperm => exact hs.execVperm
  | viota => exact hs.execViota
  | vcmp => exact hs.execVcmp
  | mlog => exact hs.execMlog
  | mvl => exact hs.execMvl
  | mflg => exact hs.execMflg
  | vcvtBf16 => exact hs.execVcvtBf16
  | vcvtFp16 => exact hs.execVcvtFp16
  | vcvtFp8 => exact hs.execVcvtFp8
  | vcvtFp4 => exact hs.execVcvtFp4
  | vqblk => exact hs.execVqblk
  | vunpk => exact hs.execVunpk
  | vld => exact hs.execVld
  | vst => exact hs.execVst
  | vsthOpen => exact hs.execVsthOpen
  | vsthClose => exact hs.execVsthClose
  | slui => exact hs.execSlui
  | slli => exact hs.execSlli
  | smov => exact hs.execSmov
  | sadd => exact hs.execSadd
  | landingFlit => exact hs.execLandingFlit
  | emptyFlit => exact hs.execEmptyFlit
  | t1PieceArrival => exact hs.execT1PieceArrival
  | t1WriteAck => exact hs.execT1WriteAck
  | validLengthToken => exact hs.execValidLengthToken
  | steeringControlToken => exact hs.execSteeringControlToken
  | remoteBarrierToken => exact hs.execRemoteBarrierToken
  | zeroLengthHeaderToken => exact hs.execZeroLengthHeaderToken
  | steerFlitArrival => exact hs.execSteerFlitArrival
  | steerWindowExpiry => exact hs.execSteerWindowExpiry
  | hubStringInject => exact hs.execHubStringInject
  | repairStart => exact hs.execRepairStart
  | repairDone => exact hs.execRepairDone
  | stagingComplete => exact hs.execStagingComplete
  | switchFillStart => exact hs.execSwitchFillStart
  | switchFillDone => exact hs.execSwitchFillDone
  | dataFrame => exact hs.execDataFrame
  | streamWindowEnd => exact hs.execStreamWindowEnd
  | slotTransmit => exact hs.execSlotTransmit
  | verdictFrame => exact hs.execVerdictFrame
  | leaveNotice _ cause => exact hs.execLeaveNotice (cause := cause)
  | remoteRequest => exact hs.execRemoteRequest
  | remoteResponse => exact hs.execRemoteResponse
  | remoteRequestTimeout => exact hs.execRemoteRequestTimeout
  | moveOffer => exact hs.execMoveOffer
  | moveAccept => exact hs.execMoveAccept
  | moveRefuse => exact hs.execMoveRefuse
  | moveData => exact hs.execMoveData
  | moveReady => exact hs.execMoveReady
  | moveCommit => exact hs.execMoveCommit
  | moveAbort => exact hs.execMoveAbort
  | moveAck => exact hs.execMoveAck
  | moveReadyTimeout => exact hs.execMoveReadyTimeout
  | moveCommitResend => exact hs.execMoveCommitResend
  | moveAbortResend => exact hs.execMoveAbortResend
  | localMoveComplete => exact hs.execLocalMoveComplete
  | writeBackComplete => exact hs.execWriteBackComplete
  | conversionPassDone => exact hs.execConversionPassDone
  | ttl2Expiry => exact hs.execTtl2Expiry
  | ttl3Expiry => exact hs.execTtl3Expiry
  | shardIngestDone => exact hs.execShardIngestDone
  | shardDeadlineExpiry => exact hs.execShardDeadlineExpiry
  | scrubDue => exact hs.execScrubDue
  | scrubPageRead => exact hs.execScrubPageRead
  | uncorrectableRead => exact hs.execUncorrectableRead
  | hbmStackFailure => exact hs.execHbmStackFailure
  | ddrChannelFailure => exact hs.execDdrChannelFailure
  | flashDriveTimeout => exact hs.execFlashDriveTimeout
  | nvmeCompletion => exact hs.execNvmeCompletion
  | pcieLinkDown => exact hs.execPcieLinkDown
  | hostPerst => exact hs.execHostPerst
  | pcieConfigRequest => exact hs.execPcieConfigRequest
  | functionLevelReset => exact hs.execFunctionLevelReset
  | bar4Access => exact hs.execBar4Access
  | funcSetupDone => exact hs.execFuncSetupDone
  | funcStopComplete => exact hs.execFuncStopComplete
  | funcWedgeTimeout => exact hs.execFuncWedgeTimeout
  | portStateDone => exact hs.execPortStateDone
  | portStateTimeout => exact hs.execPortStateTimeout
  | portRetryTimer => exact hs.execPortRetryTimer
  | identFrame => exact hs.execIdentFrame
  | echoFrame => exact hs.execEchoFrame
  | laneFailure => exact hs.execLaneFailure
  | powerOn => exact hs.execPowerOn
  | resetNAssert => exact hs.execResetNAssert
  | pwrfail => exact hs.execPwrfail
  | thermalScan => exact hs.execThermalScan
  | thermalCapRaise => exact hs.execThermalCapRaise
  | railCurrentRead => exact hs.execRailCurrentRead
  | marginTrip => exact hs.execMarginTrip
  | stretchEnd => exact hs.execStretchEnd
  | pllLock => exact hs.execPllLock
  | pllSlip => exact hs.execPllSlip
  | clockQualification => exact hs.execClockQualification
  | unarmedOpTick => exact hs.execUnarmedOpTick
  | voteScan us => exact hs.execVoteScan (scans us rfl)
  | heartbeatInterval => exact hs.execHeartbeatInterval
  | bootStageDone => exact hs.execBootStageDone
  | bootStageRetry => exact hs.execBootStageRetry
  | sourceAssert => exact hs.execSourceAssert
  | notifyModerationTimeout => exact hs.execNotifyModerationTimeout
  | stormWindow => exact hs.execStormWindow
  | vectorModerationTimeout => exact hs.execVectorModerationTimeout
  | msixVectorUnmask => exact hs.execMsixVectorUnmask
  | dmaReadComplete => exact hs.execDmaReadComplete
  | dmaWriteResponse => exact hs.execDmaWriteResponse
  | icClaimRead => exact hs.execIcClaimRead
  | icCompleteWrite => exact hs.execIcCompleteWrite
  | icGwAckWrite => exact hs.execIcGwAckWrite
  | icPendRead => exact hs.execIcPendRead
  | icDoorbellWrite => exact hs.execIcDoorbellWrite
  | icStormUnmask => exact hs.execIcStormUnmask
  | dmaGo => exact hs.execDmaGo
  | dmaAbort => exact hs.execDmaAbort
  | queueEnable => exact hs.execQueueEnable
  | queueDisable => exact hs.execQueueDisable
  | cmdTailDoorbell => exact hs.execCmdTailDoorbell
  | rspHeadDoorbell => exact hs.execRspHeadDoorbell
  | srHeadDoorbell => exact hs.execSrHeadDoorbell
  | tokenDoorbell => exact hs.execTokenDoorbell
  | gridPendWrite => exact hs.execGridPendWrite
  | gridCellSelWrite => exact hs.execGridCellSelWrite
  | gridLockWrite => exact hs.execGridLockWrite
  | arithCtrlWrite => exact hs.execArithCtrlWrite
  | sysClkEnWrite => exact hs.execSysClkEnWrite
  | sysLockWrite => exact hs.execSysLockWrite
  | pwrOpReqWrite => exact hs.execPwrOpReqWrite
  | pwrOpLimitsWrite => exact hs.execPwrOpLimitsWrite
  | mgtFwFloorWrite => exact hs.execMgtFwFloorWrite
  | heartbeatWrite => exact hs.execHeartbeatWrite
  | rstCtrlReset => exact hs.execRstCtrlReset
  | rcRegisterRead => exact hs.execRcRegisterRead
  | latchedLowRead => exact hs.execLatchedLowRead
  | registerWrite => exact hs.execRegisterWrite
  | sbRegisterRead => exact hs.execSbRegisterRead
  | sbRegisterWrite => exact hs.execSbRegisterWrite
  | sbReset => exact hs.execSbReset
  | sbMailboxWrite => exact hs.execSbMailboxWrite
  | sbMailboxRead => exact hs.execSbMailboxRead
  | jtagInstruction => exact hs.execJtagInstruction
  | identify => exact hs.execIdentify
  | deviceReset => exact hs.execDeviceReset
  | telemetry => exact hs.execTelemetry
  | handleQuery => exact hs.execHandleQuery
  | cfgWrite => exact hs.execCfgWrite
  | cfgCommit => exact hs.execCfgCommit
  | cadenceSet => exact hs.execCadenceSet
  | cadenceStatus => exact hs.execCadenceStatus
  | roleSet => exact hs.execRoleSet
  | alloc => exact hs.execAlloc
  | free => exact hs.execFree
  | move => exact hs.execMove
  | pageQuery => exact hs.execPageQuery
  | memMode => exact hs.execMemMode
  | modelDeclare => exact hs.execModelDeclare
  | shardLoad => exact hs.execShardLoad
  | shardFromFlash => exact hs.execShardFromFlash
  | modelActivate => exact hs.execModelActivate
  | modelRetire => exact hs.execModelRetire
  | adapterLoad => exact hs.execAdapterLoad
  | adapterReplace => exact hs.execAdapterReplace
  | modelReplace => exact hs.execModelReplace
  | scrubSet => exact hs.execScrubSet
  | modelStatus => exact hs.execModelStatus
  | cylLoad => exact hs.execCylLoad
  | cylVerify => exact hs.execCylVerify
  | drain => exact hs.execDrain
  | cylSwitch => exact hs.execCylSwitch
  | cylUnload => exact hs.execCylUnload
  | ctxOpen => exact hs.execCtxOpen
  | promptSubmit => exact hs.execPromptSubmit
  | append => exact hs.execAppend
  | cancel => exact hs.execCancel
  | ctxClose => exact hs.execCtxClose
  | ctxPark => exact hs.execCtxPark
  | ctxResume => exact hs.execCtxResume
  | fallbackBind => exact hs.execFallbackBind
  | kvExport => exact hs.execKvExport
  | kvImport => exact hs.execKvImport
  | batchStep => exact hs.execBatchStep
  | deadlineSet => exact hs.execDeadlineSet
  | linkStatus => exact hs.execLinkStatus
  | routeSet => exact hs.execRouteSet
  | planeMask => exact hs.execPlaneMask
  | fenceCell => exact hs.execFenceCell
  | unfenceCell => exact hs.execUnfenceCell
  | calibrate => exact hs.execCalibrate
  | calStatus => exact hs.execCalStatus
  | healthRead => exact hs.execHealthRead
  | funcEnable => exact hs.execFuncEnable
  | funcDisable => exact hs.execFuncDisable
  | funcStatus => exact hs.execFuncStatus
  | diagNop => exact hs.execDiagNop
  | manufacturingTest h => exact absurd rfl (tests h)
  | powerRemoved => exact hs.execPowerRemoved
  | resetNRelease => exact hs.execResetNRelease
  | resetPulseEnd => exact hs.execResetPulseEnd
  | pcieLinkUp => exact hs.execPcieLinkUp
  | firmwareSramUncorrectable => exact hs.execFirmwareSramUncorrectable
  | calibrationStoreWriteDone => exact hs.execCalibrationStoreWriteDone
  | cylLoadChecked => exact hs.execCylLoadChecked
  | kvImageTransferDone => exact hs.execKvImageTransferDone
  | i3cAddressAssignment => exact hs.execI3cAddressAssignment
  | memoryPatrolScrub => exact hs.execMemoryPatrolScrub

/-! ### Operations of `Machine/Step` -/

theorem Steady.idleTick (hs : Steady w s₀ s) : Steady w s₀ (idleTick s) :=
  hs.onCad.sbLater

end Sys2Proof.Proofs
end

section
/-!
What every command and every step keeps, read off the relation `Steady` (O3 to O8).
-/
namespace Sys2Proof.Proofs
open Sys2Proof.Machine
variable {w : Watch} {s t : State}

/-! ### Commands and steps -/

/-- A command that answers a next state answers a steady one, a manufacturing test too. -/
theorem exec_steady {i : Instr} (scans : ∀ us, i = .voteScan us → w.fence = false) (e : exec i s = .next t) :
    Steady w s t := by
  by_cases test : ∃ h, i = .manufacturingTest h
  · obtain ⟨h, rfl⟩ := test
    exact (Steady.refl w s).execManufacturingTest e
  · obtain ⟨u, hu, steady⟩ := (Steady.refl w s).exec (fun h hi => test ⟨h, hi⟩) scans
    cases hu.symm.trans e
    exact steady

/-- A step is steady from the state that its command finds, whose queue is the rest. -/
theorem step_steady (scans : ∀ us r, s.pending = .voteScan us :: r → w.fence = false) (e : step s = .next t) :
    ∃ q, Steady w { s with pending := q } t := by
  unfold step at e
  split at e
  · cases e
    exact ⟨s.pending, (Steady.refl w s).idleTick⟩
  next c r front => exact ⟨r, exec_steady (fun us hc => scans us r (hc ▸ front)) e⟩

/-! ### Answers and the queue -/

/-- Settles O3: the relation is proved of every meaning as an answer, and a manufacturing test is the only command without
one. -/
theorem everyCommandAnswers : Obligations.EveryCommandAnswers := by
  unfold Obligations.EveryCommandAnswers
  intro i s tests
  obtain ⟨t, e, -⟩ := (Steady.refl ⟨false, false⟩ s).exec tests fun _ _ => rfl
  exact ⟨t, e⟩

/-- Settles O4: no meaning names the queue, and steadiness says so of each. -/
theorem queueUntouched : Obligations.QueueUntouched := by
  unfold Obligations.QueueUntouched
  intro i s t e
  exact (exec_steady (w := ⟨false, false⟩) (fun _ _ => rfl) e).queue

/-! ### The byte memories -/

/-- Settles O5: every write of either memory goes through `Mem.writes`. -/
theorem memoryStaysCanonical : Obligations.MemoryStaysCanonical := by
  unfold Obligations.MemoryStaysCanonical
  intro s t host fwSram e
  obtain ⟨q, steady⟩ := step_steady (w := ⟨false, false⟩) (fun _ _ _ => rfl) e
  exact ⟨steady.host host, steady.fwSram fwSram⟩

/-- The memories of the machine, as the relation takes them together. -/
theorem memoriesWf_iff (s : State) :
    (s.memWf && s.mem.remotes.all (fun r => Mem.wf r.bytes) && s.wgt.models.all (fun m => Mem.wf m.staged) &&
        s.wgt.saved.all fun m => Mem.wf m.staged) = true ↔
      BytesWf s ∧ Mem.wf s.host.mem = true ∧ Mem.wf s.mgt.fwSram = true := by
  unfold BytesWf MemoryWf CellsWf StagedWf
  simp only [State.memWf, Memory.wf, Grid.wf, Bool.and_eq_true, List.all_eq_true]
  tauto

/-- Settles O6: bytes move between the memories, so that they are kept together. -/
theorem tiersStayCanonical : Obligations.TiersStayCanonical := by
  unfold Obligations.TiersStayCanonical
  intro s t inv h e
  obtain ⟨q, steady⟩ := step_steady (w := ⟨false, false⟩) (fun _ _ _ => rfl) e
  obtain ⟨bytes, host, fwSram⟩ := (memoriesWf_iff s).1 h
  exact (memoriesWf_iff t).2 ⟨steady.bytes bytes, steady.host host, steady.fwSram fwSram⟩

/-! ### The two bounded tables -/

/-- Settles O7: an entry comes from a column of a command or of the persistent record, from `GRID_PEND` where it is at most
0x20, or from a copy. -/
theorem fenceMapStaysLegal : Obligations.FenceMapStaysLegal := by
  unfold Obligations.FenceMapStaysLegal
  intro c r s t scan legal inv h e
  obtain ⟨q, steady⟩ := step_steady (w := ⟨true, false⟩) (fun us _ front => absurd (List.cons.inj front).1 (scan us)) e
  exact steady.fence rfl h

/-- Settles O8: a cylinder is loaded where fewer than 8 are known and its identity is new, and a state is given to one that
another has left. -/
theorem knownCylindersBounded : Obligations.KnownCylindersBounded := by
  unfold Obligations.KnownCylindersBounded
  intro s t inv h e
  obtain ⟨q, steady⟩ := step_steady (w := ⟨false, true⟩) (fun _ _ _ => rfl) e
  exact steady.known rfl h

end Sys2Proof.Proofs
end
